-- ==== Sys2Proof/Word.lean ====
section
/-! DEFINITION. The word types of the UMQ-6432 and their plainest arithmetic (R4, R5, R8, R186). -/
namespace Sys2Proof

/-- A 64-bit scalar value (R192). -/
abbrev Word := BitVec 64
/-- The smallest addressable unit of every memory (R5). -/
abbrev Byte := BitVec 8

/-- `x[h:l]` of a natural number, `n` bits from bit `l` (R8). -/
def bitsAt (x l n : Nat) : Nat := x / 2 ^ l % 2 ^ n

/-- Bit `n` of a natural number (R5). -/
def bitAt (x n : Nat) : Bool := x / 2 ^ n % 2 == 1

/-- A Bool as one bit. -/
def b2n (b : Bool) : Nat := if b then 1 else 0

/-- sx(x, w): x[w-1:0] read as a signed integer (R186). -/
def sx (x w : Nat) : Int :=
  let v := x % 2 ^ w
  if 2 ^ w ≤ 2 * v then (v : Int) - (2 ^ w : Nat) else v

/-- An integer reduced modulo 2^64 (R192). -/
def wrap64 (i : Int) : Word := BitVec.ofInt 64 i

/-- `x` with `n` bits from bit `l` replaced by `v`. -/
def setBits (x l n v : Nat) : Nat :=
  x % 2 ^ l + (v % 2 ^ n) * 2 ^ l + x / 2 ^ (l + n) * 2 ^ (l + n)

end Sys2Proof
end

