-- ==== Sys2Proof/Config.lean ====
section
/-! DEFINITION. What is fixed for the device as shipped (R1, R2, R80, R417), and the free values: constants with no body,
so that a statement holds whatever they are (notes/assumptions/7.md). -/
namespace Sys2Proof.Config

/-- Instruction memory of a core in bytes (R80). -/
def imBytes : Nat := 262144
/-- Scratchpad of a core in bytes (R72). -/
def spmBytes : Nat := 4194304
/-- Weight slice store of a tower in bytes (R72). -/
def wssBytes : Nat := 268435456
/-- HBM4E capacity in bytes (R15). -/
def devBytes : Nat := 2 ^ 40
/-- LPDDR tier capacity in bytes (R15). -/
def capBytes : Nat := 3 * 2 ^ 40
/-- First CAP address of the safe tier (R17). -/
def safeBase : Nat := 2 ^ 41
/-- Fused sustained-cap maximum, 10 W units (R417). -/
def avgMax : Nat := 900
/-- Fused peak-cap maximum, 10 W units (R417). -/
def pkMax : Nat := 1250
/-- Fused junction limit, degrees C (R417). -/
def tjMax : Nat := 105
/-- Fused vertical difference limit, K (R417). -/
def dtMax : Nat := 12
/-- Fused cluster reservation maximum, 125 mA units (R417). -/
def clMax : Nat := 1024
/-- Fused egress ceiling and reset rate in sixteenths (R399 gives the range 1-16 and no value).
DESIGN CHOICE, unsafe: notes/assumptions/8.md. -/
def egrRateMax : Nat := 16
/-- Keys of the seam digest (R327). -/
def seamK1 : Nat := 0x6A09E667F3BCC909
def seamK2 : Nat := 0xBB67AE8584CAA73B

/-- FREE VALUE: a number the spec leaves open, by draw (notes/assumptions/7.md). -/
opaque freeNat : Nat → Nat → Nat
/-- FREE VALUE: the entries of a command processor's notice buffer beyond its first (notes/assumptions/61.md). -/
opaque noticeMore : Nat
/-- Entries of a command processor's notice buffer: R243 names it and gives no size; it has one entry at least. -/
def noticeMax : Nat := noticeMore + 1
/-- FREE VALUE: whether an open choice between two outcomes falls on the first (R21; notes/assumptions/10.md). -/
opaque freeBit : Nat → Nat → Bool
/-- FREE VALUE: a byte of an overlay region that a flush left undefined (R82; notes/assumptions/7.md). -/
opaque freeByte : Nat → Nat → Byte

/-- FREE VALUE: the voltage of a die's core rail at an operating point, in millivolts (R412; notes/assumptions/17.md). -/
opaque railMillivolts : Nat → Nat

end Sys2Proof.Config
end

