-- ==== Sys2Proof/Syntax.lean ====
section
/-! DEFINITION. The abstract syntax: one constructor per row of spec/opcode_table.json (R167-R191), and the operand types.
Control instructions carry their guard (R167). Record operations carry every field of the 512-bit record but ENGINE and OPCODE
(R177-R181). The events of the table have no encoding: their operands are what the event brings with it (notes/assumptions/2.md). -/
namespace Sys2Proof

abbrev SReg := Fin 64
abbrev PReg := Fin 8
abbrev HReg := Fin 32
abbrev GReg := Fin 16
abbrev SemIx := Fin 32
abbrev TkIx := Fin 8
abbrev MxIx := Fin 64
abbrev BgIx := Fin 64
abbrev CoreId := Fin 1024
abbrev PairId := Fin 512
abbrev TowerId := Fin 32
abbrev DieId := Fin 64

/-- Guard predicate and guard sense (R167). -/
structure Guard where
  gp : PReg
  gs : Bool
deriving DecidableEq, Repr, Inhabited

/-- Conditions (R176). -/
inductive Cond where | eq | ne | lt | ge | ltu | geu
deriving DecidableEq, Repr, Inhabited

/-- Scopes (R107, R176). -/
inductive Scope where | core | twin | tower | module | domain | system
deriving DecidableEq, Repr, Inhabited

/-- Orders (R104, R176). -/
inductive Ord where | rlx | acq | rel | acqrel
deriving DecidableEq, Repr, Inhabited

/-- The six streams of a core (R148). -/
inductive Stream where | lcc | ccc | me | ve | cel | ces
deriving DecidableEq, Repr, Inhabited

/-- The two control cores, leaders of jobs (R150). -/
inductive Leader where | lcc | ccc
deriving DecidableEq, Repr, Inhabited

/-- The four sequencers (R153). -/
inductive Eng where | me | ve | cel | ces
deriving DecidableEq, Repr, Inhabited

/-- The memory operand of Format M and of the 0x79 long forms (R170, R175). -/
structure MOp where
  h   : HReg
  c   : SReg
  cp  : Bool
  off : Fin 8
deriving DecidableEq, Repr, Inhabited

/-- An operand descriptor (R180). -/
structure Desc where
  hnd  : Fin 32
  pres : Bool
  role : Fin 4
  dmap : Fin 256
  org  : Fin 65536
  st0  : BitVec 16
  st1  : BitVec 16
  st2  : BitVec 16
  st3  : BitVec 16
deriving DecidableEq, Repr, Inhabited

/-- The fields of a loop-nest record but ENGINE and OPCODE (R177-R181). -/
structure Rec where
  rnd    : Fin 8
  sat    : Bool
  accf   : Fin 4
  levels : Fin 8
  clr    : Bool
  conj   : Bool
  trn    : Bool
  opx    : Fin 256
  tpop   : Fin 16
  tpush  : Fin 16
  swait  : Fin 64
  ssig   : Fin 64
  flag   : Bool
  bind   : Bool
  pcls   : Fin 8
  spare  : Fin 128
  tc0    : BitVec 16
  tc1    : BitVec 16
  tc2    : BitVec 16
  tc3    : BitVec 16
  d      : Desc
  a      : Desc
  b      : Desc
  c      : Desc
deriving DecidableEq, Repr, Inhabited

/-- What a scrub visit finds (R101). -/
inductive ScrubResult where | clean | corrected | uncorrectable
deriving DecidableEq, Repr, Inhabited

/-- What the host answers to a waiting access (R403); `cells` are the bytes, by bus address, that the host's memory holds where the access read
and that the host has itself written since. -/
inductive HostReply where
  | done (cells : List (Nat × Byte))
  | refused
  | poisoned
deriving DecidableEq, Repr, Inhabited

/-- Who awaits the host: a stream of a core, a queue of a command processor, or the microbatch scheduler (R403). Only the first names a stream. -/
inductive HostAsker where
  | core (c : CoreId)
  | cp (t : TowerId) (q : Fin 64)
  | mbs
deriving DecidableEq, Repr, Inhabited

/-- What an ACK carries (R385): its status, and of a debug read the data (R433). -/
structure AckInfo where
  code : Fin 128
  data : Option Word
deriving DecidableEq, Repr, Inhabited

/-- What a host memory access addresses (R401): the window of BAR 2, the registers of BAR 0, or the MSI-X table of BAR 4. -/
inductive HostBar where | window | regs | msix
deriving DecidableEq, Repr, Inhabited

/-- The address of a host memory access (R401): a BAR and an offset in it. -/
structure BarAt where
  bar : HostBar
  off : Nat
deriving DecidableEq, Repr, Inhabited

/-- PCI Express AtomicOps (R144). -/
inductive HostAtomic where | fetchAdd | swap | cas
deriving DecidableEq, Repr, Inhabited

/-- The root's decision on a vote (R392). -/
inductive VoteDecision where | allAgree | noMajority | missing
deriving DecidableEq, Repr, Inhabited

/-- A vote on the ring (R392). -/
structure VoteInfo where
  step : Nat
  d1   : Word
  d2   : Word
  pos  : Nat
deriving DecidableEq, Repr, Inhabited

/-- A remote write or atomic as it arrives at the target (R137, R316, R385, R457). `msg` is the slot and the epoch of the message whose
prefix a write belongs to (R319). -/
structure RemoteAcc where
  sender  : Nat
  id      : Nat
  agent   : Nat
  space   : Nat
  va      : Nat
  tag     : Nat
  bytes   : List Byte
  release : Bool
  keyIx   : Nat
  keyReq  : Bool
  relaxed : Bool
  domLevel : Nat
  domInst  : Nat
  ltIndex  : Nat
  msg      : Option (Nat × Nat)
deriving DecidableEq, Repr, Inhabited

/-- The identity of a bulk message (R385). -/
structure MsgId where
  sender : Nat
  core   : Nat
  slot   : Nat
  epoch  : Nat
deriving DecidableEq, Repr, Inhabited

/-- What an INTENT carries (R385): its number for the ACK, length, bytes that move without tokens, priority or bucket; whether it
announces a collective, and the flag its reclaim would write (R325). The prefix of a `fab.send` arrives as WRITE accesses. -/
structure IntentInfo where
  num    : Nat
  len    : Nat
  pfx    : Nat
  prio   : Nat
  bucket : Option Nat
  coll   : Bool
  flag   : Option RemoteAcc
  start  : Nat
deriving DecidableEq, Repr, Inhabited

/-- What a CHUNK of a collective carries beside its bytes (R325). -/
structure CollInfo where
  put      : Bool
  op       : Nat
  chunk    : Nat
  map      : Nat
  conflict : Bool
deriving DecidableEq, Repr, Inhabited

/-- Bytes of a chunk: the token's expiry time, the writes, and whether the chunk's last flit is among them (R385, R319). -/
structure ChunkInfo where
  expiry  : Nat
  writes  : List RemoteAcc
  coll    : Option CollInfo
  last    : Bool
deriving DecidableEq, Repr, Inhabited

/-- The instructions, record operations and events of spec/opcode_table.json, one constructor each. -/
inductive Instr where
  /-- ADD (R193). -/
  | add (gd : Guard) (d a b : SReg)
  /-- SUB (R193). -/
  | sub (gd : Guard) (d a b : SReg)
  /-- MUL (R193). -/
  | mul (gd : Guard) (d a b : SReg)
  /-- MULH (R193). -/
  | mulh (gd : Guard) (d a b : SReg)
  /-- MULHU (R193). -/
  | mulhu (gd : Guard) (d a b : SReg)
  /-- DIV (R194). -/
  | div (gd : Guard) (d a b : SReg)
  /-- DIVU (R194). -/
  | divu (gd : Guard) (d a b : SReg)
  /-- REM (R194). -/
  | rem (gd : Guard) (d a b : SReg)
  /-- REMU (R194). -/
  | remu (gd : Guard) (d a b : SReg)
  /-- MIN (R193). -/
  | min (gd : Guard) (d a b : SReg)
  /-- MAX (R193). -/
  | max (gd : Guard) (d a b : SReg)
  /-- MINU (R193). -/
  | minu (gd : Guard) (d a b : SReg)
  /-- MAXU (R193). -/
  | maxu (gd : Guard) (d a b : SReg)
  /-- AND (R193). -/
  | and (gd : Guard) (d a b : SReg)
  /-- OR (R193). -/
  | or (gd : Guard) (d a b : SReg)
  /-- XOR (R193). -/
  | xor (gd : Guard) (d a b : SReg)
  /-- ANDN (R193). -/
  | andn (gd : Guard) (d a b : SReg)
  /-- SLL (R193). -/
  | sll (gd : Guard) (d a b : SReg)
  /-- SRL (R193). -/
  | srl (gd : Guard) (d a b : SReg)
  /-- SRA (R193). -/
  | sra (gd : Guard) (d a b : SReg)
  /-- ROL (R193). -/
  | rol (gd : Guard) (d a b : SReg)
  /-- CLZ (R195). -/
  | clz (gd : Guard) (d a : SReg)
  /-- CTZ (R195). -/
  | ctz (gd : Guard) (d a : SReg)
  /-- POPC (R195). -/
  | popc (gd : Guard) (d a : SReg)
  /-- BREV (R195). -/
  | brev (gd : Guard) (d a : SReg)
  /-- BSWAP (R195). -/
  | bswap (gd : Guard) (d a : SReg)
  /-- CMP_EQ (R199). -/
  | cmpEq (gd : Guard) (d : PReg) (a b : SReg)
  /-- CMP_NE (R199). -/
  | cmpNe (gd : Guard) (d : PReg) (a b : SReg)
  /-- CMP_LT (R199). -/
  | cmpLt (gd : Guard) (d : PReg) (a b : SReg)
  /-- CMP_GE (R199). -/
  | cmpGe (gd : Guard) (d : PReg) (a b : SReg)
  /-- CMP_LTU (R199). -/
  | cmpLtu (gd : Guard) (d : PReg) (a b : SReg)
  /-- CMP_GEU (R199). -/
  | cmpGeu (gd : Guard) (d : PReg) (a b : SReg)
  /-- PAND (R200). -/
  | pand (gd : Guard) (d a b : PReg)
  /-- POR (R200). -/
  | por (gd : Guard) (d a b : PReg)
  /-- PXOR (R200). -/
  | pxor (gd : Guard) (d a b : PReg)
  /-- PANDN (R200). -/
  | pandn (gd : Guard) (d a b : PReg)
  /-- PNOT (R200). -/
  | pnot (gd : Guard) (d a : PReg)
  /-- PGET (R200). -/
  | pget (gd : Guard) (d : SReg) (a : PReg)
  /-- PSET (R200). -/
  | pset (gd : Guard) (d : PReg) (a : SReg)
  /-- SEL (R201). -/
  | sel (gd : Guard) (f : PReg) (d a b : SReg)
  /-- JR (R203). -/
  | jr (gd : Guard) (a : SReg)
  /-- JALR (R203). -/
  | jalr (gd : Guard) (d a : SReg)
  /-- ADDI (R196). -/
  | addi (gd : Guard) (d a : SReg) (i : BitVec 9)
  /-- ANDI (R196). -/
  | andi (gd : Guard) (d a : SReg) (i : BitVec 9)
  /-- ORI (R196). -/
  | ori (gd : Guard) (d a : SReg) (i : BitVec 9)
  /-- XORI (R196). -/
  | xori (gd : Guard) (d a : SReg) (i : BitVec 9)
  /-- SLLI (R196). -/
  | slli (gd : Guard) (d a : SReg) (i : Fin 64)
  /-- SRLI (R196). -/
  | srli (gd : Guard) (d a : SReg) (i : Fin 64)
  /-- SRAI (R196). -/
  | srai (gd : Guard) (d a : SReg) (i : Fin 64)
  /-- MULI (R196). -/
  | muli (gd : Guard) (d a : SReg) (i : BitVec 9)
  /-- CMPI (R199). -/
  | cmpi (gd : Guard) (k : Cond) (d : PReg) (a : SReg) (i : BitVec 9)
  /-- DBNZ (R204). -/
  | dbnz (gd : Guard) (d : SReg) (i : BitVec 9)
  /-- BR (R203). -/
  | br (gd : Guard) (o : BitVec 21)
  /-- CALL (R203). -/
  | call (gd : Guard) (o : BitVec 21)
  /-- HMOV (R211). -/
  | hmov (gd : Guard) (d a : HReg)
  /-- HBIND (R211). -/
  | hbind (gd : Guard) (d a : HReg) (b : SReg)
  /-- HUNB (R211). -/
  | hunb (gd : Guard) (d a : HReg)
  /-- HCHK (R212). -/
  | hchk (gd : Guard) (d : PReg) (a : HReg)
  /-- HLD (R206). -/
  | hld (gd : Guard) (d : HReg) (a : SReg) (i : BitVec 9)
  /-- HGET (R208). -/
  | hget (gd : Guard) (d : SReg) (a : HReg) (f : Fin 256)
  /-- HSET (R208). -/
  | hset (gd : Guard) (d : HReg) (a : SReg) (f : Fin 256)
  /-- HOFF (R209). -/
  | hoff (gd : Guard) (d : HReg) (a : SReg) (k : Fin 4)
  /-- HSLC (R210). -/
  | hslc (gd : Guard) (d : HReg) (a : SReg) (k : Fin 4)
  /-- LD (R217). -/
  | ld (gd : Guard) (d : SReg) (m : MOp)
  /-- ST (R217). -/
  | st (gd : Guard) (d : SReg) (m : MOp)
  /-- UPD_ADD (R221). -/
  | updAdd (gd : Guard) (d : SReg) (m : MOp)
  /-- UPD_MIN (R221). -/
  | updMin (gd : Guard) (d : SReg) (m : MOp)
  /-- UPD_MAX (R221). -/
  | updMax (gd : Guard) (d : SReg) (m : MOp)
  /-- MSA_ADD (R221). -/
  | msaAdd (gd : Guard) (d : SReg) (m : MOp)
  /-- MSA_MAX (R221). -/
  | msaMax (gd : Guard) (d : SReg) (m : MOp)
  /-- MSA_MIN (R221). -/
  | msaMin (gd : Guard) (d : SReg) (m : MOp)
  /-- LPIN (R222). -/
  | lpin (gd : Guard) (d : SReg) (m : MOp)
  /-- LUNPIN (R222). -/
  | lunpin (gd : Guard) (d : SReg) (m : MOp)
  /-- TLK (R76). -/
  | tlk (gd : Guard) (d : SReg) (m : MOp)
  /-- TLK_M (R76). -/
  | tlkM (gd : Guard) (d : SReg) (m : MOp)
  /-- TINS (R77). -/
  | tins (gd : Guard) (d : SReg) (m : MOp)
  /-- TEVC (R78). -/
  | tevc (gd : Guard) (d a : SReg)
  /-- GLD (R228). -/
  | gld (gd : Guard) (d : SReg) (a : GReg)
  /-- GST (R228). -/
  | gst (gd : Guard) (d : GReg) (a : SReg)
  /-- GSWP (R228). -/
  | gswp (gd : Guard) (d : SReg) (a : GReg) (b : SReg)
  /-- GADD (R228). -/
  | gadd (gd : Guard) (d : SReg) (a : GReg) (b : SReg)
  /-- GCAS (R228). -/
  | gcas (gd : Guard) (d : SReg) (a : GReg) (b : SReg)
  /-- SEM_SIG (R229). -/
  | semSig (gd : Guard) (a : SemIx) (n : Fin 256)
  /-- SEM_WAIT (R229). -/
  | semWait (gd : Guard) (a : SemIx) (n : Fin 256)
  /-- SEM_RD (R229). -/
  | semRd (gd : Guard) (d : SReg) (a : SemIx)
  /-- TK_PUSH (R128). -/
  | tkPush (gd : Guard) (a : TkIx)
  /-- TK_POP (R128). -/
  | tkPop (gd : Guard) (a : TkIx)
  /-- TK_CNT (R230). -/
  | tkCnt (gd : Guard) (d : SReg) (a : TkIx)
  /-- SEMAPHORE_WAIT_END (R129). -/
  | semaphoreWaitEnd (c : CoreId) (x : Stream)
  /-- TOKEN_WAIT_END (R128). -/
  | tokenWaitEnd (c : CoreId) (x : Stream)
  /-- BAR_ARV (R164). -/
  | barArv (gd : Guard) (a : BgIx)
  /-- BAR_WAIT (R164). -/
  | barWait (gd : Guard) (a : BgIx)
  /-- BAR_ARA (R164). -/
  | barAra (gd : Guard) (a : BgIx)
  /-- BARRIER_WAIT_END (R164). -/
  | barrierWaitEnd (c : CoreId) (x : Leader)
  /-- LIC_ACQ (R157). -/
  | licAcq (gd : Guard)
  /-- LIC_REL (R157). -/
  | licRel (gd : Guard)
  /-- LICENCE_DRAIN_END (R157). -/
  | licenceDrainEnd (p : PairId)
  /-- LICENCE_HANDOVER_END (R157). -/
  | licenceHandoverEnd (p : PairId)
  /-- ENG_START (R150). -/
  | engStart (gd : Guard) (a : SReg) (m : Fin 16)
  /-- RDV (R151). -/
  | rdv (gd : Guard)
  /-- RDV_COMPLETE (R151). -/
  | rdvComplete (c : CoreId) (x : Leader)
  /-- JEND (R233). -/
  | jend (gd : Guard)
  /-- BND_ME (R234). -/
  | bndMe (gd : Guard) (k : Fin 16) (a : SReg)
  /-- BND_VE (R234). -/
  | bndVe (gd : Guard) (k : Fin 16) (a : SReg)
  /-- BND_CEL (R234). -/
  | bndCel (gd : Guard) (k : Fin 16) (a : SReg)
  /-- BND_CES (R234). -/
  | bndCes (gd : Guard) (k : Fin 16) (a : SReg)
  /-- FENCE_ACQ (R227). -/
  | fenceAcq (gd : Guard) (e : Scope)
  /-- FENCE_REL (R227). -/
  | fenceRel (gd : Guard) (e : Scope)
  /-- FENCE_FULL (R227). -/
  | fenceFull (gd : Guard) (e : Scope)
  /-- FENCE_MSA (R142). -/
  | fenceMsa (gd : Guard) (e : Scope)
  /-- RELEASE_COMPLETE (R136). -/
  | releaseComplete (c : CoreId) (x : Stream)
  /-- MX_RD (R235). -/
  | mxRd (gd : Guard) (d : SReg) (a : MxIx)
  /-- MX_WR (R235). -/
  | mxWr (gd : Guard) (d : MxIx) (a : SReg)
  /-- MX_CLR (R235). -/
  | mxClr (gd : Guard) (d : MxIx)
  /-- MX_UPD (R235). -/
  | mxUpd (gd : Guard) (d : MxIx) (a : SReg)
  /-- TIME_RD (R236). -/
  | timeRd (gd : Guard) (d : SReg)
  /-- TRAP (R240). -/
  | trap (gd : Guard) (n : Fin 64)
  /-- TRET (R364). -/
  | tret (gd : Guard)
  /-- BRK (R240). -/
  | brk (gd : Guard) (n : Fin 64)
  /-- CTX_SV (R241). -/
  | ctxSv (gd : Guard) (a : SReg)
  /-- CTX_LD (R241). -/
  | ctxLd (gd : Guard) (a : SReg)
  /-- NOP (R240). -/
  | nop (gd : Guard)
  /-- LI (R197). -/
  | li (gd : Guard) (d : SReg) (v : BitVec 32)
  /-- LIH (R197). -/
  | lih (gd : Guard) (d a : SReg) (v : BitVec 32)
  /-- ADDL (R197). -/
  | addl (gd : Guard) (d a : SReg) (v : BitVec 32)
  /-- EXT (R198). -/
  | ext (gd : Guard) (d a : SReg) (pos w1 : Fin 64)
  /-- EXTU (R198). -/
  | extu (gd : Guard) (d a : SReg) (pos w1 : Fin 64)
  /-- DEP (R198). -/
  | dep (gd : Guard) (d a : SReg) (pos w1 : Fin 64)
  /-- BRL (R203). -/
  | brl (gd : Guard) (o : BitVec 32)
  /-- CALLL (R203). -/
  | calll (gd : Guard) (o : BitVec 32)
  /-- CMPL (R199). -/
  | cmpl (gd : Guard) (k : Cond) (d : PReg) (a : SReg) (v : BitVec 32)
  /-- LD_ORD (R218). -/
  | ldOrd (gd : Guard) (o : Ord) (e : Scope) (d : SReg) (m : MOp)
  /-- ST_ORD (R218). -/
  | stOrd (gd : Guard) (o : Ord) (e : Scope) (m : MOp) (a : SReg)
  /-- ATOM_ADD (R219). -/
  | atomAdd (gd : Guard) (o : Ord) (e : Scope) (d : SReg) (m : MOp) (a : SReg)
  /-- ATOM_AND (R219). -/
  | atomAnd (gd : Guard) (o : Ord) (e : Scope) (d : SReg) (m : MOp) (a : SReg)
  /-- ATOM_OR (R219). -/
  | atomOr (gd : Guard) (o : Ord) (e : Scope) (d : SReg) (m : MOp) (a : SReg)
  /-- ATOM_XOR (R219). -/
  | atomXor (gd : Guard) (o : Ord) (e : Scope) (d : SReg) (m : MOp) (a : SReg)
  /-- ATOM_MIN (R219). -/
  | atomMin (gd : Guard) (o : Ord) (e : Scope) (d : SReg) (m : MOp) (a : SReg)
  /-- ATOM_MAX (R219). -/
  | atomMax (gd : Guard) (o : Ord) (e : Scope) (d : SReg) (m : MOp) (a : SReg)
  /-- ATOM_MINU (R219). -/
  | atomMinu (gd : Guard) (o : Ord) (e : Scope) (d : SReg) (m : MOp) (a : SReg)
  /-- ATOM_MAXU (R219). -/
  | atomMaxu (gd : Guard) (o : Ord) (e : Scope) (d : SReg) (m : MOp) (a : SReg)
  /-- ATOM_SWP (R219). -/
  | atomSwp (gd : Guard) (o : Ord) (e : Scope) (d : SReg) (m : MOp) (a : SReg)
  /-- ATOM_CAS (R219). -/
  | atomCas (gd : Guard) (o : Ord) (e : Scope) (d : SReg) (m : MOp) (a b : SReg)
  /-- WADDR (R133). -/
  | waddr (gd : Guard) (k : Cond) (e : Scope) (d : SReg) (m : MOp) (a : SReg)
  /-- WADDR_REEVALUATE (R133). -/
  | waddrReevaluate (c : CoreId) (x : Leader)
  /-- Q_CLAIM (R225). -/
  | qClaim (gd : Guard) (e : Scope) (d : SReg) (m : MOp) (a : SReg)
  /-- Q_RING (R226). -/
  | qRing (gd : Guard) (e : Scope) (m : MOp) (a : SReg)
  /-- CSR_RD (R237). -/
  | csrRd (gd : Guard) (d : SReg) (n : Fin 4096)
  /-- CSR_WR (R237). -/
  | csrWr (gd : Guard) (n : Fin 4096) (a : SReg)
  /-- CSR_SET (R237). -/
  | csrSet (gd : Guard) (d a : SReg) (n : Fin 4096)
  /-- CSR_CLR (R237). -/
  | csrClr (gd : Guard) (d a : SReg) (n : Fin 4096)
  /-- PLAIN_REGISTER_WRITE (R6). -/
  | plainRegisterWrite (n : Fin 4096) (v : Word)
  /-- RECORD_HEAD (R182). -/
  | recordHead (c : CoreId) (e : Eng)
  /-- RECORD_ENTRY (R127). -/
  | recordEntry (c : CoreId) (e : Eng)
  /-- RECORD_OPERAND_READ (R153). -/
  | recordOperandRead (c : CoreId) (e : Eng)
  /-- RECORD_ISSUE (R185). -/
  | recordIssue (c : CoreId) (e : Eng)
  /-- RECORD_COMPLETION (R127). -/
  | recordCompletion (c : CoreId) (e : Eng)
  /-- RESERVATION_ARBITRATE (R411). -/
  | reservationArbitrate (k : Fin 256)
  /-- SEQ_END (R151). -/
  | seqEnd (r : Rec)
  /-- SEQ_WAIT (R184). -/
  | seqWait (r : Rec)
  /-- SEQ_JMP (R184). -/
  | seqJmp (r : Rec)
  /-- SEQ_JZ (R184). -/
  | seqJz (r : Rec)
  /-- SEQ_JNZ (R184). -/
  | seqJnz (r : Rec)
  /-- ME_MMA (R255). -/
  | meMma (r : Rec)
  /-- ME_CMMA (R255). -/
  | meCmma (r : Rec)
  /-- ME_CLR (R261). -/
  | meClr (r : Rec)
  /-- ME_BLD (R252). -/
  | meBld (r : Rec)
  /-- ME_DRN (R263). -/
  | meDrn (r : Rec)
  /-- ME_DRQ (R264). -/
  | meDrq (r : Rec)
  /-- ME_FRAG_LEND (R266). -/
  | meFragLend (r : Rec)
  /-- ME_FRAG_RECLAIM (R266). -/
  | meFragReclaim (r : Rec)
  /-- ME_ALD (R262). -/
  | meAld (r : Rec)
  /-- ME_AST (R262). -/
  | meAst (r : Rec)
  /-- ME_SBW (R267). -/
  | meSbw (r : Rec)
  /-- VE_ADD (R280). -/
  | veAdd (r : Rec)
  /-- VE_SUB (R280). -/
  | veSub (r : Rec)
  /-- VE_MUL (R280). -/
  | veMul (r : Rec)
  /-- VE_MIN (R280). -/
  | veMin (r : Rec)
  /-- VE_MAX (R280). -/
  | veMax (r : Rec)
  /-- VE_AND (R280). -/
  | veAnd (r : Rec)
  /-- VE_OR (R280). -/
  | veOr (r : Rec)
  /-- VE_XOR (R280). -/
  | veXor (r : Rec)
  /-- VE_SHL (R280). -/
  | veShl (r : Rec)
  /-- VE_SHR (R280). -/
  | veShr (r : Rec)
  /-- VE_ABS (R280). -/
  | veAbs (r : Rec)
  /-- VE_FADD (R281). -/
  | veFadd (r : Rec)
  /-- VE_FSUB (R281). -/
  | veFsub (r : Rec)
  /-- VE_FMUL (R281). -/
  | veFmul (r : Rec)
  /-- VE_FMA (R281). -/
  | veFma (r : Rec)
  /-- VE_FMIN (R281). -/
  | veFmin (r : Rec)
  /-- VE_FMAX (R281). -/
  | veFmax (r : Rec)
  /-- VE_FABS (R281). -/
  | veFabs (r : Rec)
  /-- VE_FNEG (R281). -/
  | veFneg (r : Rec)
  /-- VE_EXP2 (R282). -/
  | veExp2 (r : Rec)
  /-- VE_LOG2 (R282). -/
  | veLog2 (r : Rec)
  /-- VE_RCP (R282). -/
  | veRcp (r : Rec)
  /-- VE_RSQRT (R282). -/
  | veRsqrt (r : Rec)
  /-- VE_SQRT (R282). -/
  | veSqrt (r : Rec)
  /-- VE_TANH (R282). -/
  | veTanh (r : Rec)
  /-- VE_SIN (R282). -/
  | veSin (r : Rec)
  /-- VE_COS (R282). -/
  | veCos (r : Rec)
  /-- VE_CVT (R284). -/
  | veCvt (r : Rec)
  /-- VE_QUANT (R285). -/
  | veQuant (r : Rec)
  /-- VE_DEQUANT (R284). -/
  | veDequant (r : Rec)
  /-- VE_AMAX (R286). -/
  | veAmax (r : Rec)
  /-- VE_RSUM (R287). -/
  | veRsum (r : Rec)
  /-- VE_RMAX (R287). -/
  | veRmax (r : Rec)
  /-- VE_RMIN (R287). -/
  | veRmin (r : Rec)
  /-- VE_SCAN (R288). -/
  | veScan (r : Rec)
  /-- VE_RSUMSQ (R287). -/
  | veRsumsq (r : Rec)
  /-- VE_CMP (R289). -/
  | veCmp (r : Rec)
  /-- VE_SEL (R290). -/
  | veSel (r : Rec)
  /-- VE_ACS (R290). -/
  | veAcs (r : Rec)
  /-- VE_PERM (R291). -/
  | vePerm (r : Rec)
  /-- VE_TRN (R293). -/
  | veTrn (r : Rec)
  /-- VE_BCAST (R291). -/
  | veBcast (r : Rec)
  /-- VE_GATH (R292). -/
  | veGath (r : Rec)
  /-- VE_SCAT (R292). -/
  | veScat (r : Rec)
  /-- VE_RNG (R294). -/
  | veRng (r : Rec)
  /-- VE_IOTA (R295). -/
  | veIota (r : Rec)
  /-- CE_CP (R306). -/
  | ceCp (r : Rec)
  /-- CE_LQ (R308). -/
  | ceLq (r : Rec)
  /-- CE_FILL (R309). -/
  | ceFill (r : Rec)
  /-- CE_OVL (R310). -/
  | ceOvl (r : Rec)
  /-- CE_FLAG (R311). -/
  | ceFlag (r : Rec)
  /-- CE_CPX (R306). -/
  | ceCpx (r : Rec)
  /-- FAB_PINT (R318). -/
  | fabPint (r : Rec)
  /-- FAB_SEND (R319). -/
  | fabSend (r : Rec)
  /-- FAB_WR (R323). -/
  | fabWr (r : Rec)
  /-- FAB_ATOM (R323). -/
  | fabAtom (r : Rec)
  /-- FAB_REQ (R324). -/
  | fabReq (r : Rec)
  /-- FAB_COLL_SEED (R325). -/
  | fabCollSeed (r : Rec)
  /-- FAB_COLL_REDUCE (R325). -/
  | fabCollReduce (r : Rec)
  /-- FAB_COLL_PUT (R325). -/
  | fabCollPut (r : Rec)
  /-- FAB_COLL_COMMIT (R325). -/
  | fabCollCommit (r : Rec)
  /-- FAB_SEAM_ACCUM (R327). -/
  | fabSeamAccum (r : Rec)
  /-- FAB_SEAM_VOTE (R328). -/
  | fabSeamVote (r : Rec)
  /-- FAB_MCAST (R322). -/
  | fabMcast (r : Rec)
  /-- FAB_PRIO (R321). -/
  | fabPrio (r : Rec)
  /-- FAB_TKR (R318). -/
  | fabTkr (r : Rec)
  /-- STASH_PUT (R313). -/
  | stashPut (r : Rec)
  /-- STASH_GET (R314). -/
  | stashGet (r : Rec)
  /-- STASH_DROP (R315). -/
  | stashDrop (r : Rec)
  /-- STASH_PF (R315). -/
  | stashPf (r : Rec)
  /-- BOBBIN_OFFLOAD (R356). -/
  | bobbinOffload (k : DieId)
  /-- DEVICE_RESET (R6). -/
  | deviceReset
  /-- AUX_POWER_LOSS (R95). -/
  | auxPowerLoss
  /-- PATROL_SCRUB (R101). -/
  | patrolScrub (level : Fin 7) (unit : Nat) (r : ScrubResult)
  /-- TRANSLATION_WALK (R15). -/
  | translationWalk (c : CoreId) (x : Stream) (va : Nat)
  /-- UNMAP (R40). -/
  | unmap
  /-- UNMAP_DONE (R40). -/
  | unmapDone
  /-- MIGRATE_BEGIN (R41). -/
  | migrateBegin
  /-- MIGRATE_BEGIN_DONE (R41). -/
  | migrateBeginDone
  /-- MIGRATE_END (R41). -/
  | migrateEnd
  /-- MIGRATE_ABORT (R41). -/
  | migrateAbort
  /-- FLUSH_CTX (R39). -/
  | flushCtx
  /-- FLUSH_CTX_DONE (R39). -/
  | flushCtxDone
  /-- LT_INVAL (R39). -/
  | ltInval
  /-- BADCMD (R38). -/
  | badcmd (op : Fin 16)
  /-- UPDATE_LINE_MERGE (R91). -/
  | updateLineMerge (t : TowerId) (line : Nat)
  /-- MSA_APPLY (R96). -/
  | msaApply (n : Nat)
  /-- KEY_SLOT_LOAD (R100). -/
  | keySlotLoad (k : Fin 8192) (key : Nat)
  /-- KEY_SLOT_UNLOAD (R100). -/
  | keySlotUnload (k : Fin 8192)
  /-- TT_CFG_WRITE (R74). -/
  | ttCfgWrite (v : Word)
  /-- DMR_GLOBAL_WRITE (R159). -/
  | dmrGlobalWrite (v : Word)
  /-- BG_DATA_WRITE (R163). -/
  | bgDataWrite (v : Word)
  /-- LIC_CTL_WRITE (R156). -/
  | licCtlWrite (v : Word)
  /-- LSTART_WRITE (R335). -/
  | lstartWrite (v : Word)
  /-- LEADER_START (R333). -/
  | leaderStart (c : CoreId) (x : Leader)
  /-- CPQ_DATA_WRITE (R336). -/
  | cpqDataWrite (v : Word)
  /-- QUEUE_ENABLE (R336). -/
  | queueEnable (t : TowerId) (q : Fin 64)
  /-- DOORBELL (R337). -/
  | doorbell (t : TowerId) (q : Fin 64)
  /-- WAIT_PACKET_POLL (R341). -/
  | waitPacketPoll (t : TowerId) (q : Fin 64)
  /-- PACKET_COMPLETE (R342). -/
  | packetComplete (t : TowerId) (q : Fin 64) (n : Nat)
  /-- GANG_ROOT_TIMEOUT (R344). -/
  | gangRootTimeout (g : BgIx) (id : Nat)
  /-- GANG_MEMBER_TIMEOUT (R344). -/
  | gangMemberTimeout (g : BgIx) (id : Nat)
  /-- MBS_DATA_WRITE (R345). -/
  | mbsDataWrite (v : Word)
  /-- MBS_ENQ_WRITE (R346). -/
  | mbsEnqWrite (v : Word)
  /-- MBS_VER_WRITE (R350). -/
  | mbsVerWrite (v : Word)
  /-- MBS_EVALUATE (R348). -/
  | mbsEvaluate
  /-- MBS_JOB_END (R349). -/
  | mbsJobEnd (s : Fin 16) (k : Fin 3) (tag : Fin 4096)
  /-- BOB_KEEP_WRITE (R353). -/
  | bobKeepWrite (v : Word)
  /-- BOB_SPILL_WRITE (R353). -/
  | bobSpillWrite (v : Word)
  /-- BOB_THR_WRITE (R353). -/
  | bobThrWrite (v : Word)
  /-- ENGINE_TRAP_DELIVER (R366). -/
  | engineTrapDeliver (c : CoreId) (x : Leader)
  /-- ENG_CTL_RESUME (R366). -/
  | engCtlResume (m : Fin 16)
  /-- ENG_TRAP_PC_WRITE (R459). -/
  | engTrapPcWrite (e : Eng) (pc : Fin 262144)
  /-- PREEMPT_STOP (R369). -/
  | preemptStop (c : CoreId)
  /-- PREEMPT_STOP_DONE (R369). -/
  | preemptStopDone (c : CoreId)
  /-- PREEMPT_NOTIFY (R368). -/
  | preemptNotify (c : CoreId)
  /-- PREEMPT_RESUME (R372). -/
  | preemptResume (c : CoreId)
  /-- DUMP_REINJECT (R372). -/
  | dumpReinject (c : CoreId)
  /-- QUEUE_TIMEOUT (R375). -/
  | queueTimeout (c : CoreId) (x : Stream)
  /-- JFLUSH_WRITE (R376). -/
  | jflushWrite (v : Word)
  /-- REMOTE_ORPHAN (R316). -/
  | remoteOrphan (id : Nat)
  /-- TOKEN_EXPIRY (R319). -/
  | tokenExpiry (c : CoreId) (k : Fin 18) (src n : Nat)
  /-- WRITE (R137). -/
  | remoteWrite (m : RemoteAcc)
  /-- ATOMIC (R137). -/
  | remoteAtomic (m : RemoteAcc) (op : Fin 16) (x y : Word)
  /-- ACK (R385). -/
  | ack (id : Nat) (status : AckInfo)
  /-- INTENT (R386). -/
  | intent (i : MsgId) (n : IntentInfo)
  /-- INTENT_RESEND (R385). -/
  | intentResend (c : CoreId) (k : Fin 18)
  /-- GRANT (R319). -/
  | grant (c : CoreId) (k : Fin 18) (src ep n ex : Nat)
  /-- GRANT_SCHEDULE (R386). -/
  | grantSchedule
  /-- CHUNK (R319). -/
  | chunkArrive (i : MsgId) (n : Nat) (p : ChunkInfo)
  /-- TOKEN_ABANDON (R387). -/
  | tokenAbandon (i : MsgId) (n : Nat)
  /-- RETURN (R386). -/
  | returnTok (i : MsgId) (n : Nat)
  /-- SUSPEND (R388). -/
  | suspend (i : MsgId) (ns : List Nat)
  /-- CANCEL (R388). -/
  | cancel (i : MsgId)
  /-- MESSAGE_WITHDRAW (R320). -/
  | messageWithdraw (i : MsgId)
  /-- WITHDRAW (R318). -/
  | withdraw (c : CoreId) (k : Fin 18) (ep : Nat)
  /-- ARRIVE (R390). -/
  | arrive (g : BgIx) (src : Nat)
  /-- COMPLETE (R390). -/
  | complete (g : BgIx) (gen : Nat)
  /-- PREPARED (R344). -/
  | prepared (g : BgIx) (id src : Nat)
  /-- DECISION (R344). -/
  | decision (g : BgIx) (id : Nat) (commit : Bool)
  /-- VOTE (R392). -/
  | vote (v : VoteInfo)
  /-- VOTE_ROOT_TIMEOUT (R392). -/
  | voteRootTimeout
  /-- RESULT (R392). -/
  | result (step : Nat) (d : VoteDecision) (mask : Nat)
  /-- VOTE_RESULT_TIMEOUT (R392). -/
  | voteResultTimeout
  /-- FLIT_CRC_FAIL (R382). -/
  | flitCrcFail (l : Fin 16)
  /-- LINK_RETRAIN (R395). -/
  | linkRetrain (l : Fin 16) (good : Fin 10)
  /-- LANE_SAMPLE (R393). -/
  | laneSample (l : Fin 16) (n : Fin 9) (cerr margin : Nat)
  /-- LANE_PROPOSE (R394). -/
  | lanePropose (l : Fin 16) (n : Fin 9) (q : Nat)
  /-- LANE_ACK (R394). -/
  | laneAck (l : Fin 16) (n : Fin 9) (q : Nat)
  /-- LANE_NAK (R394). -/
  | laneNak (l : Fin 16) (n : Fin 9) (q : Nat)
  /-- LANE_PROPOSE_TIMEOUT (R394). -/
  | laneProposeTimeout (l : Fin 16)
  /-- SELVEDGE_SWAP (R394). -/
  | selvedgeSwap (l : Fin 16)
  /-- FAB_RING_WRITE (R391). -/
  | fabRingWrite (v : Word)
  /-- GS_CTL_WRITE (R388). -/
  | gsCtlWrite (v : Word)
  /-- MCG_DATA_WRITE (R389). -/
  | mcgDataWrite (v : Word)
  /-- FBT_DATA_WRITE (R390). -/
  | fbtDataWrite (v : Word)
  /-- SLT_DATA_WRITE (R397). -/
  | sltDataWrite (v : Word)
  /-- SLT_SWAP (R397). -/
  | sltSwap
  /-- SLOT_BANK_CHANGE (R397). -/
  | slotBankChange
  /-- EGR_LIM_WRITE (R399). -/
  | egrLimWrite (v : Word)
  /-- PEER_CTX_WRITE (R457). -/
  | peerCtxWrite (v : Word)
  /-- HOST_LINK_TRAIN (R400). -/
  | hostLinkTrain (gen width : Nat) (cxl2 cxl3 : Bool)
  /-- HOST_POSTED_WRITE (R144). -/
  | hostPostedWrite (off : BarAt) (bs : List Byte) (relaxed : Bool)
  /-- HOST_MEMORY_READ (R144). -/
  | hostMemoryRead (off : BarAt) (n : Nat)
  /-- HOST_ATOMICOP (R144). -/
  | hostAtomicop (off : Nat) (op : HostAtomic) (wide : Bool) (x y : Word)
  /-- CXL_MEM_WRITE (R144). -/
  | cxlMemWrite (off : Nat) (bs : List Byte)
  /-- CXL_MEM_READ (R144). -/
  | cxlMemRead (off n : Nat)
  /-- HOST_REG_WRITE (R458). -/
  | hostRegWrite (off width : Nat) (v : Word)
  /-- HOST_COMPLETION (R403). -/
  | hostCompletion (c : HostAsker) (x : Stream) (r : HostReply)
  /-- HOST_COMPLETION_TIMEOUT (R403). -/
  | hostCompletionTimeout (c : HostAsker) (x : Stream)
  /-- DVFS_CTL_WRITE (R420). -/
  | dvfsCtlWrite (v : Word)
  /-- DVFS_TRANSITION_END (R408). -/
  | dvfsTransitionEnd (k : DieId)
  /-- GOVERNOR_SAMPLE (R412). -/
  | governorSample (p10 p1s : Nat)
  /-- THERMAL_SAMPLE (R414). -/
  | thermalSample (t : TowerId) (rd : List (Nat × Nat))
  /-- PWR_CAP_WRITE (R413). -/
  | pwrCapWrite (v : Word)
  /-- PCLS_DATA_WRITE (R419). -/
  | pclsDataWrite (v : Word)
  /-- TH_CTL_WRITE (R421). -/
  | thCtlWrite (v : Word)
  /-- CKPT_START (R426). -/
  | ckptStart
  /-- CKPT_QUIESCE_DONE (R426). -/
  | ckptQuiesceDone
  /-- CKPT_WRITE_DONE (R426). -/
  | ckptWriteDone
  /-- CKPT_RESTORE (R427). -/
  | ckptRestore
  /-- TIME_SYNC_SEND (R429). -/
  | timeSyncSend
  /-- TIME_MESSAGE (R429). -/
  | timeMessage (t : Word)
  /-- TRC_CTL_WRITE (R431). -/
  | trcCtlWrite (v : Word)
  /-- HALT (R433). -/
  | dbgHalt (src : Option Nat) (c : CoreId) (all : Bool)
  /-- RESUME (R433). -/
  | dbgResume (src : Option Nat) (c : CoreId) (all : Bool)
  /-- HALT_AT (R433). -/
  | dbgHaltAt (src : Option Nat) (t : Word)
  /-- HALT_AT_TRIGGER (R433). -/
  | haltAtTrigger
  /-- HALT_SC (R434). -/
  | dbgHaltSc (src : Option Nat) (c : CoreId) (n : Nat)
  /-- HALT_SC_TRIGGER (R434). -/
  | haltScTrigger (c : CoreId)
  /-- RD_CSR (R446). -/
  | dbgRdCsr (src : Option Nat) (c : CoreId) (n : Fin 4096)
  /-- RD_MEM (R433). -/
  | dbgRdMem (src : Option Nat) (pa : Nat)
  /-- RD_STAMP (R433). -/
  | dbgRdStamp (src : Option Nat) (c : CoreId) (off : Nat) (w : Nat)
  /-- DBG_BAD_OP (R433). -/
  | dbgBadOp
  /-- DBG_COMMAND_TIMEOUT (R433). -/
  | dbgCommandTimeout
  /-- REPLAY_CTL_WRITE (R435). -/
  | replayCtlWrite (v : Word)
  /-- REPLAY_INCREMENT (R435). -/
  | replayIncrement
  /-- POWER_ON (R429). -/
  | powerOn
  /-- HOST_LINK_DOWN (R403). -/
  | hostLinkDown
  /-- TSYNC_WRITE (R429). -/
  | tsyncWrite (v : Word)
deriving DecidableEq, Repr, Inhabited

end Sys2Proof
end

