-- ==== Sys2Proof/WellFormed.lean ====
section
/-! DEFINITION. Which instruction terms an encoding exists for: the checks of R168, R170, R174, R175, R198, R207 that the syntax does
not already make, and the fields that tell two rows of one OPCODE apart (R266, R325, R327). The legality of records (R182) is a
matter of their head check, not of the encoding. -/
namespace Sys2Proof

/-- C = 63 with CP = 1 is illegal (R170). -/
def MOp.ok (m : MOp) : Bool := !(m.cp && m.c.val == 63)

/-- The handle fields of R207. -/
def hfieldOk (f : Nat) : Bool := decide (f < 20) || decide (32 ≤ f ∧ f < 40)

/-- Set bits of a four-bit stream mask. -/
def popc4 (m : Nat) : Nat := m % 2 + m / 2 % 2 + m / 4 % 2 + m / 8 % 2

/-- The PCs of `eng.start` lie in s0-s63 (R174). -/
def maskOk (a m : Nat) : Bool := decide (a + popc4 m ≤ 64)

/-- IMM32 of the bit-field forms (R198). -/
def bitField (x : Nat) : Bool := decide (x < 2 ^ 14 ∧ x / 64 % 4 = 0 ∧ x % 64 + x / 256 + 1 ≤ 64)

/-- `me.frag` reclaims when bit 16 of its immediate is set (R266). -/
def Rec.fragReclaim (r : Rec) : Bool := r.c.st1.toNat % 2 == 1

/-- The order field that each 0x79 form of R218 admits: `ld.ord` is relaxed or acquire, `st.ord` relaxed or release. -/
def loadOrder (o : Ord) : Bool := o == .rlx || o == .acq
def storeOrder (o : Ord) : Bool := o == .rlx || o == .rel

/-- Is the term one that an encoding exists for? The fields of an instruction that is not named here range over what its encoding
admits. Events of the opcode table have no encoding and no such check. -/
def Instr.wf : Instr → Bool
  | .ld _ _ m => m.ok
  | .st _ _ m => m.ok
  | .updAdd _ _ m => m.ok
  | .updMin _ _ m => m.ok
  | .updMax _ _ m => m.ok
  | .msaAdd _ _ m => m.ok
  | .msaMax _ _ m => m.ok
  | .msaMin _ _ m => m.ok
  | .lpin _ _ m => m.ok
  | .lunpin _ _ m => m.ok
  | .tlk _ _ m => m.ok
  | .tlkM _ _ m => m.ok
  | .tins _ _ m => m.ok
  | .ldOrd _ o _ _ m => m.ok && loadOrder o
  | .stOrd _ o _ m _ => m.ok && storeOrder o
  | .atomAdd _ _ _ _ m _ => m.ok
  | .atomAnd _ _ _ _ m _ => m.ok
  | .atomOr _ _ _ _ m _ => m.ok
  | .atomXor _ _ _ _ m _ => m.ok
  | .atomMin _ _ _ _ m _ => m.ok
  | .atomMax _ _ _ _ m _ => m.ok
  | .atomMinu _ _ _ _ m _ => m.ok
  | .atomMaxu _ _ _ _ m _ => m.ok
  | .atomSwp _ _ _ _ m _ => m.ok
  | .atomCas _ _ _ _ m _ _ => m.ok
  | .waddr _ _ _ _ m _ => m.ok
  | .qClaim _ _ _ m _ => m.ok
  | .qRing _ _ m _ => m.ok
  | .hget _ _ _ f => hfieldOk f
  | .hset _ _ _ f => hfieldOk f
  | .semSig _ _ n => n.val != 0
  | .semWait _ _ n => n.val != 0
  | .engStart _ a m => maskOk a m
  | .ext _ _ _ pos w1 => decide (pos.val + w1.val + 1 ≤ 64)
  | .extu _ _ _ pos w1 => decide (pos.val + w1.val + 1 ≤ 64)
  | .dep _ _ _ pos w1 => decide (pos.val + w1.val + 1 ≤ 64)
  | .meFragLend r => !r.fragReclaim
  | .meFragReclaim r => r.fragReclaim
  | .fabCollSeed r => r.opx.val % 4 == 0
  | .fabCollReduce r => r.opx.val % 4 == 1
  | .fabCollPut r => r.opx.val % 4 == 2
  | .fabCollCommit r => r.opx.val % 4 == 3
  | .fabSeamAccum r => r.opx.val % 2 == 0
  | .fabSeamVote r => r.opx.val % 2 == 1
  | _ => true

end Sys2Proof
end

