-- ==== Sys2Proof/Decode.lean ====
section
/-! DEFINITION. Decoding and encoding of control instructions (R167-R176) and loop-nest records (R177-R184). -/
namespace Sys2Proof

/-! ## Codes of conditions, scopes and orders (R176) -/

def condOf : Nat → Option Cond
  | 0 => some .eq | 1 => some .ne | 2 => some .lt | 3 => some .ge | 4 => some .ltu | 5 => some .geu | _ => none
def condCode : Cond → Nat
  | .eq => 0 | .ne => 1 | .lt => 2 | .ge => 3 | .ltu => 4 | .geu => 5
def scopeOf : Nat → Option Scope
  | 0 => some .core | 1 => some .twin | 2 => some .tower | 3 => some .module | 4 => some .domain | 5 => some .system
  | _ => none
def scopeCode : Scope → Nat
  | .core => 0 | .twin => 1 | .tower => 2 | .module => 3 | .domain => 4 | .system => 5
def ordOf : Nat → Option Ord
  | 0 => some .rlx | 1 => some .acq | 2 => some .rel | 3 => some .acqrel | _ => none
def ordCode : Ord → Nat
  | .rlx => 0 | .acq => 1 | .rel => 2 | .acqrel => 3

/-! ## Fields of the first word (R167) -/

def fMaj (w : Nat) : Nat := bitsAt w 25 7
def fGuard (w : Nat) : Guard := ⟨Fin.ofNat 8 (bitsAt w 22 3), bitAt w 21⟩
def fD (w : Nat) : Nat := bitsAt w 15 6
def fA (w : Nat) : Nat := bitsAt w 9 6
def fB (w : Nat) : Nat := bitsAt w 3 6
def fFn (w : Nat) : Nat := bitsAt w 0 3
def fImm9 (w : Nat) : Nat := bitsAt w 0 9
def fOff21 (w : Nat) : Nat := bitsAt w 0 21
/-- The memory operand of Format M. -/
def fMem (w : Nat) : MOp := ⟨Fin.ofNat 32 (bitsAt w 10 5), Fin.ofNat 64 (bitsAt w 4 6), bitAt w 3, Fin.ofNat 8 (bitsAt w 0 3)⟩
/-- The memory operand in IMM32 of the 0x79 forms (R175). -/
def fMemL (x : Nat) : MOp := ⟨Fin.ofNat 32 (bitsAt x 0 5), Fin.ofNat 64 (bitsAt x 6 6), bitAt x 5, Fin.ofNat 8 (bitsAt x 12 3)⟩

/-- An operand number of a kind whose range is checked (R168). -/
def s64 (x : Nat) : SReg := Fin.ofNat 64 x
def p8 (x : Nat) : PReg := Fin.ofNat 8 x
def h32 (x : Nat) : HReg := Fin.ofNat 32 x
def g16 (x : Nat) : GReg := Fin.ofNat 16 x

/-- `i` when the field checks of R168 hold, else the word decodes as ILLEGAL. -/
def legal (ok : Bool) (i : Instr) : Option Instr := if ok then some i else none

/-! ## The control opcode map (R174, R175) -/

def dec00 (fn : Nat) (gd : Guard) (d a b : Nat) : Option Instr :=
  match fn with
  | 0 => some (.add gd (s64 d) (s64 a) (s64 b))
  | 1 => some (.sub gd (s64 d) (s64 a) (s64 b))
  | 2 => some (.mul gd (s64 d) (s64 a) (s64 b))
  | 3 => some (.mulh gd (s64 d) (s64 a) (s64 b))
  | 4 => some (.mulhu gd (s64 d) (s64 a) (s64 b))
  | 5 => some (.div gd (s64 d) (s64 a) (s64 b))
  | 6 => some (.divu gd (s64 d) (s64 a) (s64 b))
  | 7 => some (.rem gd (s64 d) (s64 a) (s64 b))
  | _ => none

def dec01 (fn : Nat) (gd : Guard) (d a b : Nat) : Option Instr :=
  match fn with
  | 0 => some (.remu gd (s64 d) (s64 a) (s64 b))
  | 1 => some (.min gd (s64 d) (s64 a) (s64 b))
  | 2 => some (.max gd (s64 d) (s64 a) (s64 b))
  | 3 => some (.minu gd (s64 d) (s64 a) (s64 b))
  | 4 => some (.maxu gd (s64 d) (s64 a) (s64 b))
  | _ => none

def dec02 (fn : Nat) (gd : Guard) (d a b : Nat) : Option Instr :=
  match fn with
  | 0 => some (.and gd (s64 d) (s64 a) (s64 b))
  | 1 => some (.or gd (s64 d) (s64 a) (s64 b))
  | 2 => some (.xor gd (s64 d) (s64 a) (s64 b))
  | 3 => some (.andn gd (s64 d) (s64 a) (s64 b))
  | 4 => some (.sll gd (s64 d) (s64 a) (s64 b))
  | 5 => some (.srl gd (s64 d) (s64 a) (s64 b))
  | 6 => some (.sra gd (s64 d) (s64 a) (s64 b))
  | 7 => some (.rol gd (s64 d) (s64 a) (s64 b))
  | _ => none

def dec03 (fn : Nat) (gd : Guard) (d a b : Nat) : Option Instr :=
  match fn with
  | 0 => legal (b == 0) (.clz gd (s64 d) (s64 a))
  | 1 => legal (b == 0) (.ctz gd (s64 d) (s64 a))
  | 2 => legal (b == 0) (.popc gd (s64 d) (s64 a))
  | 3 => legal (b == 0) (.brev gd (s64 d) (s64 a))
  | 4 => legal (b == 0) (.bswap gd (s64 d) (s64 a))
  | _ => none

def dec04 (fn : Nat) (gd : Guard) (d a b : Nat) : Option Instr :=
  match fn with
  | 0 => legal (decide (d < 8)) (.cmpEq gd (p8 d) (s64 a) (s64 b))
  | 1 => legal (decide (d < 8)) (.cmpNe gd (p8 d) (s64 a) (s64 b))
  | 2 => legal (decide (d < 8)) (.cmpLt gd (p8 d) (s64 a) (s64 b))
  | 3 => legal (decide (d < 8)) (.cmpGe gd (p8 d) (s64 a) (s64 b))
  | 4 => legal (decide (d < 8)) (.cmpLtu gd (p8 d) (s64 a) (s64 b))
  | 5 => legal (decide (d < 8)) (.cmpGeu gd (p8 d) (s64 a) (s64 b))
  | _ => none

def dec05 (fn : Nat) (gd : Guard) (d a b : Nat) : Option Instr :=
  match fn with
  | 0 => legal (decide (d < 8 ∧ a < 8 ∧ b < 8)) (.pand gd (p8 d) (p8 a) (p8 b))
  | 1 => legal (decide (d < 8 ∧ a < 8 ∧ b < 8)) (.por gd (p8 d) (p8 a) (p8 b))
  | 2 => legal (decide (d < 8 ∧ a < 8 ∧ b < 8)) (.pxor gd (p8 d) (p8 a) (p8 b))
  | 3 => legal (decide (d < 8 ∧ a < 8 ∧ b < 8)) (.pandn gd (p8 d) (p8 a) (p8 b))
  | 4 => legal (decide (d < 8 ∧ a < 8 ∧ b = 0)) (.pnot gd (p8 d) (p8 a))
  | 5 => legal (decide (a < 8 ∧ b = 0)) (.pget gd (s64 d) (p8 a))
  | 6 => legal (decide (d < 8 ∧ b = 0)) (.pset gd (p8 d) (s64 a))
  | _ => none

def dec07 (fn : Nat) (gd : Guard) (d a b : Nat) : Option Instr :=
  match fn with
  | 0 => legal (decide (d = 0 ∧ b = 0)) (.jr gd (s64 a))
  | 1 => legal (b == 0) (.jalr gd (s64 d) (s64 a))
  | _ => none

def dec20 (fn : Nat) (gd : Guard) (d a b : Nat) : Option Instr :=
  match fn with
  | 0 => legal (decide (d < 32 ∧ a < 32 ∧ b = 0)) (.hmov gd (h32 d) (h32 a))
  | 1 => legal (decide (d < 32 ∧ a < 32)) (.hbind gd (h32 d) (h32 a) (s64 b))
  | 2 => legal (decide (d < 32 ∧ a < 32 ∧ b = 0)) (.hunb gd (h32 d) (h32 a))
  | 3 => legal (decide (d < 8 ∧ a < 32 ∧ b = 0)) (.hchk gd (p8 d) (h32 a))
  | _ => none

def dec38 (fn : Nat) (gd : Guard) (d a b : Nat) : Option Instr :=
  match fn with
  | 0 => legal (decide (a < 16 ∧ b = 0)) (.gld gd (s64 d) (g16 a))
  | 1 => legal (decide (d < 16 ∧ b = 0)) (.gst gd (g16 d) (s64 a))
  | 2 => legal (decide (a < 16)) (.gswp gd (s64 d) (g16 a) (s64 b))
  | 3 => legal (decide (a < 16)) (.gadd gd (s64 d) (g16 a) (s64 b))
  | 4 => legal (decide (a < 16)) (.gcas gd (s64 d) (g16 a) (s64 b))
  | _ => none

def dec3D (fn : Nat) (gd : Guard) (d a b : Nat) : Option Instr :=
  match fn with
  | 0 => legal (decide (d = 0 ∧ a < 8 ∧ b = 0)) (.tkPush gd (Fin.ofNat 8 a))
  | 1 => legal (decide (d = 0 ∧ a < 8 ∧ b = 0)) (.tkPop gd (Fin.ofNat 8 a))
  | 2 => legal (decide (a < 8 ∧ b = 0)) (.tkCnt gd (s64 d) (Fin.ofNat 8 a))
  | _ => none

def dec3E (fn : Nat) (gd : Guard) (d a b : Nat) : Option Instr :=
  match fn with
  | 0 => legal (decide (d = 0 ∧ b = 0)) (.barArv gd (s64 a))
  | 1 => legal (decide (d = 0 ∧ b = 0)) (.barWait gd (s64 a))
  | 2 => legal (decide (d = 0 ∧ b = 0)) (.barAra gd (s64 a))
  | _ => none

def dec3F (fn : Nat) (gd : Guard) (d a b : Nat) : Option Instr :=
  match fn with
  | 0 => legal (decide (d = 0 ∧ a = 0 ∧ b = 0)) (.licAcq gd)
  | 1 => legal (decide (d = 0 ∧ a = 0 ∧ b = 0)) (.licRel gd)
  | _ => none

def dec41 (fn : Nat) (gd : Guard) (d a b : Nat) : Option Instr :=
  match fn with
  | 0 => legal (decide (d = 0 ∧ a = 0 ∧ b = 0)) (.rdv gd)
  | 1 => legal (decide (d = 0 ∧ a = 0 ∧ b = 0)) (.jend gd)
  | _ => none

def dec45 (fn : Nat) (gd : Guard) (d a b : Nat) : Option Instr :=
  match fn with
  | 0 => legal (b == 0) (.mxRd gd (s64 d) (s64 a))
  | 1 => legal (b == 0) (.mxWr gd (s64 d) (s64 a))
  | 2 => legal (decide (a = 0 ∧ b = 0)) (.mxClr gd (s64 d))
  | 3 => legal (b == 0) (.mxUpd gd (s64 d) (s64 a))
  | _ => none

def dec47 (fn : Nat) (gd : Guard) (d a b : Nat) : Option Instr :=
  match fn with
  | 0 => legal (decide (d = 0 ∧ b = 0)) (.trap gd (s64 a))
  | 1 => legal (decide (d = 0 ∧ a = 0 ∧ b = 0)) (.tret gd)
  | 2 => legal (decide (d = 0 ∧ b = 0)) (.brk gd (s64 a))
  | 3 => legal (decide (d = 0 ∧ b = 0)) (.ctxSv gd (s64 a))
  | 4 => legal (decide (d = 0 ∧ b = 0)) (.ctxLd gd (s64 a))
  | 5 => legal (decide (d = 0 ∧ a = 0 ∧ b = 0)) (.nop gd)
  | _ => none

def dec44 (fn : Nat) (gd : Guard) (d a b : Nat) : Option Instr :=
  match scopeOf d with
  | none => none
  | some e =>
    match fn with
    | 0 => legal (decide (a = 0 ∧ b = 0)) (.fenceAcq gd e)
    | 1 => legal (decide (a = 0 ∧ b = 0)) (.fenceRel gd e)
    | 2 => legal (decide (a = 0 ∧ b = 0)) (.fenceFull gd e)
    | 3 => legal (decide (a = 0 ∧ b = 0)) (.fenceMsa gd e)
    | _ => none

/-- The Format I majors: `x` is IMM9. -/
def decImm (maj : Nat) (gd : Guard) (d a x : Nat) : Option Instr :=
  match maj with
  | 0x08 => some (.addi gd (s64 d) (s64 a) (BitVec.ofNat 9 x))
  | 0x09 => some (.andi gd (s64 d) (s64 a) (BitVec.ofNat 9 x))
  | 0x0A => some (.ori gd (s64 d) (s64 a) (BitVec.ofNat 9 x))
  | 0x0B => some (.xori gd (s64 d) (s64 a) (BitVec.ofNat 9 x))
  | 0x0C => legal (decide (x < 64)) (.slli gd (s64 d) (s64 a) (s64 x))
  | 0x0D => legal (decide (x < 64)) (.srli gd (s64 d) (s64 a) (s64 x))
  | 0x0E => legal (decide (x < 64)) (.srai gd (s64 d) (s64 a) (s64 x))
  | 0x0F => some (.muli gd (s64 d) (s64 a) (BitVec.ofNat 9 x))
  | 0x10 =>
    match condOf (d / 8) with
    | some k => some (.cmpi gd k (p8 (d % 8)) (s64 a) (BitVec.ofNat 9 x))
    | none => none
  | 0x11 => legal (a == 0) (.dbnz gd (s64 d) (BitVec.ofNat 9 x))
  | 0x21 => legal (decide (d < 32)) (.hld gd (h32 d) (s64 a) (BitVec.ofNat 9 x))
  | 0x22 => legal (hfieldOk x && decide (a < 32)) (.hget gd (s64 d) (h32 a) (Fin.ofNat 256 x))
  | 0x23 => legal (hfieldOk x && decide (d < 32)) (.hset gd (h32 d) (s64 a) (Fin.ofNat 256 x))
  | 0x24 => legal (decide (d < 32 ∧ x < 4)) (.hoff gd (h32 d) (s64 a) (Fin.ofNat 4 x))
  | 0x25 => legal (decide (d < 32 ∧ x < 4)) (.hslc gd (h32 d) (s64 a) (Fin.ofNat 4 x))
  | 0x36 => legal (x == 0) (.tevc gd (s64 d) (s64 a))
  | 0x3A => legal (decide (d = 0 ∧ a < 32 ∧ 0 < x ∧ x < 256)) (.semSig gd (h32 a) (Fin.ofNat 256 x))
  | 0x3B => legal (decide (d = 0 ∧ a < 32 ∧ 0 < x ∧ x < 256)) (.semWait gd (h32 a) (Fin.ofNat 256 x))
  | 0x40 => legal (decide (d = 0 ∧ x < 16) && maskOk a x) (.engStart gd (s64 a) (Fin.ofNat 16 x))
  | 0x42 =>
    match d / 16 with
    | 0 => legal (x == 0) (.bndMe gd (g16 (d % 16)) (s64 a))
    | 1 => legal (x == 0) (.bndVe gd (g16 (d % 16)) (s64 a))
    | 2 => legal (x == 0) (.bndCel gd (g16 (d % 16)) (s64 a))
    | 3 => legal (x == 0) (.bndCes gd (g16 (d % 16)) (s64 a))
    | _ => none
  | _ => none

/-- The Format M majors. -/
def decMem (maj : Nat) (gd : Guard) (d : SReg) (m : MOp) : Option Instr :=
  match maj with
  | 0x28 => legal m.ok (.ld gd d m)
  | 0x29 => legal m.ok (.st gd d m)
  | 0x2A => legal m.ok (.updAdd gd d m)
  | 0x2B => legal m.ok (.updMin gd d m)
  | 0x2C => legal m.ok (.updMax gd d m)
  | 0x2D => legal m.ok (.msaAdd gd d m)
  | 0x2E => legal m.ok (.msaMax gd d m)
  | 0x2F => legal m.ok (.msaMin gd d m)
  | 0x30 => legal m.ok (.lpin gd d m)
  | 0x31 => legal m.ok (.lunpin gd d m)
  | 0x32 => legal m.ok (.tlk gd d m)
  | 0x33 => legal m.ok (.tlkM gd d m)
  | 0x34 => legal m.ok (.tins gd d m)
  | _ => none

/-- Major 0x78: arithmetic long forms (R175). `x` is IMM32. -/
def dec78 (sub : Nat) (gd : Guard) (d a x : Nat) : Option Instr :=
  match sub with
  | 0 => legal (a == 0) (.li gd (s64 d) (BitVec.ofNat 32 x))
  | 1 => some (.lih gd (s64 d) (s64 a) (BitVec.ofNat 32 x))
  | 2 => some (.addl gd (s64 d) (s64 a) (BitVec.ofNat 32 x))
  | 3 => legal (bitField x) (.ext gd (s64 d) (s64 a) (s64 (x % 64)) (s64 (x / 256)))
  | 4 => legal (bitField x) (.extu gd (s64 d) (s64 a) (s64 (x % 64)) (s64 (x / 256)))
  | 5 => legal (bitField x) (.dep gd (s64 d) (s64 a) (s64 (x % 64)) (s64 (x / 256)))
  | 6 => legal (decide (d = 0 ∧ a = 0)) (.brl gd (BitVec.ofNat 32 x))
  | 7 => legal (decide (d = 0 ∧ a = 0)) (.calll gd (BitVec.ofNat 32 x))
  | 8 =>
    match condOf (d / 8) with
    | some k => some (.cmpl gd k (p8 (d % 8)) (s64 a) (BitVec.ofNat 32 x))
    | none => none
  | _ => none

/-- The 0x79 forms other than `waddr`, once ORD and SCOPE are read; `b` is the B field, COND is zero. -/
def dec79op (op : Nat) (gd : Guard) (o : Ord) (e : Scope) (d a b : Nat) (m : MOp) : Option Instr :=
  match op with
  | 0 => legal (m.ok && decide (a = 0 ∧ b = 0) && loadOrder o) (.ldOrd gd o e (s64 d) m)
  | 1 => legal (m.ok && decide (d = 0 ∧ b = 0) && storeOrder o) (.stOrd gd o e m (s64 a))
  | 2 => legal (m.ok && b == 0) (.atomAdd gd o e (s64 d) m (s64 a))
  | 3 => legal (m.ok && b == 0) (.atomAnd gd o e (s64 d) m (s64 a))
  | 4 => legal (m.ok && b == 0) (.atomOr gd o e (s64 d) m (s64 a))
  | 5 => legal (m.ok && b == 0) (.atomXor gd o e (s64 d) m (s64 a))
  | 6 => legal (m.ok && b == 0) (.atomMin gd o e (s64 d) m (s64 a))
  | 7 => legal (m.ok && b == 0) (.atomMax gd o e (s64 d) m (s64 a))
  | 8 => legal (m.ok && b == 0) (.atomMinu gd o e (s64 d) m (s64 a))
  | 9 => legal (m.ok && b == 0) (.atomMaxu gd o e (s64 d) m (s64 a))
  | 10 => legal (m.ok && b == 0) (.atomSwp gd o e (s64 d) m (s64 a))
  | 11 => legal m.ok (.atomCas gd o e (s64 d) m (s64 a) (s64 b))
  | 13 => legal (m.ok && b == 0 && o == .acqrel) (.qClaim gd e (s64 d) m (s64 a))
  | 14 => legal (m.ok && decide (d = 0 ∧ b = 0) && o == .rel) (.qRing gd e m (s64 a))
  | _ => none

/-- Major 0x79: memory long forms (R175). -/
def dec79 (sub : Nat) (gd : Guard) (d a x : Nat) : Option Instr :=
  match ordOf (sub / 8 % 4), scopeOf (sub % 8) with
  | some o, some e =>
    if bitsAt x 24 8 ≠ 0 then none
    else if sub / 32 = 12 then
      match condOf (bitsAt x 21 3) with
      | some k => legal ((fMemL x).ok && bitsAt x 15 6 == 0 && o == .acq) (.waddr gd k e (s64 d) (fMemL x) (s64 a))
      | none => none
    else if bitsAt x 21 3 ≠ 0 then none
    else dec79op (sub / 32) gd o e d a (bitsAt x 15 6) (fMemL x)
  | _, _ => none

/-- Major 0x7A: control/status registers (R174). -/
def dec7A (sub : Nat) (gd : Guard) (d a x : Nat) : Option Instr :=
  match sub with
  | 0 => legal (decide (a = 0 ∧ x < 4096)) (.csrRd gd (s64 d) (Fin.ofNat 4096 x))
  | 1 => legal (decide (d = 0 ∧ x < 4096)) (.csrWr gd (Fin.ofNat 4096 x) (s64 a))
  | 2 => legal (decide (x < 4096)) (.csrSet gd (s64 d) (s64 a) (Fin.ofNat 4096 x))
  | 3 => legal (decide (x < 4096)) (.csrClr gd (s64 d) (s64 a) (Fin.ofNat 4096 x))
  | _ => none

/-- Does the first word carry a second word (R171)? -/
def isLong (w0 : Nat) : Bool := fMaj w0 == 0x78 || fMaj w0 == 0x79 || fMaj w0 == 0x7A

/-- The control instruction of the words at PC and PC + 4; `none` where it decodes as ILLEGAL (R172 step 2, R174). -/
def decodeControl (w0 w1 : Nat) : Option Instr :=
  let gd := fGuard w0
  let d := fD w0
  let a := fA w0
  let b := fB w0
  let fn := fFn w0
  match fMaj w0 with
  | 0x00 => dec00 fn gd d a b
  | 0x01 => dec01 fn gd d a b
  | 0x02 => dec02 fn gd d a b
  | 0x03 => dec03 fn gd d a b
  | 0x04 => dec04 fn gd d a b
  | 0x05 => dec05 fn gd d a b
  | 0x06 => some (.sel gd (p8 fn) (s64 d) (s64 a) (s64 b))
  | 0x07 => dec07 fn gd d a b
  | 0x18 => some (.br gd (BitVec.ofNat 21 (fOff21 w0)))
  | 0x19 => some (.call gd (BitVec.ofNat 21 (fOff21 w0)))
  | 0x20 => dec20 fn gd d a b
  | 0x38 => dec38 fn gd d a b
  | 0x3C => if fn = 0 then legal (decide (a < 32 ∧ b = 0)) (.semRd gd (s64 d) (h32 a)) else none
  | 0x3D => dec3D fn gd d a b
  | 0x3E => dec3E fn gd d a b
  | 0x3F => dec3F fn gd d a b
  | 0x41 => dec41 fn gd d a b
  | 0x44 => dec44 fn gd d a b
  | 0x45 => dec45 fn gd d a b
  | 0x46 => if fn = 0 then legal (decide (a = 0 ∧ b = 0)) (.timeRd gd (s64 d)) else none
  | 0x47 => dec47 fn gd d a b
  | 0x78 => dec78 (fImm9 w0) gd d a w1
  | 0x79 => dec79 (fImm9 w0) gd d a w1
  | 0x7A => dec7A (fImm9 w0) gd d a w1
  | maj => (decMem maj gd (s64 d) (fMem w0)).orElse fun _ => decImm maj gd d a (fImm9 w0)

/-! ## Loop-nest records (R177-R184) -/

/-- One operand descriptor from its three words (R180). -/
def descOf (x y z : Nat) : Desc where
  hnd := Fin.ofNat 32 (bitsAt x 0 5)
  pres := bitAt x 5
  role := Fin.ofNat 4 (bitsAt x 6 2)
  dmap := Fin.ofNat 256 (bitsAt x 8 8)
  org := Fin.ofNat 65536 (bitsAt x 16 16)
  st0 := BitVec.ofNat 16 (bitsAt y 0 16)
  st1 := BitVec.ofNat 16 (bitsAt y 16 16)
  st2 := BitVec.ofNat 16 (bitsAt z 0 16)
  st3 := BitVec.ofNat 16 (bitsAt z 16 16)

/-- The three words of an operand descriptor (R180). -/
def Desc.words (d : Desc) : List Nat :=
  [d.hnd.val + b2n d.pres * 2 ^ 5 + d.role.val * 2 ^ 6 + d.dmap.val * 2 ^ 8 + d.org.val * 2 ^ 16,
   d.st0.toNat + d.st1.toNat * 2 ^ 16, d.st2.toNat + d.st3.toNat * 2 ^ 16]

/-- The fields of a record but ENGINE and OPCODE, from its sixteen words (R177-R180). -/
def recOf (w0 w1 w2 w3 : Nat) (d a b c : Desc) : Rec where
  rnd := Fin.ofNat 8 (bitsAt w0 12 3)
  sat := bitAt w0 15
  accf := Fin.ofNat 4 (bitsAt w0 16 2)
  levels := Fin.ofNat 8 (bitsAt w0 18 3)
  clr := bitAt w0 21
  conj := bitAt w0 22
  trn := bitAt w0 23
  opx := Fin.ofNat 256 (bitsAt w0 24 8)
  tpop := Fin.ofNat 16 (bitsAt w1 0 4)
  tpush := Fin.ofNat 16 (bitsAt w1 4 4)
  swait := Fin.ofNat 64 (bitsAt w1 8 6)
  ssig := Fin.ofNat 64 (bitsAt w1 14 6)
  flag := bitAt w1 20
  bind := bitAt w1 21
  pcls := Fin.ofNat 8 (bitsAt w1 22 3)
  spare := Fin.ofNat 128 (bitsAt w1 25 7)
  tc0 := BitVec.ofNat 16 (bitsAt w2 0 16)
  tc1 := BitVec.ofNat 16 (bitsAt w2 16 16)
  tc2 := BitVec.ofNat 16 (bitsAt w3 0 16)
  tc3 := BitVec.ofNat 16 (bitsAt w3 16 16)
  d := d
  a := a
  b := b
  c := c

/-- The sixteen words of a record (R177-R180). -/
def recWords (eng op : Nat) (r : Rec) : List Nat :=
  [op + eng * 2 ^ 8 + r.rnd.val * 2 ^ 12 + b2n r.sat * 2 ^ 15 + r.accf.val * 2 ^ 16 + r.levels.val * 2 ^ 18 +
     b2n r.clr * 2 ^ 21 + b2n r.conj * 2 ^ 22 + b2n r.trn * 2 ^ 23 + r.opx.val * 2 ^ 24,
   r.tpop.val + r.tpush.val * 2 ^ 4 + r.swait.val * 2 ^ 8 + r.ssig.val * 2 ^ 14 + b2n r.flag * 2 ^ 20 +
     b2n r.bind * 2 ^ 21 + r.pcls.val * 2 ^ 22 + r.spare.val * 2 ^ 25,
   r.tc0.toNat + r.tc1.toNat * 2 ^ 16, r.tc2.toNat + r.tc3.toNat * 2 ^ 16]
  ++ r.d.words ++ r.a.words ++ r.b.words ++ r.c.words

/-- The operations of ENGINE 0 (R183). -/
def recEng0 (op : Nat) (r : Rec) : Option Instr :=
  match op with
  | 1 => some (.seqEnd r)
  | 2 => some (.seqWait r)
  | 3 => some (.seqJmp r)
  | 4 => some (.seqJz r)
  | 5 => some (.seqJnz r)
  | _ => none

/-- The operations of ENGINE 1 (R183). -/
def recEng1 (op : Nat) (r : Rec) : Option Instr :=
  match op with
  | 1 => some (.meMma r)
  | 2 => some (.meCmma r)
  | 3 => some (.meClr r)
  | 4 => some (.meBld r)
  | 5 => some (.meDrn r)
  | 6 => some (.meDrq r)
  | 7 => some (if r.fragReclaim then .meFragReclaim r else .meFragLend r)
  | 8 => some (.meAld r)
  | 9 => some (.meAst r)
  | 10 => some (.meSbw r)
  | _ => none

/-- The operations of ENGINE 2 (R183). -/
def recEng2 (op : Nat) (r : Rec) : Option Instr :=
  match op with
  | 1 => some (.veAdd r)
  | 2 => some (.veSub r)
  | 3 => some (.veMul r)
  | 4 => some (.veMin r)
  | 5 => some (.veMax r)
  | 6 => some (.veAnd r)
  | 7 => some (.veOr r)
  | 8 => some (.veXor r)
  | 9 => some (.veShl r)
  | 10 => some (.veShr r)
  | 11 => some (.veAbs r)
  | 16 => some (.veFadd r)
  | 17 => some (.veFsub r)
  | 18 => some (.veFmul r)
  | 19 => some (.veFma r)
  | 20 => some (.veFmin r)
  | 21 => some (.veFmax r)
  | 22 => some (.veFabs r)
  | 23 => some (.veFneg r)
  | 32 => some (.veExp2 r)
  | 33 => some (.veLog2 r)
  | 34 => some (.veRcp r)
  | 35 => some (.veRsqrt r)
  | 36 => some (.veSqrt r)
  | 37 => some (.veTanh r)
  | 38 => some (.veSin r)
  | 39 => some (.veCos r)
  | 48 => some (.veCvt r)
  | 49 => some (.veQuant r)
  | 50 => some (.veDequant r)
  | 51 => some (.veAmax r)
  | 56 => some (.veRsum r)
  | 57 => some (.veRmax r)
  | 58 => some (.veRmin r)
  | 59 => some (.veScan r)
  | 60 => some (.veRsumsq r)
  | 64 => some (.veCmp r)
  | 65 => some (.veSel r)
  | 66 => some (.veAcs r)
  | 72 => some (.vePerm r)
  | 73 => some (.veTrn r)
  | 74 => some (.veBcast r)
  | 75 => some (.veGath r)
  | 76 => some (.veScat r)
  | 80 => some (.veRng r)
  | 81 => some (.veIota r)
  | _ => none

/-- The operations of ENGINE 3 (R183). -/
def recEng3 (op : Nat) (r : Rec) : Option Instr :=
  match op with
  | 1 => some (.ceCp r)
  | 2 => some (.ceLq r)
  | 3 => some (.ceFill r)
  | 4 => some (.ceOvl r)
  | 5 => some (.ceFlag r)
  | 6 => some (.ceCpx r)
  | 32 => some (.fabPint r)
  | 33 => some (.fabSend r)
  | 34 => some (.fabWr r)
  | 35 => some (.fabAtom r)
  | 36 => some (.fabReq r)
  | 37 =>
    match r.opx.val % 4 with
    | 0 => some (.fabCollSeed r)
    | 1 => some (.fabCollReduce r)
    | 2 => some (.fabCollPut r)
    | _ => some (.fabCollCommit r)
  | 38 => some (if r.opx.val % 2 = 0 then .fabSeamAccum r else .fabSeamVote r)
  | 39 => some (.fabMcast r)
  | 40 => some (.fabPrio r)
  | 41 => some (.fabTkr r)
  | _ => none

/-- The operations of ENGINE 4 (R183). -/
def recEng4 (op : Nat) (r : Rec) : Option Instr :=
  match op with
  | 1 => some (.stashPut r)
  | 2 => some (.stashGet r)
  | 3 => some (.stashDrop r)
  | 4 => some (.stashPf r)
  | _ => none

/-- The operation that ENGINE and OPCODE name (R183). -/
def recOp (eng op : Nat) (r : Rec) : Option Instr :=
  match eng with
  | 0 => recEng0 op r
  | 1 => recEng1 op r
  | 2 => recEng2 op r
  | 3 => recEng3 op r
  | 4 => recEng4 op r
  | _ => none

/-- The record of sixteen words; `none` where OPCODE is not assigned to ENGINE or ENGINE is illegal (R182, R183). -/
def decodeRecord : List Nat → Option Instr
  | [w0, w1, w2, w3, w4, w5, w6, w7, w8, w9, w10, w11, w12, w13, w14, w15] =>
    recOp (bitsAt w0 8 4) (bitsAt w0 0 8)
      (recOf w0 w1 w2 w3 (descOf w4 w5 w6) (descOf w7 w8 w9) (descOf w10 w11 w12) (descOf w13 w14 w15))
  | _ => none

/-- ENGINE, OPCODE and the fields of a record operation (R183). -/
def Instr.record? : Instr → Option (Nat × Nat × Rec)
  | .seqEnd r => some (0, 1, r)
  | .seqWait r => some (0, 2, r)
  | .seqJmp r => some (0, 3, r)
  | .seqJz r => some (0, 4, r)
  | .seqJnz r => some (0, 5, r)
  | .meMma r => some (1, 1, r)
  | .meCmma r => some (1, 2, r)
  | .meClr r => some (1, 3, r)
  | .meBld r => some (1, 4, r)
  | .meDrn r => some (1, 5, r)
  | .meDrq r => some (1, 6, r)
  | .meFragLend r => some (1, 7, r)
  | .meFragReclaim r => some (1, 7, r)
  | .meAld r => some (1, 8, r)
  | .meAst r => some (1, 9, r)
  | .meSbw r => some (1, 10, r)
  | .veAdd r => some (2, 1, r)
  | .veSub r => some (2, 2, r)
  | .veMul r => some (2, 3, r)
  | .veMin r => some (2, 4, r)
  | .veMax r => some (2, 5, r)
  | .veAnd r => some (2, 6, r)
  | .veOr r => some (2, 7, r)
  | .veXor r => some (2, 8, r)
  | .veShl r => some (2, 9, r)
  | .veShr r => some (2, 10, r)
  | .veAbs r => some (2, 11, r)
  | .veFadd r => some (2, 16, r)
  | .veFsub r => some (2, 17, r)
  | .veFmul r => some (2, 18, r)
  | .veFma r => some (2, 19, r)
  | .veFmin r => some (2, 20, r)
  | .veFmax r => some (2, 21, r)
  | .veFabs r => some (2, 22, r)
  | .veFneg r => some (2, 23, r)
  | .veExp2 r => some (2, 32, r)
  | .veLog2 r => some (2, 33, r)
  | .veRcp r => some (2, 34, r)
  | .veRsqrt r => some (2, 35, r)
  | .veSqrt r => some (2, 36, r)
  | .veTanh r => some (2, 37, r)
  | .veSin r => some (2, 38, r)
  | .veCos r => some (2, 39, r)
  | .veCvt r => some (2, 48, r)
  | .veQuant r => some (2, 49, r)
  | .veDequant r => some (2, 50, r)
  | .veAmax r => some (2, 51, r)
  | .veRsum r => some (2, 56, r)
  | .veRmax r => some (2, 57, r)
  | .veRmin r => some (2, 58, r)
  | .veScan r => some (2, 59, r)
  | .veRsumsq r => some (2, 60, r)
  | .veCmp r => some (2, 64, r)
  | .veSel r => some (2, 65, r)
  | .veAcs r => some (2, 66, r)
  | .vePerm r => some (2, 72, r)
  | .veTrn r => some (2, 73, r)
  | .veBcast r => some (2, 74, r)
  | .veGath r => some (2, 75, r)
  | .veScat r => some (2, 76, r)
  | .veRng r => some (2, 80, r)
  | .veIota r => some (2, 81, r)
  | .ceCp r => some (3, 1, r)
  | .ceLq r => some (3, 2, r)
  | .ceFill r => some (3, 3, r)
  | .ceOvl r => some (3, 4, r)
  | .ceFlag r => some (3, 5, r)
  | .ceCpx r => some (3, 6, r)
  | .fabPint r => some (3, 32, r)
  | .fabSend r => some (3, 33, r)
  | .fabWr r => some (3, 34, r)
  | .fabAtom r => some (3, 35, r)
  | .fabReq r => some (3, 36, r)
  | .fabCollSeed r => some (3, 37, r)
  | .fabCollReduce r => some (3, 37, r)
  | .fabCollPut r => some (3, 37, r)
  | .fabCollCommit r => some (3, 37, r)
  | .fabSeamAccum r => some (3, 38, r)
  | .fabSeamVote r => some (3, 38, r)
  | .fabMcast r => some (3, 39, r)
  | .fabPrio r => some (3, 40, r)
  | .fabTkr r => some (3, 41, r)
  | .stashPut r => some (4, 1, r)
  | .stashGet r => some (4, 2, r)
  | .stashDrop r => some (4, 3, r)
  | .stashPf r => some (4, 4, r)
  | _ => none

/-! ## Encoding (R167-R176) -/

def encGuard (gd : Guard) : Nat := gd.gp.val * 2 ^ 22 + b2n gd.gs * 2 ^ 21
/-- Format R. -/
def fmtR (maj : Nat) (gd : Guard) (d a b fn : Nat) : Nat :=
  maj * 2 ^ 25 + encGuard gd + d * 2 ^ 15 + a * 2 ^ 9 + b * 2 ^ 3 + fn
/-- Formats I and L (first word). -/
def fmtI (maj : Nat) (gd : Guard) (d a imm : Nat) : Nat :=
  maj * 2 ^ 25 + encGuard gd + d * 2 ^ 15 + a * 2 ^ 9 + imm
/-- Format B. -/
def fmtB (maj : Nat) (gd : Guard) (off : Nat) : Nat := maj * 2 ^ 25 + encGuard gd + off
/-- Format M. -/
def fmtM (maj : Nat) (gd : Guard) (d : SReg) (m : MOp) : Nat :=
  maj * 2 ^ 25 + encGuard gd + d.val * 2 ^ 15 + m.h.val * 2 ^ 10 + m.c.val * 2 ^ 4 + b2n m.cp * 2 ^ 3 + m.off.val
/-- IMM32 of the 0x79 forms. -/
def immM (m : MOp) (b cond : Nat) : Nat :=
  m.h.val + b2n m.cp * 2 ^ 5 + m.c.val * 2 ^ 6 + m.off.val * 2 ^ 12 + b * 2 ^ 15 + cond * 2 ^ 21
/-- The two words of a 0x79 form. -/
def fmtX (op : Nat) (gd : Guard) (o : Ord) (e : Scope) (d a : Nat) (m : MOp) (b cond : Nat) : List Nat :=
  [fmtI 0x79 gd d a (op * 32 + ordCode o * 8 + scopeCode e), immM m b cond]

/-- The words of an instruction or record; an event of the opcode table has none. -/
def encode : Instr → List Nat
  | .add gd d a b => [fmtR 0x00 gd d a b 0]
  | .sub gd d a b => [fmtR 0x00 gd d a b 1]
  | .mul gd d a b => [fmtR 0x00 gd d a b 2]
  | .mulh gd d a b => [fmtR 0x00 gd d a b 3]
  | .mulhu gd d a b => [fmtR 0x00 gd d a b 4]
  | .div gd d a b => [fmtR 0x00 gd d a b 5]
  | .divu gd d a b => [fmtR 0x00 gd d a b 6]
  | .rem gd d a b => [fmtR 0x00 gd d a b 7]
  | .remu gd d a b => [fmtR 0x01 gd d a b 0]
  | .min gd d a b => [fmtR 0x01 gd d a b 1]
  | .max gd d a b => [fmtR 0x01 gd d a b 2]
  | .minu gd d a b => [fmtR 0x01 gd d a b 3]
  | .maxu gd d a b => [fmtR 0x01 gd d a b 4]
  | .and gd d a b => [fmtR 0x02 gd d a b 0]
  | .or gd d a b => [fmtR 0x02 gd d a b 1]
  | .xor gd d a b => [fmtR 0x02 gd d a b 2]
  | .andn gd d a b => [fmtR 0x02 gd d a b 3]
  | .sll gd d a b => [fmtR 0x02 gd d a b 4]
  | .srl gd d a b => [fmtR 0x02 gd d a b 5]
  | .sra gd d a b => [fmtR 0x02 gd d a b 6]
  | .rol gd d a b => [fmtR 0x02 gd d a b 7]
  | .cmpEq gd d a b => [fmtR 0x04 gd d a b 0]
  | .cmpNe gd d a b => [fmtR 0x04 gd d a b 1]
  | .cmpLt gd d a b => [fmtR 0x04 gd d a b 2]
  | .cmpGe gd d a b => [fmtR 0x04 gd d a b 3]
  | .cmpLtu gd d a b => [fmtR 0x04 gd d a b 4]
  | .cmpGeu gd d a b => [fmtR 0x04 gd d a b 5]
  | .clz gd d a => [fmtR 0x03 gd d a 0 0]
  | .ctz gd d a => [fmtR 0x03 gd d a 0 1]
  | .popc gd d a => [fmtR 0x03 gd d a 0 2]
  | .brev gd d a => [fmtR 0x03 gd d a 0 3]
  | .bswap gd d a => [fmtR 0x03 gd d a 0 4]
  | .pand gd d a b => [fmtR 0x05 gd d a b 0]
  | .por gd d a b => [fmtR 0x05 gd d a b 1]
  | .pxor gd d a b => [fmtR 0x05 gd d a b 2]
  | .pandn gd d a b => [fmtR 0x05 gd d a b 3]
  | .pnot gd d a => [fmtR 0x05 gd d a 0 4]
  | .pget gd d a => [fmtR 0x05 gd d a 0 5]
  | .pset gd d a => [fmtR 0x05 gd d a 0 6]
  | .sel gd f d a b => [fmtR 0x06 gd d a b f]
  | .jr gd a => [fmtR 0x07 gd 0 a 0 0]
  | .jalr gd d a => [fmtR 0x07 gd d a 0 1]
  | .addi gd d a i => [fmtI 0x08 gd d a i.toNat]
  | .andi gd d a i => [fmtI 0x09 gd d a i.toNat]
  | .ori gd d a i => [fmtI 0x0A gd d a i.toNat]
  | .xori gd d a i => [fmtI 0x0B gd d a i.toNat]
  | .slli gd d a i => [fmtI 0x0C gd d a i]
  | .srli gd d a i => [fmtI 0x0D gd d a i]
  | .srai gd d a i => [fmtI 0x0E gd d a i]
  | .muli gd d a i => [fmtI 0x0F gd d a i.toNat]
  | .cmpi gd k d a i => [fmtI 0x10 gd (condCode k * 8 + d) a i.toNat]
  | .dbnz gd d i => [fmtI 0x11 gd d 0 i.toNat]
  | .br gd o => [fmtB 0x18 gd o.toNat]
  | .call gd o => [fmtB 0x19 gd o.toNat]
  | .hmov gd d a => [fmtR 0x20 gd d a 0 0]
  | .hbind gd d a b => [fmtR 0x20 gd d a b 1]
  | .hunb gd d a => [fmtR 0x20 gd d a 0 2]
  | .hchk gd d a => [fmtR 0x20 gd d a 0 3]
  | .hld gd d a i => [fmtI 0x21 gd d a i.toNat]
  | .hget gd d a f => [fmtI 0x22 gd d a f]
  | .hset gd d a f => [fmtI 0x23 gd d a f]
  | .hoff gd d a f => [fmtI 0x24 gd d a f]
  | .hslc gd d a f => [fmtI 0x25 gd d a f]
  | .ld gd d m => [fmtM 0x28 gd d m]
  | .st gd d m => [fmtM 0x29 gd d m]
  | .updAdd gd d m => [fmtM 0x2A gd d m]
  | .updMin gd d m => [fmtM 0x2B gd d m]
  | .updMax gd d m => [fmtM 0x2C gd d m]
  | .msaAdd gd d m => [fmtM 0x2D gd d m]
  | .msaMax gd d m => [fmtM 0x2E gd d m]
  | .msaMin gd d m => [fmtM 0x2F gd d m]
  | .lpin gd d m => [fmtM 0x30 gd d m]
  | .lunpin gd d m => [fmtM 0x31 gd d m]
  | .tlk gd d m => [fmtM 0x32 gd d m]
  | .tlkM gd d m => [fmtM 0x33 gd d m]
  | .tins gd d m => [fmtM 0x34 gd d m]
  | .tevc gd d a => [fmtI 0x36 gd d a 0]
  | .gld gd d a => [fmtR 0x38 gd d a 0 0]
  | .gst gd d a => [fmtR 0x38 gd d a 0 1]
  | .gswp gd d a b => [fmtR 0x38 gd d a b 2]
  | .gadd gd d a b => [fmtR 0x38 gd d a b 3]
  | .gcas gd d a b => [fmtR 0x38 gd d a b 4]
  | .semSig gd a n => [fmtI 0x3A gd 0 a n]
  | .semWait gd a n => [fmtI 0x3B gd 0 a n]
  | .semRd gd d a => [fmtR 0x3C gd d a 0 0]
  | .tkPush gd a => [fmtR 0x3D gd 0 a 0 0]
  | .tkPop gd a => [fmtR 0x3D gd 0 a 0 1]
  | .tkCnt gd d a => [fmtR 0x3D gd d a 0 2]
  | .barArv gd a => [fmtR 0x3E gd 0 a 0 0]
  | .barWait gd a => [fmtR 0x3E gd 0 a 0 1]
  | .barAra gd a => [fmtR 0x3E gd 0 a 0 2]
  | .licAcq gd => [fmtR 0x3F gd 0 0 0 0]
  | .licRel gd => [fmtR 0x3F gd 0 0 0 1]
  | .engStart gd a m => [fmtI 0x40 gd 0 a m]
  | .rdv gd => [fmtR 0x41 gd 0 0 0 0]
  | .jend gd => [fmtR 0x41 gd 0 0 0 1]
  | .bndMe gd k a => [fmtI 0x42 gd (k.val + 0) a 0]
  | .bndVe gd k a => [fmtI 0x42 gd (k.val + 16) a 0]
  | .bndCel gd k a => [fmtI 0x42 gd (k.val + 32) a 0]
  | .bndCes gd k a => [fmtI 0x42 gd (k.val + 48) a 0]
  | .fenceAcq gd e => [fmtR 0x44 gd (scopeCode e) 0 0 0]
  | .fenceRel gd e => [fmtR 0x44 gd (scopeCode e) 0 0 1]
  | .fenceFull gd e => [fmtR 0x44 gd (scopeCode e) 0 0 2]
  | .fenceMsa gd e => [fmtR 0x44 gd (scopeCode e) 0 0 3]
  | .mxRd gd d a => [fmtR 0x45 gd d a 0 0]
  | .mxWr gd d a => [fmtR 0x45 gd d a 0 1]
  | .mxClr gd d => [fmtR 0x45 gd d 0 0 2]
  | .mxUpd gd d a => [fmtR 0x45 gd d a 0 3]
  | .timeRd gd d => [fmtR 0x46 gd d 0 0 0]
  | .trap gd n => [fmtR 0x47 gd 0 n 0 0]
  | .tret gd => [fmtR 0x47 gd 0 0 0 1]
  | .brk gd n => [fmtR 0x47 gd 0 n 0 2]
  | .ctxSv gd a => [fmtR 0x47 gd 0 a 0 3]
  | .ctxLd gd a => [fmtR 0x47 gd 0 a 0 4]
  | .nop gd => [fmtR 0x47 gd 0 0 0 5]
  | .li gd d v => [fmtI 0x78 gd d 0 0, v.toNat]
  | .lih gd d a v => [fmtI 0x78 gd d a 1, v.toNat]
  | .addl gd d a v => [fmtI 0x78 gd d a 2, v.toNat]
  | .ext gd d a pos w1 => [fmtI 0x78 gd d a 3, pos.val + w1.val * 256]
  | .extu gd d a pos w1 => [fmtI 0x78 gd d a 4, pos.val + w1.val * 256]
  | .dep gd d a pos w1 => [fmtI 0x78 gd d a 5, pos.val + w1.val * 256]
  | .brl gd o => [fmtI 0x78 gd 0 0 6, o.toNat]
  | .calll gd o => [fmtI 0x78 gd 0 0 7, o.toNat]
  | .cmpl gd k d a v => [fmtI 0x78 gd (condCode k * 8 + d) a 8, v.toNat]
  | .ldOrd gd o e d m => fmtX 0 gd o e d 0 m 0 0
  | .stOrd gd o e m a => fmtX 1 gd o e 0 a m 0 0
  | .atomAdd gd o e d m a => fmtX 2 gd o e d a m 0 0
  | .atomAnd gd o e d m a => fmtX 3 gd o e d a m 0 0
  | .atomOr gd o e d m a => fmtX 4 gd o e d a m 0 0
  | .atomXor gd o e d m a => fmtX 5 gd o e d a m 0 0
  | .atomMin gd o e d m a => fmtX 6 gd o e d a m 0 0
  | .atomMax gd o e d m a => fmtX 7 gd o e d a m 0 0
  | .atomMinu gd o e d m a => fmtX 8 gd o e d a m 0 0
  | .atomMaxu gd o e d m a => fmtX 9 gd o e d a m 0 0
  | .atomSwp gd o e d m a => fmtX 10 gd o e d a m 0 0
  | .atomCas gd o e d m a b => fmtX 11 gd o e d a m b 0
  | .waddr gd k e d m a => fmtX 12 gd .acq e d a m 0 (condCode k)
  | .qClaim gd e d m a => fmtX 13 gd .acqrel e d a m 0 0
  | .qRing gd e m a => fmtX 14 gd .rel e 0 a m 0 0
  | .csrRd gd d n => [fmtI 0x7A gd d 0 0, n.val]
  | .csrWr gd n a => [fmtI 0x7A gd 0 a 1, n.val]
  | .csrSet gd d a n => [fmtI 0x7A gd d a 2, n.val]
  | .csrClr gd d a n => [fmtI 0x7A gd d a 3, n.val]
  | i =>
    match i.record? with
    | some (eng, op, r) => recWords eng op r
    | none => []

/-- The instruction or record that exactly these words encode (R171, R172, R177): one word, two for a long form, sixteen for a record. -/
def decodeWords : List Nat → Option Instr
  | [w0] => if isLong w0 then none else decodeControl w0 0
  | [w0, w1] => if isLong w0 then decodeControl w0 w1 else none
  | ws => decodeRecord ws

/-! ## Bytes and table words -/

/-- The four little-endian bytes of a word (R5). -/
def wordBytes (w : Nat) : List Byte :=
  [BitVec.ofNat 8 w, BitVec.ofNat 8 (w / 2 ^ 8), BitVec.ofNat 8 (w / 2 ^ 16), BitVec.ofNat 8 (w / 2 ^ 24)]

/-- The word of four little-endian bytes (R5). -/
def bytesWord (b0 b1 b2 b3 : Byte) : Nat := b0.toNat + b1.toNat * 2 ^ 8 + b2.toNat * 2 ^ 16 + b3.toNat * 2 ^ 24

/-- The words of a number, `n` of them, least significant first. -/
def splitWords : Nat → Nat → List Nat
  | 0, _ => []
  | n + 1, x => x % 2 ^ 32 :: splitWords n (x / 2 ^ 32)

/-- Words of a byte string, four bytes each (R5). -/
def wordsOf : List Byte → List Nat
  | b0 :: b1 :: b2 :: b3 :: r => bytesWord b0 b1 b2 b3 :: wordsOf r
  | _ => []

/-- The instruction of bits numbered as spec/opcode_table.json numbers them: control words for up to 64 bits, a record else.
The bytes are laid out as the core stores them and read back as it fetches them (R5, R82). -/
def decodeTableWord (nbits w : Nat) : Option Instr :=
  if nbits ≤ 64 then
    match wordsOf ((splitWords 2 w).flatMap wordBytes) with
    | [w0, w1] => decodeControl w0 w1
    | _ => none
  else decodeRecord (wordsOf ((splitWords 16 w).flatMap wordBytes))

end Sys2Proof
end

