-- ==== Sys2Proof/Machine/State.lean ====
section
/-! DEFINITION. The machine's state as plain data, the reasons a step can stop, and the machine right after reset. Every piece of
state the spec names is here (INVENTORY.md, State); a finite table lists only the entries that differ from what reset leaves. -/
namespace Sys2Proof.Machine

/-- A finite table: key and value, keys rising; a key not listed reads as the default given at the look-up. -/
abbrev Tbl (α : Type) := List (Nat × α)

/-- A tensor handle: words w0-w7 (R26). -/
abbrev Handle := BitVec 256

/-- Trap causes (R361). -/
inductive Cause where
  | illegal | priv | format | bounds | translation | permission | race | align | queueTimeout | licenceDisabled
  | recordIllegal | divergence | uncorrectable | collectivePartial | gangAbort | tokenExpired | key | brk | step | preempt
  | powerDenied
  | syscall (n : Fin 64)
deriving DecidableEq, Repr, Inhabited

/-- The bounded record of release counts that an agent or an edge carries (R118). -/
structure Frontier where
  ents : List (Nat × Nat)
  sat  : Bool
deriving DecidableEq, Repr, Inhabited

/-- A pair and a frontier handed on by a release side (R118). -/
structure Pass where
  agent : Nat
  rc    : Nat
  fr    : Frontier
deriving DecidableEq, Repr, Inhabited

/-- A release as its location or a reader carries it: who released, at which scope, and what of the location's frontier is its own
(R109, R118). -/
structure Rel where
  agent : Nat
  scope : Scope
  fr    : Frontier
deriving DecidableEq, Repr, Inhabited

/-- The clock of an agent: release count, frontier, CLR and generation views by level (R117, R118). -/
structure Clock where
  rc    : Nat
  fr    : Frontier
  clr   : List (Option Nat)
  views : List Nat
deriving DecidableEq, Repr, Inhabited

/-- The phase stamp of a granule copy (R119). -/
structure Stamp where
  dom    : Nat
  gen    : Nat
  wValid : Bool
  wAgent : Nat
  wRc    : Nat
  shared : Bool
  rd     : List (Nat × Nat)
deriving DecidableEq, Repr, Inhabited

/-- A 512-bit layout entry. -/
abbrev Entry := Nat

/-- An element's location after steps 1 to 9 of R35: permuted offset or device-virtual address, and what the access needs. -/
structure Place where
  space  : Nat
  lt     : Nat
  tag    : Nat
  addr   : Nat
  raw    : Nat
  nib    : Option Bool
  bytes  : Nat
  entry  : Entry
  abs    : List Nat
deriving DecidableEq, Repr, Inhabited

/-- A location: a place with its flat address and view, and the context it was translated under. -/
structure Loc where
  p    : Place
  flat : Nat
  view : Option (Nat × Nat)
  ctx  : Nat
deriving DecidableEq, Repr, Inhabited

/-- Where an access that awaits the host goes: its location in the flat map, its context and its address there (R403). All 0: none. -/
structure Spot where
  flat : Nat
  ctx  : Nat
  va   : Nat
deriving DecidableEq, Repr, Inhabited

/-- The state codes of STREAM_STATE (R149). -/
inductive SState where | idle | run | wait | trap | halt
deriving DecidableEq, Repr, Inhabited

/-- What a stream in WAIT waits for (R155); the arguments let the wait's end apply the effect. -/
inductive Wait where
  | none
  | queue (k : Nat) (push : Bool)
  | token (k : Nat) (push : Bool)
  | sem (k n : Nat) (signal : Bool)
  | entry
  | addr (h d a : Nat) (k : Cond) (e : Scope) (l : Loc)
  | barrier (g half t : Nat)
  | licence (acq : Bool)
  | denied
  | reservation
  | rdv
  | own (what : Nat)
  | order
  | pull (slot : Nat)
  | vote
  | clock
  | gang
  | other
deriving DecidableEq, Repr, Inhabited

/-- The part of the state every stream has (R148-R152, R118, R155, R367). `relF` is the widest scope of its release fences, `seen` what
its relaxed reads saw (R111). -/
structure Strm where
  st    : SState
  inJob : Bool
  job   : Leader
  pc    : Nat
  mt    : Nat
  pstop : Bool
  wait  : Wait
  since : Nat
  clk   : Clock
  relF  : Option Scope
  seen  : List Rel
deriving DecidableEq, Repr, Inhabited

/-- Who started a leader, for the report of its end (R334). -/
inductive Starter where
  | none
  | cp (tower queue slot : Nat)
  | mbs (stage cls tag : Nat)
deriving DecidableEq, Repr, Inhabited

/-- A request that awaits its answer: its number, when it was made, whether it has left (it has not while the host's link is down), and where
it goes: all 0 for another module. -/
structure Ask where
  id    : Nat
  since : Nat
  sent  : Bool
  sp    : Spot
deriving DecidableEq, Repr, Inhabited

/-- The answer that has come for an access under way (R220, R403). The checks of one to the host have passed. `got` are the host's elements
that the same beat or issue has obtained before. -/
inductive Answer where
  | none
  | asked (q : Ask) (got : List Spot)
  | host (sp : Spot) (r : HostReply) (got : List Spot)
  | remote (status : Nat)
deriving DecidableEq, Repr, Inhabited

/-- A register that an instruction names: of a control core's files (R192), an amax register (R235), a gusset (R134). -/
inductive RegName where
  | s (n : SReg)
  | p (n : PReg)
  | h (n : HReg)
  | m (n : MxIx)
  | g (n : GReg)
deriving DecidableEq, Repr, Inhabited

/-- Where an uncorrectable error can arise outside the levels of R72 (R378): a register of a control core, a bound register of a sequencer,
an amax register, a gusset, an element of an operand queue, or module state that no stream consumes. -/
inductive Upset where
  | reg (c : CoreId) (l : Leader) (r : RegName)
  | bound (c : CoreId) (e : Eng) (k : Fin 16)
  | amax (c : CoreId) (k : MxIx)
  | gusset (p : PairId) (k : GReg)
  | queue (c : CoreId) (k : Fin 6) (n : Fin 16)
  | module
deriving DecidableEq, Repr, Inhabited

/-- A control core (chapters 8, 9 and 14). `bad` are the registers that hold an uncorrectable error (R378). -/
structure Ctl where
  s        : Tbl Word
  p        : Tbl Bool
  h        : Tbl Handle
  tvec     : Word
  tcause   : Word
  tpc      : Word
  tinfo    : Word
  tscratch : Word
  priv     : Bool
  ppriv    : Bool
  inh      : Bool
  step     : Bool
  araV     : Bool
  araG     : Nat
  araPc    : Nat
  arr      : Tbl Bool
  ticket   : Tbl Nat
  pendPre  : Bool
  pendEng  : List Nat
  pendGang : Option Nat
  pendDiv  : Option Nat
  starter  : Starter
  ans      : Answer
  inTrap   : Bool
  rdvF     : Frontier
  held     : Option Instr
  bad      : List RegName
deriving DecidableEq, Repr, Inhabited

/-- Gates a record passes (R357, R127). -/
inductive Phase where | head | entry | read | check | licence | reserve | issue | complete
deriving DecidableEq, Repr, Inhabited

/-- What an issue writes once it leaves its engine (R268, R369): accumulator bytes, a unit's tag, an element's code at a location, an amax
update, and the issue's flags and generator. -/
inductive Dest where
  | acc (off : Nat) (bs : List Byte)
  | tag (unit tag : Nat)
  | mem (l : Loc) (code : Nat)
  | amax (k : Nat) (u : Word)
  | flags (ve : Bool) (bits : Nat)
  | rng (ve : Bool) (g : Word)
deriving DecidableEq, Repr, Inhabited

/-- A result inside an engine, in flight or dumped: its stream, its destination, its remaining latency, the layout entry whose pin the
dump holds, and the number of its issue (R268, R369). -/
structure Result where
  stream : Nat
  dest   : Dest
  lat    : Nat
  pin    : Option Nat
  iss    : Nat
deriving DecidableEq, Repr, Inhabited

/-- The record at a sequencer (R127, R153, R205, R268, R299, R330). `pass` is what completion actions that were held back hand on;
`undo` the stamps that the reads of a PEER beat under way changed: the copy's tower, none for the home, the granule, the stamp before and
after (R125). -/
structure Run where
  instr : Instr
  pc    : Nat
  phase : Phase
  tc    : List Nat
  n     : Nat
  beat  : Nat
  hs    : List Handle
  cmpf  : Word
  bval  : Nat
  carry : List Nat
  qpos  : List Nat
  status : Nat
  bytes : Nat
  total : Nat
  miss  : List Nat
  acted : Nat
  held  : Nat
  acks  : List Nat
  noteId : Nat
  views : List Nat
  clr   : List (Option Nat)
  ans   : Answer
  flagLoc : Option Loc
  pass  : Option Pass
  undo  : List (Option Nat × Nat × Stamp × Stamp)
deriving DecidableEq, Repr, Inhabited

/-- A sequencer (R148, R153, R305, R366). `bad` are the bound registers that hold an uncorrectable error (R378). -/
structure Seq where
  b      : Tbl Nat
  cmpf   : Word
  tCause : Nat
  tValid : Bool
  tPc    : Nat
  tBeat  : Nat
  rst    : List Nat
  tInfo  : Word
  run    : Option Run
  defer  : List Run
  bad    : List Nat
deriving DecidableEq, Repr, Inhabited

/-- An element of an operand queue (R130); `bad`: it holds an uncorrectable error (R378). -/
structure QElem where
  bytes : List Byte
  tag   : Nat
  pass  : Pass
  bad   : Bool
deriving DecidableEq, Repr, Inhabited

/-- A message slot's state (R317, R318). -/
inductive SlotSt where | free | announced | sending | withdrawn
deriving DecidableEq, Repr, Inhabited

/-- A pull token held: its receiver, chunk and expiry time (R319). -/
structure Tok where
  src : Nat
  n   : Nat
  ex  : Nat
deriving DecidableEq, Repr, Inhabited

/-- A message slot (R317, R385). Slots 16 and 17 are the multicasts of CEL and CES, which name no slot (notes/assumptions/27.md). `prefixN` is
the position at which chunk 0 begins, `base` the position at which the standing announcement begins (R330). `ids` are the INTENTs that no
ACK has answered: number, destination, time. -/
structure Slot where
  st      : SlotSt
  stream  : Nat
  mods    : List Nat
  len     : Nat
  prio    : Nat
  bucket  : Option Nat
  coll    : Bool
  flag    : Option RemoteAcc
  prefixN : Nat
  base    : Nat
  moved   : Nat
  sent    : List Nat
  tokens  : List Tok
  epoch   : Nat
  susp    : Bool
  ids     : List (Nat × Nat × Nat)
  resend  : List (Nat × Nat)
deriving DecidableEq, Repr, Inhabited

/-- The header of a B bank (R251). -/
structure Bank where
  k    : Nat
  n    : Nat
  tag  : Nat
  kind : Nat
deriving DecidableEq, Repr, Inhabited

/-- A core. `mxBad` are the amax registers that hold an uncorrectable error (R378); `licReq`: the licence request that a resume made stands
(R372). -/
structure Core where
  strm    : Tbl Strm
  lcc     : Ctl
  ccc     : Ctl
  seqs    : Tbl Seq
  tk      : Tbl (List Pass)
  sem     : Tbl (Nat × Frontier)
  q       : Tbl (List QElem)
  mx      : Tbl Word
  mxBad   : List Nat
  ttCfg   : Word
  tt      : Tbl Word
  rr      : Tbl Nat
  loading : Nat
  ovl     : Tbl Nat
  undef   : Tbl Nat
  ascLtb  : Word
  ascRoot : Word
  race0   : Word
  race1   : Word
  meFlags : Nat
  lent    : Nat
  unitTag : Tbl Nat
  banks   : Tbl Bank
  veFlags : Nat
  rngMe   : Word
  rngVe   : Word
  collInfo : Word
  seamH1  : Word
  seamH2  : Word
  seamN   : Nat
  reqSeq  : Nat
  slots   : Tbl Slot
  qtmo    : Nat
  busy    : Bool
  stopReq : Bool
  licHeld : Bool
  licReq  : Bool
  saved   : Bool
  dump    : List Result
  flight  : List Result
  sels    : Tbl Word
  scyc    : Word
  scycFr  : Nat
  haltSc  : Option Nat
deriving DecidableEq, Repr, Inhabited

/-- Licence states (R156). -/
inductive Lic where | free | held | releasing | handover | disabled
deriving DecidableEq, Repr, Inhabited

/-- A twin pair (R134, R135, R156, R157). `who` is the level that holds, releases or receives the licence; `gBad` the gussets that hold an
uncorrectable error (R378). -/
structure Pair where
  lic    : Lic
  who    : Nat
  want   : List Nat
  last   : Nat
  disable : Bool
  g      : Tbl (Word × Option Pass)
  ownV   : Bool
  ownCtx : Nat
  gBad   : List Nat
deriving DecidableEq, Repr, Inhabited

/-- A current reservation request or grant of a power cluster: when it arrived, and the sixteenths of cycles it has waited (R411). -/
structure Resv where
  core   : Nat
  stream : Nat
  units  : Nat
  since  : Nat
  cyc    : Nat
deriving DecidableEq, Repr, Inhabited

/-- A power cluster (R411, R420). -/
structure Cluster where
  budget : Nat
  held   : List Resv
  wants  : List Resv
  last   : Nat
deriving DecidableEq, Repr, Inhabited

/-- States of a stash object (R312). -/
inductive ObjSt where | kept | offloaded | dropped | incomplete
deriving DecidableEq, Repr, Inhabited

/-- A stash object (R312-R315, R355). -/
structure Obj where
  st     : ObjSt
  goal   : ObjSt
  tag    : Nat
  len    : Nat
  held   : Nat
  weight : Nat
  order  : Nat
  image  : List Byte
  core   : Nat
  stream : Nat
deriving DecidableEq, Repr, Inhabited

/-- A compute die: clock, the start of its transition, thermal hold and bobbin (R408, R414, R420, R353). -/
structure Die where
  req     : Nat
  cur     : Nat
  tgt     : Nat
  lim     : Nat
  busy    : Bool
  hold    : Bool
  cool    : Nat
  since   : Nat
  keepBase : Nat
  keepSize : Nat
  spillBase : Nat
  spillSize : Nat
  thr     : Word
  objs    : Tbl Obj
  nextObj : Nat
  clk     : Clock
deriving DecidableEq, Repr, Inhabited

/-- A guest line of a tower's L2 (R86-R88); the view it was filled under is the key and tweak of its first 64 bytes (R99). `rels` are the
releases whose values the copy holds, by byte offset (R109). -/
structure GLine where
  bytes : List Byte
  dirty : Nat
  stale : Bool
  pins  : Nat
  stamp : Option Stamp
  view  : Option (Nat × Nat)
  rels  : Tbl (List Rel)
deriving DecidableEq, Repr, Inhabited

/-- Operations of updates and memory-side requests (R90, R96). -/
inductive UOp where | add | min | max
deriving DecidableEq, Repr, Inhabited

/-- An update-only line (R89): byte offset and value of each touched element. -/
structure ULine where
  op   : UOp
  tag  : Nat
  view : Option (Nat × Nat)
  vals : Tbl Nat
deriving DecidableEq, Repr, Inhabited

/-- A memory-side request in flight: the touched elements of one line, by byte offset (R96). `id` orders requests; `issue` is the step
that sent it, `via` the context and the line's address there. -/
structure MsaReq where
  id    : Nat
  issue : Nat
  core  : Nat
  line  : Nat
  op    : UOp
  tag   : Nat
  vals  : Tbl Nat
  view  : Option (Nat × Nat)
  via   : Nat × Nat
deriving DecidableEq, Repr, Inhabited

/-- A packet consumed and not retired (R340-R342, R344): its CIX, its ring slot, its words, the status it completed with, the leaders
still running, how far complete(p, st) has acted (`step`: 1 word 0 is written, 2 the signal is made), and whether it has. `gang` is 0 for none, 1 awaiting the decision, 2 committed, 3 aborted, 4 awaiting
the start of its leaders; 5 is a packet that completes as it is served, which CIX has not passed (R340). -/
structure Pkt where
  slot    : Nat
  pos     : Nat
  words   : List Word
  done    : Bool
  step    : Nat
  status  : Option Nat
  waiting : List (Nat × Leader)
  faulted : Bool
  gang    : Nat
  sent    : Nat
deriving DecidableEq, Repr, Inhabited

/-- Where a command processor stands with a queue (R336, R340): not serving it, held while it serves, or held while it enables it. -/
inductive QHold where | idle | serving | enabling
deriving DecidableEq, Repr, Inhabited

/-- A queue descriptor of a command processor (R336), and the answer of its access under way (R403). -/
structure Cpq where
  w0    : Word
  ltb   : Word
  root  : Word
  bell  : Bool
  perr  : Bool
  cause : Nat
  cix   : Nat
  fly   : List Pkt
  notify : Nat
  hold   : QHold
  ans    : Answer
deriving DecidableEq, Repr, Inhabited

/-- Thermal pair of a tower (R414, R421). -/
structure ThPair where
  lo : Nat
  up : Nat
deriving DecidableEq, Repr, Inhabited

/-- A tower: L2, caches, command processor and thermal state. -/
structure Tower where
  guest   : Tbl GLine
  homePin : Tbl Nat
  upd     : Tbl ULine
  tcache  : Tbl (Nat × Nat)
  lcache  : Tbl Nat
  cpq     : Tbl Cpq
  cpClk   : Clock
  thData  : Tbl ThPair
  thStat  : Word
  dtCool  : Tbl Nat
  notices : List Nat
deriving DecidableEq, Repr, Inhabited

/-- A page being retired or moved (R40, R41); `ltb` is its context's layout table as the command found it. -/
structure Closing where
  ctx    : Nat
  va     : Nat
  size   : Nat
  leaf   : Nat
  frozen : Bool
  ltb    : Nat
deriving DecidableEq, Repr, Inhabited

/-- A barrier group (R161). -/
structure Group where
  cfg    : Word
  mask   : Tbl Word
  gen    : Nat
  count  : Nat
  merged : Frontier
  done   : Frontier
  refused : Bool
  sentUp : Bool
deriving DecidableEq, Repr, Inhabited

/-- A barrier-tree entry (R390). -/
structure Fbt where
  cfg     : Word
  arrived : List Nat
deriving DecidableEq, Repr, Inhabited

/-- An entry of an arrival queue: tag, arrival time, inbound channel, and what the enqueue handed on (R346, R349). -/
structure QEnt where
  tag   : Nat
  since : Nat
  chan  : Option Nat
  pass  : Pass
deriving DecidableEq, Repr, Inhabited

/-- A job of (tag, class) that the scheduler started: leaders not yet ended (R349). -/
structure MbsJob where
  cls  : Nat
  tag  : Nat
  left : List (Nat × Leader)
  chan : Option Nat
deriving DecidableEq, Repr, Inhabited

/-- A stage of the microbatch scheduler (R345-R350). -/
structure Stage where
  w       : Tbl Word
  queues  : Tbl (List QEnt)
  ready   : Nat
  newest  : Nat
  binds   : Tbl Nat
  lastF   : Option Nat
  jobs    : List MbsJob
deriving DecidableEq, Repr, Inhabited

/-- A stage channel (R352). -/
structure Chan where
  w0   : Word
  w1   : Word
  infl : Nat
deriving DecidableEq, Repr, Inhabited

/-- A start that waits for its leader (R333). `gang` keeps the leader in WAIT at PC (R344). -/
structure Start where
  core    : Nat
  lead    : Leader
  pc      : Nat
  mt      : Nat
  args    : List Word
  ctx     : Option (Word × Word)
  starter : Starter
  gang    : Bool
  pass    : Pass
deriving DecidableEq, Repr, Inhabited

/-- A gang at this module: the modules heard from, and when the first of them was (R344). -/
structure Gang where
  id     : Nat
  from'  : List Nat
  start  : Option Nat
deriving DecidableEq, Repr, Inhabited

/-- An intent at the grant scheduler (R386): the chunks not yet granted, the tokens outstanding, and in `got` the chunks whose header was
accepted. -/
structure Intent where
  id      : MsgId
  len     : Nat
  prio    : Nat
  bucket  : Option Nat
  wanted  : List Nat
  tokens  : List (Nat × Nat)
  susp    : Bool
  lost    : Nat
  got     : List Nat
  last    : Nat
  coll    : Bool
  flag    : Option RemoteAcc
deriving DecidableEq, Repr, Inhabited

/-- A chunk-table entry (R325). -/
structure Chunk where
  map      : Nat
  conflict : Bool
deriving DecidableEq, Repr, Inhabited

/-- A link's lane (R393). -/
structure Lane where
  weak   : Bool
  bad    : Nat
  margin : Nat
  cerr   : Nat
deriving DecidableEq, Repr, Inhabited

/-- A Noweone link (R382, R393-R395). -/
structure Link where
  st      : Nat
  lanes   : Tbl Lane
  spared  : Nat
  retrain : Nat
  replays : Nat
  propose : Option (Nat × Nat)
  swapAt  : Option (Nat × Nat)
  txSwap  : Option (Nat × Nat)
deriving DecidableEq, Repr, Inhabited

/-- A remote access sent and not acknowledged (R137, R316). -/
structure Sent where
  id     : Nat
  core   : Nat
  stream : Nat
  module : Nat
  since  : Nat
deriving DecidableEq, Repr, Inhabited

/-- An arrival from another module that waits to perform, as at a frozen page (R41, R137). `landing` is what a write of several elements has
still to write, its checks made and its acknowledgements to be sent after the last (R105). -/
inductive Held where
  | landing (sender : Nat) (els : List (Loc × Nat)) (acks : List (Nat × Nat))
  | write (m : RemoteAcc)
  | atomic (m : RemoteAcc) (op : Nat) (x y : Word)
  | chunk (i : MsgId) (n : Nat) (p : ChunkInfo)
deriving DecidableEq, Repr, Inhabited

/-- A host access that waits (R404, R440). -/
inductive HostReq where
  | write (off : Nat) (bs : List Byte) (relaxed : Bool)
  | read (off n : Nat)
  | atomic (off : Nat) (op : HostAtomic) (wide : Bool) (x y : Word)
  | cxlWrite (off : Nat) (bs : List Byte)
  | cxlRead (off n : Nat)
deriving DecidableEq, Repr, Inhabited

/-- An event of the order log (R436): an act in the order of its object, a value returned, an arrival with its payload. -/
inductive RepEv where
  | order (key agent : Nat)
  | value (agent v : Nat)
  | remote (h : Held)
  | host (q : HostReq)
deriving DecidableEq, Repr, Inhabited

/-- What leaves the module, by a link where the state's `outbox` names one (R384; notes/assumptions/15.md). `ring`: it belongs to a `fab.coll`
or a `fab.seam`. A multicast's part names the members it goes to, each with the number that its ACK carries (R389). -/
inductive Msg where
  | remoteWrite (module : Nat) (m : RemoteAcc)
  | remoteAtomic (module : Nat) (m : RemoteAcc) (op : Nat) (x y : Word)
  | ack (module id status : Nat) (ring : Bool)
  | intent (module core slot epoch : Nat) (n : IntentInfo)
  | grant (id : MsgId) (n expiry : Nat)
  | chunk (module core slot epoch n : Nat) (p : ChunkInfo)
  | mcast (mods : List (Nat × Nat)) (core slot epoch n : Nat) (p : ChunkInfo)
  | returnTok (module core slot epoch n : Nat)
  | suspend (module core slot epoch : Nat) (ns : List Nat)
  | cancel (module core slot epoch : Nat)
  | withdraw (id : MsgId) (ring : Bool)
  | arrive (module group gen : Nat)
  | complete (module group gen : Nat)
  | prepared (module group id : Nat)
  | decision (module group id : Nat) (commit : Bool)
  | vote (module : Nat) (v : VoteInfo)
  | result (module step : Nat) (d : VoteDecision) (mask : Nat)
  | lanePropose (link lane q : Nat)
  | laneAck (link lane q : Nat)
  | laneNak (link lane q : Nat)
  | credit (module chan id : Nat)
  | time (t : Word)
  | hostWrite (bus : Nat) (bytes : List Byte) (release : Bool)
  | hostRequest (bus n : Nat) (atomic : Bool)
  | hostReply (bytes : List Byte)
  | hostUnsupported
  | msix (vector : Nat)
  | backInval (line : Nat)
  | debug (module op : Nat) (a0 a1 : Word)
  | debugReply (module result : Nat) (data : Option Word)
deriving DecidableEq, Repr, Inhabited

/-- What the microbatch scheduler still has to do with CREDIT words: store the window, add a credit that came as message `id`, give one back
(R352). -/
inductive MbsAct where
  | window (chan : Nat)
  | credit (chan src id : Nat)
  | giveBack (chan : Nat)
deriving DecidableEq, Repr, Inhabited

/-- What moves next (notes/assumptions/1.md). -/
inductive Act where
  | stream (c : CoreId) (x : Stream)
  | event (i : Instr)
  | tick (n : Nat)
  | evict (t : TowerId) (line : Nat)
  | land (c : CoreId)
  | upset (u : Upset)
deriving DecidableEq, Repr, Inhabited

/-- A checkpoint image or an increment: cores, module state, and the bytes of WSS, SPM, instruction and accumulator memory, B banks
and marked frames (R424, R435; notes/assumptions/13.md). -/
structure ModImage where
  cores    : Tbl Core
  frames   : List Nat
  slabs    : List Nat
  mem      : List Host.Cell
  crypt    : Tbl (Nat × Nat)
  pairs    : Tbl Pair
  dies     : Tbl Die
  towers   : Tbl Tower
  stages   : Tbl Stage
  rules    : Tbl Word
  chans    : Tbl Chan
  chunks   : Tbl Chunk
  intents  : List Intent
  bpri     : Tbl Nat
  maxTok   : Nat
  groups   : Tbl Group
  fbt      : Tbl Fbt
  dgen     : Tbl Nat
  ctxSide  : Tbl Core
  mcg      : Tbl Word
  slt      : Tbl Word
  sltAct   : Nat
  sltSwap  : Bool
  pins     : Tbl Nat
  dmr      : Word
  fabRing  : Word
  peerCtx  : Word
  hwinBase : Word
  hwinCtl  : Word
  hwinRoot : Word
  pwrCap   : Word
  pcls     : Tbl Word
  thCtl    : Word
  xltArg0  : Word
  xltArg1  : Word
  xltBusy  : Bool
  xltRes   : Nat
  xltOver  : Bool
  xltCmd   : Option (Nat × Nat)
  closing  : List Closing
deriving DecidableEq, Repr, Inhabited

/-- Bytes of memory whose values are open: what stands there was written in a layout that the spec does not give (R424, R435;
notes/assumptions/13.md). Byte `k` of the range is the free byte `off + k` of draw `seed`. -/
structure OpenMem where
  start : Nat
  len   : Nat
  seed  : Nat
  off   : Nat
deriving DecidableEq, Repr, Inhabited

/-- The machine. -/
structure State where
  -- the model's own fields (notes/assumptions/1.md, 2.md, 7.md)
  agenda   : List Act
  cur      : Nat × Stream
  freeCtr  : Nat
  outbox   : List (Option Nat × Msg)
  linkWait : List Msg
  msgNext  : Nat
  sent     : List Sent
  -- power, time
  powered  : Bool
  time     : Nat
  slew     : Int
  -- memory
  mem      : List Host.Cell
  crypt    : Tbl (Nat × Nat)
  marks    : List (Nat × Nat)
  cover    : Tbl (Nat × Nat)
  stamps   : Tbl Stamp
  claims   : Tbl (Nat × Nat)
  locs     : Tbl (List Rel)
  dgen     : Tbl Nat
  msa      : List MsaReq
  msaNext  : Nat
  keys     : Tbl Nat
  keyOut   : List Nat
  pins     : Tbl Nat
  -- units
  cores    : Tbl Core
  ctxSide  : Tbl Core
  pairs    : Tbl Pair
  clusters : Tbl Cluster
  dies     : Tbl Die
  towers   : Tbl Tower
  groups   : Tbl Group
  fbt      : Tbl Fbt
  links    : Tbl Link
  -- translation unit
  xltArg0  : Word
  xltArg1  : Word
  xltBusy  : Bool
  xltRes   : Nat
  xltOver  : Bool
  xltCmd   : Option (Nat × Nat)
  closing  : List Closing
  -- domains
  dmr      : Word
  -- microbatch scheduler and launch
  stages   : Tbl Stage
  rules    : Tbl Word
  chans    : Tbl Chan
  mbsClk   : Clock
  mbsHeld  : List MbsAct
  mbsAns   : Answer
  mbsSent  : List (Nat × Nat × Nat)
  starts   : List Start
  gangs    : Tbl (List Gang)
  decided  : Tbl (List (Nat × Bool))
  jflush   : List (Nat × Leader)
  -- fabric
  chunks   : Tbl Chunk
  intents  : List Intent
  begun    : List (MsgId × Nat)
  collIn   : List (MsgId × Nat × List (Word × RemoteAcc))
  peers    : List (Nat × Nat × Nat)
  bpri     : Tbl Nat
  maxTok   : Nat
  wdraw    : Nat
  lastM    : Nat
  mcg      : Tbl Word
  fabRing  : Word
  votes    : List VoteInfo
  voting   : Option (Nat × Nat × Nat × Nat)
  voteRes  : Tbl (Nat × VoteDecision × Nat)
  lnkCtl   : Word
  slt      : Tbl Word
  sltAct   : Nat
  sltSwap  : Bool
  egrRate  : Nat
  peerCtx  : Word
  rmtClk   : Tbl Clock
  held     : List (Word × Held)
  -- host port
  hostLink : Word
  hwinBase : Word
  hwinCtl  : Word
  hwinRoot : Word
  hregLog  : Word
  hostClk  : Clock
  ckptClk  : Clock
  hostLog  : Nat
  hostHeld : List HostReq
  hostHold : List Nat
  hostDev  : List Nat
  msixTbl  : Tbl Word
  msixPend : Nat
  -- power and temperature
  pwrFuse  : Word
  pwrCap   : Word
  pwrStat  : Word
  govNext  : Nat
  pcls     : Tbl Word
  thCtl    : Word
  -- checkpoint, trace, debug, replay, errors
  ckptCtl  : Word
  ckptMap  : Word
  ckptStat : Word
  ckptImg  : Option ModImage
  ckptGot  : List Nat
  imgKey   : Option Nat
  openMem  : List OpenMem
  tsync    : Word
  trcCtl   : Word
  trcWho   : Nat × Word × Word
  trcStat  : Word
  trcSeq   : Tbl Nat
  trcQ     : List (Nat × Nat × Nat)
  setters  : Tbl (Nat × Nat)
  dbgCtl   : Word
  dbgArg0  : Word
  dbgArg1  : Word
  dbgBusy  : Bool
  dbgRes   : Nat
  dbgOver  : Bool
  dbgData  : Word
  dbgWait  : Option (Nat × Nat)
  haltAt   : Option Nat
  replay   : Word
  repLog   : List (Nat × RepEv)
  repIncs  : List (Nat × ModImage)
  repNext  : Nat
  repAt    : Nat
  repBusy  : Bool
  errs     : Tbl Word
  modBad   : Bool
deriving DecidableEq, Repr, Inhabited

/-- Why the machine stops. -/
inductive Fault where
  /-- Raised by `step` and by every meaning but POWER_ON when the module has lost all power (R95, R429): nothing runs. Safe. -/
  | unpowered
deriving DecidableEq, Repr

/-- Why the model gives no meaning. -/
inductive Refusal where
  /-- Raised by the arm of an instruction that has no meaning yet, under its mnemonic. Safe. -/
  | notModelled (mnemonic : String)
deriving DecidableEq, Repr

/-- The result of a meaning. -/
abbrev Out := Host.Outcome State Fault Refusal

/-! ## Reset values -/

def Frontier.empty : Frontier := ⟨[], false⟩
def Clock.reset : Clock := ⟨0, .empty, [none, none, none, none, none, none, none], [0, 0, 0, 0, 0, 0, 0]⟩
def Stamp.reset : Stamp := ⟨0, 0, false, 0, 0, false, []⟩
/-- A stream after reset: IDLE, in no job, `mt` unbound (R149, R152); PC: notes/assumptions/4.md. -/
def Strm.reset : Strm := ⟨.idle, false, .lcc, 0, 0xFFF, false, .none, 0, Clock.reset, none, []⟩
/-- A control core after reset: supervisor level, INH = 1 (R363). -/
def Ctl.reset : Ctl where
  s := []
  p := []
  h := []
  tvec := 0
  tcause := 0
  tpc := 0
  tinfo := 0
  tscratch := 0
  priv := true
  ppriv := false
  inh := true
  step := false
  araV := false
  araG := 0
  araPc := 0
  arr := []
  ticket := []
  pendPre := false
  pendEng := []
  pendGang := none
  pendDiv := none
  starter := .none
  ans := .none
  inTrap := false
  rdvF := .empty
  held := none
  bad := []
/-- A handle register after reset: TAG 0xFFF, all else 0 (R26). -/
def Handle.reset : Handle := BitVec.ofNat 256 (0xFFF * 2 ^ 50)
def Seq.reset : Seq := ⟨[], 0, 0, false, 0, 0, [0, 0, 0, 0], 0, none, [], []⟩
def Slot.reset : Slot := ⟨.free, 0, [], 0, 0, none, false, none, 0, 0, 0, [], [], 0, false, [], []⟩
/-- A core after reset. -/
def Core.reset : Core where
  strm := []
  lcc := Ctl.reset
  ccc := Ctl.reset
  seqs := []
  tk := []
  sem := []
  q := []
  mx := []
  mxBad := []
  ttCfg := 0
  tt := []
  rr := []
  loading := 0
  ovl := []
  undef := []
  ascLtb := 0
  ascRoot := 0
  race0 := 0
  race1 := 0
  meFlags := 0
  lent := 0
  unitTag := []
  banks := []
  veFlags := 0
  rngMe := 0
  rngVe := 0
  collInfo := 0
  seamH1 := 0
  seamH2 := 0
  seamN := 0
  reqSeq := 0
  slots := []
  qtmo := 0
  busy := false
  stopReq := false
  licHeld := false
  licReq := false
  saved := false
  dump := []
  flight := []
  sels := []
  scyc := 0
  scycFr := 0
  haltSc := none
/-- A twin pair after reset: licence FREE, LAST = 1 (R156). -/
def Pair.reset : Pair := ⟨.free, 0, [], 1, false, [], false, 0, []⟩
def Cluster.reset : Cluster := ⟨0, [], [], 0⟩
def Die.reset : Die where
  req := 12
  cur := 12
  tgt := 12
  lim := 12
  busy := false
  hold := false
  cool := 0
  since := 0
  keepBase := 0
  keepSize := 0
  spillBase := 0
  spillSize := 0
  thr := 0xF0C080
  objs := []
  nextObj := 0
  clk := Clock.reset
def Cpq.reset : Cpq := ⟨0, 0, 0, false, false, 0, 0, [], 0, .idle, .none⟩
def Tower.reset : Tower := ⟨[], [], [], [], [], [], Clock.reset, [], 0, [], []⟩
def Group.reset : Group := ⟨0, [], 0, 0, .empty, .empty, false, false⟩
def Fbt.reset : Fbt := ⟨0, []⟩
def Stage.reset : Stage := ⟨[], [], 0, 0, [], none, []⟩
def Chan.reset : Chan := ⟨0, 0, 0⟩
def Lane.reset : Lane := ⟨false, 0, 0, 0⟩
def Link.reset : Link := ⟨0, [], 0xF, 0, 0, none, none, none⟩

/-- The machine right after reset. -/
def State.reset : State where
  agenda := []
  cur := (0, .lcc)
  freeCtr := 0
  outbox := []
  linkWait := []
  msgNext := 0
  sent := []
  powered := true
  time := 0
  slew := 0
  mem := []
  crypt := []
  marks := []
  cover := []
  stamps := []
  claims := []
  locs := []
  dgen := []
  msa := []
  msaNext := 0
  keys := []
  keyOut := []
  pins := []
  cores := []
  ctxSide := []
  pairs := []
  clusters := []
  dies := []
  towers := []
  groups := []
  fbt := []
  links := []
  xltArg0 := 0
  xltArg1 := 0
  xltBusy := false
  xltRes := 0
  xltOver := false
  xltCmd := none
  closing := []
  dmr := 0
  stages := []
  rules := []
  chans := []
  mbsClk := Clock.reset
  mbsHeld := []
  mbsAns := .none
  mbsSent := []
  starts := []
  gangs := []
  decided := []
  jflush := []
  chunks := []
  intents := []
  begun := []
  collIn := []
  peers := []
  bpri := []
  maxTok := 256
  wdraw := 0
  lastM := 1023
  mcg := []
  fabRing := BitVec.ofNat 64 (100 * 2 ^ 36)
  votes := []
  voting := none
  voteRes := []
  lnkCtl := BitVec.ofNat 64 (4096 + 24 * 2 ^ 32 + 2 ^ 40)
  slt := []
  sltAct := 0
  sltSwap := false
  egrRate := Config.egrRateMax
  peerCtx := 0
  rmtClk := []
  held := []
  hostLink := BitVec.ofNat 64 (2 ^ 11 + 2 ^ 12)
  hwinBase := 0
  hwinCtl := 0
  hwinRoot := 0
  hregLog := 0
  hostClk := Clock.reset
  ckptClk := Clock.reset
  hostLog := 0
  hostHeld := []
  hostHold := []
  hostDev := []
  msixTbl := []
  msixPend := 0
  pwrFuse := BitVec.ofNat 64 (Config.avgMax + Config.pkMax * 2 ^ 16 + Config.tjMax * 2 ^ 32 + Config.dtMax * 2 ^ 40 + Config.clMax * 2 ^ 48)
  pwrCap := BitVec.ofNat 64 (Config.avgMax + Config.pkMax * 2 ^ 16)
  pwrStat := 0
  govNext := 0
  pcls := []
  thCtl := BitVec.ofNat 64 (95 + 10 * 2 ^ 8)
  ckptCtl := 0
  ckptMap := 0
  ckptStat := 0
  ckptImg := none
  ckptGot := []
  imgKey := none
  openMem := []
  tsync := 0
  trcCtl := 0
  trcWho := (0, 0, 0)
  trcStat := 0
  trcSeq := []
  trcQ := []
  setters := []
  dbgCtl := 0
  dbgArg0 := 0
  dbgArg1 := 0
  dbgBusy := false
  dbgRes := 0
  dbgOver := false
  dbgData := 0
  dbgWait := none
  haltAt := none
  replay := 0
  repLog := []
  repIncs := []
  repNext := 0
  repAt := 0
  repBusy := false
  errs := []
  modBad := false

end Sys2Proof.Machine
end

