-- ==== Sys2Proof/Machine/Ops.lean ====
section
/-! DEFINITION. The named operations over tables, memory and registers; taking a trap and returning from it (R363-R366); and the
frame that every control instruction runs in (R167, R172, R365). -/
namespace Sys2Proof.Machine

/-! ## Tables -/

/-- The value at key `k`, `d` where the key is not listed. -/
def look {α : Type} (d : α) : Tbl α → Nat → α
  | [], _ => d
  | (j, a) :: t, k => if j = k then a else look d t k

/-- The table with `a` at key `k`. -/
def put {α : Type} : Tbl α → Nat → α → Tbl α
  | [], k, a => [(k, a)]
  | (j, b) :: t, k, a => if k < j then (k, a) :: (j, b) :: t else if k = j then (k, a) :: t else (j, b) :: put t k a

/-- The table without key `k`. -/
def del {α : Type} (t : Tbl α) (k : Nat) : Tbl α := t.filter fun e => e.1 != k

/-- The entry at key `k`, if listed. -/
def find {α : Type} : Tbl α → Nat → Option α
  | [], _ => none
  | (j, a) :: t, k => if j = k then some a else find t k

/-- A list element by position, with a default. -/
def nth {α : Type} (d : α) : List α → Nat → α
  | [], _ => d
  | a :: _, 0 => a
  | _ :: t, n + 1 => nth d t n

/-- A list with position `n` replaced. -/
def setNth {α : Type} : List α → Nat → α → List α
  | [], _, _ => []
  | _ :: t, 0, a => a :: t
  | b :: t, n + 1, a => b :: setNth t n a

/-! ## The flat address map (notes/assumptions/6.md) -/

def capBase : Nat := 2 ^ 44
def hostBase : Nat := 2 ^ 56
def spmBase : Nat := 2 ^ 57
def wssBase : Nat := 2 ^ 58
def imBase : Nat := 2 ^ 59
def imEnd : Nat := 2 ^ 59 + 2 ^ 28
def accBase : Nat := 2 ^ 60
def bankBase : Nat := 2 ^ 61
def spmAt (core a : Nat) : Nat := spmBase + core * 2 ^ 22 + a
def wssAt (tower a : Nat) : Nat := wssBase + tower * 2 ^ 28 + a
def imAt (core off : Nat) : Nat := imBase + core * 2 ^ 18 + off
def accAt (core off : Nat) : Nat := accBase + core * 2 ^ 19 + off
/-- Byte `off` of B bank `b`: codes from 0, scales from 512 KiB (R373). -/
def bankAt (core b off : Nat) : Nat := bankBase + core * 2 ^ 21 + b * 2 ^ 20 + off

/-! ## Memory as a canonical list of cells -/

/-- What a byte that nothing has written reads as: 0xFF in instruction memory (R80), 0 elsewhere (R95, R244;
notes/assumptions/5.md). -/
def memDefault (a : Nat) : Byte := if imBase ≤ a ∧ a < imEnd then 0xFF else 0

/-- One byte of memory. -/
def memRd : List Host.Cell → Nat → Byte
  | [], a => memDefault a
  | (b, v) :: m, a => if b < a then memRd m a else if b = a then v else memDefault a

/-- Memory with the byte at `a` set to `v`, in canonical form. -/
def memWr : List Host.Cell → Nat → Byte → List Host.Cell
  | [], a, v => if v = memDefault a then [] else [(a, v)]
  | (b, w) :: m, a, v =>
    if b < a then (b, w) :: memWr m a v
    else if b = a then (if v = memDefault a then m else (a, v) :: m)
    else if v = memDefault a then (b, w) :: m else (a, v) :: (b, w) :: m

/-- Canonical form: addresses strictly rising, no cell equal to what its address reads as unlisted. -/
def Memory.wf : List Host.Cell → Bool
  | [] => true
  | [(a, v)] => v != memDefault a
  | (a, v) :: (b, w) :: m => v != memDefault a && decide (a < b) && Memory.wf ((b, w) :: m)

/-- `n` bytes from address `a`. -/
def memBytes (m : List Host.Cell) : Nat → Nat → List Byte
  | _, 0 => []
  | a, n + 1 => memRd m a :: memBytes m (a + 1) n

/-- Memory with a byte string stored from address `a`. -/
def memStore (m : List Host.Cell) : Nat → List Byte → List Host.Cell
  | _, [] => m
  | a, b :: bs => memStore (memWr m a b) (a + 1) bs

/-- The little-endian number of a byte string (R5). -/
def leNat : List Byte → Nat
  | [] => 0
  | b :: bs => b.toNat + 256 * leNat bs

/-- The `n` little-endian bytes of a number (R5). -/
def leBytes : Nat → Nat → List Byte
  | 0, _ => []
  | n + 1, x => BitVec.ofNat 8 x :: leBytes n (x / 256)

/-- The cells outside `[lo, hi)`: what clearing that range leaves (R95). -/
def memClear (m : List Host.Cell) (lo hi : Nat) : List Host.Cell := m.filter fun c => decide (c.1 < lo ∨ hi ≤ c.1)

/-! ## Cores, streams, control cores -/

/-- Stream numbers (R103, R148). -/
def streamNo : Stream → Nat
  | .lcc => 0 | .ccc => 1 | .me => 2 | .ve => 3 | .cel => 4 | .ces => 5
def streamOf : Nat → Stream
  | 0 => .lcc | 1 => .ccc | 2 => .me | 3 => .ve | 4 => .cel | _ => .ces
def leaderStream : Leader → Stream
  | .lcc => .lcc | .ccc => .ccc
def engStream : Eng → Stream
  | .me => .me | .ve => .ve | .cel => .cel | .ces => .ces
def engNo : Eng → Nat
  | .me => 0 | .ve => 1 | .cel => 2 | .ces => 3
/-- The control core a stream number names; an engine stream's own is not used. -/
def streamLeader : Stream → Leader
  | .ccc => .ccc | _ => .lcc
def streamEng : Stream → Eng
  | .me => .me | .ve => .ve | .ces => .ces | _ => .cel
def isCtl : Stream → Bool
  | .lcc => true | .ccc => true | _ => false
/-- Agent number of a stream (R103). -/
def agentOf (core : Nat) (x : Stream) : Nat := core * 8 + streamNo x

/-- Position of a global core (R2, R158). -/
def towerOf (core : Nat) : Nat := core / 32
def levelOf (core : Nat) : Nat := core / 16 % 2
def onDie (core : Nat) : Nat := core % 16
def dieOf (core : Nat) : Nat := core / 16
def pairOf (core : Nat) : Nat := core / 32 * 16 + core % 16
def twinOf (core : Nat) : Nat := if levelOf core = 0 then core + 16 else core - 16
def clusterOf (core : Nat) : Nat := core / 4
/-- The core of a pair at a level. -/
def pairCore (p lvl : Nat) : Nat := p / 16 * 32 + lvl * 16 + p % 16

def State.core (s : State) (c : Nat) : Core := look Core.reset s.cores c
def State.setCore (s : State) (c : Nat) (k : Core) : State := { s with cores := put s.cores c k }
def State.pair (s : State) (p : Nat) : Pair := look Pair.reset s.pairs p
def State.setPair (s : State) (p : Nat) (k : Pair) : State := { s with pairs := put s.pairs p k }
def State.die (s : State) (d : Nat) : Die := look Die.reset s.dies d
def State.setDie (s : State) (d : Nat) (k : Die) : State := { s with dies := put s.dies d k }
def State.tower (s : State) (t : Nat) : Tower := look Tower.reset s.towers t
def State.setTower (s : State) (t : Nat) (k : Tower) : State := { s with towers := put s.towers t k }
def State.cluster (s : State) (k : Nat) : Cluster := look Cluster.reset s.clusters k
def State.setCluster (s : State) (k : Nat) (c : Cluster) : State := { s with clusters := put s.clusters k c }
def State.group (s : State) (g : Nat) : Group := look Group.reset s.groups g
def State.setGroup (s : State) (g : Nat) (k : Group) : State := { s with groups := put s.groups g k }

def Core.str (k : Core) (x : Stream) : Strm := look Strm.reset k.strm (streamNo x)
def Core.setStr (k : Core) (x : Stream) (t : Strm) : Core := { k with strm := put k.strm (streamNo x) t }
def Core.ctl (k : Core) : Leader → Ctl
  | .lcc => k.lcc | .ccc => k.ccc
def Core.setCtl (k : Core) (l : Leader) (t : Ctl) : Core :=
  match l with
  | .lcc => { k with lcc := t }
  | .ccc => { k with ccc := t }
def Core.seq (k : Core) (e : Eng) : Seq := look Seq.reset k.seqs (engNo e)
def Core.setSeq (k : Core) (e : Eng) (t : Seq) : Core := { k with seqs := put k.seqs (engNo e) t }

def State.str (s : State) (c : Nat) (x : Stream) : Strm := (s.core c).str x
def State.setStr (s : State) (c : Nat) (x : Stream) (t : Strm) : State := s.setCore c ((s.core c).setStr x t)
def State.ctlOf (s : State) (c : Nat) (l : Leader) : Ctl := (s.core c).ctl l
def State.setCtlOf (s : State) (c : Nat) (l : Leader) (t : Ctl) : State := s.setCore c ((s.core c).setCtl l t)
def State.seqOf (s : State) (c : Nat) (e : Eng) : Seq := (s.core c).seq e
def State.setSeqOf (s : State) (c : Nat) (e : Eng) (t : Seq) : State := s.setCore c ((s.core c).setSeq e t)

/-- The core, leader and control core that execute. -/
def State.cc (s : State) : Nat := s.cur.1
def State.cl (s : State) : Leader := streamLeader s.cur.2
def State.me (s : State) : Ctl := s.ctlOf s.cc s.cl
def State.setMe (s : State) (t : Ctl) : State := s.setCtlOf s.cc s.cl t
def State.myCore (s : State) : Core := s.core s.cc
def State.setMyCore (s : State) (k : Core) : State := s.setCore s.cc k
def State.myStr (s : State) : Strm := s.str s.cc s.cur.2
def State.setMyStr (s : State) (t : Strm) : State := s.setStr s.cc s.cur.2 t
def State.pc (s : State) : Nat := s.myStr.pc
def State.myAgent (s : State) : Nat := agentOf s.cc s.cur.2

/-! ## Scalar, predicate and handle registers (R169, R192) -/

/-- S(n): 0 for n = 0 (R169, R186). -/
def Ctl.rdS (t : Ctl) (n : Nat) : Word := if n = 0 then 0 else look 0 t.s n
/-- setS(n, v): discarded for n = 0. -/
def Ctl.wrS (t : Ctl) (n : Nat) (v : Word) : Ctl := if n = 0 then t else { t with s := put t.s n v, bad := t.bad.filter fun r => match r with | .s k => k.val != n | _ => true }
/-- P(n): 1 for n = 0. -/
def Ctl.rdP (t : Ctl) (n : Nat) : Bool := if n = 0 then true else look false t.p n
def Ctl.wrP (t : Ctl) (n : Nat) (v : Bool) : Ctl := if n = 0 then t else { t with p := put t.p n v, bad := t.bad.filter fun r => match r with | .p k => k.val != n | _ => true }
/-- Handle registers: h0 is an ordinary register (R192). -/
def Ctl.rdH (t : Ctl) (n : Nat) : Handle := look Handle.reset t.h n
def Ctl.wrH (t : Ctl) (n : Nat) (v : Handle) : Ctl := { t with h := put t.h n v, bad := t.bad.filter fun r => match r with | .h k => k.val != n | _ => true }

def State.rdS (s : State) (n : SReg) : Word := s.me.rdS n
def State.wrS (s : State) (n : SReg) (v : Word) : State := s.setMe (s.me.wrS n v)
def State.rdP (s : State) (n : PReg) : Bool := s.me.rdP n
def State.wrP (s : State) (n : PReg) (v : Bool) : State := s.setMe (s.me.wrP n v)
def State.rdH (s : State) (n : HReg) : Handle := s.me.rdH n
def State.wrH (s : State) (n : HReg) (v : Handle) : State := s.setMe (s.me.wrH n v)

/-- Does a core's register file or operand queue hold an uncorrectable error (R378)? -/
def Core.marked (k : Core) : Bool :=
  !k.lcc.bad.isEmpty || !k.ccc.bad.isEmpty || !k.mxBad.isEmpty || k.seqs.any (fun e => !e.2.bad.isEmpty) || k.q.any fun e => e.2.any (·.bad)

/-! ## Causes and traps (R361-R366) -/

def causeCode : Cause → Nat
  | .illegal => 0x01 | .priv => 0x02 | .format => 0x03 | .bounds => 0x04 | .translation => 0x05 | .permission => 0x06
  | .race => 0x07 | .align => 0x08 | .queueTimeout => 0x09 | .licenceDisabled => 0x0A | .recordIllegal => 0x0B
  | .divergence => 0x0C | .uncorrectable => 0x0D | .collectivePartial => 0x0E | .gangAbort => 0x0F | .tokenExpired => 0x10
  | .key => 0x11 | .brk => 0x12 | .step => 0x13 | .preempt => 0x14 | .powerDenied => 0x15
  | .syscall n => 0x40 + n.val

def causeOf : Nat → Cause
  | 0x01 => .illegal | 0x02 => .priv | 0x03 => .format | 0x04 => .bounds | 0x05 => .translation | 0x06 => .permission
  | 0x07 => .race | 0x08 => .align | 0x09 => .queueTimeout | 0x0A => .licenceDisabled | 0x0B => .recordIllegal
  | 0x0C => .divergence | 0x0D => .uncorrectable | 0x0E => .collectivePartial | 0x0F => .gangAbort | 0x10 => .tokenExpired
  | 0x11 => .key | 0x12 => .brk | 0x13 => .step | 0x14 => .preempt | 0x15 => .powerDenied
  | n => .syscall (Fin.ofNat 64 n)

/-- A trap to be taken: its cause and TINFO (R361). -/
structure Trap where
  cause : Cause
  info  : Nat
deriving DecidableEq, Repr, Inhabited

/-- A result or a trap. -/
abbrev Chk (α : Type) := Except Trap α

/-- fault(cause) with the TINFO value given (R186). -/
def fault {α : Type} (c : Cause) (info : Nat := 0) : Chk α := .error ⟨c, info⟩

/-- The check of one condition. -/
def need (ok : Bool) (c : Cause) (info : Nat := 0) : Chk Unit := if ok then .ok () else .error ⟨c, info⟩

/-- Causes whose saved PC is that of the next instruction (R364). -/
def Cause.savesNext : Cause → Bool
  | .syscall _ => true
  | .step => true
  | _ => false

/-- An event of the trace: source, KIND and payload, kept when TRC_CTL records the KIND (R431). -/
def State.note (s : State) (src kind payload : Nat) : State :=
  if bitAt s.trcCtl.toNat 0 && bitAt s.trcCtl.toNat kind then { s with trcQ := s.trcQ ++ [(src, kind, payload)] } else s

/-- An event whose KIND the spec gives no payload for: it is a free value (R431; notes/assumptions/7.md). -/
def State.noteOpen (s : State) (src kind : Nat) : State := s.note src kind (Config.freeNat s.freeCtr (64 + kind) % 2 ^ 128)

/-! ## Bytes whose values are open (notes/assumptions/13.md) -/

/-- What is left of a range of open bytes when `n` bytes from `a` are written. -/
def OpenMem.cut (a n : Nat) (r : OpenMem) : List OpenMem :=
  if a + n ≤ r.start ∨ r.start + r.len ≤ a then [r]
  else
    (if r.start < a then [{ r with len := a - r.start }] else []) ++
    (if a + n < r.start + r.len then [⟨a + n, r.start + r.len - (a + n), r.seed, r.off + (a + n - r.start)⟩] else [])
def cutOpen (a n : Nat) (s : State) : State := { s with openMem := s.openMem.flatMap (·.cut a n) }
/-- `n` bytes from `a` are open from now on. -/
def leaveOpen (a n : Nat) (s : State) : State :=
  { cutOpen a n s with openMem := s.openMem.flatMap (·.cut a n) ++ [⟨a, n, s.freeCtr, 0⟩] }

/-! ## The order log (R436, R437) -/

/-- The region of increments and logs: first byte, and bytes (R435). -/
def repArea (s : State) : Nat × Nat := (capBase + bitsAt s.replay.toNat 12 20 * 2 ^ 21, bitsAt s.replay.toNat 32 20 * 2 ^ 21)

/-- MODE of REPLAY_CTL: 1 record, 2 replay. -/
def repMode (s : State) : Nat := s.replay.toNat % 4

/-- Objects whose acts are ordered: locations, semaphores, token FIFOs, groups, gussets, lines, rendezvous, licences, an agent's own accesses,
and the decisions of the microbatch scheduler, a bobbin and the grant scheduler. -/
inductive ObjKind where | loc | sem | tok | group | gusset | line | rdv | lic | own | mbs | stash | grant
deriving DecidableEq, Repr

def ObjKind.key (k : ObjKind) (n : Nat) : Nat := n * 16 + (match k with
  | .loc => 0 | .sem => 1 | .tok => 2 | .group => 3 | .gusset => 4 | .line => 5 | .rdv => 6 | .lic => 7 | .own => 8 | .mbs => 9 | .stash => 10
  | .grant => 11)

/-- The last two agents that acted on an object: what the SETTER of a wait is found from (R432). -/
def State.actBy (s : State) (key agent : Nat) : State :=
  { s with setters := put s.setters key (agent, (look (0x3FFF, 0x3FFF) s.setters key).1) }

/-- An event in the order log. The log is written into the region, where and how being open. -/
def State.logEv (s : State) (e : RepEv) : State := leaveOpen (repArea s).1 (repArea s).2 { s with repLog := s.repLog ++ [(s.repNext, e)] }
def State.unlogEv (s : State) (e : RepEv) : State := { s with repLog := s.repLog.eraseP fun x => x.2 == e }

/-- An agent's act on an ordered object: recorded, or in replay none until its logged predecessors have occurred. -/
def repTurn (key agent : Nat) (s : State) : Option State :=
  if repMode s = 1 then some (s.logEv (.order key agent))
  else if repMode s = 2 then
    match s.repLog.find? fun e => match e.2 with | .order k _ => k == key | _ => false with
    | some e => if e.2 = .order key agent then some (s.unlogEv e.2) else none
    | none => some s
  else some s

/-- An act that can end another agent's wait on the object. -/
def actTurn (key agent : Nat) (s : State) : Option State := (repTurn key agent s).map (·.actBy key agent)

/-- A value returned or decided: recorded, or in replay the logged one. -/
def repValue (agent v : Nat) (s : State) : State × Nat :=
  if repMode s = 1 then (s.logEv (.value agent v), v)
  else if repMode s = 2 then
    match s.repLog.findSome? fun e => match e.2 with | .value a x => if a = agent then some x else none | _ => none with
    | some x => (s.unlogEv (.value agent x), x)
    | none => (s, v)
  else (s, v)

/-- An arrival from outside: recorded with its payload; in replay only the channel's next logged one arrives. -/
def repArrival (e : RepEv) (chan : RepEv → Bool) (s : State) : Option State :=
  if repMode s = 1 then some (s.logEv e)
  else if repMode s = 2 then
    match s.repLog.find? fun x => chan x.2 with
    | some x => if x.2 = e then some (s.unlogEv e) else none
    | none => none
  else some s

/-- RC increments at a release side, and stops at its maximum (R118). -/
def Clock.bump (k : Clock) : Clock := if k.rc = 0xFFFFFFFF then k else { k with rc := k.rc + 1 }

/-- Trap entry for control core `l` of core `c` (R364): with INH = 1 the stream halts and the registers keep the first trap; else
TPC, TCAUSE and TINFO are written, the level goes to supervisor, INH is set, and the PC goes to the handler. -/
def takeTrap (c : Nat) (l : Leader) (t : Trap) (stream : Nat) (eng : Bool) (pc next : Nat) (s : State) : State :=
  let x := s.ctlOf c l
  let m := s.str c (leaderStream l)
  let s := s.noteOpen (agentOf c (leaderStream l)) 3
  if x.inh then
    s.setStr c (leaderStream l) { m with st := .halt, wait := .none }
  else
    let x := { x with
      tpc := BitVec.ofNat 64 ((if t.cause.savesNext then next else pc) % 2 ^ 18)
      tcause := BitVec.ofNat 64 (causeCode t.cause + stream * 2 ^ 7 + b2n eng * 2 ^ 10)
      tinfo := BitVec.ofNat 64 t.info
      ppriv := x.priv, priv := true, inh := true, inTrap := true }
    let s := s.setCtlOf c l x
    s.setStr c (leaderStream l) { m with st := .trap, wait := .none, pc := x.tvec.toNat / 4 % 2 ^ 16 * 4, clk := m.clk.bump }

/-- The return of `tret` once TPC has passed the branch checks (R364). -/
def tretTo (s : State) : State :=
  let x := s.me
  let m := s.myStr
  (s.setMe { x with priv := x.ppriv, inh := false, inTrap := false }).setMyStr
    { m with st := .run, wait := .none, pc := x.tpc.toNat % 2 ^ 18 }

/-- An engine stream's trap: its sequencer's registers, and delivery to the job's leader left pending (R366). -/
def engineTrap (c : Nat) (e : Eng) (t : Trap) (pc beat : Nat) (rst : List Nat) (s : State) : State :=
  let x := engStream e
  let q := s.seqOf c e
  let m := s.str c x
  let s := s.noteOpen (agentOf c x) 3
  let s := s.setSeqOf c e { q with tCause := causeCode t.cause, tValid := true, tPc := pc, tBeat := beat, rst := rst, tInfo := BitVec.ofNat 64 t.info }
  let s := s.setStr c x { m with st := .trap, wait := .none }
  let l := s.ctlOf c m.job
  s.setCtlOf c m.job { l with pendEng := l.pendEng ++ [streamNo x] }

/-- The smallest of a list of numbers. -/
def least : List Nat → Option Nat
  | [] => none
  | a :: t => match least t with
    | none => some a
    | some b => some (if a ≤ b then a else b)

/-! ## The frame of a control instruction (R167, R172, R365) -/

/-- How an instruction's own effect ends. -/
inductive Eff where
  /-- It completes; the next PC follows (R173). -/
  | done (s : State)
  /-- It completes with PC := t. -/
  | jump (s : State) (t : Nat)
  /-- It waits with the PC unchanged (R155, R215). -/
  | stay (s : State) (w : Wait)
  /-- It takes a trap; `s` is what stands then. -/
  | trap (s : State) (t : Trap)
  /-- It sets the stream's state itself (`tret`, `jend`). -/
  | ended (s : State)
deriving Repr

/-- A checked effect. -/
def Eff.ofChk (s : State) : Chk Eff → Eff
  | .ok e => e
  | .error t => .trap s t

/-- Does the guard let the instruction execute (R167)? -/
def guardOk (gd : Guard) (s : State) : Bool := s.rdP gd.gp ^^ gd.gs

/-- What the current control core does in the state field when it runs (R149). -/
def Ctl.runState (t : Ctl) : SState := if t.inTrap then .trap else .run

/-- OBJ and NUM of a wait (R432). -/
def waitObj : Wait → Nat × Nat
  | .none => (15, 0)
  | .queue k _ => (2, k)
  | .token k _ => (1, k)
  | .sem k _ _ => (0, k)
  | .entry => (14, 0)
  | .addr h _ _ _ _ _ => (3, h % 64)
  | .barrier g _ _ => (4, g)
  | .licence _ => (5, 0)
  | .denied => (5, 0)
  | .reservation => (6, 0)
  | .rdv => (7, 0)
  | .own _ => (8, 0)
  | .order => (9, 0)
  | .pull k => (10, k)
  | .vote => (11, 0)
  | .clock => (12, 0)
  | .gang => (13, 0)
  | .other => (14, 0)

/-- Cycles in `n` ns at operating point `op`, in sixteenths (R407). -/
def cyc16 (op n : Nat) : Nat := (4 + op) * n

/-- The agent that last acted on an object, the waiting one apart. -/
def lastActor (s : State) (key self : Nat) : Nat :=
  let (a, b) := look (0x3FFF, 0x3FFF) s.setters key
  if a = self then b else a

/-- SETTER of a wait's record (R432): 0x3FFF for the arbiter and for what no agent ends. -/
def setterOf (s : State) (c : Nat) (x : Stream) (w : Wait) : Nat :=
  let self := agentOf c x
  match w with
  | .sem k _ _ => lastActor s (ObjKind.sem.key (c * 32 + k)) self
  | .token k _ => lastActor s (ObjKind.tok.key (c * 8 + k)) self
  | .queue k push => if push then agentOf c (if k ≤ 1 then .me else .ve) else agentOf c .cel
  | .addr _ _ _ _ _ l => lastActor s (ObjKind.loc.key l.flat) self
  | .barrier g _ _ => lastActor s (ObjKind.group.key g) self
  | .licence _ => lastActor s (ObjKind.lic.key (pairOf c)) self
  | .rdv => lastActor s (ObjKind.rdv.key (c * 2 + streamNo x)) self
  | .own _ => lastActor s (ObjKind.own.key self) self
  | .order => self
  | _ => 0x3FFF

/-- Is the licence requested by core `c` apart from stream `x`: by the other control core's `lic.acq`, or by a resume (R157, R372)? -/
def othersWant (c : Nat) (x : Stream) (s : State) : Bool :=
  (s.core c).licReq || [Stream.lcc, .ccc].any fun y => y != x && (s.str c y).st == .wait && (s.str c y).wait == .licence true

/-- A core's request of the licence taken back. -/
def noWant (c : Nat) (s : State) : State :=
  let p := s.pair (pairOf c)
  s.setPair (pairOf c) { p with want := p.want.erase (levelOf c) }

/-- A `lic.acq` whose wait is abandoned takes back its request of the licence; two requests from one core are one, which stands while the core
makes another (R157). An ME record that stalls makes none. -/
def dropWant (c : Nat) (x : Stream) (w : Wait) (s : State) : State :=
  match w with
  | .licence true => if !isCtl x || othersWant c x s then s else noWant c s
  | _ => s

/-- The payload of a wait's record (R432). -/
def waitPayload (o : Nat × Nat) (cycles setter : Nat) (abandoned : Bool) : Nat :=
  o.1 + o.2 % 64 * 2 ^ 4 + Nat.min cycles 0xFFFFFFFF * 2 ^ 10 + setter * 2 ^ 42 + b2n abandoned * 2 ^ 56

/-- The trace record of a wait that ends (R432). -/
def endWait (c : Nat) (x : Stream) (abandoned : Bool) (s : State) : State :=
  let m := s.str c x
  let s := if abandoned then dropWant c x m.wait s else s
  match m.wait with
  | .none => s
  | w =>
    let cycles := cyc16 (s.die (dieOf c)).cur (s.time - m.since) / 16
    if bitsAt s.trcCtl.toNat 24 16 ≤ cycles then
      s.note (agentOf c x) 4 (waitPayload (waitObj w) cycles (setterOf s c x w) abandoned)
    else s

/-- Delivery of a pending cause to a leader at an instruction boundary (R366, R368, R344, R329). GANG_ABORT and DIVERGENCE come
before an engine's trap, an engine's before PREEMPT; while the leader runs its handler only DIVERGENCE is taken (R361), and in a clock transition nothing is (R408). -/
def deliver (c : Nat) (l : Leader) (s : State) : Option State :=
  let go := fun (t : Trap) (n : Nat) (eng : Bool) (x : Ctl) =>
    some (takeTrap c l t n eng (s.str c (leaderStream l)).pc (s.str c (leaderStream l)).pc
      ((endWait c (leaderStream l) true s).setCtlOf c l { x with ans := .none }))
  let x := s.ctlOf c l
  let m := s.str c (leaderStream l)
  if m.st == .idle || m.st == .halt || m.pstop || (s.die (dieOf c)).busy then none
  else match (if x.inTrap then none else x.pendGang) with
  | some g => go ⟨.gangAbort, g⟩ (streamNo (leaderStream l)) false { x with pendGang := none }
  | none =>
    match x.pendDiv with
    | some n => go ⟨.divergence, n⟩ (streamNo (leaderStream l)) false { x with pendDiv := none }
    | none =>
      if x.inTrap then none
      else match least x.pendEng with
      | some n =>
        let q := s.seqOf c (streamEng (streamOf n))
        go ⟨causeOf q.tCause, q.tInfo.toNat⟩ n true { x with pendEng := x.pendEng.erase n }
      | none =>
        if x.pendPre && !x.priv then
          go ⟨.preempt, 0⟩ (streamNo (leaderStream l)) false { x with pendPre := false }
        else none

/-- The executing control core forgets the answer of the access it made. -/
def dropAns (s : State) : State := if s.me.ans = .none then s else s.setMe { s.me with ans := .none }

/-- The stream at PC `t`, running, its wait ended. -/
def resumeAt (t : Nat) (s : State) : State :=
  let s := dropAns (endWait s.cc s.cur.2 false s)
  let m := s.myStr
  s.setMyStr { m with st := s.me.runState, wait := .none, pc := t }

/-- The stream enters or keeps a wait. A control core that waits inside its trap handler shows WAIT, not TRAP: DESIGN CHOICE, R149 gives
both (notes/assumptions/59.md). -/
def waitOn (w : Wait) (s : State) : State :=
  let m := s.myStr
  s.setMyStr { m with st := .wait, wait := w, since := if m.wait = w ∧ m.st = .wait then m.since else s.time }

/-- A trap of the executing control core at its own instruction. -/
def trapHere (t : Trap) (len : Nat) (s : State) : State :=
  let s := dropAns (endWait s.cc s.cur.2 true s)
  takeTrap s.cc s.cl t (streamNo (leaderStream s.cl)) false s.pc (s.pc + len) s

/-- The STEP trap after an instruction that began at job level with STEP = 1 (R365). `pc` is that instruction's. -/
def stepTrap (was : Ctl) (pc : Nat) (s : State) : State :=
  if !was.priv && was.step then
    takeTrap s.cc s.cl ⟨.step, pc⟩ (streamNo (leaderStream s.cl)) false s.pc s.pc s
  else s

/-- How the frame ends an effect. -/
def Eff.finish (was : Ctl) (pc len : Nat) : Eff → State
  | .done s => stepTrap was pc (resumeAt (pc + len) s)
  | .jump s t => stepTrap was pc (resumeAt t s)
  | .stay s w => waitOn w s
  | .trap s t => trapHere t len s
  | .ended s => s

/-- Why a checked effect ends early. -/
inductive Stop where
  | trap (t : Trap)
  | wait (w : Wait)
  /-- A message is sent whose answer the access awaits (R220, R403); `sp` and `got` as in `Answer`. -/
  | ask (m : Option Msg) (remote : Option Nat) (sp : Spot) (got : List Spot)
deriving DecidableEq, Repr, Inhabited

/-- An effect over the state that may trap or wait. -/
abbrev M := ExceptT Stop (StateM State)

/-- Runs a checked effect. -/
def M.go {α : Type} (m : M α) (s : State) : Except Stop α × State := (ExceptT.run m) s

/-- fault(cause) (R186). -/
def trapM {α : Type} (c : Cause) (info : Nat := 0) : M α := throw (.trap ⟨c, info⟩)
def waitM {α : Type} (w : Wait) : M α := throw (.wait w)
def needM (ok : Bool) (c : Cause) (info : Nat := 0) : M Unit := if ok then pure () else trapM c info
/-- A pure check lifted. -/
def liftC {α : Type} : Chk α → M α
  | .ok a => pure a
  | .error t => throw (.trap t)

/-- The turn of an act in replay (R437); `act` where it can end a wait. -/
def repM (k : ObjKind) (n agent : Nat) (act : Bool) : M Unit := do
  match (if act then actTurn else repTurn) (k.key n) agent (← get) with
  | some s => set s
  | none => waitM .other

/-! ## Routes (R383, R384) -/

/-- Does a link carry traffic: up on 8 lanes, with its spare, or on 4 (R393)? -/
def linkUp (s : State) (l : Nat) : Bool := decide (2 ≤ (look Link.reset s.links l).st)

/-- The direction of a ring of `n` places from `a` to `b`, the shorter way, positive where both are equal; none where they are one place. -/
def ringWay (n a b d : Nat) : Option Nat :=
  let k := (b % n + n - a % n) % n
  if k = 0 then none else if 2 * k ≤ n then some d else some (d + 1)

/-- The direction in which a message leaves module `a` for module `b`: x, then y, then z (R383, R384). -/
def torusWay (a b : Nat) : Option Nat :=
  match ringWay 8 a b 0 with
  | some d => some d
  | none => match ringWay 8 (a / 8) (b / 8) 2 with
    | some d => some d
    | none => ringWay 16 (a / 64) (b / 64) 4

/-- The module a message goes to; none for one that leaves by the host port, along a tree as a whole, or between the ends of one link. -/
def Msg.target : Msg → Option Nat
  | .remoteWrite t _ => some t | .remoteAtomic t _ _ _ _ => some t | .ack t _ _ _ => some t | .intent t _ _ _ _ => some t
  | .grant i _ _ => some i.sender | .chunk t _ _ _ _ _ => some t | .returnTok t _ _ _ _ => some t | .suspend t _ _ _ _ => some t
  | .cancel t _ _ _ => some t | .withdraw i _ => some i.sender | .arrive t _ _ => some t | .complete t _ _ => some t
  | .prepared t _ _ => some t | .decision t _ _ _ => some t | .vote t _ => some t | .result t _ _ _ => some t | .credit t _ _ => some t
  | .debug t _ _ _ => some t | .debugReply t _ _ => some t
  | .mcast ms _ _ _ _ _ => (ms.head?).map (·.1)
  | .lanePropose _ _ _ => none | .laneAck _ _ _ => none | .laneNak _ _ _ => none | .time _ => none | .hostWrite _ _ _ => none
  | .hostRequest _ _ _ => none | .hostReply _ => none | .hostUnsupported => none | .msix _ => none | .backInval _ => none

/-- Is a message slot's message a collective's? -/
def slotColl (s : State) (c k : Nat) : Bool := (look Slot.reset (s.core c).slots k).coll
def intentColl (s : State) (i : MsgId) : Bool := s.intents.any fun x => x.id == i && x.coll

/-- Is a message one of `fab.coll` or `fab.seam` (R384)? -/
def Msg.isRing (s : State) : Msg → Bool
  | .vote _ _ => true | .result _ _ _ _ => true
  | .chunk _ _ _ _ _ p => p.coll.isSome | .intent _ _ _ _ n => n.coll
  | .grant i _ _ => intentColl s i | .withdraw _ r => r | .ack _ _ _ r => r
  | .returnTok _ c k _ _ => slotColl s c k | .suspend _ c k _ _ => slotColl s c k | .cancel _ c k _ => slotColl s c k
  | _ => false

/-- The parity that chooses between the two links of a direction: issuing global core and address bit [8] for accesses, else the
receiver (R384). -/
def Msg.parity (t : Nat) : Msg → Nat
  | .remoteWrite _ m => (m.agent / 8 + m.va / 256) % 2
  | .remoteAtomic _ m _ _ _ => (m.agent / 8 + m.va / 256) % 2
  | .chunk _ c _ _ _ p => (c + ((p.writes.head?).elim 0 (·.va)) / 256) % 2
  | .mcast _ c _ _ _ p => (c + ((p.writes.head?).elim 0 (·.va)) / 256) % 2
  | _ => t % 2

/-- How a message leaves: by no link, by a link, or not yet, both links of its direction being down (R384). -/
inductive Way where
  | direct
  | link (l : Nat)
  | wait
deriving DecidableEq, Repr, Inhabited

def wayOf (s : State) (m : Msg) : Way :=
  match m.target with
  | none => match m with
    | .lanePropose l _ _ => .link l
    | .laneAck l _ _ => .link l
    | .laneNak l _ _ => .link l
    | _ => .direct
  | some t =>
    let ring := m.isRing s && bitAt s.fabRing.toNat 52
    let d := if ring && t == bitsAt s.fabRing.toNat 16 10 then some 6 else if ring && t == bitsAt s.fabRing.toNat 26 10 then some 7
      else torusWay (bitsAt s.dmr.toNat 0 10) t
    match d with
    | none => .direct
    | some d =>
      let k := m.parity t
      if linkUp s (2 * d + k) then .link (2 * d + k) else if linkUp s (2 * d + 1 - k) then .link (2 * d + 1 - k) else .wait

/-- The copies in which a message leaves: a multicast's part in one for each branch of the union of its routes, which the members behind that
branch share; any other in one (R389). -/
def branches (s : State) : Msg → List (Way × Msg)
  | .mcast ms c k ep n p =>
    let way := fun m => wayOf s (.mcast [m] c k ep n p)
    ((ms.map way).eraseDups).map fun w => (w, .mcast (ms.filter fun m => way m == w) c k ep n p)
  | m => [(wayOf s m, m)]

/-- The link of a way. -/
def Way.link? : Way → Option Nat
  | .link l => some l
  | _ => none

/-- A message leaves the module on every branch at once, or waits at this hop on all of them (R384, R389). -/
def emit (m : Msg) (s : State) : State :=
  let bs := branches s m
  if bs.any fun b => b.1 == .wait then { s with linkWait := s.linkWait ++ [m] }
  else { s with outbox := s.outbox ++ bs.map fun b => (b.1.link?, b.2) }

/-- MODE of the host port: 0 PCI Express only, 1 CXL 2.0, 2 CXL 3.x (R400). -/
def hostMode (s : State) : Nat := bitsAt s.hostLink.toNat 9 2

/-- A device write to a DEV line that the host holds: the back-invalidation takes the host's copy first (R136, R145; notes/assumptions/63.md). -/
def snoop (line : Nat) (s : State) : State :=
  if s.hostDev.contains line then emit (.backInval line) { s with hostDev := s.hostDev.erase line } else s

/-- A word of the MSI-X table: two words a vector, address, then data and control, whose mask bit is set at reset (R401;
notes/assumptions/62.md). -/
def msixWord (s : State) (k : Nat) : Word := look (if k % 2 = 1 then BitVec.ofNat 64 (2 ^ 32) else 0) s.msixTbl k
def msixMasked (s : State) (v : Nat) : Bool := bitAt (msixWord s (2 * v + 1)).toNat 32

/-- An MSI-X interrupt raised: a masked vector's stays pending (R401). -/
def raiseMsix (v : Nat) (s : State) : State :=
  if msixMasked s v then { s with msixPend := s.msixPend ||| 2 ^ v } else emit (.msix v) s

/-- The messages that waited for a link, each by the link that now carries it. -/
def releaseLinks (s : State) : State :=
  if s.linkWait.isEmpty then s else s.linkWait.foldl (fun s m => emit m s) { s with linkWait := [] }

/-- A message is sent by stream `x` of core `c`: the access is numbered, and a remote one is listed until it is acknowledged. -/
def sendAsk (c : Nat) (x : Stream) (m : Option Msg) (remote : Option Nat) (s : State) : State :=
  let t := m.elim s fun m => emit m s
  { t with
    sent := match remote with
      | some t => s.sent ++ [⟨s.msgNext, c, streamNo x, t, s.time⟩]
      | none => s.sent
    msgNext := s.msgNext + 1 }

/-- The answer of an access as it is asked. -/
def asking (s : State) (m : Option Msg) (sp : Spot) (got : List Spot) : Answer := .asked ⟨s.msgNext, s.time, m.isSome, sp⟩ got

/-- No location of the host: that of an access to another module. -/
def Spot.none : Spot := ⟨0, 0, 0⟩

/-- How a checked effect of a control instruction ends. -/
def Eff.ofM (m : M Unit) (s : State) : Eff :=
  match m.go s with
  | (.ok _, s') => .done s'
  | (.error (.trap t), s') => .trap s' t
  | (.error (.wait w), s') => .stay s' w
  | (.error (.ask q r sp got), s') =>
    .stay ((sendAsk s.cc s.cur.2 q r s').setMe { s'.me with ans := asking s' q sp got }) (.own 1)

/-- A control instruction of `len` bytes: guard, privilege, effect (R172 steps 3-5). -/
def control (gd : Guard) (len : Nat) (sup : Bool) (body : State → Eff) (s : State) : Out :=
  if !s.powered then .fault .unpowered
  else if !guardOk gd s then .next (stepTrap s.me s.pc (resumeAt (s.pc + len) s))
  else if sup && !s.me.priv then .next (trapHere ⟨.priv, 0⟩ len s)
  else .next ((body s).finish s.me s.pc len)

/-- An event of the opcode table: it needs power (R95), and acts on the state. -/
def event (f : State → State) (s : State) : Out := if s.powered then .next (f s) else .fault .unpowered

/-- The state as an act of stream `x` of core `c`, the executing stream for the length of `f`. -/
def asStream (c : Nat) (x : Stream) (f : State → State) (s : State) : State := { f { s with cur := (c, x) } with cur := s.cur }

/-! ## Time -/

/-- The schedule-cycle count of a core over `n` ns: it counts while a stream is in RUN or WAIT and the die's clock runs, and no further than
the count at which the core is to stop (R434). -/
def passCore (s : State) (n c : Nat) (k : Core) : Core :=
  let d := s.die (dieOf c)
  if !d.busy && k.strm.any (fun e => (e.2.st == .run || e.2.st == .wait) && !e.2.pstop) then
    let t := k.scycFr + cyc16 d.cur n
    match k.haltSc with
    | some m =>
      if k.scyc.toNat ≤ m ∧ m ≤ k.scyc.toNat + t / 16 then { k with scyc := BitVec.ofNat 64 m, scycFr := 0 }
      else { k with scyc := k.scyc + BitVec.ofNat 64 (t / 16), scycFr := t % 16 }
    | none => { k with scyc := k.scyc + BitVec.ofNat 64 (t / 16), scycFr := t % 16 }
  else k

/-- The cycles that a cluster's requests have waited, in sixteenths: those in which its die's clock ran (R411). -/
def passCluster (s : State) (n k : Nat) (x : Cluster) : Cluster :=
  let d := s.die (k / 4)
  if d.busy then x else { x with wants := x.wants.map fun q => { q with cyc := q.cyc + cyc16 d.cur n } }

/-- The correction made in `n` ns by a counter that slews, as a follower's does: one tick per 1,024 ns (R429). -/
def slewIn (n : Nat) (s : State) : Int :=
  let k : Int := ((s.time + n) / 1024 - s.time / 1024 : Nat)
  if 0 ≤ s.slew then (if s.slew ≤ k then s.slew else k) else (if -k ≤ s.slew then s.slew else -k)

/-- `n` ns pass (R411, R429, R434). -/
def pass (n : Nat) (s : State) : State :=
  { s with
    time := ((s.time + n : Int) + slewIn n s).toNat, slew := s.slew - slewIn n s
    cores := s.cores.map fun e => (e.1, passCore s n e.1 e.2)
    clusters := s.clusters.map fun e => (e.1, passCluster s n e.1 e.2) }

/-! ## Branch targets (R202) -/

/-- TINFO of ILLEGAL: the instruction's words (R361). -/
def wordsInfo : List Nat → Nat
  | w0 :: w1 :: _ => w0 + w1 * 2 ^ 32
  | [w0] => w0
  | [] => 0

/-- The checks of a branch target of instruction `i`. -/
def checkTarget (i : Instr) (t : Int) : Chk Nat :=
  if t < 0 ∨ 262144 ≤ t then fault .illegal (wordsInfo (encode i))
  else if t % 4 ≠ 0 then fault .align
  else .ok t.toNat

end Sys2Proof.Machine
end

