-- ==== Sys2Proof/Machine/Flags.lean ====
section
/-! DEFINITION. Conditions (R176), and the sticky arithmetic flags of the engines (R64, R247, R277). -/
namespace Sys2Proof.Machine

/-- cond(cc, a, b): `lt` and `ge` read the values signed (R176, R186). -/
def cond : Cond → Word → Word → Bool
  | .eq, a, b => a == b
  | .ne, a, b => a != b
  | .lt, a, b => decide (a.toInt < b.toInt)
  | .ge, a, b => decide (b.toInt ≤ a.toInt)
  | .ltu, a, b => decide (a.toNat < b.toNat)
  | .geu, a, b => decide (b.toNat ≤ a.toNat)

/-- The event set of encodings and arithmetic (R64, R247, R277). -/
structure Ev where
  nanIn     : Bool := false
  invalid   : Bool := false
  overflow  : Bool := false
  underflow : Bool := false
  inexact   : Bool := false
  divZero   : Bool := false
deriving DecidableEq, Repr, Inhabited

/-- Events combine by OR (R247). -/
def Ev.or (a b : Ev) : Ev :=
  ⟨a.nanIn || b.nanIn, a.invalid || b.invalid, a.overflow || b.overflow, a.underflow || b.underflow, a.inexact || b.inexact,
   a.divZero || b.divZero⟩

/-- A flag word with the bits of an event set raised: ME_FLAGS [4:0] (R247), VE_FLAGS [5:0] (R277). -/
def Ev.bits (e : Ev) : Nat :=
  b2n e.nanIn + b2n e.invalid * 2 + b2n e.overflow * 4 + b2n e.underflow * 8 + b2n e.inexact * 16 + b2n e.divZero * 32

end Sys2Proof.Machine
end

