-- ==== Sys2Proof/Machine/Arith.lean ====
section
/-! DEFINITION. Integer arithmetic and logic of the control cores (R192-R198). -/
namespace Sys2Proof.Machine

/-! ## Results (R193-R195) -/

def sgn (i : Int) : Int := if i < 0 then -1 else if i = 0 then 0 else 1

/-- `div`: truncates towards zero; -1 for a zero divisor, the dividend's minimum for the signed overflow (R194). -/
def divResult (a b : Word) : Word :=
  if b = 0 then -1
  else if a.toInt = -(2 ^ 63) ∧ b.toInt = -1 then a
  else wrap64 (sgn a.toInt * sgn b.toInt * ((a.toInt.natAbs / b.toInt.natAbs : Nat) : Int))
/-- `rem`: the dividend for a zero divisor; the sign of the dividend (R194). -/
def remResult (a b : Word) : Word :=
  if b = 0 then a
  else if a.toInt = -(2 ^ 63) ∧ b.toInt = -1 then 0
  else wrap64 (a.toInt - (divResult a b).toInt * b.toInt)
def divuResult (a b : Word) : Word := if b = 0 then -1 else BitVec.ofNat 64 (a.toNat / b.toNat)
def remuResult (a b : Word) : Word := if b = 0 then a else BitVec.ofNat 64 (a.toNat % b.toNat)
/-- Bits [127:64] of the signed product (R193). -/
def mulhResult (a b : Word) : Word := wrap64 ((a.toInt * b.toInt) / 2 ^ 64)
/-- Bits [127:64] of the unsigned product (R193). -/
def mulhuResult (a b : Word) : Word := BitVec.ofNat 64 (a.toNat * b.toNat / 2 ^ 64)
/-- A shift count: bits [5:0] (R193). -/
def shamt (b : Word) : Nat := b.toNat % 64
def srlResult (a b : Word) : Word := a >>> shamt b
def sllResult (a b : Word) : Word := a <<< shamt b
def sraResult (a b : Word) : Word := wrap64 (a.toInt / 2 ^ shamt b)
def rolResult (a b : Word) : Word := BitVec.ofNat 64 (a.toNat * 2 ^ shamt b + a.toNat / 2 ^ (64 - shamt b))
def minResult (a b : Word) : Word := if a.toInt ≤ b.toInt then a else b
def maxResult (a b : Word) : Word := if a.toInt ≤ b.toInt then b else a
def minuResult (a b : Word) : Word := if a.toNat ≤ b.toNat then a else b
def maxuResult (a b : Word) : Word := if a.toNat ≤ b.toNat then b else a

/-- Bits 0 to n-1 of `x`, lowest first. -/
def bitList (x : Nat) : Nat → List Bool
  | 0 => []
  | n + 1 => (x % 2 == 1) :: bitList (x / 2) n
/-- The number of a bit list, lowest first. -/
def bitsNat : List Bool → Nat
  | [] => 0
  | b :: t => b2n b + 2 * bitsNat t
/-- Leading run of false. -/
def zerosRun : List Bool → Nat
  | false :: t => zerosRun t + 1
  | _ => 0
def clzResult (a : Word) : Word := BitVec.ofNat 64 (zerosRun (bitList a.toNat 64).reverse)
def ctzResult (a : Word) : Word := BitVec.ofNat 64 (zerosRun (bitList a.toNat 64))
def popcResult (a : Word) : Word := BitVec.ofNat 64 ((bitList a.toNat 64).countP id)
def brevResult (a : Word) : Word := BitVec.ofNat 64 (bitsNat (bitList a.toNat 64).reverse)
def bswapResult (a : Word) : Word := BitVec.ofNat 64 (leNat (leBytes 8 a.toNat).reverse)

/-- f := S(A)[pos+width-1 : pos] (R198). -/
def field (a : Word) (pos width : Nat) : Nat := bitsAt a.toNat pos width
def extResult (a : Word) (pos width : Nat) : Word := wrap64 (sx (field a pos width) width)
def extuResult (a : Word) (pos width : Nat) : Word := BitVec.ofNat 64 (field a pos width)
def depResult (d a : Word) (pos width : Nat) : Word := BitVec.ofNat 64 (setBits d.toNat pos width a.toNat)
/-- `lih`: IMM32 above the low half of the source (R197). -/
def lihResult (a : Word) (v : BitVec 32) : Word := BitVec.ofNat 64 (v.toNat * 2 ^ 32 + a.toNat % 2 ^ 32)

/-! ## The shared frame: one result to one register -/

/-- An instruction of `len` bytes whose whole effect is setS(D, f) with `f` read before the write (R192). -/
def setReg (gd : Guard) (len : Nat) (d : SReg) (f : State → Word) (s : State) : Out :=
  control gd len false (fun s => .done (s.wrS d (f s))) s

/-! ## Register-register forms (R193, R194) -/

def execAdd (gd : Guard) (d a b : SReg) : State → Out := setReg gd 4 d fun s => s.rdS a + s.rdS b
def execSub (gd : Guard) (d a b : SReg) : State → Out := setReg gd 4 d fun s => s.rdS a - s.rdS b
def execMul (gd : Guard) (d a b : SReg) : State → Out := setReg gd 4 d fun s => s.rdS a * s.rdS b
def execMulh (gd : Guard) (d a b : SReg) : State → Out := setReg gd 4 d fun s => mulhResult (s.rdS a) (s.rdS b)
def execMulhu (gd : Guard) (d a b : SReg) : State → Out := setReg gd 4 d fun s => mulhuResult (s.rdS a) (s.rdS b)
def execDiv (gd : Guard) (d a b : SReg) : State → Out := setReg gd 4 d fun s => divResult (s.rdS a) (s.rdS b)
def execDivu (gd : Guard) (d a b : SReg) : State → Out := setReg gd 4 d fun s => divuResult (s.rdS a) (s.rdS b)
def execRem (gd : Guard) (d a b : SReg) : State → Out := setReg gd 4 d fun s => remResult (s.rdS a) (s.rdS b)
def execRemu (gd : Guard) (d a b : SReg) : State → Out := setReg gd 4 d fun s => remuResult (s.rdS a) (s.rdS b)
def execMin (gd : Guard) (d a b : SReg) : State → Out := setReg gd 4 d fun s => minResult (s.rdS a) (s.rdS b)
def execMax (gd : Guard) (d a b : SReg) : State → Out := setReg gd 4 d fun s => maxResult (s.rdS a) (s.rdS b)
def execMinu (gd : Guard) (d a b : SReg) : State → Out := setReg gd 4 d fun s => minuResult (s.rdS a) (s.rdS b)
def execMaxu (gd : Guard) (d a b : SReg) : State → Out := setReg gd 4 d fun s => maxuResult (s.rdS a) (s.rdS b)
def execAnd (gd : Guard) (d a b : SReg) : State → Out := setReg gd 4 d fun s => s.rdS a &&& s.rdS b
def execOr (gd : Guard) (d a b : SReg) : State → Out := setReg gd 4 d fun s => s.rdS a ||| s.rdS b
def execXor (gd : Guard) (d a b : SReg) : State → Out := setReg gd 4 d fun s => s.rdS a ^^^ s.rdS b
def execAndn (gd : Guard) (d a b : SReg) : State → Out := setReg gd 4 d fun s => s.rdS a &&& ~~~s.rdS b
def execSll (gd : Guard) (d a b : SReg) : State → Out := setReg gd 4 d fun s => sllResult (s.rdS a) (s.rdS b)
def execSrl (gd : Guard) (d a b : SReg) : State → Out := setReg gd 4 d fun s => srlResult (s.rdS a) (s.rdS b)
def execSra (gd : Guard) (d a b : SReg) : State → Out := setReg gd 4 d fun s => sraResult (s.rdS a) (s.rdS b)
def execRol (gd : Guard) (d a b : SReg) : State → Out := setReg gd 4 d fun s => rolResult (s.rdS a) (s.rdS b)

/-! ## Unary forms (R195) -/

def execClz (gd : Guard) (d a : SReg) : State → Out := setReg gd 4 d fun s => clzResult (s.rdS a)
def execCtz (gd : Guard) (d a : SReg) : State → Out := setReg gd 4 d fun s => ctzResult (s.rdS a)
def execPopc (gd : Guard) (d a : SReg) : State → Out := setReg gd 4 d fun s => popcResult (s.rdS a)
def execBrev (gd : Guard) (d a : SReg) : State → Out := setReg gd 4 d fun s => brevResult (s.rdS a)
def execBswap (gd : Guard) (d a : SReg) : State → Out := setReg gd 4 d fun s => bswapResult (s.rdS a)

/-! ## Immediate forms (R196) -/

/-- sx(IMM9, 9) mod 2^64. -/
def imm9 (i : BitVec 9) : Word := i.signExtend 64

def execAddi (gd : Guard) (d a : SReg) (i : BitVec 9) : State → Out := setReg gd 4 d fun s => s.rdS a + imm9 i
def execAndi (gd : Guard) (d a : SReg) (i : BitVec 9) : State → Out := setReg gd 4 d fun s => s.rdS a &&& imm9 i
def execOri (gd : Guard) (d a : SReg) (i : BitVec 9) : State → Out := setReg gd 4 d fun s => s.rdS a ||| imm9 i
def execXori (gd : Guard) (d a : SReg) (i : BitVec 9) : State → Out := setReg gd 4 d fun s => s.rdS a ^^^ imm9 i
def execMuli (gd : Guard) (d a : SReg) (i : BitVec 9) : State → Out := setReg gd 4 d fun s => s.rdS a * imm9 i
def execSlli (gd : Guard) (d a : SReg) (i : Fin 64) : State → Out :=
  setReg gd 4 d fun s => sllResult (s.rdS a) (BitVec.ofNat 64 i.val)
def execSrli (gd : Guard) (d a : SReg) (i : Fin 64) : State → Out :=
  setReg gd 4 d fun s => srlResult (s.rdS a) (BitVec.ofNat 64 i.val)
def execSrai (gd : Guard) (d a : SReg) (i : Fin 64) : State → Out :=
  setReg gd 4 d fun s => sraResult (s.rdS a) (BitVec.ofNat 64 i.val)

/-! ## Long constants and bit fields (R197, R198) -/

/-- sx(IMM32, 32) mod 2^64. -/
def imm32 (v : BitVec 32) : Word := v.signExtend 64

def execLi (gd : Guard) (d : SReg) (v : BitVec 32) : State → Out := setReg gd 8 d fun _ => imm32 v
def execLih (gd : Guard) (d a : SReg) (v : BitVec 32) : State → Out := setReg gd 8 d fun s => lihResult (s.rdS a) v
def execAddl (gd : Guard) (d a : SReg) (v : BitVec 32) : State → Out := setReg gd 8 d fun s => s.rdS a + imm32 v
def execExt (gd : Guard) (d a : SReg) (pos w1 : Fin 64) : State → Out :=
  setReg gd 8 d fun s => extResult (s.rdS a) pos.val (w1.val + 1)
def execExtu (gd : Guard) (d a : SReg) (pos w1 : Fin 64) : State → Out :=
  setReg gd 8 d fun s => extuResult (s.rdS a) pos.val (w1.val + 1)
/-- `dep` reads its destination. -/
def execDep (gd : Guard) (d a : SReg) (pos w1 : Fin 64) : State → Out :=
  setReg gd 8 d fun s => depResult (s.rdS d) (s.rdS a) pos.val (w1.val + 1)

end Sys2Proof.Machine
end

