-- ==== Sys2Proof/Machine/Aes.lean ====
section
/-! DEFINITION. AES-256-XTS over a 64-byte line, as IEEE 1619 defines it (R99), with AES-256 as FIPS 197 does, which IEEE 1619 rests on.
A block is 16 bytes as numbers, first byte first; bytes of a key lie little-endian in its number (notes/assumptions/14.md). -/
namespace Sys2Proof.Machine

/-- The S-box, entry 0 in the low byte. -/
def sboxWord : Nat :=
  0x16bb54b00f2d99416842e6bf0d89a18cdf2855cee9871e9b948ed9691198f8e19e1dc186b95735610ef6034866b53e708a8bbd4b1f74dde8c6b4a61c2e2578ba08ae7a65eaf4566ca94ed58d6d37c8e779e4959162acd3c25c2406490a3a32e0db0b5ede14b8ee4688902a22dc4f816073195d643d7ea7c41744975fec130ccdd2f3ff1021dab6bcf5389d928f40a351a89f3c507f02f94585334d43fbaaefd0cf584c4a39becb6a5bb1fc20ed00d153842fe329b3d63b52a05a6e1b1a2c830975b227ebe28012079a059618c323c7041531d871f1e5a534ccf73f362693fdb7c072a49cafa2d4adf04759fa7dc982ca76abd7fe2b670130c56f6bf27b777c63

/-- The inverse S-box, entry 0 in the low byte. -/
def invSboxWord : Nat :=
  0x7d0c2155631469e126d677ba7e042b17619953833cbbebc8b0f52aae4d3be0a0ef9cc9939f7ae52d0d4ab519a97f51605fec8027591012b131c7078833a8dd1ff45acd78fec0db9a2079d2c64b3e56fc1bbe18aa0e62b76f89c5291d711af1476edf751ce837f9e28535ade72274ac9673e6b4f0cecff297eadc674f4111913a6b8a130103bdafc1020f3fca8f1e2cd00645b3b80558e4f70ad3bc8c00abd890849d8da75746155edab9edfd5048706c92b6655dcc5ca4d41698688664f6f87225d18b6d49a25b76b224d92866a12e084ec3fa420b954cee3d23c2a632947b54cbe9dec444438e3487ff2f9b8239e37cfbd7f3819ea340bf38a53630d56a0952

def subByte (b : Nat) : Nat := bitsAt sboxWord (8 * b) 8
def invSubByte (b : Nat) : Nat := bitsAt invSboxWord (8 * b) 8

/-- Bytewise exclusive or. -/
def xorBytes (a b : List Nat) : List Nat := List.zipWith (fun x y => x ^^^ y) a b

/-- Multiplication by x in GF(2^8). -/
def gmul2 (a : Nat) : Nat := if a < 128 then 2 * a else (2 * a) ^^^ 0x11B

/-- Multiplication by a number of at most four bits in GF(2^8). -/
def gmul (n a : Nat) : Nat :=
  (if bitAt n 0 then a else 0) ^^^ (if bitAt n 1 then gmul2 a else 0) ^^^ (if bitAt n 2 then gmul2 (gmul2 a) else 0) ^^^
    (if bitAt n 3 then gmul2 (gmul2 (gmul2 a)) else 0)

/-- ShiftRows, or its inverse. -/
def shiftRows (inv : Bool) (b : List Nat) : List Nat :=
  (List.range 16).map fun k => nth 0 b (k % 4 + 4 * ((k / 4 + (if inv then 4 - k % 4 else k % 4)) % 4))

/-- MixColumns, or its inverse: the coefficient of a column's byte `j` places on. -/
def mixColumns (inv : Bool) (b : List Nat) : List Nat :=
  let coef := if inv then [14, 11, 13, 9] else [2, 3, 1, 1]
  (List.range 16).map fun k =>
    ([0, 1, 2, 3].map fun j => gmul (nth 0 coef j) (nth 0 b (k / 4 * 4 + (k + j) % 4))).foldl (fun x y => x ^^^ y) 0

/-- The words of the key schedule after the first eight: round `i`, the last eight words. -/
def keyWords : Nat → Nat → List (List Nat) → List (List Nat)
  | 0, _, _ => []
  | fuel + 1, i, win =>
    let last := nth [] win 7
    let t :=
      if i % 8 = 0 then xorBytes ([1, 2, 3, 0].map fun j => subByte (nth 0 last j)) [2 ^ (i / 8 - 1), 0, 0, 0]
      else if i % 8 = 4 then last.map subByte
      else last
    let w := xorBytes (nth [] win 0) t
    w :: keyWords fuel (i + 1) (win.drop 1 ++ [w])

/-- The 15 round keys of a 256-bit key. -/
def roundKeys (key : Nat) : List (List Nat) :=
  let w0 := (List.range 8).map fun i => (List.range 4).map fun j => bitsAt key (32 * i + 8 * j) 8
  let ws := w0 ++ keyWords 52 8 w0
  (List.range 15).map fun r => (List.range 4).flatMap fun j => nth [] ws (4 * r + j)

/-- AES-256 encryption of a block under its round keys. -/
def aesEnc (ks : List (List Nat)) (b : List Nat) : List Nat :=
  let r := (List.range 13).foldl (fun b r => xorBytes (mixColumns false (shiftRows false (b.map subByte))) (nth [] ks (r + 1)))
    (xorBytes b (nth [] ks 0))
  xorBytes (shiftRows false (r.map subByte)) (nth [] ks 14)

/-- AES-256 decryption of a block under its round keys. -/
def aesDec (ks : List (List Nat)) (b : List Nat) : List Nat :=
  let r := (List.range 13).foldl (fun b r => mixColumns true (xorBytes ((shiftRows true b).map invSubByte) (nth [] ks (13 - r))))
    (xorBytes b (nth [] ks 14))
  xorBytes ((shiftRows true r).map invSubByte) (nth [] ks 0)

/-- The tweak of block `j`: the encrypted tweak times the `j`-th power of x in GF(2^128). -/
def tweakAt (t : Nat) : Nat → Nat
  | 0 => t
  | j + 1 =>
    let u := tweakAt t j
    if u < 2 ^ 127 then 2 * u else (2 * u - 2 ^ 128) ^^^ 0x87

/-- The bytes of a block as numbers, from its little-endian number. -/
def blockOf (x : Nat) : List Nat := (List.range 16).map fun k => bitsAt x (8 * k) 8

/-- A 64-byte line encrypted or decrypted under a slot's keys, the data key low and the tweak key high, and a tweak (R99). -/
def xtsLine (dec : Bool) (key tweak : Nat) (bs : List Byte) : List Byte :=
  let ks := roundKeys (key % 2 ^ 256)
  let t := leNat ((aesEnc (roundKeys (key / 2 ^ 256 % 2 ^ 256)) (blockOf tweak)).map (BitVec.ofNat 8))
  (List.range 4).flatMap fun j =>
    let tw := blockOf (tweakAt t j)
    let p := xorBytes (((bs.drop (16 * j)).take 16).map (·.toNat)) tw
    (xorBytes (if dec then aesDec ks p else aesEnc ks p) tw).map (BitVec.ofNat 8)

end Sys2Proof.Machine
end

