-- ==== Sys2Proof/Machine/Formats.lean ====
section
/-! DEFINITION. Data formats: the value of every code (R43-R58) and the encoding of a value into a format (R60-R64). -/
namespace Sys2Proof.Machine

/-! ## Values -/

/-- NaN, an infinity, or (-1)^neg * m * 2^e. A zero keeps its sign. -/
inductive Val where
  | nan
  | inf (neg : Bool)
  | fin (neg : Bool) (m : Nat) (e : Int)
deriving DecidableEq, Repr, Inhabited

/-- A value, or with `sticky` a real strictly between m and m + 1 units of 2^e in magnitude. -/
structure Real where
  v      : Val
  sticky : Bool := false
deriving DecidableEq, Repr, Inhabited

def Val.zero : Val := .fin false 0 0
def Val.isNan : Val → Bool
  | .nan => true | _ => false
def Val.isInf : Val → Bool
  | .inf _ => true | _ => false
def Val.isZero : Val → Bool
  | .fin _ m _ => m == 0 | _ => false
def Val.sign : Val → Bool
  | .nan => false | .inf n => n | .fin n _ _ => n
def Val.neg : Val → Val
  | .nan => .nan | .inf n => .inf (!n) | .fin n m e => .fin (!n) m e
def Val.abs : Val → Val
  | .nan => .nan | .inf _ => .inf false | .fin _ m e => .fin false m e

/-- Magnitudes of two finite values on one exponent. -/
def align (m : Nat) (e : Int) (n : Nat) (f : Int) : Nat × Nat × Int :=
  if e ≤ f then (m, n * 2 ^ (f - e).toNat, e) else (m * 2 ^ (e - f).toNat, n, f)

/-- Exact product; an infinity times a zero is NaN (R58). -/
def Val.mul : Val → Val → Val
  | .nan, _ => .nan
  | _, .nan => .nan
  | .inf a, .inf b => .inf (a ^^ b)
  | .inf a, .fin b m _ => if m = 0 then .nan else .inf (a ^^ b)
  | .fin a m _, .inf b => if m = 0 then .nan else .inf (a ^^ b)
  | .fin a m e, .fin b n f => .fin (a ^^ b) (m * n) (e + f)

/-- Exact sum; opposite infinities give NaN; an exact zero sum of unlike signs is +0, or -0 when `rdn`. -/
def Val.add (rdn : Bool) : Val → Val → Val
  | .nan, _ => .nan
  | _, .nan => .nan
  | .inf a, .inf b => if a = b then .inf a else .nan
  | .inf a, .fin _ _ _ => .inf a
  | .fin _ _ _, .inf b => .inf b
  | .fin a m e, .fin b n f =>
    let (x, y, g) := align m e n f
    if a = b then .fin a (x + y) g
    else if x = y then .fin rdn 0 g
    else if y < x then .fin a (x - y) g
    else .fin b (y - x) g

/-- -1, 0 or 1 as the first is less, equal or greater; NaN compares as none. Zeros are equal. -/
def Val.cmp : Val → Val → Option Int
  | .nan, _ => none
  | _, .nan => none
  | .inf a, .inf b => some (if a = b then 0 else if a then -1 else 1)
  | .inf a, .fin _ _ _ => some (if a then -1 else 1)
  | .fin _ _ _, .inf b => some (if b then 1 else -1)
  | .fin a m e, .fin b n f =>
    let (x, y, _) := align m e n f
    let i : Int := if a then -(x : Int) else x
    let j : Int := if b then -(y : Int) else y
    some (if i < j then -1 else if i = j then 0 else 1)

def Val.lt (a b : Val) : Bool := a.cmp b == some (-1)

/-- An integer as a value. -/
def Val.ofInt (i : Int) : Val := .fin (decide (i < 0)) i.natAbs 0

/-! ## Formats (R43) -/

/-- A floating format: exponent width, trailing bits, bias, sign bit, IEEE codes, infinities. -/
structure Fp where
  w      : Nat
  t      : Nat
  bias   : Int
  signed : Bool
  ieee   : Bool
  ext    : Bool
deriving DecidableEq, Repr, Inhabited

/-- What a tag names (R43). -/
inductive Fmt where
  | fp (f : Fp)
  | int (signed : Bool) (n : Nat)
  | cplx (f : Fp)
  | scl
  | opq
deriving DecidableEq, Repr, Inhabited

def fp16 : Fp := ⟨5, 10, 15, true, true, true⟩
def bf16 : Fp := ⟨8, 7, 127, true, true, true⟩
def fp32 : Fp := ⟨8, 23, 127, true, true, true⟩
def fp64 : Fp := ⟨11, 52, 1023, true, true, true⟩

/-- A binary8 format of precision `p` (R46). -/
def binary8 (p : Nat) (unsigned ext : Bool) : Fp :=
  if unsigned then ⟨9 - p, p - 1, 2 ^ (8 - p), false, false, ext⟩ else ⟨8 - p, p - 1, 2 ^ (7 - p), true, false, ext⟩

/-- The format of a tag; `none` for a reserved tag (R43, R44). -/
def fmtOf (tag : Nat) : Option Fmt :=
  if tag < 0x40 then
    if tag % 16 = 0 ∨ 8 ≤ tag % 16 then none
    else some (.fp (binary8 (tag % 8) (bitAt tag 5) (bitAt tag 4)))
  else match tag with
    | 0x40 => some (.int true 4) | 0x41 => some (.int false 4) | 0x42 => some (.int true 8) | 0x43 => some (.int false 8)
    | 0x44 => some (.int true 32) | 0x45 => some (.int true 64)
    | 0x80 => some (.fp fp16) | 0x81 => some (.fp bf16) | 0x82 => some (.fp fp32) | 0x83 => some (.fp fp64)
    | 0x84 => some .scl
    | 0xC0 => some (.cplx fp32) | 0xC1 => some (.cplx fp64) | 0xF0 => some .opq
    | _ => none

/-- Bits of a floating code. -/
def Fp.bits (f : Fp) : Nat := f.w + f.t + b2n f.signed

/-- esize_bits(tag): 0 for a reserved tag (R43, R186). -/
def esizeBits (tag : Nat) : Nat :=
  match fmtOf tag with
  | some (.fp f) => f.bits
  | some (.int _ n) => n
  | some (.cplx f) => 2 * f.bits
  | some .scl => 8
  | some .opq => 8
  | none => 0

/-- Whole bytes of an element; 4-bit elements count as one (R23). -/
def esizeBytes (tag : Nat) : Nat := if esizeBits tag = 4 then 1 else esizeBits tag / 8

def isReserved (tag : Nat) : Bool := (fmtOf tag).isNone

/-- Tags of the 8-bit class: binary8 and the 4- and 8-bit integers (R57, R250). -/
def is8bit (tag : Nat) : Bool := (tag < 0x40 && !isReserved tag) || (0x40 ≤ tag && tag ≤ 0x43)

/-! ## fvalue (R46, R49, R51, R53, R56) -/

/-- Value of exponent field `e` and trailing field `f`. -/
def Fp.valueOf (p : Fp) (neg : Bool) (e f : Nat) : Val :=
  if e = 0 then .fin neg f (1 - p.bias - p.t) else .fin neg (2 ^ p.t + f) ((e : Int) - p.bias - p.t)

/-- The value of code `x`. -/
def Fp.value (p : Fp) (x : Nat) : Val :=
  let f := bitsAt x 0 p.t
  let e := bitsAt x p.t p.w
  if p.ieee then
    let neg := bitAt x (p.w + p.t)
    if e = 2 ^ p.w - 1 then (if f = 0 then .inf neg else .nan) else p.valueOf neg e f
  else if p.signed then
    if x % 256 = 0x80 then .nan
    else if p.ext && x % 256 == 0x7F then .inf false
    else if p.ext && x % 256 == 0xFF then .inf true
    else p.valueOf (bitAt x 7) e f
  else
    if x % 256 = 0xFF then .nan
    else if p.ext && x % 256 == 0xFE then .inf false
    else p.valueOf false e f

/-- The value of a code of a real tag; NaN for tags with no one real value. -/
def fvalue (tag x : Nat) : Val :=
  match fmtOf tag with
  | some (.fp f) => f.value x
  | some (.int sg n) => if sg then Val.ofInt (sx x n) else .fin false (bitsAt x 0 n) 0
  | some .scl => if x % 256 = 0xFF then .nan else .fin false 1 ((x % 256 : Nat) - 127)
  | _ => .nan

/-! ## Characteristic codes (R47, R48, R51, R52) -/

/-- The canonical NaN. -/
def Fp.nanCode (p : Fp) : Nat :=
  if p.ieee then (2 ^ p.w - 1) * 2 ^ p.t + 2 ^ (p.t - 1) else if p.signed then 0x80 else 0xFF
/-- Code of the largest finite magnitude. -/
def Fp.maxCode (p : Fp) : Nat :=
  if p.ieee then (2 ^ p.w - 1) * 2 ^ p.t - 1
  else if p.signed then (if p.ext then 0x7E else 0x7F) else (if p.ext then 0xFD else 0xFE)
/-- Code of an infinity. -/
def Fp.infCode (p : Fp) (neg : Bool) : Nat :=
  if p.ieee then (2 ^ p.w - 1) * 2 ^ p.t + b2n neg * 2 ^ (p.w + p.t)
  else if p.signed then (if neg then 0xFF else 0x7F) else 0xFE
def Fp.max (p : Fp) : Val := p.value p.maxCode
/-- A magnitude's code with a sign. -/
def Fp.signedCode (p : Fp) (neg : Bool) (x : Nat) : Nat := if p.signed then x + b2n neg * 2 ^ (p.w + p.t) else x

/-! ## Rounding (R60) -/

/-- Rounding directions (R177). -/
inductive Rnd where | rne | rtz | rup | rdn | sr
deriving DecidableEq, Repr, Inhabited

def rndOf : Nat → Rnd
  | 0 => .rne | 1 => .rtz | 2 => .rup | 3 => .rdn | _ => .sr

/-- A magnitude lo + rem / 2^sh (plus less than one unit of 2^-sh when sticky) rounded to lo or lo + 1; `hiEven` settles a tie. -/
def roundUp (d : Rnd) (neg : Bool) (rem sh : Nat) (sticky hiEven : Bool) (r : Nat) : Bool :=
  match d with
  | .rtz => false
  | .rup => !neg && (rem != 0 || sticky)
  | .rdn => neg && (rem != 0 || sticky)
  | .sr => decide (r < rem * 2 ^ 32 / 2 ^ sh)
  | .rne => decide (2 ^ sh < 2 * rem) || (2 * rem == 2 ^ sh && (sticky || hiEven))

/-- The result of rounding a magnitude: k * 2^q, and whether it was exact. -/
structure Rounded where
  k     : Nat
  q     : Int
  exact : Bool
deriving DecidableEq, Repr, Inhabited

/-- A magnitude m * 2^e rounded to the set S∞ of a format (R60). With no trailing bits a tie goes to the even biased exponent, the
next exponent above the largest counting as even and winning the tie (DEDUCED: notes/assumptions/20.md). -/
def Fp.round (p : Fp) (d : Rnd) (r : Nat) (neg : Bool) (m : Nat) (e : Int) (sticky : Bool) : Rounded :=
  if m = 0 then ⟨0, 1 - p.bias - p.t, !sticky⟩
  else
    let l : Int := e + (Nat.log2 m : Nat)
    let q : Int := (if l < 1 - p.bias then 1 - p.bias else l) - p.t
    if q ≤ e then ⟨m * 2 ^ (e - q).toNat, q, true⟩
    else
      let sh := (q - e).toNat
      let lo := m / 2 ^ sh
      let rem := m % 2 ^ sh
      let hiEven :=
        if p.t = 0 then
          if lo = 0 then false
          else decide (Val.cmp (.fin false (lo + 1) q) p.max = some 1) || (q + p.bias) % 2 == 1
        else lo % 2 == 1
      ⟨if roundUp d neg rem sh sticky hiEven r then lo + 1 else lo, q, rem == 0 && !sticky⟩

/-- The code of k * 2^q, a member of S∞ not above the largest finite value. -/
def Fp.codeOf (p : Fp) (k : Nat) (q : Int) : Nat :=
  if k < 2 ^ p.t then k
  else if 2 ^ (p.t + 1) ≤ k then (q + 1 + p.t + p.bias).toNat * 2 ^ p.t + (k / 2 - 2 ^ p.t)
  else (q + p.t + p.bias).toNat * 2 ^ p.t + (k - 2 ^ p.t)

/-- Encoding into a floating format: the code and its events (R61, R64). -/
def Fp.encode (p : Fp) (x : Real) (d : Rnd) (sat : Bool) (r : Nat) : Nat × Ev :=
  match x.v with
  | .nan => (p.nanCode, { nanIn := true })
  | .inf neg =>
    if neg && !p.signed then
      if sat then (0, { overflow := true, inexact := true }) else (p.nanCode, { invalid := true, inexact := true })
    else if sat then (p.signedCode neg p.maxCode, { overflow := true, inexact := true })
    else if p.ext then (p.infCode neg, {})
    else (p.nanCode, { invalid := true, inexact := true })
  | .fin neg m e =>
    let u := p.round d r neg m e x.sticky
    if u.k = 0 then (if p.ieee then p.signedCode neg 0 else 0, { inexact := !u.exact })
    else if neg && !p.signed then
      if sat then (0, { inexact := true }) else (p.nanCode, { invalid := true, inexact := true })
    else if Val.cmp (.fin false u.k u.q) p.max = some 1 then
      if sat then (p.signedCode neg p.maxCode, { overflow := true, inexact := true })
      else if p.ext then
        let inf := match d with
          | .rne => true | .sr => true | .rtz => false | .rup => !neg | .rdn => neg
        (if inf then p.infCode neg else p.signedCode neg p.maxCode, { overflow := true, inexact := true })
      else (p.nanCode, { invalid := true, overflow := true, inexact := true })
    else
      (p.signedCode neg (p.codeOf u.k u.q),
       { inexact := !u.exact, underflow := !u.exact && decide (Val.cmp (.fin false u.k u.q) (.fin false 1 (1 - p.bias)) = some (-1)) })

/-- Encoding into an integer format (R62). -/
def intEncode (sg : Bool) (n : Nat) (x : Real) (d : Rnd) (sat : Bool) (r : Nat) : Nat × Ev :=
  let hi : Int := if sg then 2 ^ (n - 1) - 1 else 2 ^ n - 1
  let lo : Int := if sg then -(2 ^ (n - 1)) else 0
  let code (i : Int) : Nat := (i % (2 ^ n : Int)).toNat
  match x.v with
  | .nan => (0, { nanIn := true, invalid := true, inexact := true })
  | .inf neg => (code (if neg then lo else hi), { invalid := true, overflow := true, inexact := true })
  | .fin neg m e =>
    let (k, exact) : Nat × Bool :=
      if 0 ≤ e then (m * 2 ^ e.toNat, !x.sticky)
      else
        let sh := (-e).toNat
        let rem := m % 2 ^ sh
        (if roundUp d neg rem sh x.sticky (m / 2 ^ sh % 2 == 1) r then m / 2 ^ sh + 1 else m / 2 ^ sh, rem == 0 && !x.sticky)
    let i : Int := if neg then -(k : Int) else k
    if hi < i ∨ i < lo then
      (code (if sat then (if hi < i then hi else lo) else i), { overflow := true, inexact := true })
    else (code i, { inexact := !exact })

/-- fencode(tag, v, rnd, sat, r) for a real tag (R60-R64); `scl8` and `opaque` are no targets (R63). -/
def fencode (tag : Nat) (x : Real) (d : Rnd) (sat : Bool) (r : Nat) : Nat × Ev :=
  match fmtOf tag with
  | some (.fp f) => f.encode x d sat r
  | some (.int sg n) => intEncode sg n x d sat r
  | _ => (0, {})

/-! ## Helpers shared by stores, updates and amax -/

/-- A stored floating code with every NaN canonical (R52, R216). -/
def Fp.canon (p : Fp) (x : Nat) : Nat := if (p.value x).isNan then p.nanCode else x % 2 ^ p.bits

/-- The element bits a store of `x` writes under a tag (R216). -/
def storeBits (tag x : Nat) : Nat :=
  match fmtOf tag with
  | some (.fp f) => if f.ieee then f.canon x else x % 2 ^ f.bits
  | some (.int _ n) => x % 2 ^ n
  | some (.cplx f) => f.canon (x % 2 ^ f.bits) + f.canon (x / 2 ^ f.bits) * 2 ^ f.bits
  | _ => x % 256

/-- The register value a load of element bits gives (R216). -/
def loadBits (tag x : Nat) : Word :=
  match fmtOf tag with
  | some (.int true n) => wrap64 (sx x n)
  | _ => BitVec.ofNat 64 x

/-- The op helper of R90 on element codes: integer add wraps, floating add rounds RNE with no saturation, min and max order -0 below
+0, a NaN operand gives the canonical NaN. -/
def opHelper (op : UOp) (tag a b : Nat) : Nat :=
  match fmtOf tag with
  | some (.int sg n) =>
    match op with
    | .add => (a + b) % 2 ^ n
    | .min => if (if sg then sx a n else a) ≤ (if sg then sx b n else (b : Int)) then a else b
    | .max => if (if sg then sx a n else a) ≤ (if sg then sx b n else (b : Int)) then b else a
  | some (.fp f) =>
    let x := f.value a
    let y := f.value b
    if x.isNan || y.isNan then f.nanCode
    else match op with
    | .add => (f.encode ⟨x.add false y, false⟩ .rne false 0).1
    | .min => if x.lt y || (x.cmp y == some 0 && x.sign) then f.canon a else f.canon b
    | .max => if y.lt x || (x.cmp y == some 0 && !x.sign) then f.canon a else f.canon b
  | _ => b

/-- An amax register after an update by a value (R66). -/
def amaxUpdate (mx : Word) (x : Val) : Word :=
  match x with
  | .nan => mx ||| BitVec.ofNat 64 (2 ^ 32)
  | v =>
    let m := (fp32.encode ⟨v.abs, false⟩ .rup false 0).1
    if bitsAt mx.toNat 0 32 < m then BitVec.ofNat 64 (setBits mx.toNat 0 32 m) else mx

/-- An amax register with an update that was taken from a register of zero: the greater magnitude, and either's NaN bit (R66). -/
def amaxMerge (mx u : Word) : Word :=
  let m := Nat.max (bitsAt mx.toNat 0 32) (bitsAt u.toNat 0 32)
  BitVec.ofNat 64 (setBits mx.toNat 0 32 m) ||| (u &&& BitVec.ofNat 64 (2 ^ 32))

/-- Is an amax image malformed (R70)? -/
def amaxBad (x : Word) : Bool := bitAt x.toNat 31 || (fp32.value (bitsAt x.toNat 0 32)).isNan || decide (2 ^ 33 ≤ x.toNat)

end Sys2Proof.Machine
end

