-- ==== Sys2Proof/Machine/Race.lean ====
section
/-! DEFINITION. Release counts and frontiers (R118), phase stamps and the race check (R119-R121). -/
namespace Sys2Proof.Machine

/-! ## Frontiers (R118) -/

/-- The count a frontier holds for an agent. -/
def Frontier.count (f : Frontier) (a : Nat) : Option Nat := (f.ents.find? fun e => e.1 == a).map (·.2)

/-- One pair merged in: the larger count is kept; a new agent that finds no free entry sets SAT. -/
def Frontier.merge1 (f : Frontier) (p : Nat × Nat) : Frontier :=
  match f.count p.1 with
  | some _ => { f with ents := f.ents.map fun e => if e.1 == p.1 then (e.1, Nat.max e.2 p.2) else e }
  | none => if f.ents.length < 16 then { f with ents := f.ents ++ [p] } else { f with sat := true }

/-- A frontier merged into another; SAT is handed on. -/
def Frontier.merge (f g : Frontier) : Frontier :=
  let h := g.ents.foldl Frontier.merge1 f
  { h with sat := h.sat || g.sat }

/-- What a release side hands on: the pair and the frontier, after RC has been incremented. -/
def Clock.pass (k : Clock) (agent : Nat) : Pass := ⟨agent, k.rc, k.fr⟩

/-- The acquire side's merge of a handed-on pair and frontier. -/
def Clock.acquire (k : Clock) (p : Pass) : Clock := { k with fr := (k.fr.merge1 (p.agent, p.rc)).merge p.fr }

/-- A handed-on pair and frontier as one frontier (semaphores, gussets, groups, locations). -/
def Frontier.take (f : Frontier) (p : Pass) : Frontier := (f.merge1 (p.agent, p.rc)).merge p.fr

/-! ## Frontiers carried by locations (R109, R118) -/

/-- The agents that a location's frontier has entries for. -/
def relAgents (rs : List Rel) : List Nat := (rs.flatMap fun r => r.fr.ents.map (·.1)).eraseDups

/-- A location's releases with what one more hands on: the location has 16 entries in all, an entry for a new agent that finds none free is
dropped and sets SAT, and SAT is every reader's. -/
def addRel (rs : List Rel) (agent : Nat) (scope : Scope) (f : Frontier) : List Rel :=
  let same := fun q : Rel => q.agent == agent && q.scope == scope
  let all := ((rs.find? same).elim Frontier.empty (·.fr)).merge f
  let had := relAgents rs
  let kept := all.ents.foldl (fun (k : List (Nat × Nat)) e =>
    if had.contains e.1 || decide (had.length + (k.filter fun x => !had.contains x.1).length < 16) then k ++ [e] else k) []
  let sat := all.sat || decide (kept.length < all.ents.length) || rs.any (·.fr.sat)
  let mine : Rel := { agent := agent, scope := scope, fr := { ents := kept, sat := sat } }
  ((rs.filter fun q => !same q) ++ [mine]).map fun q => { q with fr := { q.fr with sat := sat } }

/-- A bare frontier acquired. -/
def Clock.join (k : Clock) (f : Frontier) : Clock := { k with fr := k.fr.merge f }

/-- The completion of a superstep wait at level `l` (R117, R118): the view takes the new generation, and a saturated frontier is
emptied with CLR recording the levels above. -/
def Clock.superstep (k : Clock) (l : Nat) (views : List Nat) : Clock :=
  let k := { k with views := views }
  if k.fr.sat then { k with fr := .empty, clr := (List.range 7).map fun j => if l < j then some (nth 0 views j) else none } else k

/-! ## Stamps (R119) -/

/-- The 280-bit image of a stamp. W_AGENT and W_RC after a lazy reset, and the reader slots not in use, read 0: DESIGN CHOICE, R119 does
not say (notes/assumptions/59.md). -/
def Stamp.image (g : Stamp) : Nat :=
  g.dom + g.gen * 2 ^ 13 + b2n g.wValid * 2 ^ 45 + g.wAgent * 2 ^ 46 + g.wRc * 2 ^ 60 + g.rd.length * 2 ^ 92 +
    b2n g.shared * 2 ^ 95 +
    ((List.range 4).map fun k => match g.rd[k]? with
      | some (a, c) => (a + c * 2 ^ 14) * 2 ^ (96 + 46 * k)
      | none => 0).sum

/-! ## The check (R120) -/

/-- Why a check fails: KIND, the earlier agent and its release count (R124). -/
structure Raced where
  kind  : Nat
  prior : Nat
  rc    : Nat
deriving DecidableEq, Repr, Inhabited

/-- The lazy reset (R117, R120). -/
def Stamp.fresh (g : Stamp) (dom v : Nat) : Stamp :=
  if g.dom ≠ dom ∨ g.gen < v then ⟨dom, v, false, 0, 0, false, []⟩ else g

/-- Does agent `b` know, or leave unchecked, an access of agent `a` at count `c`? -/
def passes (b : Nat) (k : Clock) (lvl v a c : Nat) : Bool :=
  a == b ||
  (match k.fr.count a with
    | some n => decide (c < n)
    | none => k.fr.sat) ||
  nth none k.clr lvl == some v

/-- The check of an access by agent `b` against a stamp; `more` and `moreShared` are the reader
slots and SHARED bits that a write claim gathers (R116, R121, R122). -/
def checkStamp (b : Nat) (k : Clock) (dom : Nat) (write : Bool) (more : List (Nat × Nat)) (moreShared : Bool) (g : Stamp) : Except Raced Stamp :=
  let lvl := dom / 1024
  let v := nth 0 k.views lvl
  let g := g.fresh dom v
  let ok := passes b k lvl v
  if write then
    if g.shared || moreShared then .error ⟨3, 0, 0⟩
    else if g.wValid && !ok g.wAgent g.wRc then .error ⟨0, g.wAgent, g.wRc⟩
    else match (g.rd ++ more).find? fun e => !ok e.1 e.2 with
      | some e => .error ⟨2, e.1, e.2⟩
      | none => .ok (if k.rc = 0xFFFFFFFF then g else { g with wValid := true, wAgent := b, wRc := k.rc, rd := [] })
  else
    if g.wValid && !ok g.wAgent g.wRc then .error ⟨1, g.wAgent, g.wRc⟩
    else if k.rc = 0xFFFFFFFF then .ok g
    else if g.rd.any fun e => e.1 == b then .ok { g with rd := g.rd.map fun e => if e.1 == b then (b, k.rc) else e }
    else if g.rd.length < 4 then .ok { g with rd := g.rd ++ [(b, k.rc)] }
    else .ok { g with shared := true }

/-- A copy that takes the new writer of a granted claim into its stamp (R116). -/
def Stamp.claimed (g : Stamp) (b : Nat) (k : Clock) (dom : Nat) : Stamp :=
  let v := nth 0 k.views (dom / 1024)
  let g := g.fresh dom v
  if k.rc = 0xFFFFFFFF then g else { g with wValid := true, wAgent := b, wRc := k.rc, rd := [] }

end Sys2Proof.Machine
end

