-- ==== Sys2Proof/Machine/Operands.lean ====
section
/-! DEFINITION. From a handle and a coordinate to a location: handles (R26-R29), layout entries (R19-R24), page walks (R12-R18),
the checks of R35 in their order, and the locations of R31-R34. -/
namespace Sys2Proof.Machine

/-! ## Handle fields (R26, R207) -/

/-- `n` bits from bit `l` of word `w` of a handle. -/
def hbits (h : Handle) (w l n : Nat) : Nat := bitsAt h.toNat (32 * w + l) n
def hLt (h : Handle) : Nat := hbits h 0 0 12
def hValid (h : Handle) : Bool := hbits h 0 12 1 == 1
def hTagRel (h : Handle) : Bool := hbits h 0 13 1 == 1
def hTdim (h : Handle) : Nat := hbits h 0 14 2
def hFmt (h : Handle) : Nat := hbits h 0 16 8
def hTslots (h : Handle) : Nat := hbits h 0 24 8
def hScaleLt (h : Handle) : Nat := hbits h 1 0 12
def hScaleKind (h : Handle) : Nat := hbits h 1 12 2
def hCostKind (h : Handle) : Nat := hbits h 1 14 2
def hCostWeight (h : Handle) : Nat := hbits h 1 16 2
def hTag (h : Handle) : Nat := hbits h 1 18 12
def hOrigin (h : Handle) (d : Nat) : Nat := hbits h (2 + d) 0 32
def hWext (h : Handle) (d : Nat) : Nat := hbits h (6 + d / 2) (16 * (d % 2)) 16

/-- A handle with `n` bits from bit `l` of word `w` replaced. -/
def hset (h : Handle) (w l n v : Nat) : Handle := BitVec.ofNat 256 (setBits h.toNat (32 * w + l) n v)

/-- Position of a field of R207: word, bit, width. -/
def hfield (f : Nat) : Nat × Nat × Nat :=
  match f with
  | 0 => (0, 0, 12) | 1 => (0, 12, 1) | 2 => (0, 13, 1) | 3 => (0, 14, 2) | 4 => (0, 16, 8) | 5 => (0, 24, 8)
  | 6 => (1, 0, 12) | 7 => (1, 12, 2) | 8 => (1, 14, 2) | 9 => (1, 16, 2) | 10 => (1, 18, 12)
  | 11 => (2, 0, 32) | 12 => (3, 0, 32) | 13 => (4, 0, 32) | 14 => (5, 0, 32)
  | 15 => (6, 0, 16) | 16 => (6, 16, 16) | 17 => (7, 0, 16) | 18 => (7, 16, 16)
  | n => (n - 32, 0, 32)

/-- Malformed handles (R27). -/
def hMalformed (h : Handle) : Bool :=
  !hValid h || hbits h 1 30 2 != 0 || hScaleKind h == 3 ||
  (hTagRel h && (hTslots h == 0 || hTag h == 0xFFF)) ||
  (!hTagRel h && (hTslots h != 0 || hTdim h != 0))

/-- The effective origin along a dimension (R29). -/
def hOriginEff (h : Handle) (mt d : Nat) : Nat :=
  if hTagRel h && d == hTdim h then hOrigin h d + ((mt + 4096 - hTag h) % 4096) % hTslots h * (hWext h d + 1) else hOrigin h d

/-- Step 2 of R35: tag binding (R28, R29). -/
def hTagOk (h : Handle) (mt : Nat) : Bool := if hTagRel h then mt != 0xFFF else hTag h == 0xFFF || hTag h == mt

/-- A coordinate. -/
abbrev Coord := List Int

/-- coordM(C, CP, OFF) (R170). -/
def coordM (s : State) (m : MOp) : Coord :=
  if m.cp then
    [(s.me.rdS m.c.val).toInt + m.off.val, (s.me.rdS (m.c.val + 1)).toInt, 0, 0]
  else
    let v := (s.me.rdS m.c.val).toNat
    [(bitsAt v 0 16 : Int) + m.off.val, bitsAt v 16 16, bitsAt v 32 16, bitsAt v 48 16]

/-! ## Who accesses -/

/-- An accessor: its agent number, tower, core (for SPM and domains), context registers and tag, and of a command processor the queue it
serves. -/
structure Who where
  agent : Nat
  tower : Nat
  core  : Option Nat
  ltb   : Nat
  root  : Nat
  mt    : Nat
  sup   : Bool
  queue : Nat
deriving DecidableEq, Repr, Inhabited

/-- CTX_ID of an ASC_ROOT image (R20). -/
def ctxId (root : Nat) : Nat := bitsAt root 40 12
/-- ROOT of an ASC_ROOT image: the address of the level-A table (R20). -/
def rootAddr (root : Nat) : Nat := bitsAt root 11 29 * 2 ^ 11

/-- A stream of a core as accessor; an engine stream acts at job level. -/
def whoStream (s : State) (c : Nat) (x : Stream) : Who :=
  let k := s.core c
  { agent := agentOf c x, tower := towerOf c, core := some c, ltb := k.ascLtb.toNat, root := k.ascRoot.toNat,
    mt := (k.str x).mt, sup := isCtl x && (k.ctl (streamLeader x)).priv, queue := 0 }

/-- The executing control core as accessor. -/
def State.who (s : State) : Who := whoStream s s.cc s.cur.2

/-! ## Layout entries (R21-R23) -/

def ebits (e : Entry) (w l n : Nat) : Nat := bitsAt e (32 * w + l) n
def eValid (e : Entry) : Bool := ebits e 0 0 1 == 1
def eSpace (e : Entry) : Nat := ebits e 0 1 3
def eRelaxed (e : Entry) : Bool := ebits e 0 4 1 == 1
def eFmt (e : Entry) : Nat := ebits e 0 8 8
def eDomLevel (e : Entry) : Nat := ebits e 0 16 3
def eDomInst (e : Entry) : Nat := ebits e 0 19 10
def eRonly (e : Entry) : Bool := ebits e 0 29 1 == 1
def eKey (e : Entry) : Nat := ebits e 1 0 13
def eKeyReq (e : Entry) : Bool := ebits e 1 13 1 == 1
def ePeer (e : Entry) : Nat := ebits e 1 16 10
def ePermMode (e : Entry) : Nat := ebits e 1 26 2
def ePermShift (e : Entry) : Nat := ebits e 1 28 3
def eBase (e : Entry) : Nat := ebits e 2 0 56
def eExt (e : Entry) (d : Nat) : Nat := ebits e (4 + d) 0 32
/-- Signed byte stride of dimensions 1 to 3. -/
def eStride (e : Entry) (d : Nat) : Int := sx (ebits e (6 + 2 * d) 0 64) 64

/-- Bytes of DEV physical memory as a number. The walker and the read of a layout entry have no key: of a line that was written through an
encrypted page they see the bytes that were written, DESIGN CHOICE, as R12 and R21 do not say (notes/assumptions/59.md). -/
def devNat (s : State) (pa n : Nat) : Nat := leNat (memBytes s.mem pa n)

/-- Malformed entries (R23). -/
def eMalformed (e : Entry) : Bool :=
  ebits e 0 5 3 != 0 || ebits e 0 30 2 != 0 || ebits e 1 14 2 != 0 || ebits e 1 31 1 != 0 || ebits e 3 24 8 != 0 ||
  ebits e 14 0 64 != 0 || eSpace e == 7 || eDomLevel e == 7 || ePermMode e == 3 ||
  [0, 1, 2, 3].any (fun d => eExt e d == 0) || eBase e % 64 != 0 ||
  (!isReserved (eFmt e) && [1, 2, 3].any (fun d => eStride e d % (esizeBytes (eFmt e) : Int) != 0)) ||
  (ePermMode e != 0 && 1 < eSpace e) || (eSpace e == 4 && !eRelaxed e) || (eSpace e != 6 && ePeer e != 0)

/-- Entry `n` of the table an ASC_LTB image names, as memory holds it (R19, R21). -/
def ltFresh (s : State) (ltb n : Nat) : Entry := devNat s (bitsAt ltb 18 22 * 2 ^ 18 + 64 * n) 64

/-- Key of a cached layout entry. -/
def ltKey (root n : Nat) : Nat := ctxId root * 4096 + n

/-- lt_entry(n): the memory's contents, or the tower's cached ones where they still differ, the choice being open (R21;
notes/assumptions/10.md). -/
def ltEntry (s : State) (w : Who) (n : Nat) : Entry :=
  let f := ltFresh s w.ltb n
  match find (s.tower w.tower).lcache (ltKey w.root n) with
  | some e => if e ≠ f ∧ Config.freeBit s.freeCtr n then e else f
  | none => f

/-- The tower's layout cache after a use of entry `n`. -/
def cacheLt (s : State) (w : Who) (n : Nat) (e : Entry) : State :=
  let t := s.tower w.tower
  s.setTower w.tower { t with lcache := put t.lcache (ltKey w.root n) e }

/-! ## Page walks (R12-R18) -/

/-- A page-table entry's fields (R14). -/
def pV (p : Nat) : Bool := bitAt p 0
def pLeaf (p : Nat) : Bool := bitAt p 1
def pKind (p : Nat) : Nat := bitsAt p 2 2
def pRd (p : Nat) : Bool := bitAt p 4
def pWr (p : Nat) : Bool := bitAt p 5
def pAt (p : Nat) : Bool := bitAt p 6
def pPeer (p : Nat) : Bool := bitAt p 7
def pEnc (p : Nat) : Bool := bitAt p 8
def pKey (p : Nat) : Nat := bitsAt p 9 13
def pFrame (p : Nat) : Nat := bitsAt p 24 40

/-- Page offset bits by SIZE: 64 KiB, 2 MiB, 1 GiB (R38). -/
def sizeBits : Nat → Nat
  | 0 => 16 | 1 => 21 | _ => 30

/-- A leaf found: its word, its page size code and the DEV address of the entry. -/
structure Leaf where
  pte  : Nat
  size : Nat
  at'  : Nat
deriving DecidableEq, Repr, Inhabited

/-- Index bits of the five levels A to E (R13): low bit, width. -/
def lvlBits : Nat → Nat × Nat
  | 0 => (48, 8) | 1 => (39, 9) | 2 => (30, 9) | 3 => (21, 9) | _ => (16, 5)

/-- The conditions of R15 on an entry at a level, and what follows: a leaf, or the next table's address. A pointer to a table at or above
1 TiB, or not aligned to the table's size, is followed as it stands: DESIGN CHOICE, no bullet of R15 names it (notes/assumptions/59.md). -/
def pteCheck (lvl p : Nat) : Option (Option Nat) :=
  if !pV p || bitsAt p 22 2 != 0 then none
  else if pLeaf p then
    if lvl < 2 then none
    else if lvl = 3 ∧ pFrame p % 2 ^ 5 ≠ 0 then none
    else if lvl = 2 ∧ pFrame p % 2 ^ 14 ≠ 0 then none
    else if pKind p = 3 then none
    else if pKind p = 2 ∧ pEnc p then none
    else if pKind p = 0 ∧ 2 ^ 24 ≤ pFrame p then none
    else if pKind p = 1 ∧ 3 * 2 ^ 24 ≤ pFrame p then none
    else some none
  else if lvl = 4 then none
  else if bitsAt p 2 20 ≠ 0 then none
  else some (some (pFrame p * 2 ^ 8))

/-- A walk from a table at a level; `fuel` is the levels left (R13, R15). -/
def walkFrom (s : State) (va : Nat) : Nat → Nat → Nat → Option Leaf
  | 0, _, _ => none
  | fuel + 1, lvl, tbl =>
    let (l, n) := lvlBits lvl
    let pa := tbl + 8 * bitsAt va l n
    let p := devNat s pa 8
    match pteCheck lvl p with
    | none => none
    | some none => some ⟨p, 4 - lvl, pa⟩
    | some (some t) => walkFrom s va fuel (lvl + 1) t

/-- The five-level walk. -/
def walk (s : State) (root va : Nat) : Option Leaf := walkFrom s va 5 0 (rootAddr root)

/-- Key of a cached translation: context and 64 KiB page. -/
def tcKey (root va : Nat) : Nat := ctxId root * 2 ^ 40 + va / 2 ^ 16

/-- The translation an access uses: the walk's, or the tower's cached one where they differ (R21; notes/assumptions/10.md). -/
def translate (s : State) (tower root va : Nat) : Option (Nat × Nat) :=
  let f := (walk s root va).map fun l => (l.pte, l.size)
  match find (s.tower tower).tcache (tcKey root va) with
  | some c => if some c ≠ f ∧ Config.freeBit s.freeCtr (4096 + va / 2 ^ 16) then some c else f
  | none => f

/-- The tower's translation cache after a use. -/
def cacheTr (s : State) (tower root va : Nat) (x : Nat × Nat) : State :=
  let t := s.tower tower
  s.setTower tower { t with tcache := put t.tcache (tcKey root va) x }

/-- Does a closing or frozen page cover an address of a context (R40, R41)? -/
def frozenAt (s : State) (ctx va : Nat) : Bool :=
  s.closing.any fun p => p.frozen && p.ctx == ctx && p.va / 2 ^ sizeBits p.size == va / 2 ^ sizeBits p.size

/-! ## Domains (R24, R158) -/

/-- The instance of a core at a level, `none` where the level's valid bit is clear. -/
def coreInst (dmr : Nat) (c : Nat) : Nat → Option Nat
  | 0 => some c
  | 1 => some (pairOf c)
  | 2 => some (towerOf c)
  | 3 => some (towerOf c / 4)
  | 4 => if bitAt dmr 30 then some (bitsAt dmr 0 10) else none
  | 5 => if bitAt dmr 31 then some (bitsAt dmr 10 10) else none
  | 6 => if bitAt dmr 32 then some (bitsAt dmr 20 10) else none
  | _ => none

/-- Is the accessor in domain (level, inst)? A command processor counts as a member of its tower and of every level above (R336). -/
def inDomain (s : State) (w : Who) (lvl inst : Nat) : Bool :=
  match w.core with
  | some c => coreInst s.dmr.toNat c lvl == some inst
  | none => decide (2 ≤ lvl) && coreInst s.dmr.toNat (w.tower * 32) lvl == some inst

/-! ## Kinds of access (R10, R25, R35 step 8) -/

/-- Does the accessor pass the domain test of an entry (R24)? A PEER entry's domain is a stage group or the scale-up domain. -/
def domainOk (s : State) (w : Who) (e : Entry) : Bool :=
  (eSpace e != 6 || decide (5 ≤ eDomLevel e)) && inDomain s w (eDomLevel e) (eDomInst e)

/-- Kinds of access. -/
inductive Acc where | load | store | atomic | update | msa
deriving DecidableEq, Repr, Inhabited

/-- Step 8 of R35: is the kind admitted by the space and RONLY? -/
def kindOk (e : Entry) (a : Acc) : Bool :=
  let sp := eSpace e
  match a with
  | .load => sp != 4 && sp != 6
  | .store => sp != 4 && !eRonly e
  | .atomic => sp != 4 && !eRonly e
  | .update => (sp == 2 || sp == 3 || sp == 5) && !eRonly e
  | .msa => sp == 4 && !eRonly e

/-- TINFO's memory form (R362). -/
def tinfo (addr space step : Nat) : Nat := addr % 2 ^ 56 + space * 2 ^ 56 + step * 2 ^ 59

/-- Bank permutation (R32). -/
def permute (e : Entry) (i1 a : Nat) : Nat :=
  let k := i1 / 2 ^ ePermShift e % 32
  let b := bitsAt a 6 5
  let b' := if ePermMode e = 1 then b ^^^ k else if ePermMode e = 2 then (b + k) % 32 else b
  a / 2 ^ 11 * 2 ^ 11 + b' * 2 ^ 6 + a % 2 ^ 6

/-! ## Locations -/

/-- Absolute coordinates within the layout (R31, steps 3 and 6): `none` where a coordinate leaves the window. -/
def inWindow (h : Handle) (c : Coord) : Bool :=
  [0, 1, 2, 3].all fun d => decide (0 ≤ nth 0 c d ∧ nth 0 c d ≤ (hWext h d : Int))

def absCoord (h : Handle) (mt : Nat) (c : Coord) : List Nat :=
  [0, 1, 2, 3].map fun d => hOriginEff h mt d + (nth 0 c d).toNat

/-- The byte address of an absolute coordinate (R31), and the nibble of a 4-bit element. -/
def elemByte (e : Entry) (tag : Nat) (i : List Nat) : Int × Option Bool :=
  let eb := esizeBits tag
  let row : Int := (nth 0 i 1 : Nat) * eStride e 1 + (nth 0 i 2 : Nat) * eStride e 2 + (nth 0 i 3 : Nat) * eStride e 3
  if eb = 4 then ((eBase e : Int) + (nth 0 i 0 / 2 : Nat) + row, some (nth 0 i 0 % 2 == 1))
  else ((eBase e : Int) + (nth 0 i 0 * (eb / 8) : Nat) + row, none)

/-- Step 5 of R35: sizes agree, no reserved tag, `opaque` only with `opaque` (R30, R44, R45), scales only on 8-bit classes (R57).
`okTag` is the operation's own test of the tag
(R219, R221), `spaces` its own list of spaces (R249, R271, R302). -/
def formatOk (h : Handle) (e : Entry) (opq : Bool) (okTag : Nat → Bool) : Bool :=
  let t := hFmt h
  !isReserved t && !isReserved (eFmt e) && esizeBits t == esizeBits (eFmt e) &&
  ((t == 0xF0) == (eFmt e == 0xF0)) && (t != 0xF0 || opq) && (hScaleKind h == 0 || is8bit t) && okTag t

/-- Steps 6 to 9 of R35 for an absolute coordinate. -/
def placeAt (s : State) (w : Who) (n : Nat) (e : Entry) (tag : Nat) (i : List Nat) (a : Acc) (spaces : Nat → Bool := fun _ => true) :
    Chk Place := do
  let sp := eSpace e
  need ([0, 1, 2, 3].all fun d => decide (nth 0 i d < eExt e d)) .bounds (tinfo 0 sp 6)
  need (domainOk s w e) .permission (tinfo 0 sp 7)
  need (kindOk e a && spaces sp) .permission (tinfo 0 sp 8)
  let (b, nib) := elemByte e tag i
  let a0 := b.toNat
  if sp ≤ 1 then
    need (decide (0 ≤ b ∧ b < (if sp = 0 then 2 ^ 22 else 2 ^ 28 : Nat))) .bounds (tinfo (permute e (nth 0 i 1) (b % 2 ^ 56).toNat) sp 9)
    return ⟨sp, n, tag, permute e (nth 0 i 1) a0, a0, nib, esizeBytes tag, e, i⟩
  else
    need (decide (0 ≤ b ∧ b < (2 ^ 56 : Nat))) .translation (tinfo (b % 2 ^ 56).toNat sp 9)
    return ⟨sp, n, tag, a0, a0, nib, esizeBytes tag, e, i⟩

/-- Step 4 of R35: LT_EN set, the entry valid and well formed. -/
def entryOk (ltb : Nat) (e : Entry) : Bool := bitAt ltb 63 && eValid e && !eMalformed e

/-- Steps 1 to 9 of R35 for an access through a handle. -/
def place (s : State) (w : Who) (h : Handle) (c : Coord) (a : Acc) (opq : Bool := false) (okTag : Nat → Bool := fun _ => true)
    (spaces : Nat → Bool := fun _ => true) : Chk Place := do
  need (!hMalformed h) .bounds (tinfo 0 0 1)
  need (hTagOk h w.mt) .permission (tinfo 0 0 2)
  need (inWindow h c) .bounds (tinfo 0 0 3)
  let e := ltEntry s w (hLt h)
  need (entryOk w.ltb e) .translation (tinfo 0 0 4)
  need (formatOk h e opq okTag) .format (tinfo 0 (eSpace e) 5)
  placeAt s w (hLt h) e (hFmt h) (absCoord h w.mt c) a spaces

/-- The place of a scale element (R34): entry SCALE_LT with its own tag, at the scale coordinate. -/
def scalePlace (s : State) (w : Who) (h : Handle) (i : List Nat) (a : Acc := .load) : Chk Place := do
  let e := ltEntry s w (hScaleLt h)
  let kind := hScaleKind h
  need (entryOk w.ltb e) .translation (tinfo 0 0 4)
  need (eFmt e == (if kind = 1 then 0x84 else 0x82)) .format (tinfo 0 (eSpace e) 5)
  placeAt s w (hScaleLt h) e (eFmt e)
    (if kind = 1 then [nth 0 i 0 / 32, nth 0 i 1 / 32, nth 0 i 2, nth 0 i 3] else [nth 0 i 1, nth 0 i 2, nth 0 i 3, 0]) a

/-- Page kind and permission needed (R16, R17): kinds 0 DEV, 1 CAP, 2 HOST. -/
def pageOk (p va : Nat) (space : Nat) (a : Acc) (sup : Bool) : Bool :=
  let kind := if space = 2 ∨ space = 4 then 0 else if space = 3 then 1 else 2
  let perm := match a with
    | .load => pRd p | .store => pWr p | .atomic => pAt p | .update => pWr p | .msa => pWr p
  let safe := pKind p == 1 && decide (2 ^ 41 ≤ pFrame p * 2 ^ 16 + va % 2 ^ 16)
  pKind p == kind && perm && (!safe || (sup && a == .load))

/-- Step 12 of R35 (R18, R100). -/
def keyOk (s : State) (p key : Nat) (req : Bool) : Bool :=
  if pEnc p then key == pKey p && (find s.keys (pKey p)).isSome && !s.keyOut.contains (pKey p) else !req

/-- The physical address in the flat map of a translated address. -/
def physOf (p size va : Nat) : Nat :=
  let b := sizeBits size
  let pa := pFrame p * 2 ^ 16 / 2 ^ b * 2 ^ b + va % 2 ^ b
  match pKind p with
  | 0 => pa
  | 1 => capBase + pa
  | _ => hostBase + pa

/-- The key and tweak a translated access sees its 256-byte line under: the slot's key and the line's virtual address (R18, R99). -/
def viewOf (s : State) (p va : Nat) : Option (Nat × Nat) :=
  if pEnc p then some (look 0 s.keys (pKey p), va / 256 * 256) else none

/-- Home tower of a 256-byte line (R33, R86). -/
def homeOf (flat : Nat) : Nat := bitsAt flat 8 5 ^^^ bitsAt flat 25 5

end Sys2Proof.Machine
end

