-- ==== Sys2Proof/Machine/Access.lean ====
section
/-! DEFINITION. Memory as agents reach it: encrypted lines (R99), update-only lines (R89-R92), the tower L2 (R86-R88), errors (R101,
R378), race checks (R116-R124), scopes, releases and acquires (R107-R111, R136). -/
namespace Sys2Proof.Machine

/-! ## DRAM lines under encryption (R99) -/

/-- The view of the 64-byte line that holds `a`, from the view of its 256-byte line. -/
def lineView (view : Option (Nat × Nat)) (a : Nat) : Option (Nat × Nat) := view.map fun v => (v.1, v.2 + a % 256 / 64 * 64)

/-- A byte as its memory keeps it. -/
def rawByte (s : State) (a : Nat) : Byte :=
  match s.openMem.find? fun r => decide (r.start ≤ a ∧ a < r.start + r.len) with
  | some r => Config.freeByte r.seed (r.off + (a - r.start))
  | none => memRd s.mem a
def rawLine (s : State) (line : Nat) : List Byte := (List.range 64).map fun k => rawByte s (line * 64 + k)

/-- First byte of the checkpoint image in the safe tier (R424). -/
def imageBase : Nat := capBase + 2 ^ 41
/-- Is a line in the image's header, contexts or WSS, which stand under the key of the image with the image offset as tweak (R424, R425)? The
module state's bytes are open as they stand (notes/assumptions/13.md). -/
def imageLine (line : Nat) : Bool :=
  let o := line * 64 - imageBase
  decide (imageBase ≤ line * 64 ∧ o < 14 * 2 ^ 30 + 512 * 2 ^ 20 + 2 ^ 16 ∧ (o < 2 ^ 16 ∨ 2 ^ 28 + 2 ^ 16 ≤ o))

/-- The key and tweak that a line is held under (R99, R425). -/
def cryptAt (s : State) (line : Nat) : Option (Nat × Nat) :=
  match s.imgKey with
  | some k => if imageLine line then some (k, line * 64 - imageBase) else find s.crypt line
  | none => find s.crypt line

/-- A line's bytes as they stand under a view, and as that view reads what stands. -/
def sealLine (view : Option (Nat × Nat)) (bs : List Byte) : List Byte := view.elim bs fun v => xtsLine false v.1 v.2 bs
def openLine (view : Option (Nat × Nat)) (bs : List Byte) : List Byte := view.elim bs fun v => xtsLine true v.1 v.2 bs

/-- The 64 bytes of a line as the DRAM holds them. -/
def storedLine (s : State) (line : Nat) : List Byte := sealLine (cryptAt s line) (rawLine s line)

/-- The 64 bytes of a line as an access under a view sees them. -/
def seenLine (s : State) (view : Option (Nat × Nat)) (line : Nat) : List Byte :=
  if cryptAt s line = view then rawLine s line else openLine view (storedLine s line)

/-- A byte of DRAM or host memory under a view. -/
def physRd (s : State) (view : Option (Nat × Nat)) (a : Nat) : Byte :=
  if cryptAt s (a / 64) = lineView view a then rawByte s a else nth 0 (seenLine s (lineView view a) (a / 64)) (a % 64)

/-- A write that performs at the home of an enabled queue's notify word is a doorbell (R337). -/
def ringBells (a : Nat) (s : State) : State :=
  if s.towers.any fun t => t.2.cpq.any fun q => q.2.w0.toNat % 2 == 1 && q.2.notify / 8 == a / 8 then
    { s with towers := s.towers.map fun t => (t.1, { t.2 with cpq := t.2.cpq.map fun q =>
        (q.1, if q.2.w0.toNat % 2 == 1 && q.2.notify / 8 == a / 8 then { q.2 with bell := true } else q.2) }) }
  else s

/-- A byte written under a view: a line held under another view is read, merged and written whole (R99). A line of the image keeps what it is held
under, with the bytes that then stand as the view has them. -/
def physWr (s : State) (view : Option (Nat × Nat)) (a : Nat) (b : Byte) : State :=
  let s := ringBells a s
  let v := lineView view a
  let old := cryptAt s (a / 64)
  if old = v then { cutOpen a 1 s with mem := memWr s.mem a b }
  else
    let bs := setNth (seenLine s v (a / 64)) (a % 64) b
    let s := cutOpen (a / 64 * 64) 64 s
    if s.imgKey.isSome && imageLine (a / 64) then { s with mem := memStore s.mem (a / 64 * 64) (openLine old (sealLine v bs)) }
    else { s with mem := memStore s.mem (a / 64 * 64) bs, crypt := v.elim (del s.crypt (a / 64)) (put s.crypt (a / 64)) }

def physBytes (s : State) (view : Option (Nat × Nat)) (a n : Nat) : List Byte := (List.range n).map fun k => physRd s view (a + k)
def physStore (s : State) (view : Option (Nat × Nat)) : Nat → List Byte → State
  | _, [] => s
  | a, b :: bs => physStore (physWr s view a b) view (a + 1) bs

/-! ## Releases carried by copies (R109) -/

/-- Releases of a table with those in `[a, a + n)` gone: their sequences end there (R109). -/
def cutRels (a n : Nat) (t : Tbl (List Rel)) : Tbl (List Rel) := t.filter fun e => !(decide (a ≤ e.1 ∧ e.1 < a + n))

/-- Any release that the home's bytes carried is gone. -/
def clearRels (flat n : Nat) (s : State) : State := { s with locs := cutRels flat n s.locs }

/-- The releases a line's home carries, by byte offset. -/
def homeRels (s : State) (line : Nat) : Tbl (List Rel) :=
  (s.locs.filter fun e => decide (e.1 / 256 = line)).map fun e => (e.1 % 256, e.2)

/-! ## Update-only lines (R89-R92) -/

/-- One touched element merged at the home; the write ends the release sequences of its bytes (R109). In the PCI Express mode the home of a HOST
element is the host (R143). -/
def mergeElem (u : ULine) (line : Nat) (s : State) (e : Nat × Nat) : State :=
  let a := line * 256 + e.1
  let n := esizeBytes u.tag
  let old := leNat (physBytes s u.view a n)
  let bs := leBytes n (opHelper u.op u.tag old e.2)
  let s := clearRels a n (physStore (snoop line s) u.view a bs)
  if hostBase ≤ a ∧ hostMode s = 0 then emit (.hostWrite (a - hostBase) bs false) s else s

/-- The tower's update-only line of an address goes to the home and merges (R91). -/
def mergeLine (t line : Nat) (s : State) : State :=
  let w := s.tower t
  match find w.upd line with
  | none => s
  | some u =>
    let s := (repTurn (ObjKind.line.key line) t s).getD s
    (u.vals.foldl (mergeElem u line) s).setTower t { w with upd := del w.upd line }

/-- Towers that hold an update-only line of an address. -/
def holders (s : State) (line : Nat) : List Nat := (s.towers.filter fun e => (find e.2.upd line).isSome).map (·.1)

/-- The logged next merger of a line in replay (R437). -/
def loggedHolder (s : State) (line : Nat) (ts : List Nat) : Option Nat := ts.find? fun t => (repTurn (ObjKind.line.key line) t s).isSome

/-- Merges of the holders in an open order (R92; notes/assumptions/7.md). -/
def recallLoop (line : Nat) : Nat → List Nat → State → State
  | 0, _, s => s
  | _, [], s => s
  | fuel + 1, ts, s =>
    let t := nth 0 ts (Config.freeNat s.freeCtr (line + fuel) % ts.length)
    let t := if repMode s = 2 then (loggedHolder s line ts).getD t else t
    recallLoop line fuel (ts.erase t) (mergeLine t line s)

/-- Can the holders of a line all merge now, each in its logged turn (R437)? -/
def mergesInTurn (line : Nat) : Nat → List Nat → State → Bool
  | 0, _, _ => true
  | _, [], _ => true
  | fuel + 1, ts, s =>
    match loggedHolder s line ts with
    | some t => mergesInTurn line fuel (ts.erase t) ((repTurn (ObjKind.line.key line) t s).getD s)
    | none => false
/-- Must an act that merges a line's holders wait, in replay, for their logged turns? -/
def mergesWait (s : State) (line : Nat) : Bool := repMode s == 2 && !mergesInTurn line (holders s line).length (holders s line) s

/-- The home recalls every holder (R91). -/
def recallHolders (line : Nat) (s : State) : State :=
  let ts := holders s line
  recallLoop line ts.length ts s

/-! ## Guest lines (R86-R88) -/

/-- Does an access of tower `t` to a line go through a guest copy? HOST lines are held at the home only (R143). -/
def isGuest (t flat : Nat) : Bool := decide (flat < hostBase) && homeOf flat != t

/-- Stores the masked bytes at the home. -/
def writeMasked (view : Option (Nat × Nat)) (dirty : Nat) : Nat → Nat → List Byte → State → State
  | _, _, [], s => s
  | a, k, b :: bs, s => writeMasked view dirty (a + 1) (k + 1) bs (if bitAt dirty k then physWr s view a b else s)

/-- Is a byte of a guest line's unit marked uncorrectable in the tower's L2 (R101)? The L2 unit of an address is tower x 2^57 +
address / 8. -/
def l2Marked (s : State) (t a : Nat) : Bool := s.marks.contains (4, t * 2 ^ 57 + a / 8)

/-- Level and unit that hold a flat address: SRAM units of 8 bytes, DRAM units of 32 (R72). Host memory has none. -/
def unitOf (a : Nat) : Option (Nat × Nat) :=
  if a < capBase then some (5, a / 32)
  else if a < hostBase then some (6, (a - capBase) / 32)
  else if a < spmBase then none
  else if a < wssBase then some (1, (a - spmBase) / 8)
  else if a < imBase then some (3, (a - wssBase) / 8)
  else if a < accBase then some (0, (a - imBase) / 8)
  else some (2, (a - accBase) / 8)

/-- One added to a 32-bit count at bit `l` of an error counter, saturating (R438). -/
def countErr (level l : Nat) (s : State) : State :=
  let v := (look 0 s.errs level).toNat
  { s with errs := put s.errs level (BitVec.ofNat 64 (setBits v l 32 (Nat.min (bitsAt v l 32 + 1) 0xFFFFFFFF))) }

/-- A write-back that meets marked units of the tower's L2 writes none of their bytes onward: it marks the home's units, so that their next
consumer takes the fault, and the tower's marks go with the copy (R101). -/
def markOn (t line dirty : Nat) (s : State) : State :=
  if s.marks.isEmpty then s
  else
    let bad := (List.range 256).filter fun k => bitAt dirty k && l2Marked s t (line * 256 + k)
    let ms := (bad.filterMap fun k => unitOf (line * 256 + k)).eraseDups
    let ours := fun m : Nat × Nat => m.1 == 4 && m.2 / 2 ^ 57 == t && m.2 % 2 ^ 57 / 32 == line
    let whole := dirty % 2 ^ 256 == 2 ^ 256 - 1 && bad.isEmpty
    let theirs := fun m : Nat × Nat => whole && (List.range 8).any fun k => unitOf (line * 256 + k * 32) == some m
    let s' := { s with marks := (s.marks.filter fun m => !(ours m) && !ms.contains m && !theirs m) ++ ms }
    (ms.filter fun m => !s.marks.contains m).foldl (fun s m => countErr m.1 32 s) s'

/-- The write-back of a guest line's dirty bytes; the home recalls holders first (R87, R91). The releases of the written bytes go home
with them (R109). -/
def writeBack (t line : Nat) (s : State) : State :=
  let w := s.tower t
  match find w.guest line with
  | none => s
  | some g =>
    if g.dirty = 0 then s
    else
      let s := snoop line (recallHolders line s)
      let good := (List.range 256).foldl (fun d k => if bitAt g.dirty k && !l2Marked s t (line * 256 + k) then d + 2 ^ k else d) 0
      let s := writeMasked g.view (if s.marks.isEmpty then g.dirty else good) (line * 256) 0 g.bytes s
      let s := markOn t line g.dirty s
      let kept := s.locs.filter fun e => !(decide (e.1 / 256 = line) && bitAt g.dirty (e.1 % 256))
      let sent := g.rels.filter fun e => bitAt g.dirty e.1
      let s := { s with locs := sent.foldl (fun (l : Tbl (List Rel)) (e : Nat × List Rel) => put l (line * 256 + e.1) e.2) kept }
      let w := s.tower t
      s.setTower t { w with guest := put w.guest line { g with dirty := 0 } }

/-- The drop of a guest line after write-back: a pinned line keeps its way and turns stale (R88, R136). -/
def dropLine (t line : Nat) (s : State) : State :=
  let s := writeBack t line s
  let w := s.tower t
  match find w.guest line with
  | none => s
  | some g =>
    s.setTower t { w with guest := if g.pins = 0 then del w.guest line else put w.guest line { g with stale := true, stamp := none, rels := [] } }

/-- A guest line that no pin holds leaves its tower's L2: it is written back and dropped (R86 to R88; notes/assumptions/9.md). -/
def evictLine (t line : Nat) (s : State) : State :=
  match find (s.tower t).guest line with
  | some g => if g.pins = 0 then dropLine t line s else s
  | none => s

/-- A tower's dirty guest bytes all written back (R136, release at module scope). -/
def writeBackAll (t : Nat) (s : State) : State := (s.tower t).guest.foldl (fun s e => writeBack t e.1 s) s
/-- A tower's guest lines written back and dropped (R136, acquire at module scope). -/
def dropAll (t : Nat) (s : State) : State := (s.tower t).guest.foldl (fun s e => dropLine t e.1 s) s

/-- Set of a line in the 32,768-set L2 (R72). -/
def setOf (line : Nat) : Nat := line % 32768

/-- The line of a set that leaves to make room for one that `has` says is not held yet: the set's 16 ways hold guest lines, pinned home lines
and update-only lines; which unpinned guest or update-only line goes is a free value (R72, R88; notes/assumptions/9.md). It is answered with
whether it is update-only. -/
def victimOf (s : State) (t line : Nat) (has : Bool) : Option (Nat × Bool) :=
  let w := s.tower t
  let mine := w.guest.filter fun e => setOf e.1 == setOf line
  let home := w.homePin.filter fun e => e.2 != 0 && setOf e.1 == setOf line
  let upd := w.upd.filter fun e => setOf e.1 == setOf line
  let free := ((mine.filter fun e => e.2.pins == 0 && e.1 != line).map fun e => (e.1, false)) ++
    (upd.filter fun e => e.1 != line && !mergesWait s e.1).map fun e => (e.1, true)
  if has || decide (mine.length + home.length + upd.length < 16) || free.isEmpty then none
  else free[Config.freeNat s.freeCtr (72 + line) % free.length]?

/-- Room made for a line in its set. -/
def makeRoom (t line : Nat) (has : Bool) (s : State) : State :=
  match victimOf s t line has with
  | some (v, true) => mergeLine t v s
  | some (v, false) => dropLine t v s
  | none => s

/-- Is a byte marked uncorrectable at its home: in memory or in the home tower's L2 (R101)? -/
def homeMarked (s : State) (a : Nat) : Bool :=
  (match unitOf a with
    | some u => s.marks.contains u
    | none => false) || (decide (a < hostBase) && l2Marked s (homeOf a) a)

/-- A line filled into a tower carries its home's errors with it: the copy's units are marked where the home's are (R101). -/
def carryMarks (t line : Nat) (s : State) : State :=
  if s.marks.isEmpty then s
  else
    let ours := fun m : Nat × Nat => m.1 == 4 && m.2 / 2 ^ 57 == t && m.2 % 2 ^ 57 / 32 == line
    let bad := ((List.range 32).filter fun k => (List.range 8).any fun j => homeMarked s (line * 256 + 8 * k + j)).map fun k =>
      (4, t * 2 ^ 57 + line * 32 + k)
    { s with marks := s.marks.filter (fun m => !ours m) ++ bad }

/-- The guest line present and current, filled from the home under a view where it is not. -/
def fillLine (t line : Nat) (view : Option (Nat × Nat)) (s : State) : State :=
  let again := match find (s.tower t).guest line with
    | some g => g.stale || g.view != view
    | none => true
  if again then
    let s := recallHolders line (writeBack t line (makeRoom t line (find (s.tower t).guest line).isSome s))
    let w := s.tower t
    let pins := (find w.guest line).elim 0 (·.pins)
    carryMarks t line
      (s.setTower t { w with guest := put w.guest line ⟨physBytes s view (line * 256) 256, 0, false, pins, find s.stamps line, view, homeRels s line⟩ })
  else s

/-- Bytes of a line as tower `t` reads them: its own update-only line goes home first; a guest reads its copy (R86, R91). -/
def l2Read (t flat n : Nat) (view : Option (Nat × Nat)) (s : State) : State × List Byte :=
  let line := flat / 256
  let s := mergeLine t line s
  if isGuest t flat then
    let s := fillLine t line view s
    match find (s.tower t).guest line with
    | some g => (s, (List.range n).map fun k => nth 0 g.bytes (flat % 256 + k))
    | none => (s, [])
  else
    let s := recallHolders line s
    (s, physBytes s view flat n)

/-- Byte string into a list from a position. -/
def spliceBytes : List Byte → Nat → List Byte → List Byte
  | bs, _, [] => bs
  | bs, k, x :: xs => spliceBytes (setNth bs k x) (k + 1) xs

/-- Mask of `n` bits from bit `k`. -/
def maskBits (k n : Nat) : Nat := (2 ^ n - 1) * 2 ^ k

/-- Bytes written by tower `t`: into its guest copy with the dirty mask, or at the home after a recall (R86, R87, R91). -/
def l2Write (t flat : Nat) (bs : List Byte) (view : Option (Nat × Nat)) (s : State) : State :=
  let line := flat / 256
  let s := mergeLine t line s
  if isGuest t flat then
    let s := fillLine t line view s
    let w := s.tower t
    match find w.guest line with
    | some g =>
      s.setTower t { w with guest := put w.guest line { g with
        bytes := spliceBytes g.bytes (flat % 256) bs, dirty := g.dirty ||| maskBits (flat % 256) bs.length
        rels := cutRels (flat % 256) bs.length g.rels } }
    | none => s
  else clearRels flat bs.length (physStore (snoop line (recallHolders line s)) view flat bs)

/-- What an atomic or a home-side write needs: the tower's own copy written back and dropped, holders recalled. -/
def toHome (t flat : Nat) (s : State) : State :=
  let line := flat / 256
  let s := mergeLine t line s
  let s := if isGuest t flat then dropLine t line s else s
  recallHolders line s

/-! ## Errors (R101, R378) -/

/-- Is a byte range free of marked units, as tower `t` reads it: in its guest copy where it holds a current one, else at the home? -/
def rangeOk (s : State) (t a n : Nat) : Bool :=
  s.marks.isEmpty || (List.range n).all fun k =>
    if isGuest t (a + k) && (find (s.tower t).guest ((a + k) / 256)).any (fun g => !g.stale) then !l2Marked s t (a + k)
    else !homeMarked s (a + k)

/-- Is a byte range free of marked units at its home? -/
def homeOk (s : State) (a n : Nat) : Bool := s.marks.isEmpty || (List.range n).all fun k => !homeMarked s (a + k)

/-- Length of a line at a flat address: 256 bytes in the L2 and DRAM, 64 in SRAM. -/
def lineLen (a : Nat) : Nat := if a < hostBase then 256 else 64

/-- The marks of a line gone, as a write through tower `t` overwrites it: a guest's own copy, or the home's copy and its memory. -/
def unmarkLine (t a : Nat) (s : State) : State :=
  let guest := isGuest t a
  let ln := lineLen a
  { s with
    cover := del s.cover a
    marks := s.marks.filter fun m => !((List.range ln).any fun k =>
      (!guest && unitOf (a + k) == some m) || (decide (a < hostBase) && m == (4, t * 2 ^ 57 + (a + k) / 8))) }

/-- A full-line write clears the line's marks (R101). The writes of an engine stream that cover a line one after another are one full-line
write; a shorter write of another agent is none (notes/assumptions/60.md). -/
def clearMarks (agent t a n : Nat) (s : State) : State :=
  if s.marks.isEmpty then s
  else
    let ln := lineLen a
    let b := a / ln * ln
    if a = b ∧ ln ≤ n then (List.range (n / ln)).foldl (fun s k => unmarkLine t (a + k * ln) s) s
    else if agent < 8192 ∧ 2 ≤ agent % 8 then
      let old := look (0, 0) s.cover b
      let m := (if old.1 = agent then old.2 else 0) ||| maskBits (a - b) n
      if m % 2 ^ ln = 2 ^ ln - 1 then unmarkLine t b s else { s with cover := put s.cover b (agent, m) }
    else s

/-! ## Clocks of agents (R103, R118, R160) -/

/-- Generation views of an agent with no waits of its own, from a tower's position: the domains' current DGEN (R120, R160). -/
def liveViews (s : State) (t : Nat) : List Nat :=
  (List.range 7).map fun l => match coreInst s.dmr.toNat (t * 32) l with
    | some i => look 0 s.dgen (l * 1024 + i)
    | none => 0

/-- The leader of the job of a stream. -/
def leaderOf (s : State) (c : Nat) (x : Stream) : Leader := if isCtl x then streamLeader x else (s.str c x).job

/-- The clock an access of an agent is checked with: an engine's record uses its leader's views and CLR of its entry (R160). -/
def clockOf (s : State) (agent : Nat) (home : Nat) : Clock :=
  if agent < 8192 then
    let x := streamOf (agent % 8)
    let m := s.str (agent / 8) x
    if isCtl x then m.clk
    else match (s.seqOf (agent / 8) (streamEng x)).run with
      | some r => { m.clk with views := r.views, clr := r.clr }
      | none => m.clk
  else
    let cls := bitsAt agent 10 3
    if cls = 0 then { (s.die (agent % 64)).clk with views := liveViews s (agent % 64 / 2) }
    else if cls = 1 then { (s.tower (agent % 32)).cpClk with views := liveViews s (agent % 32) }
    else if cls = 2 then { s.mbsClk with views := liveViews s home }
    else if cls = 3 then { look Clock.reset s.rmtClk (agent % 1024) with views := liveViews s home }
    else if cls = 4 then { s.ckptClk with views := liveViews s home }
    else { s.hostClk with views := liveViews s home }

/-- An agent's clock replaced; an engine's leader views stay its leader's. -/
def setClock (s : State) (agent : Nat) (k : Clock) : State :=
  if agent < 8192 then
    let x := streamOf (agent % 8)
    let m := s.str (agent / 8) x
    s.setStr (agent / 8) x { m with clk := { m.clk with rc := k.rc, fr := k.fr } }
  else
    let cls := bitsAt agent 10 3
    if cls = 0 then s.setDie (agent % 64) { s.die (agent % 64) with clk := k }
    else if cls = 1 then s.setTower (agent % 32) { s.tower (agent % 32) with cpClk := k }
    else if cls = 2 then { s with mbsClk := k }
    else if cls = 3 then { s with rmtClk := put s.rmtClk (agent % 1024) k }
    else if cls = 4 then { s with ckptClk := k }
    else { s with hostClk := k }

/-! ## Race checks of an access (R116, R120, R124) -/

/-- RACE_INFO0 and RACE_INFO1 of a report (R124). -/
def raceInfo (p : Place) (r : Raced) (granule stream : Nat) : Nat × Nat :=
  (r.prior + r.kind * 2 ^ 14 + p.space * 2 ^ 16 + p.lt * 2 ^ 19 + r.rc * 2 ^ 32, granule + stream * 2 ^ 56)

/-- The report of a race recorded in the core of the agent, and the trap. -/
def raised (w : Who) (p : Place) (r : Raced) : M Unit := do
  let g := if p.space ≤ 1 then p.addr / 64 * 64 else p.addr / 256 * 256
  match w.core with
  | some c => modify fun s =>
      let (a, b) := raceInfo p r g (w.agent % 8)
      s.setCore c { s.core c with race0 := BitVec.ofNat 64 a, race1 := BitVec.ofNat 64 b }
  | none => pure ()
  trapM .race (tinfo p.addr p.space 13)

/-- Reader slots and SHARED of every copy of a line but one tower's, as a write claim gathers them. Where several slots fail, the own copy's
are tested before the home's, and these before the towers' in ascending order: DESIGN CHOICE, R120 does not order them
(notes/assumptions/59.md). -/
def gathered (s : State) (line dom v : Nat) (own : Option Nat) : List (Nat × Nat) × Bool :=
  let stamps := (if own.isSome then [look Stamp.reset s.stamps line] else []) ++
    (s.towers.filter fun e => some e.1 != own).filterMap fun e => (find e.2.guest line).bind (·.stamp)
  let fresh := stamps.map fun g => g.fresh dom v
  (fresh.flatMap (·.rd), fresh.any (·.shared))

/-- Every copy takes the writer of a granted claim (R116). -/
def claimAll (s : State) (line b : Nat) (k : Clock) (dom : Nat) : State :=
  let s := { s with stamps := put s.stamps line ((look Stamp.reset s.stamps line).claimed b k dom) }
  { s with towers := s.towers.map fun e => (e.1, match find e.2.guest line with
      | some g => { e.2 with guest := put e.2.guest line { g with stamp := some ((g.stamp.getD Stamp.reset).claimed b k dom) } }
      | none => e.2) }

/-- The race check of a plain access at the copy through which it performs (R120); a read that misses is checked at the home and recorded in
the new guest copy, which takes the home's stamp. `flat` is the element's flat address. -/
def raceCheck (w : Who) (p : Place) (flat : Nat) (view : Option (Nat × Nat)) (write : Bool) : M Unit := do
  if eRelaxed p.entry then pure ()
  else do
    let s ← get
    let dom := eDomLevel p.entry * 1024 + eDomInst p.entry
    let home := if p.space ≤ 1 then w.tower else homeOf flat
    let k := clockOf s w.agent home
    if p.space ≤ 1 then
      match checkStamp w.agent k dom write [] false (look Stamp.reset s.stamps (flat / 64)) with
      | .error r => raised w p r
      | .ok g => set { s with stamps := put s.stamps (flat / 64) g }
    else
      let line := flat / 256
      let guest := isGuest w.tower flat
      let miss := guest && (match find (s.tower w.tower).guest line with | some g => g.stale | none => true)
      if !write && miss then
        match checkStamp w.agent k dom false [] false (look Stamp.reset s.stamps line) with
        | .error r => raised w p r
        | .ok _ => pure ()
      let s ← get
      let s := if guest then fillLine w.tower line view s else s
      let own := if guest then ((find (s.tower w.tower).guest line).bind (·.stamp)).getD Stamp.reset else look Stamp.reset s.stamps line
      let v := nth 0 k.views (eDomLevel p.entry)
      let key := (line * 2 ^ 14 + w.agent) * 2 ^ 13 + dom
      let claim := write && find s.claims key != some (v, k.rc)
      let (more, sh) := if claim then gathered s line dom v (if guest then some w.tower else none) else ([], false)
      match checkStamp w.agent k dom write more sh own with
      | .error r => raised w p r
      | .ok g =>
        let s := if claim then { claimAll s line w.agent k dom with claims := put s.claims key (v, k.rc) } else s
        if guest then
          let t := s.tower w.tower
          match find t.guest line with
          | some gl => set (s.setTower w.tower { t with guest := put t.guest line { gl with stamp := some g } })
          | none => set s
        else set { s with stamps := put s.stamps line g }

/-- Every stamp of every copy reset (R123). -/
def resetStamps (s : State) : State :=
  { s with
    stamps := [], claims := []
    towers := s.towers.map fun t => (t.1, { t.2 with guest := t.2.guest.map fun g => (g.1, { g.2 with stamp := none }) }) }

/-- The stamp of a copy: a tower's guest copy, or the home's or an SRAM granule's. -/
def stampAt (s : State) (h : Option Nat) (k : Nat) : Stamp :=
  let home := look Stamp.reset s.stamps k
  match h with
  | none => home
  | some t => ((find (s.tower t).guest k).bind (·.stamp)).getD home

/-- The stamps that differ between two states, each with its value in both. -/
def stampChanges (s t : State) : List (Option Nat × Nat × Stamp × Stamp) :=
  let all := (t.stamps.map fun e => ((none : Option Nat), e.1)) ++ t.towers.flatMap fun w => (w.2.guest.filter fun g => g.2.stamp.isSome).map fun g => (some w.1, g.1)
  (all.map fun e => (e.1, e.2, stampAt s e.1 e.2, stampAt t e.1 e.2)).filter fun e => e.2.2.1 != e.2.2.2

/-- A change of a stamp taken back where nothing has changed it since. -/
def undoStamp (e : Option Nat × Nat × Stamp × Stamp) (s : State) : State :=
  if stampAt s e.1 e.2.1 ≠ e.2.2.2 then s
  else match e.1 with
    | none => { s with stamps := put s.stamps e.2.1 e.2.2.1 }
    | some t =>
      let w := s.tower t
      match find w.guest e.2.1 with
      | some g => s.setTower t { w with guest := put w.guest e.2.1 { g with stamp := some e.2.2.1 } }
      | none => s

/-- A layout table given to a core: where no stream of a core with that table is in a job, a job's table starts and every stamp is reset
(R123; notes/assumptions/57.md). -/
def startTable (ltb : Word) (s : State) : State :=
  if bitAt ltb.toNat 63 && !s.cores.any (fun k => k.2.ascLtb == ltb && k.2.strm.any fun e => e.2.inJob) then resetStamps s else s

/-! ## Scopes (R107, R108) -/

def scopeNo : Scope → Nat
  | .core => 0 | .twin => 1 | .tower => 2 | .module => 3 | .domain => 4 | .system => 5

/-- Tower of an agent that lies in one. -/
def agentTower (a : Nat) : Option Nat :=
  if a < 8192 then some (a / 8 / 32)
  else if bitsAt a 10 3 = 0 then some (a % 64 / 2)
  else if bitsAt a 10 3 = 1 then some (a % 32)
  else none

/-- Is agent `b` in agent `a`'s instance of a scope? Agents of the model are all of one module, the host and the ingresses among them
(R103, R107); the narrow scopes of an agent that lies in no tower are its module scope. -/
def inScope (a : Nat) (e : Scope) (b : Nat) : Bool :=
  if a = b then true
  else
    let n := match agentTower a with
      | none => Nat.max (scopeNo e) 3
      | some _ => if 8192 ≤ a then Nat.max (scopeNo e) 2 else scopeNo e
    if 3 ≤ n then true
    else if n = 2 then agentTower a == agentTower b
    else if b < 8192 then
      if n = 1 then pairOf (a / 8) == pairOf (b / 8) else a / 8 == b / 8
    else false

/-- Do a release and an acquire match (R108)? -/
def matches' (a : Nat) (sa : Scope) (b : Nat) (sb : Scope) : Bool := inScope a sa b && inScope b sb a

/-! ## Release and acquire of an agent (R109, R118, R136) -/

/-- The acquire of what a location carries: every matching release of the sequence is merged. -/
def acquireRels (agent : Nat) (e : Scope) (rels : List Rel) (s : State) : State :=
  let k := clockOf s agent 0
  setClock s agent ((rels.filter fun r => matches' r.agent r.scope agent e).foldl (fun k r => k.join r.fr) k)

/-- RC incremented at a release side; what is handed on (R118). -/
def releasePass (agent : Nat) (s : State) : State × Pass :=
  let k := (clockOf s agent 0).bump
  (setClock s agent k, k.pass agent)

/-- What a release hands on: the pass kept for it (R127), or the agent's clock with RC incremented. -/
def handOn (agent : Nat) (kept : Option Pass) (s : State) : State × Pass :=
  match kept with
  | some p => (s, p)
  | none => releasePass agent s

/-- Has every earlier remote access of an agent been acknowledged (R136, domain and wider)? -/
def acked (s : State) (agent : Nat) : Bool := !s.sent.any fun r => agentOf r.core (streamOf r.stream) == agent

/-- Performs a release at a scope: at module and wider the tower's dirty guest bytes go home; at domain and wider the agent's remote
accesses are acknowledged first (R136). -/
def performRelease (w : Who) (e : Scope) : M Unit := do
  let s ← get
  if 4 ≤ scopeNo e && !acked s w.agent then waitM (.own 0)
  else if 3 ≤ scopeNo e then set (writeBackAll w.tower s)

/-- An acquire's drop at module scope and wider (R136). -/
def performAcquire (w : Who) (e : Scope) : M Unit := do
  if 3 ≤ scopeNo e then modify (dropAll w.tower)

/-! ## The access -/

/-- The bytes at a location (R378: never delivered with an uncorrectable error). -/
def readLoc (w : Who) (l : Loc) (n : Nat) : M (List Byte) := do
  if 2 ≤ l.p.space ∧ isGuest w.tower l.flat = true then modify fun s => fillLine w.tower (l.flat / 256) l.view (mergeLine w.tower (l.flat / 256) s)
  let s ← get
  needM (rangeOk s w.tower l.flat n) .uncorrectable (tinfo l.p.addr l.p.space 0)
  if l.p.space ≤ 1 then return memBytes s.mem l.flat n
  else
    let (s, bs) := l2Read w.tower l.flat n l.view s
    set s
    return bs

/-- Bytes written at a location: any release that they carried is gone (R109). -/
def writeLoc (w : Who) (l : Loc) (bs : List Byte) : M Unit := do
  modify fun s => clearMarks w.agent w.tower l.flat bs.length
    (if l.p.space ≤ 1 then clearRels l.flat bs.length { s with mem := memStore s.mem l.flat bs } else l2Write w.tower l.flat bs l.view s)

/-- A store to HOST in the PCI Express mode is a posted write on the link (R403). -/
def posted (l : Loc) (bs : List Byte) (rel : Bool) : M Unit := do
  if l.p.space = 5 then
    modify fun s => if hostMode s = 0 then emit (.hostWrite (l.flat - hostBase) bs rel) s else s

/-- The element code of bytes: a nibble or the whole (R50). -/
def elemCode (p : Place) (bs : List Byte) : Nat :=
  match p.nib with
  | some hi => if hi then leNat bs / 16 % 16 else leNat bs % 16
  | none => leNat bs

/-- A plain read of an element: race check, then the bytes (R35 step 13, R105). -/
def readElem (w : Who) (l : Loc) : M Nat := do
  raceCheck w l.p l.flat l.view false
  let bs ← readLoc w l l.p.bytes
  return elemCode l.p bs

/-- The bytes that a store of an element code writes; a 4-bit store keeps the other nibble (R50). -/
def elemBytes (w : Who) (l : Loc) (x : Nat) : M (List Byte) := do
  match l.p.nib with
  | none => return leBytes l.p.bytes x
  | some hi => do
    let bs ← readLoc w l 1
    let o := leNat bs
    return leBytes 1 (if hi then o % 16 + x % 16 * 16 else o / 16 * 16 + x % 16)

/-- A plain write of an element. -/
def writeElem (w : Who) (l : Loc) (x : Nat) : M Unit := do
  raceCheck w l.p l.flat l.view true
  let bs ← elemBytes w l x
  writeLoc w l bs

/-! ## Results inside an engine (R268, R369, R371) -/

/-- The effect of a result as it leaves its engine. -/
def landOne (c : Nat) (r : Result) (s : State) : State :=
  match r.dest with
  | .acc off bs => clearMarks (c * 8 + r.stream) (towerOf c) (accAt c off) bs.length { s with mem := memStore s.mem (accAt c off) bs }
  | .tag u t => s.setCore c { s.core c with unitTag := put (s.core c).unitTag u t }
  | .mem l x =>
    let w := whoStream s c (streamOf r.stream)
    let l := if l.p.space = 0 then { l with flat := spmAt c (l.flat % 2 ^ 22) }
      else if l.p.space = 1 then { l with flat := wssAt w.tower (l.flat % 2 ^ 28) } else l
    (M.go (do
      let bs ← elemBytes w l x
      writeLoc w l bs
      posted l bs false) s).2
  | .amax k u => s.setCore c { s.core c with mx := put (s.core c).mx k (amaxMerge (look 0 (s.core c).mx k) u) }
  | .flags ve b =>
    let k := s.core c
    s.setCore c (if ve then { k with veFlags := k.veFlags ||| b } else { k with meFlags := k.meFlags ||| b })
  | .rng ve g =>
    let k := s.core c
    s.setCore c (if ve then { k with rngVe := g } else { k with rngMe := g })

/-- The results of a stream of a core that are in flight leave its engine, in order. -/
def landEng (c n : Nat) (s : State) : State :=
  let rs := (s.core c).flight.filter fun r => r.stream == n
  if rs.isEmpty then s
  else rs.foldl (fun s r => landOne c r s) (s.setCore c { s.core c with flight := (s.core c).flight.filter fun r => r.stream != n })

/-- Accumulator bytes that a stream of a core has in flight: offset and bytes, oldest first. -/
def flightAcc (s : State) (c n : Nat) : List (Nat × List Byte) := (s.core c).flight.filterMap fun r =>
  if r.stream = n then match r.dest with | .acc o bs => some (o, bs) | _ => none else none

/-- Bytes from offset `a` with those of another string laid over them. -/
def overlay (a : Nat) (bs : List Byte) (r : Nat × List Byte) : List Byte :=
  if r.1 < a + bs.length ∧ a < r.1 + r.2.length then
    (List.range bs.length).map fun k => if r.1 ≤ a + k ∧ a + k < r.1 + r.2.length then nth 0 r.2 (a + k - r.1) else nth 0 bs k
  else bs

/-- Accumulator bytes as a stream of a core reads them: behind its own results in flight (R126). -/
def accBytes (s : State) (c n off len : Nat) : List Byte := (flightAcc s c n).foldl (overlay off) (memBytes s.mem (accAt c off) len)

/-! ## Steps 10 to 13 of R35 -/

/-- Does a core hold a dumped result for bytes at a location (R372)? -/
def dumpedAt (s : State) (c : Nat) (l : Loc) : Bool := (s.core c).dump.any fun r => match r.dest with
  | .mem d _ => decide (d.flat < l.flat + l.p.bytes ∧ l.flat < d.flat + d.p.bytes)
  | _ => false

/-- Does a result of an engine stream of a core in flight go to bytes at a location? -/
def flyingTo (s : State) (c n : Nat) (l : Loc) : Bool := decide (2 ≤ n) && (s.core c).flight.any fun r => r.stream == n && match r.dest with
  | .mem d _ => decide (d.flat < l.flat + l.p.bytes ∧ l.flat < d.flat + d.p.bytes)
  | _ => false

/-- An access to an element that still has a dumped result of its core pending waits for that result (R372); one that meets a result of its own
stream in flight comes after it (R126). -/
def pastDump (w : Who) (l : Loc) : M Loc := do
  match w.core with
  | some c => do
    if dumpedAt (← get) c l then waitM .other
    if flyingTo (← get) c (w.agent % 8) l then modify (landEng c (w.agent % 8))
    return l
  | none => return l

/-- The answer an agent's stream holds. -/
def ansOf (s : State) (agent : Nat) : Answer :=
  let x := streamOf (agent % 8)
  if isCtl x then (s.ctlOf (agent / 8) (streamLeader x)).ans
  else match (s.seqOf (agent / 8) (streamEng x)).run with
    | some r => r.ans
    | none => .none

/-- The elements of the host's memory that an access has asked for or obtained: their checks have passed. -/
def Answer.spots : Answer → List Spot
  | .asked q got => q.sp :: got
  | .host sp _ got => sp :: got
  | _ => []

/-- The answer an accessor holds: a stream's own, that of a command processor's queue, or the microbatch scheduler's, for the CREDIT words that
it and the ingresses change. -/
def ansFor (s : State) (w : Who) : Answer :=
  if w.agent < 8192 then ansOf s w.agent
  else if bitsAt w.agent 10 3 = 1 then (look Cpq.reset (s.tower (w.agent % 32)).cpq w.queue).ans
  else if bitsAt w.agent 10 3 = 2 ∨ bitsAt w.agent 10 3 = 3 then s.mbsAns
  else .none

/-- Where an access to HOST that has already passed steps 10 to 12 goes: its translation and its KEY check stand (R40, R41, R100). -/
def hostSpot (s : State) (w : Who) (p : Place) : Option Spot :=
  if p.space = 5 then (ansFor s w).spots.find? fun q => q.flat != 0 && q.ctx == ctxId w.root && q.va == p.addr else none

/-- Steps 10 to 12 of R35 for a place that is not PEER. A frozen page stalls the access (R41), and in replay one that merges update-only lines waits
for the turns of their merges (R437). -/
def resolve (w : Who) (p : Place) (a : Acc) : M Loc := do
  let s ← get
  let ctx := ctxId w.root
  if p.space = 0 then pastDump w ⟨p, spmAt (w.core.getD 0) p.addr, none, ctx⟩
  else if p.space = 1 then pastDump w ⟨p, wssAt w.tower p.addr, none, ctx⟩
  else
    match hostSpot s w p with
    | some q => pastDump w ⟨p, q.flat, none, ctx⟩
    | none =>
      if frozenAt s ctx p.addr then waitM .other
      match translate s w.tower w.root p.addr with
      | none => trapM .translation (tinfo p.addr p.space 10)
      | some (pte, size) =>
        set (cacheTr s w.tower w.root p.addr (pte, size))
        needM (pageOk pte p.addr p.space a w.sup) .permission (tinfo p.addr p.space 11)
        needM (keyOk s pte (eKey p.entry) (eKeyReq p.entry)) .key (tinfo p.addr p.space 12)
        if a ≠ .update ∧ mergesWait s (physOf pte size p.addr / 256) then waitM .other
        pastDump w ⟨p, physOf pte size p.addr, viewOf s pte p.addr, ctx⟩

/-- locate(h, c, kind) without the race check (R186). A PEER place has no local address: 0. -/
def locate (w : Who) (h : Handle) (c : Coord) (a : Acc) (opq : Bool := false) (okTag : Nat → Bool := fun _ => true)
    (spaces : Nat → Bool := fun _ => true) : M Loc := do
  let s ← get
  let p ← liftC (place s w h c a opq okTag spaces)
  modify fun s => cacheLt s w p.lt p.entry
  if p.space = 6 then return ⟨p, 0, none, ctxId w.root⟩ else resolve w p a

/-- rd_elem(h, c) (R186). -/
def rdElem (w : Who) (h : Handle) (c : Coord) : M Nat := do
  let l ← locate w h c .load
  readElem w l

/-- wr_elem(h, c, x) (R186). -/
def wrElem (w : Who) (h : Handle) (c : Coord) (x : Nat) : M Unit := do
  let l ← locate w h c .store
  writeElem w l x

/-- Everything a core has in flight leaves its engines. -/
def landFlight (c : Nat) (s : State) : State := [2, 3, 4, 5].foldl (fun s n => landEng c n s) s

/-- Everything in flight in the module leaves its engines: what a drain waits for (R40, R41, R100). -/
def landAll (s : State) : State := s.cores.foldl (fun s e => landFlight e.1 s) s

/-- The oldest result in flight of a core leaves its engine alone: the elements of one transfer are not written as a whole (R105). -/
def landFirst (c : Nat) (s : State) : State :=
  match (s.core c).flight with
  | [] => s
  | r :: t => landOne c r (s.setCore c { s.core c with flight := t })

/-- The pin that a dumped result held is released (R369). -/
def dropPin (r : Result) (s : State) : State :=
  match r.pin with
  | some k => { s with pins := put s.pins k (look 0 s.pins k - 1) }
  | none => s

/-- Is a result what an issue leaves as it completes: its flags or the generator's state? -/
def Dest.atEnd : Dest → Bool
  | .flags _ _ => true | .rng _ _ => true | _ => false

/-- The results of one issue with one more: what it leaves as it completes stands behind the rest, its flags as one OR and the generator's last
state alone (R247, R265, R277, R279). -/
def addResult (r : Result) (l : List Result) : List Result :=
  let mine := fun q : Result => q.stream == r.stream && q.iss == r.iss
  let ends := l.filter fun q => mine q && q.dest.atEnd
  let rest := l.filter fun q => !(mine q && q.dest.atEnd)
  match r.dest with
  | .flags ve b =>
    let old := ends.foldl (fun x q => match q.dest with | .flags v y => if v = ve then x ||| y else x | _ => x) 0
    rest ++ (ends.filter fun q => match q.dest with | .flags v _ => v != ve | _ => true) ++ [{ r with dest := .flags ve (old ||| b) }]
  | .rng ve _ => rest ++ (ends.filter fun q => match q.dest with | .rng v _ => v != ve | _ => true) ++ [r]
  | _ => rest ++ [r] ++ ends

/-- The number of the issue at a stream's sequencer. -/
def issueNo (s : State) (c n : Nat) : Nat := ((s.seqOf c (streamEng (streamOf n))).run).elim 0 (·.n)

/-- A result goes into its engine's pipeline; its latency is open (notes/assumptions/18.md). -/
def pend (c n : Nat) (d : Dest) (s : State) : State :=
  s.setCore c { s.core c with flight := addResult ⟨n, d, Config.freeNat s.freeCtr 18 % 64, none, issueNo s c n⟩ (s.core c).flight }

/-- The parts of an element write that are observed apart: those of a complex element (R105). -/
def partDests (l : Loc) (x : Nat) : List Dest :=
  let half := fun t b =>
    [Dest.mem { l with p := { l.p with tag := t, bytes := b } } (x % 2 ^ (8 * b)),
     Dest.mem { l with p := { l.p with tag := t, bytes := b }, flat := l.flat + b } (x / 2 ^ (8 * b))]
  match l.p.tag with
  | 0xC0 => half 0x82 4
  | 0xC1 => half 0x83 8
  | _ => [.mem l x]

/-- An engine's element write enters the pipeline; a nibble's other half is read as the byte is written. -/
def pendElem (w : Who) (l : Loc) (x : Nat) : M Unit := do
  let _ ← elemBytes w l x
  modify fun s => (partDests l x).foldl (fun s d => pend (w.agent / 8) (w.agent % 8) d s) s

/-- All of an effect or, where it traps or waits, none of it but the race report (R125, R268, R299). -/
def whole {α : Type} (m : M α) : M α := fun s =>
  match m.go s with
  | (.ok a, t) => (.ok a, t)
  | (.error (.wait w), _) => (.error (.wait w), s)
  | (.error (.ask q r sp got), _) => (.error (.ask q r sp got), s)
  | (.error (.trap x), t) =>
    (.error (.trap x), t.cores.foldl (fun s e => s.setCore e.1 { s.core e.1 with race0 := e.2.race0, race1 := e.2.race1 }) s)

end Sys2Proof.Machine
end

