-- ==== Sys2Proof/Machine/Sync.lean ====
section
/-! DEFINITION. Synchronising accesses, updates, memory-side requests, pins, and accesses that await the host or another module
(R89, R96, R103-R111, R136-R138, R143, R220, R403). -/
namespace Sys2Proof.Machine

/-! ## Answers -/

def hostUp (s : State) : Bool := bitAt s.hostLink.toNat 0

/-- Is a HOST line held at its home under CXL.cache: obtained before, and not taken back by the host since, which is open (R143, R145;
notes/assumptions/63.md)? -/
def hostHolds (s : State) (flat : Nat) : Bool := hostMode s != 0 && s.hostHold.contains (flat / 256) && Config.freeBit s.freeCtr (flat / 256)

/-- A HOST line obtained under CXL.cache stays at its home (R143). -/
def holdHost (flat : Nat) (s : State) : State :=
  if hostMode s = 0 ∨ s.hostHold.contains (flat / 256) then s else { s with hostHold := s.hostHold ++ [flat / 256] }

/-- The message that asks the host for a location; while the link is down there is none yet. -/
def hostAsk (s : State) (l : Loc) (atomic : Bool) : Option Msg :=
  if hostUp s then some (.hostRequest (l.flat - hostBase) l.p.bytes atomic) else none

/-- A location in the host's memory as an answer names it. -/
def Loc.spot (l : Loc) : Spot := ⟨l.flat, l.ctx, l.p.addr⟩

/-- Is an agent a stream, a command processor, the microbatch scheduler or an ingress: one whose accesses to HOST await the host? -/
def asks (agent : Nat) : Bool := decide (agent < 8192 ∨ (1 ≤ bitsAt agent 10 3 ∧ bitsAt agent 10 3 ≤ 3))

/-- An access to HOST (R403): one that awaits a completion asks for its element and waits; the elements of a beat or an issue are asked for one
after another. A posted write waits while the link is down, and is then answered as the table's last row says: DEDUCED
(notes/assumptions/31.md). Other spaces pass. -/
def hostGate (w : Who) (l : Loc) (atomic reply : Bool) : M Unit := do
  let s ← get
  let a := ansFor s w
  if l.p.space ≠ 5 ∨ asks w.agent = false then pure ()
  else if reply then
    match a with
    | .none => if hostHolds s l.flat then pure () else throw (.ask (hostAsk s l atomic) none l.spot [])
    | .asked q got =>
      if got.contains l.spot then pure ()
      else if q.sp = l.spot ∧ q.sent = false ∧ hostUp s = true then throw (.ask (hostAsk s l atomic) none l.spot got)
      else waitM (.own 1)
    | .remote _ => pure ()
    | .host sp r got =>
      if sp = l.spot then
        match r with
        | .done _ => modify (holdHost l.flat)
        | .refused => trapM .permission (tinfo l.p.addr 5 11)
        | .poisoned => trapM .uncorrectable (tinfo l.p.addr 5 0)
      else if got.contains l.spot || hostHolds s l.flat then pure ()
      else throw (.ask (hostAsk s l atomic) none l.spot (got ++ [sp]))
  else if hostUp s then pure ()
  else
    match a with
    | .none => throw (.ask none none l.spot [])
    | .host sp r got =>
      if sp = l.spot then (match r with
        | .poisoned => trapM .uncorrectable (tinfo l.p.addr 5 0)
        | _ => pure ())
      else throw (.ask none none l.spot (got ++ [sp]))
    | _ => waitM (.own 1)

/-- Does a store to HOST await a completion: in the CXL modes only (R403)? -/
def storeAwaits (s : State) : Bool := hostMode s != 0

/-- A plain load's element code. -/
def plainLoad (w : Who) (l : Loc) : M Nat := do
  hostGate w l false true
  readElem w l

/-- A plain store of an element code. -/
def plainStore (w : Who) (l : Loc) (x : Nat) : M Unit := do
  hostGate w l false (storeAwaits (← get))
  raceCheck w l.p l.flat l.view true
  let bs ← elemBytes w l x
  writeLoc w l bs
  posted l bs false

/-! ## Remote accesses (R137, R138, R220) -/

/-- The message of a remote access: a 4-bit element travels as its code and its nibble. -/
def remoteAcc (s : State) (w : Who) (p : Place) (bs : List Byte) (rel : Bool) : RemoteAcc where
  sender := bitsAt s.dmr.toNat 0 10
  id := s.msgNext
  agent := w.agent
  space := p.space
  va := p.addr
  tag := p.tag
  bytes := bs ++ (match p.nib with | some hi => [BitVec.ofNat 8 (b2n hi)] | none => [])
  release := rel
  keyIx := eKey p.entry
  keyReq := eKeyReq p.entry
  relaxed := eRelaxed p.entry
  domLevel := eDomLevel p.entry
  domInst := eDomInst p.entry
  ltIndex := p.lt
  msg := none

/-- The step of R35 that a cause reported by a target names (R316). -/
def remoteStep : Cause → Nat
  | .translation => 10 | .permission => 11 | .key => 12 | .race => 13 | _ => 0

/-- A trap for the cause a target reports: REMOTE is set (R362). -/
def remoteTrap {α : Type} (p : Place) (status : Nat) : M α :=
  trapM (causeOf status) (tinfo p.addr 6 (remoteStep (causeOf status)) + 2 ^ 63)

/-- Is a remote access still to be sent: nothing has come back for it, or only the host's data for its source? -/
def unsent : Answer → Bool
  | .none => true
  | .host _ _ _ => true
  | _ => false

/-- A remote access that completes when its target acknowledges it (R220). A release is sent after the agent's earlier remote accesses
to that module have been acknowledged (R137). -/
def remoteDo (w : Who) (p : Place) (rel : Bool) (msg : RemoteAcc → Msg) (bs : List Byte) (slot : Nat := 0) : M Unit := do
  let s ← get
  if unsent (ansOf s w.agent) then
    if rel && s.sent.any fun r => agentOf r.core (streamOf r.stream) == w.agent && r.module == ePeer p.entry then waitM (.own 0)
    throw (.ask (some (msg (remoteAcc s w p bs rel))) (some (ePeer p.entry)) Spot.none [])
  match ansOf s w.agent with
  | .remote 0 => pure ()
  | .remote 0x10 => trapM .tokenExpired (slot % 16 + ePeer p.entry * 2 ^ 4)
  | .remote st => remoteTrap p st
  | _ => waitM (.own 1)

/-! ## Releases carried by locations -/

/-- The releases whose value a read through tower `t` returns: those of the copy it reads (R109). -/
def relsAt (s : State) (t flat : Nat) : List Rel :=
  if isGuest t flat then (find (s.tower t).guest (flat / 256)).elim [] fun g => look [] g.rels (flat % 256)
  else look [] s.locs flat

/-- A table of releases with those of one location replaced. -/
def putRels (k : Nat) (rs : List Rel) (t : Tbl (List Rel)) : Tbl (List Rel) := if rs.isEmpty then del t k else put t k rs

/-- The releases of the copy that a write through tower `t` reaches replaced. -/
def setRels (t flat : Nat) (rs : List Rel) (s : State) : State :=
  if isGuest t flat then
    let w := s.tower t
    match find w.guest (flat / 256) with
    | some g => s.setTower t { w with guest := put w.guest (flat / 256) { g with rels := putRels (flat % 256) rs g.rels } }
    | none => s
  else { s with locs := putRels flat rs s.locs }

/-- The releases of a location's home replaced. -/
def setHomeRels (flat : Nat) (rs : List Rel) (s : State) : State := { s with locs := putRels flat rs s.locs }

/-- The stream of an agent changed; agents that are no stream have none. -/
def mapStr (agent : Nat) (f : Strm → Strm) (s : State) : State :=
  if agent < 8192 then s.setStr (agent / 8) (streamOf (agent % 8)) (f (s.str (agent / 8) (streamOf (agent % 8)))) else s

/-- What a relaxed read saw, kept for a later acquire fence (R111): the releases that it would have acquired, each as its location carried it. -/
def saw (agent : Nat) (rs : List Rel) : State → State := mapStr agent fun m =>
  { m with seen := m.seen ++ rs.filter fun r => !m.seen.contains r }

/-- The scope of the release that a write is: its own, or, of a relaxed atomic, that of the widest release fence before it (R111). -/
def relScope (s : State) (agent : Nat) (o : Ord) (e : Scope) : Option Scope :=
  match o with
  | .rel => some e
  | .acqrel => some e
  | .rlx => if agent < 8192 then (s.str (agent / 8) (streamOf (agent % 8))).relF else none
  | .acq => none

def isAcq : Ord → Bool
  | .acq => true | .acqrel => true | _ => false
def isRel : Ord → Bool
  | .rel => true | .acqrel => true | _ => false

/-- The acquire side of a read that returned the value of some releases, or what a relaxed read leaves for a fence; a release that is no acquire
leaves nothing (R109, R111). -/
def takeRels (agent : Nat) (o : Ord) (e : Scope) (rs : List Rel) : M Unit :=
  modify fun s => if isAcq o then acquireRels agent e rs s else if rs.isEmpty || o != .rlx then s else saw agent rs s

/-- An ordered access at module scope or wider acts at the line's home, relaxed ones too (notes/assumptions/9.md). -/
def wideScope (e : Scope) (l : Loc) : Bool := decide (3 ≤ scopeNo e) && decide (2 ≤ l.p.space)
/-- The tower's own copy of a line gone home and dropped. -/
def freshLine (t flat : Nat) (s : State) : State := if isGuest t flat then dropLine t (flat / 256) s else s

/-- An ordered load of an element (R218): an acquire at module scope or wider drops the tower's guest lines first. -/
def loadOrd (w : Who) (l : Loc) (o : Ord) (e : Scope) : M Nat := do
  hostGate w l false true
  if isAcq o then performAcquire w e
  if wideScope e l then modify (freshLine w.tower l.flat)
  repM .loc l.flat w.agent false
  let bs ← readLoc w l l.p.bytes
  takeRels w.agent o e (relsAt (← get) w.tower l.flat)
  return elemCode l.p bs

/-- Performs a release where the access is one (R136). -/
def performIf (w : Who) : Option Scope → M Unit
  | some e => performRelease w e
  | none => pure ()

/-- A location's releases after an atomic write that is a release at a scope, or none: it heads or extends their sequence (R109). -/
def withRel (agent : Nat) (e : Option Scope) (rs : List Rel) (s : State) (kept : Option Pass := none) : State × List Rel :=
  match e with
  | some e =>
    let (s, p) := handOn agent kept s
    (s, addRel rs agent e (Frontier.empty.take p))
  | none => (s, rs)

/-- An ordered store (R218): a release completes when every earlier access has performed at its scope, itself included. A release store
heads a sequence of its own; a relaxed one stays in the run of atomics (R109). -/
def storeOrd (w : Who) (l : Loc) (o : Ord) (e : Scope) (x : Nat) : M Unit := do
  let sc := relScope (← get) w.agent o e
  performIf w sc
  hostGate w l false (storeAwaits (← get))
  repM .loc l.flat w.agent true
  let old := relsAt (← get) w.tower l.flat
  let bs ← elemBytes w l x
  writeLoc w l bs
  posted l bs sc.isSome
  modify fun s =>
    let (s, rs) := withRel w.agent sc (if isRel o then [] else old) s
    setRels w.tower l.flat rs s
  if wideScope e l then modify (writeBack w.tower (l.flat / 256))

/-- The bytes at a location's home, the tower's own copy having gone home. -/
def homeRead (w : Who) (l : Loc) (n : Nat) : M Nat := do
  modify fun s => if l.p.space ≤ 1 then s else toHome w.tower l.flat s
  let s ← get
  needM (homeOk s l.flat n) .uncorrectable (tinfo l.p.addr l.p.space 0)
  return leNat (if l.p.space ≤ 1 then memBytes s.mem l.flat n else physBytes s l.view l.flat n)

/-- Bytes written at a location's home; the location's releases stay, as an atomic extends their sequence (R109). -/
def homeWrite (l : Loc) (n x : Nat) : M Unit :=
  modify fun s => let s := snoop (l.flat / 256) s; if l.p.space ≤ 1 then { s with mem := memStore s.mem l.flat (leBytes n x) } else physStore s l.view l.flat (leBytes n x)

/-- An indivisible read-modify-write at the home (R105, R219): `f` gives the new value, or none where nothing is written. -/
def atomicAt (w : Who) (l : Loc) (o : Ord) (e : Scope) (f : Nat → Option Nat) (kept : Option Pass := none) : M Nat := do
  let sc := relScope (← get) w.agent o e
  performIf w sc
  hostGate w l true true
  if isAcq o then performAcquire w e
  repM .loc l.flat w.agent true
  let old ← homeRead w l l.p.bytes
  takeRels w.agent o e (look [] (← get).locs l.flat)
  match f old with
  | none => return old
  | some v =>
    homeWrite l l.p.bytes v
    modify fun s =>
      let (s, rs) := withRel w.agent sc (look [] s.locs l.flat) s kept
      setHomeRels l.flat rs s
    return old

/-! ## Atomic operations on codes (R219) -/

/-- The new element of OP 2-10 at width `n` bits: `x` the old element, `a` the operand. -/
def atomicOp (op n x a : Nat) : Nat :=
  match op with
  | 2 => (x + a) % 2 ^ n
  | 3 => x &&& a
  | 4 => x ||| a
  | 5 => x ^^^ a
  | 6 => if sx x n ≤ sx a n then x else a
  | 7 => if sx x n ≤ sx a n then a else x
  | 8 => if x ≤ a then x else a
  | 9 => if x ≤ a then a else x
  | _ => a

/-! ## Updates and memory-side requests (R89, R96, R97) -/

/-- One update into the tower's update-only line; a line of another operation or format is sent home first. In the PCI Express mode one to
HOST goes on to the host at once (R143). -/
def updateNow (w : Who) (l : Loc) (op : UOp) (x : Nat) (s : State) : State :=
  let line := l.flat / 256
  let s := if isGuest w.tower l.flat then dropLine w.tower line s else s
  let same := match find (s.tower w.tower).upd line with
    | some u => u.op == op && u.tag == l.p.tag && u.view == l.view
    | none => true
  let s := if same then s else mergeLine w.tower line s
  let s := makeRoom w.tower line (find (s.tower w.tower).upd line).isSome s
  let t := s.tower w.tower
  let u := (find t.upd line).getD ⟨op, l.p.tag, l.view, []⟩
  let k := l.flat % 256
  let v := match find u.vals k with
    | some y => opHelper op l.p.tag y x
    | none => x
  let s := s.setTower w.tower { t with upd := put t.upd line { u with vals := put u.vals k v } }
  if l.p.space = 5 ∧ hostMode s = 0 then mergeLine w.tower line s else s

/-- An update; in replay one that sends another line home waits for the turn of its merge (R437). -/
def updateAt (w : Who) (l : Loc) (op : UOp) (x : Nat) : M Unit := do
  let s ← get
  let other := (find (s.tower w.tower).upd (l.flat / 256)).any fun u => !(u.op == op && u.tag == l.p.tag && u.view == l.view)
  if other ∧ mergesWait s (l.flat / 256) then waitM .other
  set (updateNow w l op x s)

/-- One element of a memory-side request (R96): the home recalls holders first (R97), and the touched elements of a line that one issue
sends travel in one request; it is applied by MSA_APPLY (R98, R141). -/
def msaAt (w : Who) (l : Loc) (op : UOp) (x : Nat) : M Unit := modify fun s =>
  let line := l.flat / 256
  let k := l.flat % 256
  let s := recallHolders line s
  let joins := fun r : MsaReq => r.issue == s.freeCtr && r.core == w.core.getD 0 && r.line == line && r.op == op && r.tag == l.p.tag &&
    r.view == l.view && (find r.vals k).isNone
  if s.msa.any joins then
    { s with msa := s.msa.map fun r => if joins r then { r with vals := put r.vals k x } else r }
  else
    { s with msa := s.msa ++ [⟨s.msaNext, s.freeCtr, w.core.getD 0, line, op, l.p.tag, [(k, x)], l.view, (l.ctx, l.p.addr)⟩], msaNext := s.msaNext + 1 }

/-! ## Pins (R37, R88) -/

/-- Lowest and highest byte address over the elements of an entry (R37). -/
def spanOf (e : Entry) : Int × Int :=
  let dims := [1, 2, 3].map fun d => ((eExt e d : Int) - 1) * eStride e d
  let lo := dims.foldl (fun a x => if x < 0 then a + x else a) (eBase e : Int)
  let hi := dims.foldl (fun a x => if 0 < x then a + x else a) (eBase e : Int)
  let row : Int := if esizeBits (eFmt e) = 4 then ((eExt e 0 + 1) / 2 : Nat) else (eExt e 0 * (esizeBits (eFmt e) / 8) : Nat)
  (lo, hi + row - 1)

/-- Does an entry's span overlap a page? -/
def overlaps (e : Entry) (p : Closing) : Bool :=
  let (lo, hi) := spanOf e
  let a := p.va / 2 ^ sizeBits p.size * 2 ^ sizeBits p.size
  decide (lo < (a + 2 ^ sizeBits p.size : Nat) ∧ (a : Int) ≤ hi)

/-- A pin of a layout entry: 0 DONE, 2 CLOSING or 6 OVERFLOW (R37, R38). Of a closing page and a full count the first is reported: DESIGN
CHOICE, R37 does not order them (notes/assumptions/59.md). -/
def pinEntry (root n : Nat) (e : Entry) (s : State) : State × Nat :=
  let k := ltKey root n
  if s.closing.any fun p => p.ctx == ctxId root && overlaps e p then (s, 2)
  else if 65535 ≤ look 0 s.pins k then (s, 6)
  else ({ s with pins := put s.pins k (look 0 s.pins k + 1) }, 0)

/-- The release of one pin of a layout entry. -/
def unpinEntry (key : Nat) (s : State) : State := { s with pins := put s.pins key (look 0 s.pins key - 1) }

/-- Pins of a line in a tower. -/
def linePins (s : State) (t line : Nat) : Nat :=
  if isGuest t (line * 256) then (find (s.tower t).guest line).elim 0 (·.pins) else look 0 (s.tower t).homePin line

/-- Sets the pins of a line; a guest line must be held. -/
def setLinePins (t line n : Nat) (s : State) : State :=
  let w := s.tower t
  if isGuest t (line * 256) then
    match find w.guest line with
    | some g => s.setTower t { w with guest := put w.guest line { g with pins := n } }
    | none => s
  else s.setTower t { w with homePin := if n = 0 then del w.homePin line else put w.homePin line n }

/-- Pinned lines of a set of a tower. -/
def pinnedWays (s : State) (t line : Nat) : Nat :=
  ((s.tower t).guest.filter fun e => e.2.pins != 0 && setOf e.1 == setOf line).length +
  ((s.tower t).homePin.filter fun e => e.2 != 0 && setOf e.1 == setOf line).length

/-! ## Places without a walk (R76) -/

/-- Steps 1 to 9 as a load, then the space test of the tag table and of pins. -/
def cachePlace (w : Who) (h : Handle) (c : Coord) : M Place := do
  let s ← get
  let p ← liftC (place s w h c .load)
  modify fun s => cacheLt s w p.lt p.entry
  needM (p.space == 2 || p.space == 3 || p.space == 5) .permission (tinfo p.addr p.space 0)
  return p

end Sys2Proof.Machine
end

