-- ==== Sys2Proof/Machine/Barrier.lean ====
section
/-! DEFINITION. Edges handed between agents (R110, R118), tokens and semaphores (R128, R129), barrier groups, supersteps and the barrier
tree (R117, R161, R164, R390). -/
namespace Sys2Proof.Machine

/-! ## Edges (R118) -/

/-- An agent takes a handed-on pair and frontier. -/
def takePass (agent : Nat) (p : Pass) (s : State) : State := setClock s agent ((clockOf s agent 0).acquire p)
/-- An agent takes a bare frontier. -/
def takeFrontier (agent : Nat) (f : Frontier) (s : State) : State := setClock s agent ((clockOf s agent 0).join f)

/-! ## Tokens (R128) -/

def tokens (s : State) (c k : Nat) : List Pass := look [] (s.core c).tk k

/-- A push by an agent, or none where the FIFO is full. -/
def tokenPush (c agent k : Nat) (s : State) (kept : Option Pass := none) : Option State :=
  if 8 ≤ (tokens s c k).length then none
  else do
    let s ← actTurn (ObjKind.tok.key (c * 8 + k)) agent s
    let (s, p) := handOn agent kept s
    some (s.setCore c { s.core c with tk := put (s.core c).tk k (tokens s c k ++ [p]) })

/-- A pop by an agent, or none where the FIFO is empty. -/
def tokenPop (c agent k : Nat) (s : State) : Option State :=
  match tokens s c k with
  | [] => none
  | p :: t => do
    let s ← actTurn (ObjKind.tok.key (c * 8 + k)) agent s
    some (takePass agent p (s.setCore c { s.core c with tk := put (s.core c).tk k t }))

/-! ## Semaphores (R129) -/

def semOf (s : State) (c k : Nat) : Nat × Frontier := look (0, .empty) (s.core c).sem k

/-- A signal of n, or none while the sum would exceed 65,535. -/
def semSignal (c agent k n : Nat) (s : State) (kept : Option Pass := none) : Option State :=
  if 65535 < (semOf s c k).1 + n then none
  else do
    let s ← actTurn (ObjKind.sem.key (c * 32 + k)) agent s
    let (s, p) := handOn agent kept s
    let v := semOf s c k
    some (s.setCore c { s.core c with sem := put (s.core c).sem k (v.1 + n, v.2.take p) })

/-- A wait for n, or none while the value is below it. -/
def semTake (c agent k n : Nat) (s : State) : Option State :=
  let v := semOf s c k
  if v.1 < n then none
  else do
    let s ← actTurn (ObjKind.sem.key (c * 32 + k)) agent s
    let s := takeFrontier agent v.2 s
    some (s.setCore c { s.core c with sem := put (s.core c).sem k (v.1 - n, if v.1 = n then .empty else v.2) })

/-! ## Domain generations (R117) -/

/-- The instances at level `j` among cores that fill whole instances of it. -/
def instancesAt (s : State) (cores : List Nat) (j : Nat) : List Nat :=
  match j with
  | 0 => cores
  | 1 => (cores.filter fun c => levelOf c == 0).map pairOf
  | 2 => (cores.filter fun c => c % 32 == 0).map towerOf
  | 3 => (cores.filter fun c => c % 128 == 0).map fun c => c / 128
  | _ => if cores.isEmpty then [] else (coreInst s.dmr.toNat 0 j).toList

/-- The cores of an instance on this module. -/
def coresIn (s : State) (lvl inst : Nat) : List Nat := (List.range 1024).filter fun c => coreInst s.dmr.toNat c lvl == some inst

/-- One DGEN advanced; at the wrap every stamp of the domain is reset first. -/
def bumpDgen (s : State) (lvl inst : Nat) : State :=
  let k := lvl * 1024 + inst
  let v := look 0 s.dgen k
  if v + 1 < 2 ^ 32 then { s with dgen := put s.dgen k (v + 1) }
  else
    { s with
      dgen := put s.dgen k 0
      stamps := s.stamps.filter fun e => e.2.dom != k
      towers := s.towers.map fun t => (t.1, { t.2 with guest := t.2.guest.map fun g => (g.1, match g.2.stamp with
        | some x => if x.dom = k then { g.2 with stamp := none } else g.2
        | none => g.2) }) }

/-- The DGEN of an instance and of every instance nested inside it advance by one. -/
def advanceDgen (lvl inst : Nat) (s : State) : State :=
  let cores := coresIn s lvl inst
  let s := (List.range lvl).foldl (fun s j => (instancesAt s cores j).foldl (fun s i => bumpDgen s j i) s) s
  bumpDgen s lvl inst

/-! ## Groups (R161) -/

def gLevel (g : Group) : Nat := bitsAt g.cfg.toNat 0 3
def gInst (g : Group) : Nat := bitsAt g.cfg.toNat 3 10
def gStreams (g : Group) : Nat := bitsAt g.cfg.toNat 13 2
def gSuper (g : Group) : Bool := bitAt g.cfg.toNat 15
def gEnable (g : Group) : Bool := bitAt g.cfg.toNat 16

/-- Set bits of a 64-bit number. -/
def ones (x : Nat) : Nat := (List.range 64).countP fun k => bitAt x k

def gMask (g : Group) (c : Nat) : Bool := bitAt (look 0 g.mask (c / 64)).toNat (c % 64)
/-- Members of a generation on this module. -/
def gMembers (g : Group) : Nat := ((List.range 16).map fun w => ones (look 0 g.mask w).toNat).sum * ones (gStreams g)
/-- Is a control core a member? -/
def gMember (g : Group) (c : Nat) (l : Leader) : Bool := gMask g c && bitAt (gStreams g) (streamNo (leaderStream l))

/-- scope(L) of R164. -/
def gScope : Nat → Scope
  | 0 => .core | 1 => .twin | 2 => .tower | 3 => .module | 4 => .module | _ => .domain

/-- complete(g): GEN advances, the count is cleared, and a superstep group advances DGEN. -/
def completeGroup (n : Nat) (s : State) : State :=
  let g := s.group n
  let s := s.setGroup n { g with gen := (g.gen + 1) % 2 ^ 32, count := 0, done := g.merged, merged := .empty, sentUp := false }
  if gSuper g then advanceDgen (gLevel g) (gInst g) s else s

/-! ## The barrier tree (R390) -/

def fbtOf (s : State) (n : Nat) : Fbt := look Fbt.reset s.fbt n
def fbtParent (f : Fbt) : Nat := bitsAt f.cfg.toNat 0 10
def fbtRoot (f : Fbt) : Bool := bitAt f.cfg.toNat 10
def fbtChildren (f : Fbt) : Nat := bitsAt f.cfg.toNat 11 3
def fbtV (f : Fbt) : Bool := bitAt f.cfg.toNat 14

/-- COMPLETE goes to every module heard from, and the generation completes here. -/
def completeTree (n : Nat) (s : State) : State :=
  let f := fbtOf s n
  let gen := (s.group n).gen
  let s := f.arrived.foldl (fun s m => emit (.complete m n gen) s) s
  completeGroup n { s with fbt := put s.fbt n { f with arrived := [] } }

/-- What follows once arrivals have been counted (R164, R390). -/
def tryComplete (n : Nat) (s : State) : State :=
  let g := s.group n
  if !gEnable g || g.count != gMembers g then s
  else if gLevel g ≤ 4 then completeGroup n s
  else
    let f := fbtOf s n
    if !fbtV f || f.arrived.length < fbtChildren f then s
    else if fbtRoot f then completeTree n s
    else if g.sentUp then s
    else emit (.arrive (fbtParent f) n g.gen) (s.setGroup n { g with sentUp := true })

/-! ## Arrive and wait (R164) -/

/-- Has the executing stream's instruction passed the check of a half: it waits in that half? -/
def inHalf (s : State) (n half : Nat) : Bool :=
  s.myStr.st == .wait && (match s.myStr.wait with
    | .barrier k h _ => k == n && h == half
    | .own _ => half == 0
    | _ => false)

/-- The check that a half makes first; one that waits keeps waiting, whatever becomes of the group's configuration (R164). -/
def needMember (n half : Nat) : M Unit := do
  let s ← get
  needM (inHalf s n half || gEnable (s.group n) && gMember (s.group n) s.cc s.cl) .permission

/-- arrive(g). -/
def arriveGroup (n : Nat) : M Unit := do
  needMember n 0
  let s ← get
  let g := s.group n
  if look false s.me.arr n && g.gen == look 0 s.me.ticket n then waitM (.barrier n 0 0)
  performRelease s.who (gScope (gLevel g))
  repM .group n s.myAgent true
  modify fun s =>
    let (s, p) := releasePass s.myAgent s
    let g := s.group n
    let s := s.setMe { s.me with arr := put s.me.arr n true, ticket := put s.me.ticket n g.gen }
    tryComplete n (s.setGroup n { g with count := g.count + 1, merged := g.merged.take p })

/-- The views a control core of core `c` takes at the end of a superstep wait at level `l` (R117). -/
def takenViews (s : State) (c l : Nat) (old : List Nat) : List Nat :=
  (List.range 7).map fun j =>
    if l < j then nth 0 old j
    else match coreInst s.dmr.toNat c j with
      | some i => look 0 s.dgen (j * 1024 + i)
      | none => nth 0 old j

/-- wait(g). The ticket of a wait with no arrival is GEN as the wait began. -/
def waitGroup (n : Nat) : M Unit := do
  needMember n 1
  let s ← get
  let g := s.group n
  let t := match s.myStr.wait with
    | .barrier k 1 t => if k = n then t else if look false s.me.arr n then look 0 s.me.ticket n else g.gen
    | _ => if look false s.me.arr n then look 0 s.me.ticket n else g.gen
  if g.gen = t then waitM (.barrier n 1 t)
  performAcquire s.who (gScope (gLevel g))
  modify fun s =>
    let m := s.myStr
    let k := m.clk.join g.done
    let k := if gSuper g then k.superstep (gLevel g) (takenViews s s.cc (gLevel g) k.views) else k
    let s := s.setMyStr { m with clk := k }
    s.setMe { s.me with arr := put s.me.arr n false }

end Sys2Proof.Machine
end

