-- ==== Sys2Proof/Machine/Job.lean ====
section
/-! DEFINITION. Jobs: starts of leaders and their reports (R150, R333, R334), gusset ownership (R134, R135), the licence's states (R156,
R157). -/
namespace Sys2Proof.Machine

def cpAgent (t : Nat) : Nat := 8192 + 1024 + t
def mbsAgent : Nat := 8192 + 2 * 1024
def hostAgent : Nat := 8192 + 5 * 1024
def ingressAgent (m : Nat) : Nat := 8192 + 3 * 1024 + m
def bobAgent (d : Nat) : Nat := 8192 + d

/-- The other leader. -/
def otherLeader : Leader → Leader
  | .lcc => .ccc | .ccc => .lcc

/-- ENGINE of an instruction's record; control instructions have none. -/
def engineOf (i : Instr) : Nat :=
  match i.record? with
  | some (e, _, _) => e
  | none => 0

/-! ## Starts (R333) -/

/-- Can a start be made now? -/
def canStart (a : Start) (s : State) : Bool :=
  let k := s.core a.core
  let y := k.str (leaderStream (otherLeader a.lead))
  !(k.str (leaderStream a.lead)).inJob &&
  (match a.ctx with
    | some (_, root) => !y.inJob || ctxId k.ascRoot.toNat == ctxId root.toNat
    | none => true)

/-- A release that hands on a pass: the dirty guest bytes of its tower go home first (R136, R333). -/
def releaseFrom (agent t : Nat) (s : State) : State × Pass := releasePass agent (writeBackAll t s)

/-- The fields of ASC_LTB and of ASC_ROOT: their other bits are reserved and read 0 (R6, R19, R20). -/
def ltbPart (v : Word) : Word := v &&& BitVec.ofNat 64 ((2 ^ 22 - 1) * 2 ^ 18 + 2 ^ 63)
def rootPart (v : Word) : Word := v &&& BitVec.ofNat 64 ((2 ^ 41 - 1) * 2 ^ 11)

/-- The start of a leader, in one cycle: it acquires what its starter releases, so the guest lines of its tower go (R136, R333, R360). -/
def startNow (a : Start) (s : State) : State :=
  let s := dropAll (towerOf a.core) s
  let s := match a.ctx with
    | some (ltb, _) => startTable (ltbPart ltb) s
    | none => s
  let k := s.core a.core
  let k := match a.ctx with
    | some (ltb, root) => { k with ascLtb := ltbPart ltb, ascRoot := rootPart root }
    | none => k
  let x := leaderStream a.lead
  let m := k.str x
  let c := k.ctl a.lead
  let c := ((((c.wrS 1 (nth 0 a.args 0)).wrS 2 (nth 0 a.args 1)).wrS 3 (nth 0 a.args 2)).wrS 4 (nth 0 a.args 3))
  let k := k.setCtl a.lead { c with priv := false, starter := a.starter }
  let k := k.setStr x { m with
    st := if a.gang then .wait else .run, wait := if a.gang then .gang else .none, since := s.time
    inJob := true, job := a.lead, pc := a.pc, mt := a.mt % 4096, clk := m.clk.acquire a.pass }
  (s.setCore a.core k).noteOpen (agentOf a.core x) 5

/-- A start made at once, or kept until its leader is free. -/
def startOrKeep (a : Start) (s : State) : State := if canStart a s then startNow a s else { s with starts := s.starts ++ [a] }

/-! ## Reports (R334) -/

/-- The report of a leader's end to its starter, who acquires it. -/
def report (c : Nat) (l : Leader) (faulted : Bool) (s : State) : State :=
  let agent := agentOf c (leaderStream l)
  let st := (s.ctlOf c l).starter
  match st with
  | .none => (releasePass agent s).1
  | .cp t q n =>
    let (s, p) := releasePass agent s
    let s := takePass (cpAgent t) p (dropAll t s)
    let w := s.tower t
    let d := look Cpq.reset w.cpq q
    let d := { d with fly := d.fly.map fun k => if k.slot = n then { k with waiting := k.waiting.erase (c, l), faulted := k.faulted || faulted } else k }
    s.setTower t { w with cpq := put w.cpq q d }
  | .mbs st cls tag =>
    let (s, p) := releasePass agent s
    let s := takePass mbsAgent p s
    let g := look Stage.reset s.stages st
    { s with stages := put s.stages st { g with jobs := g.jobs.map fun j => if j.cls = cls ∧ j.tag = tag then { j with left := j.left.erase (c, l) } else j } }

/-! ## Gusset ownership (R135) -/

/-- Is some stream of a core in a job of a context? The context of a job is its core's ASC_ROOT. -/
def coreInCtx (s : State) (c ctx : Nat) : Bool :=
  ctxId (s.core c).ascRoot.toNat == ctx && (s.core c).strm.any fun e => e.2.inJob

/-- The lapse of ownership when no stream of either twin is in a job of the owning context. -/
def lapse (c : Nat) (s : State) : State :=
  let p := s.pair (pairOf c)
  if p.ownV && !coreInCtx s c p.ownCtx && !coreInCtx s (twinOf c) p.ownCtx then s.setPair (pairOf c) { p with ownV := false } else s

/-- The lapses of every pair, whatever ended the owner's jobs: a load, a new root, an end (R135). -/
def lapseAll (s : State) : State := s.pairs.foldl (fun s e => lapse (pairCore e.1 0) s) s

/-- The end of a leader's job: reported, the leader IDLE, `mt` unbound (R233). -/
def endJob (c : Nat) (l : Leader) (faulted : Bool) (s : State) : State :=
  let s := (report c l faulted s).noteOpen (agentOf c (leaderStream l)) 5
  let m := s.str c (leaderStream l)
  let s := s.setStr c (leaderStream l) { m with inJob := false, st := .idle, wait := .none, mt := 0xFFF }
  lapse c (s.setCtlOf c l { s.ctlOf c l with starter := .none, rdvF := .empty, inTrap := false })

/-- The claim or the refusal of a gusset access (R135). -/
def claimGussets : M Unit := do
  let s ← get
  let c := ctxId s.myCore.ascRoot.toNat
  let p := s.pair (pairOf s.cc)
  if !p.ownV then set (s.setPair (pairOf s.cc) { p with g := [], gBad := [], ownV := true, ownCtx := c })
  else needM (p.ownCtx == c) .permission

/-- The acquiring read of a gusset register (R134). -/
def gussetRead (g : Nat) : M Word := do
  let s ← get
  let (v, p) := look (0, none) (s.pair (pairOf s.cc)).g g
  match p with
  | some p => set (takePass s.myAgent p s)
  | none => pure ()
  return v

/-- The releasing write of a gusset register. -/
def gussetWrite (g : Nat) (v : Word) : M Unit := modify fun s =>
  let (s, p) := releasePass s.myAgent s
  let q := s.pair (pairOf s.cc)
  s.setPair (pairOf s.cc) { q with g := put q.g g (v, some p), gBad := q.gBad.filter fun k => k != g }

/-! ## The licence (R156, R157) -/

/-- The streams of a core that wait for the licence as it becomes DISABLED take LICENCE_DISABLED when they next step, the ME of a resumed core
among them; the core's request is gone (R157, R372, R380). -/
def denyWaits (c : Nat) (s : State) : State :=
  let asked := (s.core c).licReq
  let s := noWant c (s.setCore c { s.core c with licReq := false })
  [Stream.lcc, .ccc, .me].foldl (fun s x =>
    let m := s.str c x
    if m.st = .wait ∧ m.wait = .licence true then s.setStr c x { m with wait := .denied }
    else if asked && x == .me && m.st == .run then s.setStr c x { m with st := .wait, wait := .denied, since := s.time } else s) s

/-- Requests served as from FREE: the twin that is not LAST goes first. -/
def serveFree (p : Nat) (s : State) : State :=
  let k := s.pair p
  if k.lic ≠ .free then s
  else if k.disable then denyWaits (pairCore p 0) (denyWaits (pairCore p 1) (s.setPair p { k with lic := .disabled }))
  else
    let x := if k.want.contains (1 - k.last) then some (1 - k.last) else if k.want.contains k.last then some k.last else none
    match x with
    | some x => (s.setPair p { k with lic := .handover, who := x }).actBy (ObjKind.lic.key p) 0x3FFF
    | none => s

/-- Does a core hold the licence (R157)? -/
def holdsLic (s : State) (c : Nat) : Bool := (s.pair (pairOf c)).lic == .held && (s.pair (pairOf c)).who == levelOf c

/-- A request of a core's licence is entered. -/
def wantLic (c : Nat) (s : State) : State :=
  let k := s.pair (pairOf c)
  let k := if k.want.contains (levelOf c) then k else { k with want := k.want ++ [levelOf c] }
  serveFree (pairOf c) (s.setPair (pairOf c) k)

/-- DISABLE written by software or the thermal controller (R156, R157). -/
def setDisable (p : Nat) (b : Bool) (s : State) : State :=
  let k := { s.pair p with disable := b }
  let k := if !b && k.lic == .disabled then { k with lic := .free } else k
  serveFree p (s.setPair p k)

/-- The dumped results of a stream back inside its engine; their pins are released (R369, R371, R372). -/
def reinject (c n : Nat) (s : State) : State :=
  let rs := (s.core c).dump.filter fun r => r.stream == n
  if rs.isEmpty then s
  else
    let s := rs.foldl (fun s r => dropPin r s) s
    let k := s.core c
    s.setCore c { k with dump := k.dump.filter fun r => r.stream != n, flight := k.flight ++ rs.map fun r => { r with pin := none } }

/-! ## Current reservations (R410, R411) -/

/-- The waiting reservation request of a stream withdrawn (R410). -/
def dropWants (c : Nat) (x : Stream) (s : State) : State :=
  let k := s.cluster (clusterOf c)
  let mine := fun r : Resv => r.core == c && r.stream == streamNo x
  if k.wants.any mine then s.setCluster (clusterOf c) { k with wants := k.wants.filter fun r => !mine r } else s

/-- A reservation of a stream released, and its waiting request withdrawn. -/
def dropResv (c : Nat) (x : Stream) (s : State) : State :=
  let k := s.cluster (clusterOf c)
  let mine := fun r : Resv => r.core == c && r.stream == streamNo x
  if k.held.any mine || k.wants.any mine then
    s.setCluster (clusterOf c) { k with held := k.held.filter fun r => !mine r, wants := k.wants.filter fun r => !mine r }
  else s

/-- An ME record whose licence is gone in mid-record: its reservation is released, and it reserves again after the licence returns
(R410). -/
def unlicensed (c : Nat) (s : State) : State :=
  match (s.seqOf c .me).run with
  | some u =>
    if engineOf u.instr = 1 ∧ (u.phase = .issue ∨ u.phase = .reserve) then
      dropResv c .me (s.setSeqOf c .me { s.seqOf c .me with run := some { u with phase := .licence, held := 0 } })
    else s
  | none => s

/-- The release of a held licence begins its drain; a record that waits for its reservation waits for the licence again, so that none
reserves while the licence is RELEASING (R157, R357). -/
def releaseLic (c : Nat) (s : State) : State :=
  let k := s.pair (pairOf c)
  if holdsLic s c then
    let s := s.setPair (pairOf c) { k with lic := .releasing }
    match (s.seqOf c .me).run with
    | some u => if u.phase = .reserve then unlicensed c s else s
    | none => s
  else s

/-- The end of a holder's drain (R157). -/
def drainEnd (p : Nat) (s : State) : State :=
  let k := s.pair p
  if k.lic ≠ .releasing then s
  else
    let s := unlicensed (pairCore p k.who) (landEng (pairCore p k.who) 2 s)
    let y := 1 - k.who
    let k := { k with last := k.who }
    if k.want.contains y then s.setPair p { k with lic := .handover, who := y }
    else serveFree p (s.setPair p { k with lic := .free })

/-- The end of a hand-over (R157). -/
def handoverEnd (p : Nat) (s : State) : State :=
  let k := s.pair p
  if k.lic = .handover then
    let c := pairCore p k.who
    (s.setCore c { s.core c with licReq := false }).setPair p { k with lic := .held, want := k.want.erase k.who }
  else s

end Sys2Proof.Machine
end

