-- ==== Sys2Proof/Machine/Bobbin.lean ====
section
/-! DEFINITION. The stash policy of a die's bobbin (R312-R315, R353-R356), and the write of a register by the executing control core. -/
namespace Sys2Proof.Machine

/-! ## A register's write as an event -/

/-- The write of register `n` by the executing control core: privilege, then the register's own rule (R237). -/
def regEvent (n : Nat) (sup : Bool) (f : State → Chk State) : State → Out :=
  event fun s =>
    if sup && !s.me.priv then trapHere ⟨.priv, n⟩ 8 s
    else match f s with
      | .ok t => t
      | .error t => trapHere t 8 s

/-! ## Pools (R353, R354) -/

/-- Key of an object: tag and OBJ (R312). -/
def objKey (tag obj : Nat) : Nat := tag * 65536 + obj
/-- Bytes of a pool that objects of a chosen state hold or reserve. -/
def poolUsed (d : Die) (k : ObjSt) : Nat := ((d.objs.filter fun e => e.2.goal == k).map fun e => e.2.held).sum
def keepBytes (d : Die) : Nat := d.keepSize * 2 ^ 21
def spillBytes (d : Die) : Nat := d.spillSize * 2 ^ 21
def keepRoom (d : Die) (n : Nat) : Bool := decide (poolUsed d .kept + n ≤ keepBytes d)
def spillRoom (d : Die) (n : Nat) : Bool := decide (poolUsed d .offloaded + n ≤ spillBytes d)

/-- LEVEL (R354). -/
def bobLevel (d : Die) : Nat := [0, 8, 16].countP fun k => decide (bitsAt d.thr.toNat k 8 * keepBytes d ≤ 256 * poolUsed d .kept)

/-! ## The choice at entry (R355) -/

def wantedState (kind weight level : Nat) : ObjSt :=
  match kind, level with
  | 1, 3 => .offloaded
  | 1, _ => .kept
  | _, 0 => .kept
  | 2, 1 => if weight = 3 then .kept else .offloaded
  | 2, _ => .offloaded
  | _, 1 => if 2 ≤ weight then .kept else .dropped
  | _, _ => .dropped

def chosenState (d : Die) (kind weight n : Nat) : ObjSt :=
  let w := wantedState kind weight (bobLevel d)
  let w := if w = .kept ∧ !keepRoom d n then .offloaded else w
  if w = .offloaded ∧ !spillRoom d n then .dropped else w

/-- State codes (R312). -/
def objCode : ObjSt → Nat
  | .kept => 0 | .offloaded => 1 | .dropped => 2 | .incomplete => 4

/-- The choice that a code names. -/
def stateOfCode (v : Nat) : ObjSt := if v = 0 then .kept else if v = 1 then .offloaded else .dropped

/-- The code of a key: 3 where no object has it. -/
def keyCode (d : Die) (k : Nat) : Nat :=
  match find d.objs k with
  | some o => objCode o.st
  | none => 3

def setObj (d k : Nat) (o : Obj) (s : State) : State := s.setDie d { s.die d with objs := put (s.die d).objs k o }
def freeObj (d k : Nat) (s : State) : State := s.setDie d { s.die d with objs := del (s.die d).objs k }

/-- The compressed size of an image of `n` bytes: lossless, its size otherwise open (R355; notes/assumptions/7.md). -/
def packedSize (s : State) (k n : Nat) : Nat := Config.freeNat s.freeCtr k % (n + 1)

/-- A KEPT object moved to the spill pool (R356). -/
def offload (d k : Nat) (s : State) : State :=
  match find (s.die d).objs k with
  | some o =>
    let (s, n) := repValue (8192 + d) (packedSize s k o.len) s
    setObj d k { o with st := .offloaded, goal := .offloaded, held := n } s
  | none => s

/-- Which of two objects moves first: the lighter, then the older. -/
def movesBefore (a b : Obj) : Bool := decide (a.weight < b.weight) || (a.weight == b.weight && decide (a.order < b.order))

def firstMover : Tbl Obj → Option (Nat × Obj)
  | [] => none
  | (k, o) :: t =>
    match firstMover t with
    | none => if o.st = .kept then some (k, o) else none
    | some (j, p) => if o.st = .kept ∧ movesBefore o p then some (k, o) else some (j, p)

/-- One move of R356, while LEVEL = 3 and the spill pool has room. -/
def bobbinMove (d : Nat) (s : State) : State :=
  if bobLevel (s.die d) = 3 then
    match firstMover (s.die d).objs with
    | some (k, o) => if spillRoom (s.die d) o.len then offload d k s else s
    | none => s
  else s

/-- A prefetch of a key (R356). -/
def prefetchKey (d k : Nat) (s : State) : State :=
  match find (s.die d).objs k with
  | some o =>
    if o.st = .offloaded ∧ keepRoom (s.die d) o.len ∧ bobLevel (s.die d) ≤ 1 then
      setObj d k { o with st := .kept, goal := .kept, held := o.len } s
    else s
  | none => s

/-- The prefetch of every object of a tag in a die (R356). -/
def prefetchTag (d tag : Nat) (s : State) : State :=
  ((s.die d).objs.filter fun e => e.1 / 65536 == tag).foldl (fun s e => prefetchKey d e.1 s) s

def execBobbinOffload (k : DieId) : State → Out := event (bobbinMove k)

/-! ## Registers (R353) -/

/-- Do two ranges of units overlap? -/
def rangesMeet (a n b m : Nat) : Bool := decide (0 < n ∧ 0 < m ∧ a < b + m ∧ b < a + n)

/-- BOB_KEEP of a die. -/
def wrBobKeep (d : Nat) (v : Word) (s : State) : Chk State := do
  let b := bitsAt v.toNat 0 19
  let n := bitsAt v.toNat 19 19
  let k := s.die d
  need (decide (b + n ≤ 2 ^ 19)) .permission
  need (s.dies.all fun e => e.1 == d || !rangesMeet b n e.2.keepBase e.2.keepSize) .permission
  need ((b == k.keepBase && n == k.keepSize) || !(k.objs.any fun e => e.2.goal == .kept)) .permission
  return s.setDie d { k with keepBase := b, keepSize := n }

/-- BOB_SPILL of a die. -/
def wrBobSpill (d : Nat) (v : Word) (s : State) : Chk State := do
  let b := bitsAt v.toNat 0 20
  let n := bitsAt v.toNat 20 20
  let k := s.die d
  need (decide (b + n ≤ 2 ^ 20)) .permission
  need (s.dies.all fun e => e.1 == d || !rangesMeet b n e.2.spillBase e.2.spillSize) .permission
  need ((b == k.spillBase && n == k.spillSize) || !(k.objs.any fun e => e.2.goal == .offloaded)) .permission
  return s.setDie d { k with spillBase := b, spillSize := n }

/-- BOB_THR of a die. -/
def wrBobThr (d : Nat) (v : Word) (s : State) : Chk State := do
  need (decide (bitsAt v.toNat 0 8 ≤ bitsAt v.toNat 8 8 ∧ bitsAt v.toNat 8 8 ≤ bitsAt v.toNat 16 8)) .permission
  return s.setDie d { s.die d with thr := BitVec.ofNat 64 (bitsAt v.toNat 0 24) }

def bobKeepImage (k : Die) : Nat := k.keepBase + k.keepSize * 2 ^ 19
def bobSpillImage (k : Die) : Nat := k.spillBase + k.spillSize * 2 ^ 20
def bobStatusImage (k : Die) : Nat := bobLevel k + k.objs.length * 2 ^ 16

def execBobKeepWrite (v : Word) : State → Out := regEvent 0x1E6 true fun s => wrBobKeep (dieOf s.cc) v s
def execBobSpillWrite (v : Word) : State → Out := regEvent 0x1E7 true fun s => wrBobSpill (dieOf s.cc) v s
def execBobThrWrite (v : Word) : State → Out := regEvent 0x1E8 true fun s => wrBobThr (dieOf s.cc) v s

end Sys2Proof.Machine
end

