-- ==== Sys2Proof/Machine/Pred.lean ====
section
/-! DEFINITION. Comparisons, predicates and select (R199-R201). -/
namespace Sys2Proof.Machine

/-- An instruction of `len` bytes whose whole effect is setP(D, f) with `f` read before the write (R192, R199). -/
def setPred (gd : Guard) (len : Nat) (d : PReg) (f : State → Bool) (s : State) : Out :=
  control gd len false (fun s => .done (s.wrP d (f s))) s

def execCmpEq (gd : Guard) (d : PReg) (a b : SReg) : State → Out := setPred gd 4 d fun s => cond .eq (s.rdS a) (s.rdS b)
def execCmpNe (gd : Guard) (d : PReg) (a b : SReg) : State → Out := setPred gd 4 d fun s => cond .ne (s.rdS a) (s.rdS b)
def execCmpLt (gd : Guard) (d : PReg) (a b : SReg) : State → Out := setPred gd 4 d fun s => cond .lt (s.rdS a) (s.rdS b)
def execCmpGe (gd : Guard) (d : PReg) (a b : SReg) : State → Out := setPred gd 4 d fun s => cond .ge (s.rdS a) (s.rdS b)
def execCmpLtu (gd : Guard) (d : PReg) (a b : SReg) : State → Out := setPred gd 4 d fun s => cond .ltu (s.rdS a) (s.rdS b)
def execCmpGeu (gd : Guard) (d : PReg) (a b : SReg) : State → Out := setPred gd 4 d fun s => cond .geu (s.rdS a) (s.rdS b)
def execCmpi (gd : Guard) (k : Cond) (d : PReg) (a : SReg) (i : BitVec 9) : State → Out :=
  setPred gd 4 d fun s => cond k (s.rdS a) (imm9 i)
def execCmpl (gd : Guard) (k : Cond) (d : PReg) (a : SReg) (v : BitVec 32) : State → Out :=
  setPred gd 8 d fun s => cond k (s.rdS a) (imm32 v)

/-! ## Predicate forms (R200) -/

def execPand (gd : Guard) (d a b : PReg) : State → Out := setPred gd 4 d fun s => s.rdP a && s.rdP b
def execPor (gd : Guard) (d a b : PReg) : State → Out := setPred gd 4 d fun s => s.rdP a || s.rdP b
def execPxor (gd : Guard) (d a b : PReg) : State → Out := setPred gd 4 d fun s => s.rdP a ^^ s.rdP b
def execPandn (gd : Guard) (d a b : PReg) : State → Out := setPred gd 4 d fun s => s.rdP a && !s.rdP b
def execPnot (gd : Guard) (d a : PReg) : State → Out := setPred gd 4 d fun s => !s.rdP a
def execPget (gd : Guard) (d : SReg) (a : PReg) : State → Out := setReg gd 4 d fun s => if s.rdP a then 1 else 0
def execPset (gd : Guard) (d : PReg) (a : SReg) : State → Out := setPred gd 4 d fun s => s.rdS a != 0

/-- `sel`: the selecting predicate is read apart from the guard (R201). -/
def execSel (gd : Guard) (f : PReg) (d a b : SReg) : State → Out :=
  setReg gd 4 d fun s => if s.rdP f then s.rdS a else s.rdS b

end Sys2Proof.Machine
end

