-- ==== Sys2Proof/Machine/Branch.lean ====
section
/-! DEFINITION. Branches (R202-R204). -/
namespace Sys2Proof.Machine

/-- A branch of instruction `i` to `t`, with the link register it writes when taken (R202, R203). -/
def branchTo (i : Instr) (t : Int) (link : Option (SReg × Nat)) (s : State) : Eff :=
  Eff.ofChk s do
    let t ← checkTarget i t
    match link with
    | none => return .jump s t
    | some (d, v) => return .jump (s.wrS d (BitVec.ofNat 64 v)) t

/-- PC + 4 x offset (R173). -/
def target (s : State) (o : Int) : Int := (s.pc : Int) + 4 * o

def execBr (gd : Guard) (o : BitVec 21) : State → Out :=
  control gd 4 false fun s => branchTo (.br gd o) (target s o.toInt) none s
def execCall (gd : Guard) (o : BitVec 21) : State → Out :=
  control gd 4 false fun s => branchTo (.call gd o) (target s o.toInt) (some (63, s.pc + 4)) s
def execBrl (gd : Guard) (o : BitVec 32) : State → Out :=
  control gd 8 false fun s => branchTo (.brl gd o) (target s o.toInt) none s
def execCalll (gd : Guard) (o : BitVec 32) : State → Out :=
  control gd 8 false fun s => branchTo (.calll gd o) (target s o.toInt) (some (63, s.pc + 8)) s
def execJr (gd : Guard) (a : SReg) : State → Out :=
  control gd 4 false fun s => branchTo (.jr gd a) (s.rdS a).toNat none s
/-- `jalr` reads S(A) before it writes the link (R203). -/
def execJalr (gd : Guard) (d a : SReg) : State → Out :=
  control gd 4 false fun s => branchTo (.jalr gd d a) (s.rdS a).toNat (some (d, s.pc + 4)) s
/-- `dbnz`: with D = s0 the count is always 2^64 - 1 (R204). -/
def execDbnz (gd : Guard) (d : SReg) (i : BitVec 9) : State → Out :=
  control gd 4 false fun s => Eff.ofChk s do
    let t ← checkTarget (.dbnz gd d i) (target s i.toInt)
    let v := s.rdS d - 1
    return if v ≠ 0 then .jump (s.wrS d v) t else .done (s.wrS d v)

end Sys2Proof.Machine
end

