-- ==== Sys2Proof/Machine/Fetch.lean ====
section
/-! DEFINITION. Fetching from instruction memory (R80-R82, R172 steps 1 and 2, R378), and what closes every step. -/
namespace Sys2Proof.Machine

/-- The outcome of a fetch. -/
inductive Fetched where
  /-- The region of a word is being loaded (R82). -/
  | busy
  | bad (t : Trap)
  | got (i : Instr)
deriving Repr

/-- A byte of instruction memory; an overlay region that a flush left undefined reads free bytes (R82). -/
def imByte (s : State) (c off : Nat) : Byte :=
  match find (s.core c).undef (off / 65536) with
  | some seed => Config.freeByte seed off
  | none => memRd s.mem (imAt c off)

/-- The little-endian word at byte offset `off` (R5). -/
def imWord (s : State) (c off : Nat) : Nat :=
  bytesWord (imByte s c off) (imByte s c (off + 1)) (imByte s c (off + 2)) (imByte s c (off + 3))

/-- LOADING of the region that holds an offset (R81). -/
def loadingAt (s : State) (c off : Nat) : Bool := bitAt (s.core c).loading (off / 65536)

/-- Is the 64-bit unit of instruction memory at an offset marked uncorrectable (R101, R378)? -/
def imMarked (s : State) (c off : Nat) : Bool := s.marks.contains (0, (c * 2 ^ 18 + off) / 8)

/-- The control instruction at byte offset `pc` of core `c` (R172). -/
def fetchControl (s : State) (c pc : Nat) : Fetched :=
  if 262144 ≤ pc then .bad ⟨.illegal, 0⟩
  else if loadingAt s c pc then .busy
  else if imMarked s c pc then .bad ⟨.uncorrectable, 0⟩
  else
    let w0 := imWord s c pc
    if isLong w0 then
      if 262144 ≤ pc + 4 then .bad ⟨.illegal, 0⟩
      else if loadingAt s c (pc + 4) then .busy
      else if imMarked s c (pc + 4) then .bad ⟨.uncorrectable, 0⟩
      else
        let w1 := imWord s c (pc + 4)
        match decodeControl w0 w1 with
        | some i => .got i
        | none => .bad ⟨.illegal, wordsInfo [w0, w1]⟩
    else
      match decodeControl w0 0 with
      | some i => .got i
      | none => .bad ⟨.illegal, w0⟩

/-- The sixteen words of the record at `pc` (R5). -/
def recordWords (s : State) (c pc : Nat) : List Nat := (List.range 16).map fun k => imWord s c (pc + 4 * k)

/-- The state as the agenda's next act makes its stream the executing one. -/
def focus (c : Nat) (x : Stream) (s : State) : State := { s with cur := (c, x) }

/-- Is a checkpoint in its quiesce or write phase: no stream issues, and host accesses to DEV stall (R426, R440)? -/
def ckptHolds (s : State) : Bool := s.ckptStat.toNat % 4 == 1 || s.ckptStat.toNat % 4 == 2 || s.repBusy

/-- Is a core held by a checkpoint or an increment that has stopped it (R440)? -/
def ckptOwns (s : State) (c : Nat) : Bool := ckptHolds s && s.ckptGot.contains c

/-- Can the executing stream move: it is started, not halted, not stopped, and its die's clock runs (R149, R367, R408)? An engine
stream in TRAP issues nothing. -/
def canRun (s : State) : Bool :=
  let m := s.myStr
  !(m.st == .idle || m.st == .halt || (m.st == .trap && !isCtl s.cur.2) || m.pstop || m.wait == .gang || (s.die (dieOf s.cc)).busy || ckptHolds s)

end Sys2Proof.Machine
end

