-- ==== Sys2Proof/Machine/Issue.lean ====
section
/-! DEFINITION. What the issues of every engine share: descriptors (R180, R181), the expansion of a record (R185), trip counts (R179), views and
scales (R54, R55, R58), and the run of one issue at a sequencer. -/
namespace Sys2Proof.Machine

/-! ## Descriptors -/

/-- Operands by ROLE and PRES (R181). -/
inductive Opnd where | absent | mem | queue | tile | imm | bad
deriving DecidableEq, Repr, Inhabited

def opnd (d : Desc) : Opnd :=
  match d.role.val, d.pres with
  | 0, false => .absent
  | 0, true => .mem
  | 1, true => .queue
  | 2, true => .tile
  | 3, false => .imm
  | _, _ => .bad

/-- The C immediate (R181). -/
def immOf (d : Desc) : Nat := d.st0.toNat + d.st1.toNat * 2 ^ 16 + d.st2.toNat * 2 ^ 32 + d.st3.toNat * 2 ^ 48

/-- Field DMAP of a level. -/
def dmapOf (d : Desc) (k : Nat) : Nat := bitsAt d.dmap.val (2 * k) 2
def strideOf (d : Desc) : Nat → Int
  | 0 => d.st0.toInt | 1 => d.st1.toInt | 2 => d.st2.toInt | _ => d.st3.toInt

/-- A coordinate with `x` added along dimension `d`. -/
def addTo (c : Coord) (d : Nat) (x : Int) : Coord := setNth c d (nth 0 c d + x)

/-- coord(X) at indices `i` for `n` levels (R185). -/
def coordOf (d : Desc) (n : Nat) (i : List Nat) : Coord :=
  (List.range n).foldl (fun c k => addTo c (dmapOf d k) (nth 0 i k * strideOf d k)) [(d.org.val : Int), 0, 0, 0]

/-! ## Trip counts (R179) -/

def tcField (r : Rec) : Nat → Nat
  | 0 => r.tc0.toNat | 1 => r.tc1.toNat | 2 => r.tc2.toNat | _ => r.tc3.toNat

/-- The count of level `k`: an immediate, or the sequencer's bound register. -/
def tripCount (b : Tbl Nat) (r : Rec) (k : Nat) : Nat :=
  if r.levels.val ≤ k then 1 else if bitAt (tcField r k) 15 then look 0 b (tcField r k % 16) else tcField r k % 2 ^ 15

def product : List Nat → Nat
  | [] => 1
  | a :: t => a * product t

/-- The indices of issue `n`, level 0 innermost. -/
def indices : Nat → List Nat → List Nat
  | _, [] => []
  | n, t :: ts => n % t :: indices (n / t) ts

/-! ## The record at a sequencer -/

/-- The record fields of an instruction. -/
def recOf' (i : Instr) : Rec :=
  match i.record? with
  | some (_, _, r) => r
  | none => default

/-- A record fresh at a sequencer, with what gates 3 to 5 read filled in (R153, R205, R305). -/
def Run.fresh (s : State) (c : Nat) (e : Eng) (i : Instr) (pc : Nat) (ph : Phase) : Run :=
  let r := recOf' i
  let q := s.seqOf c e
  let l := s.ctlOf c (s.str c (engStream e)).job
  let k := (s.str c (leaderStream (s.str c (engStream e)).job)).clk
  let tc := (List.range 4).map (tripCount q.b r)
  { instr := i, pc := pc, phase := ph, tc := tc, n := 0, beat := 0
    hs := [l.rdH r.d.hnd.val, l.rdH r.a.hnd.val, l.rdH r.b.hnd.val, l.rdH r.c.hnd.val, l.rdH (bitsAt q.cmpf.toNat 0 5)]
    cmpf := q.cmpf, bval := look 0 q.b (r.tc2.toNat % 16), carry := [], qpos := [0, 0, 0, 0], status := 0, bytes := 0
    total := if engineOf i = 0 then 0 else product tc
    miss := [], acted := 0, held := 0, acks := [], noteId := 0, views := k.views, clr := k.clr, ans := .none, flagLoc := none, pass := none
    undo := [] }

/-- The handle a descriptor slot read: 0 D, 1 A, 2 B, 3 C, 4 the completion flag's. -/
def Run.h (u : Run) (k : Nat) : Handle := nth Handle.reset u.hs k

/-- Coordinate of a slot at the current issue. -/
def Run.at (u : Run) (d : Desc) : Coord := coordOf d (recOf' u.instr).levels.val (indices u.n u.tc)

/-- An engine's accessor for its record. -/
def engWho (s : State) (c : Nat) (e : Eng) : Who := whoStream s c (engStream e)

/-- Shifts a coordinate along dimension 0. -/
def along (c : Coord) (j : Nat) : Coord := addTo c 0 j

/-- The stored coordinate of a view coordinate (R54). -/
def viewCoord (trn : Bool) (c : Coord) : Coord := if trn then [nth 0 c 1, nth 0 c 0, nth 0 c 2, nth 0 c 3] else c

/-! ## Elements of engines -/

def isCplx (tag : Nat) : Bool := tag == 0xC0 || tag == 0xC1
def isIeee (tag : Nat) : Bool := decide (0x80 ≤ tag ∧ tag ≤ 0x83)
/-- Format of each part of a complex tag, or the tag itself. -/
def partTag (tag : Nat) : Nat := if tag = 0xC0 then 0x82 else if tag = 0xC1 then 0x83 else tag
def partBits (tag : Nat) : Nat := esizeBits (partTag tag)
/-- Real and imaginary part codes of a complex code. -/
def partsOf (tag x : Nat) : List Nat :=
  if isCplx tag then [x % 2 ^ partBits tag, x / 2 ^ partBits tag % 2 ^ partBits tag] else [x]
def joinParts (tag : Nat) : List Nat → Nat
  | [a, b] => a + b * 2 ^ partBits tag
  | a :: _ => a
  | [] => 0

/-- Values of a code's parts. -/
def valuesOf (tag x : Nat) : List Val := (partsOf tag x).map (fvalue (partTag tag))
/-- The conjugated view of values (R54). -/
def conjOf : List Val → List Val
  | [a, b] => [a, b.neg]
  | l => l
/-- The conjugated view of a code: the imaginary sign bit inverted. -/
def conjCode (tag x : Nat) : Nat := if isCplx tag then x ^^^ 2 ^ (2 * partBits tag - 1) else x

/-- A plain engine read of an element, with its absolute coordinate. -/
def engRead (w : Who) (h : Handle) (c : Coord) (opq : Bool := false) (spaces : Nat → Bool := fun _ => true) : M (Nat × List Nat) := do
  let l ← locate w h c .load opq (fun _ => true) spaces
  hostGate w l false true
  let x ← readElem w l
  return (x, l.p.abs)

/-- The scale of an element by its absolute coordinate, 1 where the handle has none (R34, R58). -/
def scaleOf (w : Who) (h : Handle) (i : List Nat) : M Val := do
  if hScaleKind h = 0 then return .fin false 1 0
  let s ← get
  let p ← liftC (scalePlace s w h i)
  let l ← resolve w p .load
  hostGate w l false true
  let x ← readElem w l
  return fvalue p.tag x

/-- A plain engine write of an element; a NaN of an IEEE tag is written canonical (R52). -/
def engWrite (w : Who) (h : Handle) (c : Coord) (x : Nat) (spaces : Nat → Bool := fun _ => true) : M Unit := do
  let l ← locate w h c .store false (fun _ => true) spaces
  let x := storeBits l.p.tag x
  hostGate w l false (storeAwaits (← get))
  raceCheck w l.p l.flat l.view true
  pendElem w l x

/-- Maps a monadic function over a list. -/
def mapList {α β : Type} (f : α → M β) : List α → M (List β)
  | [] => pure []
  | a :: t => do
    let b ← f a
    let bs ← mapList f t
    return b :: bs

/-- Runs a monadic function over a list. -/
def forList {α : Type} (f : α → M Unit) : List α → M Unit
  | [] => pure ()
  | a :: t => do
    f a
    forList f t

/-! ## Operand queues (R130) -/

/-- Queue numbers: 0 and 1 qa0 and qa1, 2 to 5 qv0 to qv3. -/
def queueOf (s : State) (c k : Nat) : List QElem := look [] (s.core c).q k
def setQueue (c k : Nat) (l : List QElem) (s : State) : State := s.setCore c { s.core c with q := put (s.core c).q k l }

/-- The element `n` positions behind a queue's head, which is awaited where the queue has none. -/
def queueElem (c k n : Nat) : M QElem := do
  match (queueOf (← get) c k)[n]? with
  | some q => return q
  | none => waitM (.queue k false)

/-- That element as a consumer reads it (R378). -/
def queuePeek (c k n : Nat) : M QElem := do
  let q ← queueElem c k n
  needM (!q.bad) .uncorrectable
  return q

/-- Pops `n` elements, acquiring from each. -/
def queuePop (c k : Nat) (agent : Nat) : Nat → M Unit
  | 0 => pure ()
  | n + 1 => do
    let q ← queuePeek c k 0
    modify fun s => takePass agent q.pass (setQueue c k ((queueOf s c k).drop 1) s)
    queuePop c k agent n

/-! ## Random numbers (R278) -/

/-- One step of a 64-bit generator: state after, and the 32 bits drawn. -/
structure Draw where
  state : Word
  r     : Nat
deriving DecidableEq, Repr, Inhabited

/-- G after a draw, and the 32-bit value. -/
def rngStep (g : Word) : Draw :=
  let n := g * BitVec.ofNat 64 0x9E3779B97F4A7C15 + BitVec.ofNat 64 0x6B2F
  ⟨n, n.toNat / 2 ^ 32⟩

/-! ## Issues at a sequencer -/

def setRun (c : Nat) (e : Eng) (u : Option Run) (s : State) : State := s.setSeqOf c e { s.seqOf c e with run := u }

/-- The request of an access that awaits its answer goes into the record. -/
def askRun (c : Nat) (e : Eng) (q : Option Msg) (r : Option Nat) (sp : Spot) (got : List Spot) (s : State) : State :=
  match (s.seqOf c e).run with
  | some u => (setRun c e (some { u with ans := asking s q sp got }) s) |> sendAsk c (engStream e) q r
  | none => s

/-- An engine stream running again, its wait ended. -/
def engRun (c : Nat) (e : Eng) (s : State) : State :=
  let s := endWait c (engStream e) false s
  let m := s.str c (engStream e)
  s.setStr c (engStream e) { m with st := .run, wait := .none }

/-- An engine stream waits. -/
def engWait (c : Nat) (e : Eng) (w : Wait) (s : State) : State :=
  let m := s.str c (engStream e)
  s.setStr c (engStream e) { m with st := .wait, wait := w, since := if m.wait = w ∧ m.st = .wait then m.since else s.time }

/-- The BEAT a trap of a record records (R366, R459). -/
def trapBeat (u : Run) : Nat :=
  match u.phase with
  | .head => 0xFFE
  | .entry => 0xFFE
  | .read => 0xFFD
  | .check => 0xFFD
  | .licence => if u.n = 0 ∧ u.beat = 0 then 0xFFD else u.beat
  | .reserve => if u.n = 0 ∧ u.beat = 0 then 0xFFD else u.beat
  | .issue => u.beat
  | .complete => 0xFFF

/-- The restart issue of a record, the first that has not completed: the oldest whose results are dumped, else the one at its sequencer
(R268, R372). -/
def restartIssue (s : State) (c : Nat) (e : Eng) (u : Run) : Nat :=
  (least (((s.core c).dump.filter fun r => r.stream == streamNo (engStream e)).map (·.iss))).getD u.n

/-- A record whose sending stops: a chunk of a collective sent anew carries the map read at that new send (R325), which stands in places 6 and 7
of `carry`. -/
def Run.halted (u : Run) : Run :=
  let v := { u with ans := .none, acks := [], undo := [] }
  match u.instr with
  | .fabCollReduce _ => { v with carry := setNth (setNth u.carry 6 0) 7 0 }
  | .fabCollPut _ => { v with carry := setNth (setNth u.carry 6 0) 7 0 }
  | _ => v

/-- A trap of the record at a sequencer; its earlier issues complete, and no element of the faulting beat stays recorded (R125). -/
def runTrap (c : Nat) (e : Eng) (t : Trap) (s : State) : State :=
  let s := landEng c (streamNo (engStream e)) (endWait c (engStream e) true s)
  match (s.seqOf c e).run with
  | some u =>
    engineTrap c e t u.pc (trapBeat u) (indices (restartIssue s c e u) u.tc) (setRun c e (some u.halted) (u.undo.foldr undoStamp s))
  | none => engineTrap c e t (s.str c (engStream e)).pc 0xFFE [0, 0, 0, 0] s

/-- A gate's or an issue's checked effect at a sequencer: the record it leaves, or a trap, or a wait. -/
def runM (c : Nat) (e : Eng) (m : Run → M Run) (s : State) : State :=
  match (s.seqOf c e).run with
  | none => s
  | some u =>
    match (m u).go s with
    | (.ok v, t) => engRun c e (setRun c e (some v) t)
    | (.error (.trap x), t) => runTrap c e x t
    | (.error (.wait w), t) => engWait c e w t
    | (.error (.ask q r sp got), t) => engWait c e (.own 1) (askRun c e q r sp got t)

/-- The sequencer that a record constructor acts at: the executing stream's, or that of the record's engine. -/
def seqFor (s : State) (i : Instr) : Eng :=
  if isCtl s.cur.2 then (match engineOf i with | 1 => .me | 2 => .ve | 3 => .cel | 4 => .cel | _ => .me)
  else streamEng s.cur.2

/-- One issue done: on to the next, or to completion. -/
def Run.next (u : Run) : Run :=
  { u with n := u.n + 1, beat := 0, ans := .none, undo := [], phase := if u.total ≤ u.n + 1 then .complete else .issue }

/-- A record operation: its next issue at its sequencer, where it is taken up afresh if it does not stand there; the issue before it has
left the engine. -/
def issueOp (i : Instr) (f : Nat → Eng → Run → M Run) : State → Out :=
  event fun s =>
    let c := s.cc
    let e := seqFor s i
    let s := landEng c (streamNo (engStream e)) s
    let s := match (s.seqOf c e).run with
      | some u => if u.instr = i then s else setRun c e (some (Run.fresh s c e i (s.str c (engStream e)).pc .issue)) s
      | none => setRun c e (some (Run.fresh s c e i (s.str c (engStream e)).pc .issue)) s
    runM c e (fun u => if u.total ≤ u.n then pure { u with phase := .complete } else f c e u) s

end Sys2Proof.Machine
end

