-- ==== Sys2Proof/Machine/Ce.lean ====
section
/-! DEFINITION. Copy and stash records (R302-R315): runs, beats, and each operation's entry check, issue and completion. -/
namespace Sys2Proof.Machine

/-! ## Runs and beats (R303, R304) -/

/-- Elements of a 512-byte beat. -/
def beatLen (bits : Nat) : Nat := Nat.max 1 (4096 / Nat.max 1 bits)

/-- WEXT0 + 1 - c0 of a slot (R303). -/
def windowRun (h : Handle) (c : Coord) : Int := (hWext h 0 : Int) + 1 - nth 0 c 0

/-- W of a run: from the C immediate's low bits where the operation admits one and it is present, else from the driving slot. -/
def runLen (r : Rec) (immBits : Nat) (h : Handle) (c : Coord) : Int :=
  if immBits ≠ 0 ∧ opnd r.c = .imm then (bitsAt (immOf r.c) 0 immBits : Nat) else windowRun h c

/-- Bytes that `w` elements fill. -/
def runBytes (w bits : Nat) : Nat := (w * bits + 7) / 8

/-- Positions from `a` up to `b`. -/
def span (a b : Nat) : List Nat := (List.range (b - a)).map fun k => a + k

/-- A check whose effects are none but its trap's. -/
def dry (m : M Unit) : M Unit := fun s =>
  match (whole m).go s with
  | (.ok _, _) => (.ok (), s)
  | r => r

/-- One beat of an issue: every element still to move is checked before anything is written, then the beat moves (R303, R304). -/
def beatStep (u : Run) (w : Int) (bits : Nat) (check : Nat → M Unit) (move : List Nat → M Unit) : M Run := do
  needM (decide (0 ≤ w)) .bounds (tinfo 0 0 3)
  let w := w.toNat
  let a := u.beat * beatLen bits
  let b := a + beatLen bits
  if a < w then
    dry (forList check (span a w))
    move (span a (Nat.min b w))
  if w ≤ b then return { u.next with bytes := u.bytes + runBytes w bits }
  else return { u with beat := u.beat + 1, ans := .none, undo := [] }

/-- Spaces of local copies (R306). -/
def copySpace (sp : Nat) : Bool := decide (sp ≤ 3) || sp == 5
/-- Spaces of stash runs (R312). -/
def stashSpace (sp : Nat) : Bool := decide (sp ≤ 2)
/-- Every space but PEER (R302). -/
def notPeer (sp : Nat) : Bool := sp != 6

/-! ## Copies (R306, R307) -/

/-- An A element's location; `none` where HALO replaces it: its access would fail at step 3 or 6 of R35. -/
def haloLoc (w : Who) (h : Handle) (c : Coord) (tag : Nat) (halo : Bool) (spaces : Nat → Bool) : M (Option Loc) := do
  let s ← get
  match place s w h c .load false (fun t => t == tag) spaces with
  | .error t =>
    if halo && t.cause == .bounds && (bitsAt t.info 59 4 == 3 || bitsAt t.info 59 4 == 6) then return none else throw (.trap t)
  | .ok p =>
    modify fun s => cacheLt s w p.lt p.entry
    let l ← resolve w p .load
    return some l

/-- The check of a read element (R35 steps 1 to 13). -/
def checkRead (w : Who) (h : Handle) (c : Coord) (tag : Nat) (halo : Bool) (spaces : Nat → Bool) : M Unit := do
  match ← haloLoc w h c tag halo spaces with
  | some l => raceCheck w l.p l.flat l.view false
  | none => pure ()

/-- The check of a written element. -/
def checkWrite (w : Who) (h : Handle) (c : Coord) (tag : Nat) (spaces : Nat → Bool) : M Unit := do
  let l ← locate w h c .store false (fun t => t == tag) spaces
  raceCheck w l.p l.flat l.view true

/-- The code of an A element of a copy: zero under HALO, conjugated where asked. -/
def copyRead (w : Who) (h : Handle) (c : Coord) (tag : Nat) (halo conj : Bool) (spaces : Nat → Bool) : M Nat := do
  match ← haloLoc w h c tag halo spaces with
  | none => return 0
  | some l =>
    hostGate w l false true
    let x ← readElem w l
    return (if conj then conjCode tag x else x)

/-- The conjugated view of a tag that is not complex raises FORMAT (R54). -/
def needConj (conj : Bool) (tag : Nat) : M Unit := needM (!conj || isCplx tag) .format (tinfo 0 0 5)

/-- The accessor of an operand of `ce.cpx`: the tower that SPARE names for the one, the core's own for the other. -/
def cpxWho (w : Who) (r : Rec) (isA : Bool) : Who :=
  if bitAt r.spare.val 5 == isA then { w with tower := r.spare.val % 32 } else w

/-- One beat of `ce.cp` or `ce.cpx`. -/
def copyIssue (r : Rec) (wd wa : Who) (u : Run) : M Run := whole do
  let hd := u.h 0
  let ha := u.h 1
  let halo := r.opx.val % 2 == 1
  let cd := u.at r.d
  let ca := u.at r.a
  needConj r.conj (hFmt ha)
  let src := fun j : Nat => viewCoord r.trn (along ca j)
  beatStep u (runLen r 17 hd cd) (esizeBits (hFmt hd))
    (fun j => do
      checkRead wa ha (src j) (hFmt hd) halo copySpace
      checkWrite wd hd (along cd j) (hFmt ha) copySpace)
    (fun js => do
      let xs ← mapList (fun j => copyRead wa ha (src j) (hFmt hd) halo r.conj copySpace) js
      forList (fun e : Nat × Nat => engWrite wd hd (along cd e.1) e.2 copySpace) (js.zip xs))

def ceCpIssue (r : Rec) (c : Nat) (e : Eng) (u : Run) : M Run := do
  let w := engWho (← get) c e
  copyIssue r w w u
def ceCpxIssue (r : Rec) (c : Nat) (e : Eng) (u : Run) : M Run := do
  let w := engWho (← get) c e
  copyIssue r (cpxWho w r false) (cpxWho w r true) u

/-- The SPACE of a handle's layout entry. -/
def handleSpace (s : State) (w : Who) (h : Handle) : Nat := eSpace (ltEntry s w (hLt h))

/-- The entry check of `ce.cpx` (R306). -/
def ceCpxEntry (r : Rec) (c : Nat) (e : Eng) (u : Run) : M Run := do
  let s ← get
  let w := engWho s c e
  let d := handleSpace s w (u.h 0)
  let a := handleSpace s w (u.h 1)
  needM (if bitAt r.spare.val 5 then a == 1 && d != 1 else d == 1 && a != 1) .permission
  return u

/-! ## `ce.lq` (R308) -/

/-- Element codes packed into bytes, lowest first. -/
def packCodes (bits : Nat) : List Nat → Nat
  | [] => 0
  | x :: t => x + 2 ^ bits * packCodes bits t

def ceLqIssue (r : Rec) (c : Nat) (e : Eng) (u : Run) : M Run := whole do
  let w := engWho (← get) c e
  let h := u.h 1
  let tag := hFmt h
  let bits := esizeBits tag
  let ca := u.at r.a
  let n := if opnd r.c = .imm then bitsAt (immOf r.c) 0 13 else beatLen bits
  needConj r.conj tag
  needM (decide (n ≤ beatLen bits)) .bounds
  let src := fun j : Nat => viewCoord r.trn (along ca j)
  let halo := r.opx.val % 2 == 1
  dry (forList (fun j => checkRead w h (src j) tag halo copySpace) (List.range n))
  let s ← get
  if 16 ≤ (queueOf s c r.d.hnd.val).length then waitM (.queue r.d.hnd.val true)
  let xs ← mapList (fun j => copyRead w h (src j) tag halo r.conj copySpace) (List.range n)
  modify fun s =>
    let (s, p) := releasePass w.agent s
    setQueue c r.d.hnd.val (queueOf s c r.d.hnd.val ++ [⟨leBytes 512 (packCodes bits (xs.map (storeBits tag))), tag, p, false⟩]) s
  return u.next

/-! ## `ce.fill`, `ce.ovl`, `ce.flag` (R309-R311) -/

def ceFillIssue (r : Rec) (c : Nat) (e : Eng) (u : Run) : M Run := whole do
  let w := engWho (← get) c e
  let h := u.h 0
  let cd := u.at r.d
  let bits := esizeBits (hFmt h)
  let x := (if opnd r.c = .imm then immOf r.c else 0) % 2 ^ bits
  beatStep u (windowRun h cd) bits
    (fun j => checkWrite w h (along cd j) (hFmt h) copySpace)
    (fun js => forList (fun j => engWrite w h (along cd j) x copySpace) js)

/-- The entry check of `ce.ovl`: N is a multiple of 4 in 4-65,536. -/
def ceOvlEntry (r : Rec) (_ : Nat) (_ : Eng) (u : Run) : M Run := do
  let n := windowRun (u.h 1) (u.at r.a)
  needM (decide (4 ≤ n ∧ n ≤ 65536 ∧ n % 4 = 0)) .bounds
  return u

/-- One beat of an overlay load. LOADING is set as the record issues, also where a check of that issue then faults; a load of a region that
is LOADING waits (R82). -/
def ceOvlIssue (r : Rec) (c : Nat) (e : Eng) (u : Run) : M Run := do
  let s ← get
  let w := engWho s c e
  let h := u.h 1
  let k := r.spare.val % 4
  let ca := u.at r.a
  if u.carry = [] && bitAt (s.core c).loading k then waitM .other
  let begun := { u with carry := [1] }
  modify fun s => setRun c e (some begun) (s.setCore c { s.core c with loading := (s.core c).loading ||| 2 ^ k })
  whole <| beatStep begun (windowRun h ca) 8
    (fun j => checkRead w h (along ca j) 0x43 false copySpace)
    (fun js => do
      let xs ← mapList (fun j => copyRead w h (along ca j) 0x43 false false copySpace) js
      modify fun s =>
        let a := imAt c (k * 65536 + u.beat * 512)
        let bs := xs.map fun x => BitVec.ofNat 8 x
        { clearMarks w.agent w.tower a bs.length s with mem := memStore s.mem a bs })

/-- The completion of an overlay load (R82). -/
def ceOvlDone (r : Rec) (c : Nat) (_ : Eng) (u : Run) : M Run := do
  let k := r.spare.val % 4
  modify fun s =>
    let x := s.core c
    s.setCore c { x with loading := x.loading &&& (15 - 2 ^ k), ovl := put x.ovl k (immOf r.c % 4096), undef := del x.undef k }
  return u

/-- The scope of a flag's release by its space (R131). -/
def flagScope (sp : Nat) : Scope :=
  match sp with
  | 0 => .core | 1 => .tower | 5 => .system | 6 => .domain | _ => .module

/-- The atomic add of a flag word, with release order (R131). -/
def flagAdd (w : Who) (l : Loc) (n : Nat) (kept : Option Pass := none) : M Unit := do
  let _ ← atomicAt w l .rel (flagScope l.p.space) (fun x => some ((x + n) % 2 ^ 64)) kept

def int64Tag (t : Nat) : Bool := t == 0x45

def ceFlagIssue (r : Rec) (c : Nat) (e : Eng) (u : Run) : M Run := whole do
  let w := engWho (← get) c e
  let l ← locate w (u.h 0) (u.at r.d) .atomic false int64Tag notPeer
  flagAdd w l (if opnd r.c = .imm then immOf r.c else 1)
  return u.next

/-! ## Stash records (R312-R315) -/

/-- The key of a stash record: the stream's `mt` and OBJ; an unbound `mt` raises PERMISSION at entry. -/
def stashKey (r : Rec) (c : Nat) (e : Eng) : M Nat := do
  let mt := (engWho (← get) c e).mt
  needM (mt != 0xFFF) .permission
  return objKey mt (immOf r.c % 65536)

/-- The sum of the runs of a slot over the record's issues, in bytes, without any check of R35 (R313, R319). -/
def recordBytes (u : Run) (h : Handle) (d : Desc) : Nat :=
  ((List.range u.total).map fun n =>
    let c := coordOf d (recOf' u.instr).levels.val (indices n u.tc)
    if inWindow h c then runBytes (windowRun h c).toNat (esizeBits (hFmt h)) else 0).sum

/-- The entry of `stash.put`: checks, the object recorded as INCOMPLETE, and its state chosen (R313, R355). `carry` holds the code
and whether an object was recorded. -/
def stashPutEntry (r : Rec) (c : Nat) (e : Eng) (u : Run) : M Run := do
  let k ← stashKey r c e
  let s ← get
  let d := dieOf c
  let h := u.h 1
  let n := recordBytes u h r.a
  needM (hCostKind h != 0) .permission
  needM (keyCode (s.die d) k == 3) .permission
  needM (decide (n ≤ 2 ^ 30)) .bounds
  if 16384 ≤ (s.die d).objs.length then return { u with carry := [2, 0], total := 0 }
  else
    repM .stash d (agentOf c (engStream e)) false
    let (s, v) := repValue (agentOf c (engStream e)) (objCode (chosenState (s.die d) (hCostKind h) (hCostWeight h) n)) (← get)
    let g := stateOfCode v
    let o : Obj := ⟨.incomplete, g, hFmt h, n, if g = .dropped then 0 else n, hCostWeight h, (s.die d).nextObj, [], c, streamNo (engStream e)⟩
    set ((setObj d k o (s.setDie d { s.die d with nextObj := (s.die d).nextObj + 1 })).noteOpen (bobAgent d) 7)
    return { u with carry := [objCode g, 1], total := if g = .dropped then 0 else u.total }

/-- A stash element's location: never race-checked, `opaque` admitted (R45, R123, R312). -/
def stashLoc (w : Who) (h : Handle) (c : Coord) (a : Acc) : M Loc := locate w h c a true (fun _ => true) stashSpace

def stashPutIssue (r : Rec) (c : Nat) (e : Eng) (u : Run) : M Run := whole do
  let k ← stashKey r c e
  let w := engWho (← get) c e
  let h := u.h 1
  let bits := esizeBits (hFmt h)
  let ca := u.at r.a
  beatStep u (windowRun h ca) bits
    (fun j => do let _ ← stashLoc w h (along ca j) .load)
    (fun js => do
      let xs ← mapList (fun j => do
        let l ← stashLoc w h (along ca j) .load
        let bs ← readLoc w l l.p.bytes
        return elemCode l.p bs) js
      modify fun s => match find (s.die (dieOf c)).objs k with
        | some o => setObj (dieOf c) k { o with image := o.image ++ leBytes (runBytes js.length bits) (packCodes bits xs) } s
        | none => s)

/-- The status element of a stash record, written once by a plain store (R312). -/
def stashStatus (r : Rec) (c : Nat) (e : Eng) (u : Run) (code : Nat) : M Unit := do
  if opnd r.b = .mem then
    let w := engWho (← get) c e
    let l ← locate w (u.h 2) [(r.b.org.val : Int), 0, 0, 0] .store false int64Tag notPeer
    hostGate w l false (storeAwaits (← get))
    writeLoc w l (leBytes 8 code)
    posted l (leBytes 8 code) false

/-- The completion of `stash.put`: the status, then the chosen state; an OFFLOADED object keeps its compressed size (R355). -/
def stashPutDone (r : Rec) (c : Nat) (e : Eng) (u : Run) : M Run := whole do
  stashStatus r c e u (nth 0 u.carry 0)
  let k ← stashKey r c e
  if nth 0 u.carry 1 = 1 then
    modify fun s => match find (s.die (dieOf c)).objs k with
      | some o =>
        if o.goal = .offloaded then offload (dieOf c) k s else setObj (dieOf c) k { o with st := o.goal } s
      | none => s
  return u

/-- The entry of `stash.get`: what it found, and the image it will write (R314). -/
def stashGetEntry (r : Rec) (c : Nat) (e : Eng) (u : Run) : M Run := do
  let k ← stashKey r c e
  let d := (← get).die (dieOf c)
  match find d.objs k with
  | some o =>
    if o.st = .kept ∨ o.st = .offloaded then
      needM (recordBytes u (u.h 0) r.d == o.len) .bounds
      needM (hFmt (u.h 0) == o.tag) .format
      return { u with carry := 0 :: o.image.map (·.toNat) }
    else return { u with carry := [objCode o.st], total := 0 }
  | none => return { u with carry := [3], total := 0 }

/-- A beat of `stash.get`: the image's own bytes, as R314 and R356 say, a NaN's payload among them; the image is `opaque`, in no format that R52
names. -/
def stashGetIssue (r : Rec) (c : Nat) (e : Eng) (u : Run) : M Run := whole do
  let w := engWho (← get) c e
  let h := u.h 0
  let bits := esizeBits (hFmt h)
  let cd := u.at r.d
  beatStep u (windowRun h cd) bits
    (fun j => do let _ ← stashLoc w h (along cd j) .store)
    (fun js => do
      let x := packCodes 8 (((u.carry.drop 1).drop (u.bytes + u.beat * 512)).take 512)
      forList (fun j => do
        let l ← stashLoc w h (along cd j) .store
        pendElem w l (bitsAt x ((j - u.beat * beatLen bits) * bits) bits)) js)

/-- An object freed, unless a `stash.put` of it is under way (R314, R315). -/
def freeKept (d k : Nat) (s : State) : State := if keyCode (s.die d) k = 4 then s else freeObj d k s

/-- The completion of `stash.get`: without RETAIN the object found is freed; an INCOMPLETE one never is (R314). -/
def stashGetDone (r : Rec) (c : Nat) (e : Eng) (u : Run) : M Run := whole do
  let code := nth 0 u.carry 0
  stashStatus r c e u code
  let k ← stashKey r c e
  if r.opx.val % 2 = 0 && (code == 0 || code == 2) then modify (freeKept (dieOf c) k)
  return u

/-- The entry of `stash.drop`: the state that the object has, which it reports (R356). -/
def stashDropEntry (r : Rec) (c : Nat) (e : Eng) (u : Run) : M Run := do
  let k ← stashKey r c e
  return { u with carry := [keyCode ((← get).die (dieOf c)) k] }

/-- `stash.drop`: the end of the object that its entry found; one found INCOMPLETE stays (R315). -/
def stashDropIssue (r : Rec) (c : Nat) (e : Eng) (u : Run) : M Run := whole do
  let k ← stashKey r c e
  let code := nth (keyCode ((← get).die (dieOf c)) k) u.carry 0
  if code ≤ 2 then modify (freeKept (dieOf c) k)
  return { u.next with carry := [code] }

def stashDropDone (r : Rec) (c : Nat) (e : Eng) (u : Run) : M Run := whole do
  stashStatus r c e u (nth 0 u.carry 0)
  return u

/-- `stash.pf`: TAG 0xFFF means the stream's `mt`; with neither bound it has no effect (R315, R356). -/
def stashPfIssue (r : Rec) (c : Nat) (e : Eng) (u : Run) : M Run := do
  let s ← get
  let t := bitsAt (immOf r.c) 16 12
  let t := if t = 0xFFF then (engWho s c e).mt else t
  if t ≠ 0xFFF then modify (prefetchKey (dieOf c) (objKey t (immOf r.c % 65536)))
  return u.next

def execCeCp (r : Rec) : State → Out := issueOp (.ceCp r) (ceCpIssue r)
def execCeLq (r : Rec) : State → Out := issueOp (.ceLq r) (ceLqIssue r)
def execCeFill (r : Rec) : State → Out := issueOp (.ceFill r) (ceFillIssue r)
def execCeOvl (r : Rec) : State → Out := issueOp (.ceOvl r) (ceOvlIssue r)
def execCeFlag (r : Rec) : State → Out := issueOp (.ceFlag r) (ceFlagIssue r)
def execCeCpx (r : Rec) : State → Out := issueOp (.ceCpx r) (ceCpxIssue r)
def execStashPut (r : Rec) : State → Out := issueOp (.stashPut r) (stashPutIssue r)
def execStashGet (r : Rec) : State → Out := issueOp (.stashGet r) (stashGetIssue r)
def execStashDrop (r : Rec) : State → Out := issueOp (.stashDrop r) (stashDropIssue r)
def execStashPf (r : Rec) : State → Out := issueOp (.stashPf r) (stashPfIssue r)

end Sys2Proof.Machine
end

