-- ==== Sys2Proof/Machine/Launch.lean ====
section
/-! DEFINITION. Starts that wait (R333), LSTART (R335), the command processors' queues (R336-R342), gang launch (R344). -/
namespace Sys2Proof.Machine

/-! ## Starts that wait (R333, R335) -/

/-- Do two starts belong to one packet? Those of one packet start together. -/
def sameGroup (a b : Start) : Bool := a == b || (a.starter == b.starter && a.starter != .none)

/-- s1 to s4 of a start whose starter gives no values: free values (R333, R335; notes/assumptions/7.md). -/
def openArgs (s : State) : List Word := (List.range 4).map fun k => BitVec.ofNat 64 (Config.freeNat s.freeCtr (80 + k))

/-- LSTART: the leader, then the PC, then the reserved bits are checked (R335). -/
def wrLstart (v : Word) (s : State) : Chk State := do
  let x := v.toNat
  let c := bitsAt x 0 10
  let l : Leader := if bitAt x 10 then .ccc else .lcc
  need (!(s.str c (leaderStream l)).inJob) .permission
  need (bitsAt x 11 18 % 4 == 0) .align
  need (bitsAt x 41 23 == 0) .bounds
  let (t, p) := releaseFrom s.myAgent (towerOf s.cc) s
  return startOrKeep ⟨c, l, bitsAt x 11 18, bitsAt x 29 12, openArgs s, none, .none, false, p⟩ t
def execLstartWrite (v : Word) : State → Out := regEvent 0x1E5 true (wrLstart v)

/-! ## Queue descriptors (R336) -/

def getQ (s : State) (t q : Nat) : Cpq := look Cpq.reset (s.tower t).cpq q
def setQ (t q : Nat) (d : Cpq) (s : State) : State := s.setTower t { s.tower t with cpq := put (s.tower t).cpq q d }
def qEnable (d : Cpq) : Bool := bitAt d.w0.toNat 0
def qHdr (d : Cpq) : Nat := bitsAt d.w0.toNat 12 12
def qRing (d : Cpq) : Nat := bitsAt d.w0.toNat 24 12
def qNotify (d : Cpq) : Nat := bitsAt d.w0.toNat 36 12
def qVector (d : Cpq) : Nat := bitsAt d.w0.toNat 48 6

/-- The command processor of a tower as accessor in the context of its queue `q`. -/
def cpWho (t q : Nat) (d : Cpq) : Who := ⟨cpAgent t, t, none, d.ltb.toNat, d.root.toNat, 0xFFF, false, q⟩

/-- The accesses that a queue's command processor has made are done: their answers are forgotten (R403). -/
def cpDone (t q : Nat) : M Unit := modify fun s => setQ t q { getQ s t q with ans := .none } s

/-- Spaces of a queue's header, ring, notify word and signals. -/
def queueSpace (sp : Nat) : Bool := sp == 2 || sp == 3 || sp == 5

/-- Element `i` of dimension 0 of a layout entry, with tag `int64`. -/
def wordLoc (w : Who) (lt i : Nat) (a : Acc) : M Loc := do
  let s ← get
  let e := ltEntry s w lt
  needM (entryOk w.ltb e) .translation (tinfo 0 0 4)
  needM (eFmt e == 0x45) .format (tinfo 0 (eSpace e) 5)
  let p ← liftC (placeAt s w lt e 0x45 [i, 0, 0, 0] a queueSpace)
  modify fun s => cacheLt s w lt e
  resolve w p a

/-- Acquire load of a word at system scope. -/
def acqWord (w : Who) (lt i : Nat) : M Nat := do
  let l ← wordLoc w lt i .load
  loadOrd w l .acq .system
/-- Plain load of a word. -/
def plainWord (w : Who) (lt i : Nat) : M Nat := do
  let l ← wordLoc w lt i .load
  plainLoad w l

/-- An atomic add at system scope with release order. -/
def addWord (w : Who) (lt i n : Nat) : M Unit := do
  let l ← wordLoc w lt i .atomic
  let _ ← atomicAt w l .rel .system fun x => some ((x + n) % 2 ^ 64)

/-! ## Packets (R338) -/

def pw (p : List Word) (k : Nat) : Nat := (nth 0 p k).toNat
def pKindOf (p : List Word) : Nat := bitsAt (pw p 0) 1 3
def pSigLt (p : List Word) : Nat := bitsAt (pw p 2) 0 12
def pSigIdx (p : List Word) : Nat := bitsAt (pw p 2) 12 32
def pSigV (p : List Word) : Bool := bitAt (pw p 2) 44
def pGangId (p : List Word) : Nat := bitsAt (pw p 7) 0 16
def pGroup (p : List Word) : Nat := bitsAt (pw p 7) 16 6
def pTmo (p : List Word) : Nat := bitsAt (pw p 7) 32 16

/-- The malformed packets (R338). -/
def malformed (s : State) (p : List Word) : Bool :=
  let k := pKindOf p
  let w0 := pw p 0
  decide (4 ≤ k) || bitsAt w0 13 3 != 0 || bitsAt w0 28 4 != 0 || bitsAt (pw p 1) 19 45 != 0 || bitsAt (pw p 2) 45 19 != 0 ||
  bitsAt (pw p 1) 0 18 % 4 != 0 ||
  ((k == 1 || k == 3) && bitsAt w0 32 32 == 0) ||
  (k != 3 && pw p 7 != 0) ||
  (k == 2 && (w0 / 2 ^ 6 != 0 || bitAt w0 4 || pw p 1 != 0 || !pSigV p)) ||
  (k == 3 && (bitsAt (pw p 7) 22 10 != 0 || bitsAt (pw p 7) 48 16 != 0 || pTmo p == 0 ||
    !gEnable (s.group (pGroup p)) || (gLevel (s.group (pGroup p)) != 5 && gLevel (s.group (pGroup p)) != 6)))

/-- The leaders a packet names: bit k of CORE_MASK is core k of the tower, level by level. -/
def pLeaders (p : List Word) : List (Nat × Leader) :=
  ((List.range 32).filter fun k => bitAt (pw p 0) (32 + k)).map fun k =>
    (bitsAt (pw p 0) 8 5 * 32 + k, if bitAt (pw p 0) 4 then Leader.ccc else Leader.lcc)

/-! ## Completion and retirement (R342) -/

/-- A packet in flight changed. -/
def mapPkt (t q n : Nat) (f : Pkt → Pkt) (s : State) : State :=
  let d := getQ s t q
  setQ t q { d with fly := d.fly.map fun k => if k.slot = n then f k else k } s

/-- Retirement in slot order: RIX advances past every oldest packet that has completed. -/
def retire (t q : Nat) : Nat → M Unit
  | 0 => pure ()
  | n + 1 => do
    let d := getQ (← get) t q
    match d.fly with
    | k :: rest =>
      if k.done then
        addWord (cpWho t q d) (qHdr d) 1 1
        modify fun s => setQ t q { getQ s t q with fly := rest, ans := .none } s
        retire t q n
      else pure ()
    | [] => pure ()

/-- A step of complete(p, st) is made. -/
def stepPkt (t q n step : Nat) : M Unit := do
  cpDone t q
  modify (mapPkt t q n fun k => { k with step := step })

/-- The actions of complete(p, st), each made once: word 0, the signal, the interrupt. A WAIT packet that has waited makes no signal (R341). -/
def completeActs (t q : Nat) (k : Pkt) : M Unit := do
  let d := getQ (← get) t q
  let w := cpWho t q d
  if k.step = 0 then
    let l ← wordLoc w (qRing d) (8 * k.pos) .store
    plainStore w l (setBits (pw k.words 0 / 2 * 2) 6 2 (k.status.getD 0))
    stepPkt t q k.slot 1
  if k.step ≤ 1 ∧ pSigV k.words = true ∧ !(pKindOf k.words == 2 && k.status == some 0) then
    addWord w (pSigLt k.words) (pSigIdx k.words) (2 ^ 64 - 1)
    stepPkt t q k.slot 2
  if bitAt (pw k.words 1) 18 then modify (raiseMsix (qVector d))
  modify (mapPkt t q k.slot fun k => { k with done := true })

/-- Packets consumed and not retired. -/
def inFly (d : Cpq) : Nat := (d.fly.filter fun k => k.gang != 5).length

/-- Every completion recorded and not yet acted on, then retirement; CIX then passes the packet that was being served (R340). -/
def settleQueue (t q : Nat) : M Unit := do
  let d := getQ (← get) t q
  forList (fun k : Pkt => if k.status.isSome && !k.done then completeActs t q k else pure ()) d.fly
  retire t q d.fly.length
  modify fun s =>
    let e := getQ s t q
    if d.fly.any fun k => k.gang == 5 then
      setQ t q { e with cix := (e.cix + 1) % 2 ^ 64, fly := e.fly.map fun k => if k.gang = 5 then { k with gang := 0 } else k } s
    else s

/-! ## Serving (R340, R341) -/

/-- A gang's entry at this module. -/
def gangOf (s : State) (g id : Nat) : Gang := ((look [] s.gangs g).find? fun x => x.id == id).getD ⟨id, [], none⟩
def setGang (g : Nat) (x : Gang) (s : State) : State :=
  { s with gangs := put s.gangs g (((look [] s.gangs g).filter fun y => y.id != x.id) ++ [x]) }
/-- The newest of the kept decisions about a gang. -/
def decidedOf (s : State) (g id : Nat) : Option Bool := ((look [] s.decided g).reverse.find? fun x => x.1 == id).map (·.2)
def moduleInst (s : State) : Nat := bitsAt s.dmr.toNat 0 10

/-- Has a prepared packet had no decision within 2 x TMO + 100 us of its PREPARED (R344)? -/
def Pkt.late (k : Pkt) (now : Nat) : Bool := decide (k.sent + (2 * pTmo k.words + 100) * 1000 ≤ now)

/-- A member's part of a decision: its prepared leaders run, or take GANG_ABORT at their PC; the packet then proceeds as a LAUNCH. A packet
decided before stays as it is, and a COMMIT that comes late finds the gang aborted. -/
def applyDecision (g id : Nat) (commit : Bool) (s : State) : State :=
  s.towers.foldl (fun s t => t.2.cpq.foldl (fun s q => q.2.fly.foldl (fun s k =>
    if k.gang = 1 ∧ pKindOf k.words = 3 ∧ pGroup k.words = g ∧ pGangId k.words = id then
      let commit := commit && !k.late s.time
      let s := mapPkt t.1 q.1 k.slot (fun k => { k with gang := if commit then 2 else 3 }) s
      k.waiting.foldl (fun s x =>
        let m := s.str x.1 (leaderStream x.2)
        if m.wait = .gang then
          let s := (endWait x.1 (leaderStream x.2) (!commit) s).setStr x.1 (leaderStream x.2) { m with st := .run, wait := .none }
          if commit then s else s.setCtlOf x.1 x.2 { s.ctlOf x.1 x.2 with pendGang := some id }
        else s) s
    else s) s) s) s

/-- The root's decision: kept among the last 64 of the group, sent down the tree, applied here (R344). -/
def decide' (g id : Nat) (commit : Bool) (s : State) : State :=
  let x := gangOf s g id
  let me := moduleInst s
  let s := (x.from'.filter fun m => m != me).foldl (fun s m => emit (.decision m g id commit) s) s
  let l := look [] s.decided g ++ [(id, commit)]
  let s := { s with decided := put s.decided g (l.drop (l.length - 64)), gangs := put s.gangs g ((look [] s.gangs g).filter fun y => y.id != id) }
  applyDecision g id commit s

/-- TMO of a gang, from this module's own packet of it. -/
def gangTmo (s : State) (g id : Nat) : Option Nat :=
  (s.towers.flatMap fun t => t.2.cpq.flatMap fun q => q.2.fly).findSome? fun k =>
    if (k.gang = 1 ∨ k.gang = 4) ∧ pKindOf k.words = 3 ∧ pGroup k.words = g ∧ pGangId k.words = id then some (pTmo k.words) else none

/-- Has the root's timer, which runs from the first PREPARED, expired? -/
def gangExpired (s : State) (g id : Nat) : Bool :=
  match (gangOf s g id).start, gangTmo s g id with
  | some t, some n => decide (t + n * 1000 ≤ s.time)
  | _, _ => false

/-- What follows a PREPARED, this module's own included: the root, which is that of the group's tree (notes/assumptions/65.md), decides by its
timer; another member passes it on; each only with a tree entry in use (R344, R390). -/
def tryGang (g id : Nat) (s : State) : State :=
  let f := fbtOf s g
  let x := gangOf s g id
  if fbtV f && x.from'.contains (moduleInst s) && fbtChildren f + 1 ≤ x.from'.length then
    if fbtRoot f then decide' g id (!gangExpired s g id) s else emit (.prepared (fbtParent f) g id) s
  else s

/-- A PREPARED from a module. The root's timer starts with the first. An aborted gang is answered at once. -/
def preparedFrom (g id src : Nat) (s : State) : State :=
  match decidedOf s g id with
  | some false => if src = moduleInst s then applyDecision g id false s else emit (.decision src g id false) s
  | _ =>
    let x := gangOf s g id
    let x := { x with
      from' := if x.from'.contains src then x.from' else x.from' ++ [src]
      start := x.start <|> some s.time }
    tryGang g id (setGang g x s)

/-- The starts of a LAUNCH or GANG packet (R341, R333). -/
def packetStarts (t q n : Nat) (d : Cpq) (p : List Word) (pass : Pass) : List Start :=
  (pLeaders p).map fun x =>
    ⟨x.1, x.2, bitsAt (pw p 1) 0 18, bitsAt (pw p 0) 16 12, [nth 0 p 3, nth 0 p 4, nth 0 p 5, nth 0 p 6], some (d.ltb, d.root), .cp t q n,
      pKindOf p == 3, pass⟩

/-- A GANG packet whose leaders have started is prepared: its PREPARED goes out, and its own time-out runs (R344). -/
def prepare (t q n : Nat) (s : State) : State :=
  match (getQ s t q).fly.find? fun k => k.slot == n && k.gang == 4 with
  | some k =>
    preparedFrom (pGroup k.words) (pGangId k.words) (moduleInst s) (mapPkt t q n (fun k => { k with gang := 1, sent := s.time }) s)
  | none => s

/-- The starts of one packet made, the release of its command processor with them (R333). -/
def startGroup (g : List Start) (s : State) : State :=
  match g with
  | [] => s
  | a :: _ =>
    match a.starter with
    | .cp t q n =>
      let (s, p) := releaseFrom (cpAgent t) t s
      prepare t q n (g.foldl (fun s b => startNow { b with pass := p } s) s)
    | _ => g.foldl (fun s b => startNow b s) s

/-- Starts of one packet: at once where all can be made, else kept. -/
def startAll (g : List Start) (s : State) : State :=
  if g.all fun b => canStart b s then startGroup g s else { s with starts := s.starts ++ g }

/-- The waiting start of a leader, with those of its packet, once all can start. -/
def leaderStart (c : Nat) (l : Leader) (s : State) : State :=
  match s.starts.find? fun a => a.core == c && a.lead == l with
  | some a =>
    let g := s.starts.filter (sameGroup a)
    if g.all fun b => canStart b s then startGroup g { s with starts := s.starts.filter fun b => !sameGroup a b } else s
  | none => s

def execLeaderStart (c : CoreId) (x : Leader) : State → Out := event (leaderStart c x)

/-- A packet dispatched: into flight, CIX past it. -/
def consume (t q pos : Nat) (p : List Word) (gang : Nat) (s : State) : State :=
  let d := getQ s t q
  setQ t q { d with cix := (d.cix + 1) % 2 ^ 64, fly := d.fly ++ [⟨d.cix, pos, p, false, 0, none, pLeaders p, false, gang, s.time⟩] } s

/-- complete(p, st) of a packet as it is served. -/
def completeNow (t q pos : Nat) (p : List Word) (status : Nat) : M Unit := do
  modify fun s =>
    let d := getQ s t q
    setQ t q { d with fly := d.fly ++ [⟨d.cix, pos, p, false, 0, some status, [], false, 5, s.time⟩], ans := .none } s
  settleQueue t q

/-- How the service of one packet ends: the next may follow, nothing is left, or the queue is held at the packet. -/
inductive Served where | next | stop | held
deriving DecidableEq, Repr, Inhabited

/-- The header's words, by acquire loads: aligned, its QCAP a power of two, its last word zero (R225, R340). -/
def headerWords (w : Who) (lt : Nat) : M (Nat × Nat) := do
  let l ← wordLoc w lt 0 .load
  needM (l.p.addr % 32 == 0) .align (tinfo l.p.addr l.p.space 0)
  let wix ← loadOrd w l .acq .system
  let cap ← acqWord w lt 2
  let z ← acqWord w lt 3
  needM (decide (1 ≤ cap ∧ cap ≤ 65536) && 2 ^ Nat.log2 cap == cap && z == 0) .bounds
  return (wix, cap)

/-- The packet at CIX, if it can be served. -/
def serveOne (t q : Nat) : M Served := do
  let d := getQ (← get) t q
  let w := cpWho t q d
  let (wix, cap) ← headerWords w (qHdr d)
  if d.cix = wix then return .stop
  let pos := d.cix % cap
  let w0 ← acqWord w (qRing d) (8 * pos)
  if w0 % 2 = 0 then return .stop
  let ws ← mapList (fun k => plainWord w (qRing d) (8 * pos + k)) [1, 2, 3, 4, 5, 6, 7]
  let p := (w0 :: ws).map (BitVec.ofNat 64 ·)
  let s ← get
  if malformed s p then
    completeNow t q pos p 2
    return .next
  else
    let k' := pKindOf p
    if (bitAt w0 5 || k' == 2) && d.fly.any fun x => !x.done then return .held
    match k' with
    | 0 =>
      completeNow t q pos p 0
      return .next
    | 2 =>
      let v ← acqWord w (pSigLt p) (pSigIdx p)
      if (BitVec.ofNat 64 v).toInt ≤ (nth 0 p 3).toInt then
        completeNow t q pos p 0
        return .next
      else return .held
    | _ =>
      modify fun s =>
        let k := clockOf s (cpAgent t) 0
        startAll (packetStarts t q d.cix d p (k.pass (cpAgent t))) (consume t q pos p (if k' = 3 then 4 else 0) s)
      cpDone t q
      return .next

/-- Serving in order (R340). -/
def serveLoop (t q : Nat) : Nat → M Served
  | 0 => pure .held
  | n + 1 => do
    match ← serveOne t q with
    | .next => serveLoop t q n
    | x => pure x

/-- A descriptor no longer enabled: doorbells are discarded, and the command processor leaves the queue (R336, R337), CIX at the packet that it
was serving (R340). -/
def Cpq.off (d : Cpq) : Cpq :=
  { d with w0 := d.w0 &&& ~~~1, bell := false, hold := .idle, ans := .none, fly := d.fly.filter fun k => k.gang != 5 }

/-- A queue whose command processor is held by an access that waits. -/
def Cpq.kept (d : Cpq) : Cpq := { d with hold := if d.hold = .enabling then .enabling else .serving }

/-- A command processor's act: a fault of its own access clears ENABLE and records the cause (R340); an access that waits, as for the host,
holds the queue. -/
def cpAct (t q : Nat) (m : M Unit) (s : State) : State :=
  match (do m; cpDone t q : M Unit).go s with
  | (.ok _, s') => s'
  | (.error (.trap x), s') => setQ t q { (getQ s' t q).off with perr := true, cause := causeCode x.cause % 64 } s'
  | (.error (.wait _), s') => setQ t q (getQ s' t q).kept s'
  | (.error (.ask m _ sp got), s') =>
    let t' := m.elim s' fun m => emit m s'
    setQ t q { (getQ s' t q).kept with ans := asking s' m sp got } { t' with msgNext := s'.msgNext + 1 }

/-- What follows ENABLE: the notify word is translated, and must have its home in this tower; deferred completions apply; serving resumes
behind the packets still in flight; it counts as one doorbell (R336, R337). -/
def openQueue (t q : Nat) : M Unit := do
  let d := getQ (← get) t q
  let w := cpWho t q d
  let l ← wordLoc w (qNotify d) 0 .load
  needM (homeOf l.flat == t) .permission
  modify fun s => setQ t q { getQ s t q with notify := l.flat } s
  settleQueue t q
  let rix ← acqWord w (qHdr d) 1
  modify fun s => setQ t q { getQ s t q with cix := (rix + inFly (getQ s t q)) % 2 ^ 64, bell := true, hold := .idle } s

/-- Deferred and new completions acted on; then the queue is served where a doorbell stands or the service was held. -/
def serveQueue (t q : Nat) : M Unit := do
  settleQueue t q
  let d := getQ (← get) t q
  if d.bell || d.hold == .serving then
    modify fun s => setQ t q { d with bell := false, hold := .idle } s
    let x ← serveLoop t q 65536
    modify fun s => setQ t q { getQ s t q with hold := if x = .held then .serving else .idle } s

/-- Notices that name the queue's notify word, or no enabled queue's, leave the tower's notice buffer (R226, R243). -/
def takeNotices (t q : Nat) (s : State) : State :=
  let w := s.tower t
  let d := getQ s t q
  let named := fun a => w.cpq.any fun e => qEnable e.2 && e.2.notify / 8 == a / 8
  s.setTower t { w with notices := w.notices.filter fun a => named a && !(qEnable d && d.notify / 8 == a / 8) }

/-- A command processor turns to a queue: nothing happens while the queue is disabled. -/
def serve (t q : Nat) (s : State) : State :=
  let s := takeNotices t q s
  let s := if qEnable (getQ s t q) && (getQ s t q).hold == .enabling then cpAct t q (openQueue t q) s else s
  let d := getQ s t q
  if qEnable d && d.hold != .enabling then cpAct t q (serveQueue t q) s else s

/-- A doorbell is accepted (R337): without one, only a service that was held goes on. -/
def execDoorbell (t : TowerId) (q : Fin 64) : State → Out := event (serve t q)
/-- The awaited word of a WAIT packet is read again (R341). -/
def execWaitPacketPoll (t : TowerId) (q : Fin 64) : State → Out := event (serve t q)

/-- The packet whose leaders have all ended completes: 1 for an aborted gang, 3 where a job was flushed, else 0 (R341, R344). While the
queue is disabled its actions are deferred (R336). -/
def packetComplete (t q n : Nat) (s : State) : State :=
  let s := mapPkt t q n (fun k =>
    if k.status.isNone && k.waiting.isEmpty && k.gang != 1 && k.gang != 4 then
      { k with status := some (if k.gang = 3 then 1 else if k.faulted then 3 else 0) } else k) s
  serve t q s

def execPacketComplete (t : TowerId) (q : Fin 64) (n : Nat) : State → Out := event (packetComplete t q n)

/-- ENABLE goes from 0 to 1. -/
def enableQueue (t q : Nat) (s : State) : State :=
  let d := getQ s t q
  cpAct t q (openQueue t q) (setQ t q { d with w0 := d.w0 ||| 1, hold := .enabling } s)

/-- The enabling of a queue; one that waits at a page is taken up again. -/
def execQueueEnable (t : TowerId) (q : Fin 64) : State → Out := event fun s =>
  if qEnable (getQ s t q) then (if (getQ s t q).hold == .enabling then cpAct t q (openQueue t q) s else s) else enableQueue t q s

/-- The status word; ACTIVE: the command processor is held while it serves the queue (notes/assumptions/28.md). -/
def qStatusImage (d : Cpq) : Nat := b2n (qEnable d && d.hold == .serving) + inFly d % 2 ^ 17 * 2 + b2n d.perr * 2 ^ 18 + d.cause * 2 ^ 19

/-- REFUSED set in the selector that names what was written (R336, R345, R389). -/
def setRefused (c n : Nat) (s : State) : State :=
  s.setCore c { s.core c with sels := put (s.core c).sels n (look 0 (s.core c).sels n ||| BitVec.ofNat 64 (2 ^ 63)) }

/-- CPQ_DATA of core `c`: the descriptor word its CPQ_SEL names, in its tower. -/
def wrCpq (c : Nat) (v : Word) (s : State) : State :=
  let t := towerOf c
  let q := selOf' s c 0x1E0 % 64
  let k := selOf' s c 0x1E0 / 64 % 4
  let d := getQ s t q
  let reserved := k == 0 && (bitsAt v.toNat 1 11 != 0 || bitsAt v.toNat 54 10 != 0) || k == 3 && (bitsAt v.toNat 25 39 != 0)
  let onlyClears := k == 0 && v == (d.w0 &&& ~~~1)
  if reserved || (k != 3 && qEnable d && !onlyClears) then setRefused c 0x1E0 s
  else match k with
    | 0 =>
      if bitAt v.toNat 0 then enableQueue t q (setQ t q { d with w0 := v &&& ~~~1 } s) else setQ t q { d with w0 := v, bell := false, hold := .idle } s
    | 1 => setQ t q { d with ltb := v } s
    | 2 => setQ t q { d with root := v } s
    | _ => setQ t q { d with perr := d.perr && !bitAt v.toNat 18 } s
where
  /-- The selector that register `n` of a core holds. -/
  selOf' (s : State) (c n : Nat) : Nat := (look 0 (s.core c).sels n).toNat

def execCpqDataWrite (v : Word) : State → Out := regEvent 0x1E1 true fun s => .ok (wrCpq s.cc v s)

/-! ## Gangs (R344) -/

/-- The root's timer: ABORT at expiry. -/
def gangRootTimeout (g id : Nat) (s : State) : State :=
  if fbtV (fbtOf s g) && fbtRoot (fbtOf s g) && gangExpired s g id then decide' g id false s else s

/-- A member without a decision in 2 x TMO + 100 us of its PREPARED aborts locally. -/
def gangMemberTimeout (g id : Nat) (s : State) : State :=
  let late := s.towers.any fun t => t.2.cpq.any fun q => q.2.fly.any fun k =>
    k.gang == 1 && pKindOf k.words == 3 && pGroup k.words == g && pGangId k.words == id && k.late s.time
  if late then applyDecision g id false s else s

def execGangRootTimeout (g : BgIx) (id : Nat) : State → Out := event (gangRootTimeout g id)
def execGangMemberTimeout (g : BgIx) (id : Nat) : State → Out := event (gangMemberTimeout g id)
def execPrepared (g : BgIx) (id src : Nat) : State → Out := event (preparedFrom g id src)

/-- A DECISION from the parent: passed on to the children heard from, and applied here, with a tree entry in use (R390). -/
def execDecision (g : BgIx) (id : Nat) (commit : Bool) : State → Out := event fun s => if fbtV (fbtOf s g) then decide' g id commit s else s

end Sys2Proof.Machine
end

