-- ==== Sys2Proof/Machine/Mbs.lean ====
section
/-! DEFINITION. The microbatch scheduler: its registers, queues, rules, evaluations, job ends and stage channels (R345-R352). -/
namespace Sys2Proof.Machine

/-! ## Stages (R345) -/

def stageOf (s : State) (k : Nat) : Stage := look Stage.reset s.stages k
def setStage (k : Nat) (g : Stage) (s : State) : State := { s with stages := put s.stages k g }
def stW (g : Stage) (k : Nat) : Nat := (look 0 g.w k).toNat
def stEnable (g : Stage) : Bool := bitAt (stW g 0) 0
def stAutoW (g : Stage) : Bool := bitAt (stW g 0) 1
def stLead (g : Stage) (cls : Nat) : Leader := if bitAt (stW g 0) (2 + cls) then .ccc else .lcc
def stIfl (g : Stage) : Nat := bitsAt (stW g 0) 8 8
def stNver (g : Stage) : Nat := bitsAt (stW g 0) 16 4
def stAge (g : Stage) : Nat := bitsAt (stW g 0) 20 8
def stPc (g : Stage) (cls : Nat) : Nat := bitsAt (stW g 2) (18 * cls) 18
/-- The towers and cores of a stage. -/
def stTowers (g : Stage) : List Nat := (List.range 32).filter fun t => bitAt (stW g 0) (32 + t)
def stCores (g : Stage) : List Nat :=
  (stTowers g).flatMap fun t => ((List.range 32).filter fun k => bitAt (stW g 1) k).map fun k => t * 32 + k
/-- The dies of a stage. -/
def stDies (g : Stage) : List Nat :=
  (stTowers g).flatMap fun t => ((List.range 2).filter fun l => bitsAt (stW g 1) (16 * l) 16 != 0).map fun l => 2 * t + l
def stQueue (g : Stage) (cls : Nat) : List QEnt := look [] g.queues cls
def stInfl (g : Stage) : Nat := g.binds.length
/-- PRESS. -/
def stPress (s : State) (g : Stage) : Nat := ((stDies g).map fun d => bobLevel (s.die d)).foldl Nat.max 0
/-- INUSE (R350). -/
def stInuse (g : Stage) : Nat := ((List.range 8).map fun v => if g.binds.any (fun e => e.2 == v) then 2 ^ v else 0).sum

/-- Stage word 5. -/
def stWord5 (s : State) (g : Stage) : Nat :=
  (stQueue g 0).length + (stQueue g 1).length * 2 ^ 9 + (stQueue g 2).length * 2 ^ 18 + stInfl g * 2 ^ 27 + stPress s g * 2 ^ 35

/-- Does a stage word hold a value that enabling forbids? -/
def stBadEnable (g : Stage) : Bool :=
  stIfl g == 0 || stNver g == 0 || decide (8 < stNver g) || bitsAt (stW g 0) 32 32 == 0 || bitsAt (stW g 1) 0 32 == 0 ||
  [0, 1, 2].any fun c => stPc g c % 4 != 0

/-- Reserved bits of stage word `k`. -/
def stReserved (k v : Nat) : Bool :=
  match k with
  | 0 => bitsAt v 5 3 != 0 || bitsAt v 28 4 != 0
  | 1 => bitsAt v 32 32 != 0
  | 2 => bitsAt v 54 10 != 0
  | 5 => bitsAt v 37 27 != 0
  | _ => false

/-! ## Enqueues (R346) -/

/-- An entry enqueued; a B entry's objects are prefetched (R356). -/
def mbsEnqueue (k cls tag : Nat) (chan : Option Nat) (p : Pass) (s : State) : State :=
  let g := stageOf s k
  let s := setStage k { g with queues := put g.queues cls (stQueue g cls ++ [⟨tag, s.time, chan, p⟩]) } s
  if cls = 1 then (stDies g).foldl (fun s d => prefetchTag d tag s) s else s

/-- MBS_ENQ: the enqueue by a control core is a release that the scheduler acquires. -/
def wrMbsEnq (v : Word) (s : State) : Chk State := do
  let x := v.toNat
  let tag := bitsAt x 0 12
  let cls := bitsAt x 12 2
  let g := stageOf s (bitsAt x 14 4)
  need (!(decide (256 ≤ (stQueue g cls).length) || tag == 0xFFF || cls == 3 || !stEnable g || bitsAt x 18 46 != 0)) .permission
  let (t, p) := releaseFrom s.myAgent (towerOf s.cc) s
  return mbsEnqueue (bitsAt x 14 4) cls tag none p t
def execMbsEnqWrite (v : Word) : State → Out := regEvent 0x1EB false (wrMbsEnq v)

/-! ## Versions (R350) -/

/-- The stage whose program a control core runs. -/
def stageOfCtl (x : Ctl) : Option Nat :=
  match x.starter with
  | .mbs k _ _ => some k
  | _ => none

def verImage (g : Stage) : Nat := g.ready + stInuse g * 2 ^ 8 + g.newest * 2 ^ 16

/-- MBS_VER. -/
def wrMbsVer (v : Word) (s : State) : Chk State := do
  match stageOfCtl s.me with
  | none => fault .permission
  | some k =>
    let g := stageOf s k
    let x := v.toNat
    let ready := bitsAt x 0 8
    let newest := bitsAt x 16 3
    need ((List.range 8).all fun j => !(bitAt g.ready j && !bitAt ready j && bitAt (stInuse g) j)) .permission
    need (bitAt ready newest && decide (ready < 2 ^ stNver g ∧ newest < stNver g)) .permission
    return setStage k { g with ready := ready, newest := newest } s
def execMbsVerWrite (v : Word) : State → Out := regEvent 0x1E4 false (wrMbsVer v)

/-! ## Stage channels (R352) -/

def chanOf (s : State) (n : Nat) : Chan := look Chan.reset s.chans n
def setChan (n : Nat) (x : Chan) (s : State) : State := { s with chans := put s.chans n x }
def chEnable (x : Chan) : Bool := bitAt x.w0.toNat 0
def chOut (x : Chan) : Bool := bitAt x.w0.toNat 1
def chStage (x : Chan) : Nat := bitsAt x.w0.toNat 2 4
def chClass (x : Chan) : Nat := bitsAt x.w0.toNat 6 1
def chWin (x : Chan) : Nat := bitsAt x.w0.toNat 8 4
def chPeer (x : Chan) : Nat := bitsAt x.w0.toNat 12 10
def chPeerChan (x : Chan) : Nat := bitsAt x.w0.toNat 22 5
def chLt (x : Chan) : Nat := bitsAt x.w1.toNat 0 12
def chIdx (x : Chan) : Nat := bitsAt x.w1.toNat 12 32

/-- The scheduler as accessor in a stage's context, at the stage's first tower. -/
def mbsWho (s : State) (k : Nat) : Who :=
  let g := stageOf s k
  ⟨mbsAgent, nth 0 (stTowers g) 0, none, stW g 3, stW g 4, 0xFFF, false, 0⟩

/-- The DELIVER or CREDIT word of a channel. -/
def chanLoc (n : Nat) (a : Acc) : M Loc := do
  let s ← get
  let x := chanOf s n
  wordLoc (mbsWho s (chStage x)) (chLt x) (chIdx x) a

/-- Enabling an outbound channel stores WIN into CREDIT, a release at module scope. -/
def storeWindow (n : Nat) : M Unit := do
  let s ← get
  let x := chanOf s n
  let l ← chanLoc n .store
  storeOrd (mbsWho s (chStage x)) l .rel .module (chWin x)

/-- One credit of module `src` added to CREDIT of this module's channel, as a remote atomic with release order: its ingress performs it
(R137, R352). -/
def addCredit (n src : Nat) : M Unit := do
  let s ← get
  let l ← chanLoc n .atomic
  let w := { mbsWho s (chStage (chanOf s n)) with agent := ingressAgent src, tower := homeOf l.flat }
  let _ ← atomicAt w l .rel .module fun x => some ((x + 1) % 2 ^ 64)

/-- A credit given back: a remote atomic add, a release at domain scope, which the scheduler sends once its earlier ones have been acknowledged
(R137, R352). -/
def giveCredit (n : Nat) : M Unit := do
  let s ← get
  let x := chanOf s n
  if !s.mbsSent.isEmpty then waitM (.own 0)
  let s := emit (.credit (chPeer x) (chPeerChan x) s.msgNext) ((releasePass mbsAgent s).1)
  set { s with mbsSent := s.mbsSent ++ [(s.msgNext, chPeer x, s.time)], msgNext := s.msgNext + 1 }

/-- What a credit act does, a credit that arrived being acknowledged. -/
def creditAct : MbsAct → M Unit
  | .window n => storeWindow n
  | .credit n src id => do
    addCredit n src
    modify (emit (.ack src id 0 false))
  | .giveBack n => giveCredit n

/-- A credit act whose word cannot be reached: an arriving credit reports its cause, and nothing else happens (notes/assumptions/29.md). -/
def creditFails (a : MbsAct) (t : Trap) (s : State) : State :=
  match a with
  | .credit _ src id => emit (.ack src id (causeCode t.cause) false) s
  | _ => s

/-- The credit acts in order, those that wait being kept; while one awaits the host, which stands first, the others wait behind it (R41, R403). -/
def creditLoop : List MbsAct → List MbsAct → State → State
  | [], kept, s => { s with mbsHeld := kept }
  | a :: t, kept, s =>
    match (creditAct a).go s with
    | (.ok _, s') => creditLoop t kept { s' with mbsAns := .none }
    | (.error (.trap x), s') => creditLoop t kept { creditFails a x s' with mbsAns := .none }
    | (.error (.wait _), s') => if s'.mbsAns = .none then creditLoop t (kept ++ [a]) s' else { s' with mbsHeld := kept ++ a :: t }
    | (.error (.ask m _ sp got), s') =>
      let s2 := m.elim s' fun m => emit m s'
      { s2 with mbsAns := asking s' m sp got, msgNext := s'.msgNext + 1, mbsHeld := a :: (kept ++ t) }

/-- The credit acts that wait are tried again. -/
def retryCredits (s : State) : State := if s.mbsHeld.isEmpty then s else creditLoop s.mbsHeld [] s

/-- A credit act made, or kept where it must wait. -/
def mbsDo (a : MbsAct) (s : State) : State := retryCredits { s with mbsHeld := s.mbsHeld ++ [a] }

/-- The inbound channel whose DELIVER word a release of a module performs on. -/
def deliverChan (s : State) (sender flat : Nat) : Option Nat :=
  (List.range 32).find? fun n =>
    let x := chanOf s n
    chEnable x && !chOut x && chPeer x == sender &&
    (match (chanLoc n .load).go s with
      | (.ok l, _) => l.flat / 8 == flat / 8
      | _ => false)

/-- A delivery of a value to a channel: PERMISSION at step 11 where the window or the queue is full or the tag is unbound. -/
def chanDeliver (n : Nat) (v : Nat) (p : Pass) (s : State) : Chk State := do
  let x := chanOf s n
  let g := stageOf s (chStage x)
  need (!(x.infl == chWin x || decide (256 ≤ (stQueue g (chClass x)).length) || v % 4096 == 0xFFF)) .permission
  return mbsEnqueue (chStage x) (chClass x) (v % 4096) (some n) p (setChan n { x with infl := x.infl + 1 } s)

/-! ## MBS_DATA (R345, R347) -/

/-- A rule word that this chapter forbids. -/
def ruleBad (v : Nat) : Bool :=
  bitAt v 7 || bitsAt v 42 22 != 0 || decide (256 < bitsAt v 19 9) || (bitsAt v 5 2 == 3 && bitsAt v 8 8 != 0)

/-- MBS_DATA of core `c`. Its selection names the object and the word; a write to a word that is RO throughout changes nothing. -/
def wrMbs (c : Nat) (v : Word) (s : State) : State :=
  let sel := (look 0 (s.core c).sels 0x1E2).toNat
  let kind := sel % 4
  let ix := sel / 4 % 64
  let w := sel / 256 % 8
  let refuse := setRefused c 0x1E2 s
  match kind with
  | 0 =>
    let g := stageOf s ix
    let g' : Stage := { g with w := put g.w w v }
    if 16 ≤ ix ∨ 5 < w ∨ stReserved w v.toNat then refuse
    else if w = 5 then s
    else if stEnable g && !(w == 0 && v == look 0 g.w 0 &&& ~~~1) then refuse
    else if w = 0 ∧ bitAt v.toNat 0 then
      if stBadEnable g' then refuse else setStage ix { g' with lastF := none } s
    else setStage ix g' s
  | 1 => if w ≠ 0 ∨ ruleBad v.toNat then refuse else { s with rules := put s.rules ix v }
  | 2 =>
    let x := chanOf s ix
    let bad := decide (32 ≤ ix ∨ 2 < w) ||
      (w == 0 && (bitAt v.toNat 7 || bitsAt v.toNat 27 37 != 0 || (bitAt v.toNat 0 && bitsAt v.toNat 8 4 == 0))) ||
      (w == 1 && bitsAt v.toNat 44 20 != 0) || (w == 2 && bitsAt v.toNat 4 60 != 0)
    if bad then refuse
    else if w = 2 then s
    else if chEnable x && !(w == 0 && v == x.w0 &&& ~~~1) then refuse
    else if w = 0 then
      let s := setChan ix { x with w0 := v } s
      if bitAt v.toNat 0 && bitAt v.toNat 1 then mbsDo (.window ix) s else s
    else setChan ix { x with w1 := v } s
  | _ => refuse
def execMbsDataWrite (v : Word) : State → Out := regEvent 0x1E3 true fun s => .ok (wrMbs s.cc v s)

/-- The word that MBS_DATA reads; an object that is not there reads 0. -/
def mbsImage (s : State) (c : Nat) : Nat :=
  let sel := (look 0 (s.core c).sels 0x1E2).toNat
  let ix := sel / 4 % 64
  let w := sel / 256 % 8
  match sel % 4 with
  | 0 => if 16 ≤ ix ∨ 5 < w then 0 else if w = 5 then stWord5 s (stageOf s ix) else stW (stageOf s ix) w
  | 1 => if w = 0 then (look 0 s.rules ix).toNat else 0
  | 2 =>
    if 32 ≤ ix then 0
    else match w with
      | 0 => (chanOf s ix).w0.toNat
      | 1 => (chanOf s ix).w1.toNat
      | 2 => (chanOf s ix).infl
      | _ => 0
  | _ => 0

/-! ## Evaluation (R347-R349) -/

/-- The start that stage `k` gives a leader for an entry. -/
def stageStart (k cls : Nat) (g : Stage) (e : QEnt) (v : Nat) (p : Pass) (c : Nat) : Start :=
  ⟨c, stLead g cls, stPc g cls, e.tag, [BitVec.ofNat 64 cls, BitVec.ofNat 64 v, 0, 0],
    some (look 0 g.w 3, look 0 g.w 4), .mbs k cls e.tag, false, p⟩

/-- The start slot of a stage and class (R348). -/
def slotFree (s : State) (k cls : Nat) : Bool :=
  let g := stageOf s k
  stEnable g && ((stCores g).all fun c => canStart (stageStart k cls g ⟨0, 0, none, ⟨0, 0, .empty⟩⟩ 0 ⟨0, 0, .empty⟩ c) s) &&
  (cls != 0 || (decide (stInfl g < stIfl g) && bitAt g.ready g.newest))

/-- The prefetch of a B entry that has become the second of its queue (R356). -/
def prefetchSecond (k : Nat) (s : State) : State :=
  let g := stageOf s k
  match (stQueue g 1)[1]? with
  | some e => (stDies g).foldl (fun s d => prefetchTag d e.tag s) s
  | none => s

/-- start(s, c) (R349, R350); in replay only the logged choice is taken (R436, R437). -/
def mbsStart (k cls : Nat) (s : State) : State :=
  let g := stageOf s k
  match stQueue g cls, repTurn (ObjKind.mbs.key 0) (k * 4 + cls) s with
  | [], _ => s
  | _, none => s
  | e :: rest, some s =>
    let v := if cls = 0 then g.newest else (find g.binds e.tag).getD g.newest
    let g := { g with
      queues := put g.queues cls rest, binds := put g.binds e.tag v, lastF := if cls = 0 then some v else g.lastF
      jobs := g.jobs ++ [⟨cls, e.tag, (stCores g).map fun c => (c, stLead g cls), e.chan⟩] }
    let s := takePass mbsAgent e.pass (setStage k g s)
    let (s, p) := releasePass mbsAgent s
    let s := (stCores g).foldl (fun s c => startNow (stageStart k cls g e v p c) s) s
    let s := s.noteOpen mbsAgent 6
    if cls = 1 then prefetchSecond k s else s

/-- The heads that have waited AGE x 10 us: since when, stage and class. -/
def agedHeads (s : State) : List (Nat × Nat × Nat) :=
  (List.range 16).flatMap fun k =>
    let g := stageOf s k
    [0, 1, 2].filterMap fun c =>
      match stQueue g c with
      | e :: _ => if stAge g ≠ 0 ∧ e.since + stAge g * 10000 ≤ s.time then some (e.since, k, c) else none
      | [] => none

def insertAged (a : Nat × Nat × Nat) : List (Nat × Nat × Nat) → List (Nat × Nat × Nat)
  | [] => [a]
  | b :: t => if a.1 ≤ b.1 then a :: b :: t else b :: insertAged a t
def orderAged : List (Nat × Nat × Nat) → List (Nat × Nat × Nat)
  | [] => []
  | a :: t => insertAged a (orderAged t)

/-- Pass 1: aged heads, oldest first, at most one start a stage. -/
def agePass : List (Nat × Nat × Nat) → List Nat → State → State
  | [], _, s => s
  | (_, k, c) :: t, done, s =>
    if !done.contains k && slotFree s k c then agePass t (k :: done) (mbsStart k c s) else agePass t done s

/-- The conditions of a rule on its stage (R347). -/
def ruleHolds (s : State) (r : Nat) (k : Nat) : Bool :=
  let g := stageOf s k
  let cls := bitsAt r 5 2
  let oq := bitsAt r 16 2
  let occ := (stQueue g (oq - 1)).length
  (cls == 3 || decide (Nat.max (bitsAt r 8 8) 1 ≤ (stQueue g cls).length)) &&
  (oq == 0 || (if bitAt r 18 then decide (occ < bitsAt r 19 9) else decide (bitsAt r 19 9 ≤ occ))) &&
  (!bitAt r 28 || decide (stPress s g ≤ bitsAt r 29 2)) &&
  (!bitAt r 31 || g.lastF != some g.newest) &&
  (!bitAt r 32 || (if bitAt r 33 then decide (bitsAt r 34 8 ≤ stInfl g) else decide (stInfl g < bitsAt r 34 8)))

/-- Pass 2 for one stage: the first rule that holds and is a HOLD or has a free slot. -/
def rulePass (k : Nat) : List Nat → State → State
  | [], s => s
  | n :: t, s =>
    let r := (look 0 s.rules n).toNat
    if bitAt r 0 && bitsAt r 1 4 == k && ruleHolds s r k then
      if bitsAt r 5 2 = 3 then s
      else if slotFree s k (bitsAt r 5 2) then mbsStart k (bitsAt r 5 2) s
      else rulePass k t s
    else rulePass k t s

/-- evaluate() (R348). -/
def mbsEvaluate (s : State) : State :=
  let s := agePass (orderAged (agedHeads s)) [] s
  (List.range 16).foldl (fun s k => rulePass k (List.range 64) s) s
def execMbsEvaluate : State → Out := event mbsEvaluate

/-! ## Job ends (R349, R350, R352) -/

/-- The credit of a delivered tag's job goes back to its sender, as a remote release. -/
def returnCredit (n : Nat) (s : State) : State := mbsDo (.giveBack n) (setChan n { chanOf s n with infl := (chanOf s n).infl - 1 } s)

/-- The end of the job of (tag, class) once every leader has reported. -/
def mbsJobEnd (k cls tag : Nat) (s : State) : State :=
  let g := stageOf s k
  match g.jobs.find? fun j => j.cls == cls && j.tag == tag && j.left.isEmpty with
  | none => s
  | some j =>
    let frees := (cls == 2 && stAutoW g) || (cls == 1 && !stAutoW g)
    let s := setStage k { g with jobs := g.jobs.erase j, binds := if frees then del g.binds tag else g.binds } s
    let s := match j.chan with
      | some n => returnCredit n s
      | none => s
    if stAutoW g && cls == 1 then
      let (s, p) := releasePass mbsAgent s
      mbsEnqueue k 2 tag none p s
    else s
def execMbsJobEnd (k : Fin 16) (c : Fin 3) (tag : Fin 4096) : State → Out := event (mbsJobEnd k c tag)

end Sys2Proof.Machine
end

