-- ==== Sys2Proof/Machine/Fab.lean ====
section
/-! DEFINITION. Fabric records (R316-R329): message slots and tokens, bulk messages, small remote operations, collectives, the seam check.
What a record sends is in the outbox; what comes back arrives by the events of Noweone.lean. -/
namespace Sys2Proof.Machine

/-! ## Message slots (R317, R318) -/

def slotOf (s : State) (c k : Nat) : Slot := look Slot.reset (s.core c).slots k
def setSlot (c k : Nat) (x : Slot) (s : State) : State := s.setCore c { s.core c with slots := put (s.core c).slots k x }

/-- A slot turns FREE. -/
def freeSlot (c k : Nat) (s : State) : State := setSlot c k { Slot.reset with epoch := (slotOf s c k).epoch } s

/-- The epoch of the message that takes a FREE slot: it advances as the slot leaves FREE (R385). -/
def nextEpoch (x : Slot) : Nat := (x.epoch + 1) % 256

/-- What a slot's INTENT carries: the bytes from where the announcement begins, how many of them come before chunk 0, and how far behind the
beginning of chunk 0 they begin. An INTENT resent is the same one. -/
def intentOf (x : Slot) (num : Nat) : IntentInfo := ⟨num, x.len - x.base, x.prefixN - x.base, x.prio, x.bucket, x.coll, x.flag, x.base - x.prefixN⟩

/-- An INTENT to each destination, each with a number of its own for its ACK. -/
def sendIntents (c k : Nat) (mods : List Nat) (s : State) : State :=
  mods.foldl (fun s m =>
    let x := slotOf s c k
    let s := emit (.intent m c k x.epoch (intentOf x s.msgNext)) (setSlot c k { x with ids := x.ids ++ [(s.msgNext, m, s.time)] } s)
    { s with msgNext := s.msgNext + 1 }) s

/-- A message announced from a FREE slot. -/
def announce (c k : Nat) (x : Slot) (s : State) : State :=
  sendIntents c k x.mods (setSlot c k { x with epoch := nextEpoch (slotOf s c k) } s)

/-- PRI or BUCKET of the C immediate (R317). -/
def immBucket (r : Rec) : Option Nat := if bitAt (immOf r.c) 40 then some (bitsAt (immOf r.c) 32 8) else none
def immPrio (r : Rec) : Nat := bitsAt (immOf r.c) 41 3

/-- The destination that a PEER handle's layout entry names. -/
def peerOf (s : State) (w : Who) (h : Handle) : Nat := ePeer (ltEntry s w (hLt h))

def isPeer (sp : Nat) : Bool := sp == 6

/-- A withdrawn message: its slot turns FREE and the record takes TOKEN_EXPIRED (R318). -/
def withdrawn {α : Type} (c k m : Nat) : M α := do
  modify (freeSlot c k)
  trapM .tokenExpired (k % 16 + m * 2 ^ 4)

/-- Does a slot in use hold the message that a `fab.pint` to module `m` names? -/
def samePint (x : Slot) (r : Rec) (m : Nat) : Bool :=
  x.mods == [m] && x.len == immOf r.c % 2 ^ 32 && x.bucket == immBucket r && x.prio == immPrio r

/-- The entry check of `fab.pint`: a slot in use for a different message raises PERMISSION. -/
def fabPintEntry (r : Rec) (c : Nat) (e : Eng) (u : Run) : M Run := do
  let s ← get
  let x := slotOf s c (r.spare.val % 16)
  needM (x.st == .free || samePint x r (peerOf s (engWho s c e) (u.h 0))) .permission
  return u

/-- `fab.pint`: a FREE slot is announced; one that the other engine has taken since the entry is tested as there. -/
def fabPintIssue (r : Rec) (c : Nat) (e : Eng) (u : Run) : M Run := whole do
  let w := engWho (← get) c e
  let k := r.spare.val % 16
  let l ← locate w (u.h 0) (u.at r.d) .store false (fun _ => true) isPeer
  let x := slotOf (← get) c k
  needM (x.st == .free || samePint x r (ePeer l.p.entry)) .permission
  modify fun s => if x.st ≠ .free then s else
    announce c k { Slot.reset with
      st := .announced, stream := streamNo (engStream e), mods := [ePeer l.p.entry], len := immOf r.c % 2 ^ 32
      prio := immPrio r, bucket := immBucket r } s
  return u.next

/-- What a sending record keeps of its message: epoch, position of chunk 0, length, the chunk last begun plus 1, the parts of its beat that
have been acknowledged, whether its message was taken back, and, of a collective, the sent map plus 1 and the sent CONFLICT. -/
structure Sending where
  epoch : Nat
  org   : Nat
  len   : Nat
  cur   : Nat
  part  : Nat
  taken : Bool
  map   : Nat
  conf  : Bool
deriving DecidableEq, Repr, Inhabited

def Run.sending (u : Run) : Sending :=
  let c := u.carry
  ⟨nth 0 c 0, nth 0 c 1, nth 0 c 2, nth 0 c 3, nth 0 c 4, nth 0 c 5 == 1, nth 0 c 6, nth 0 c 7 == 1⟩
def Run.withSending (u : Run) (g : Sending) : Run :=
  { u with carry := [g.epoch, g.org, g.len, g.cur, g.part, b2n g.taken, g.map, b2n g.conf] }
/-- A message as its record begins to send it. -/
def Sending.fresh (epoch org len : Nat) : Sending := ⟨epoch, org, len, 0, 0, false, 0, false⟩

/-- The entry of `fab.send` (R318, R319). -/
def fabSendEntry (r : Rec) (c : Nat) (e : Eng) (u : Run) : M Run := do
  let s ← get
  let k := r.spare.val % 16
  let x := slotOf s c k
  let m := peerOf s (engWho s c e) (u.h 0)
  let n := recordBytes u (u.h 0) r.d
  match x.st with
  | .free =>
    let p := Nat.min (bitsAt (immOf r.c) 44 14) n
    set (announce c k { Slot.reset with
      st := .sending, stream := streamNo (engStream e), mods := [m], len := n, prio := immPrio r, bucket := immBucket r, prefixN := p } s)
    return u.withSending (.fresh (nextEpoch x) p n)
  | .announced =>
    needM (x.mods == [m]) .permission
    needM (x.len == n) .bounds
    set (setSlot c k { x with st := .sending, stream := streamNo (engStream e) } s)
    return u.withSending (.fresh x.epoch 0 n)
  | .withdrawn => withdrawn c k m
  | .sending => trapM .permission

/-! ## Beats of a message (R319, R322) -/

/-- Is the slot still this record's message? -/
def slotMine (x : Slot) (u : Run) (e : Eng) : Bool :=
  x.st == .sending && x.epoch == u.sending.epoch && x.stream == streamNo (engStream e)

/-- The chunk of an element of `n` bytes at position `a` of a message whose chunk 0 begins at `org`; none before it. An element that a
boundary cuts goes with its last byte (notes/assumptions/27.md). -/
def chunkOfElem (org a n : Nat) : Option Nat := if a + n ≤ org then none else some ((a + n - 1 - org) / 65536)

/-- Elements grouped by their chunk, each group one part of a beat (R319). -/
def beatParts (chunk : Nat → Option Nat) : List Nat → List (Option Nat × List Nat)
  | [] => []
  | j :: t => match beatParts chunk t with
    | (k, js) :: r => if k = chunk j then (k, j :: js) :: r else (chunk j, [j]) :: (k, js) :: r
    | [] => [(chunk j, [j])]

/-- Does chunk `n` end where the next element of `k` bytes would begin at position `b`? -/
def endsChunk (org len n b k : Nat) : Bool := b == len || decide (org + (n + 1) * 65536 < b + k)

/-- Does the slot hold an unexpired token of every destination for a chunk? -/
def hasTokens (x : Slot) (n now : Nat) : Bool := x.mods.all fun m => x.tokens.any fun t => t.src == m && t.n == n && decide (now < t.ex)

/-- The tokens a chunk's bytes move against: a chunk whose header has left needs none; another needs an unexpired token of every
destination (R319, R322). -/
def needToken (c k n : Nat) : M Unit := do
  let s ← get
  let x := slotOf s c k
  if x.sent.contains n || hasTokens x n s.time then pure () else waitM (.pull k)

/-- The header of a chunk leaves against its tokens. -/
def useToken (c k n : Nat) : M Unit := do
  needToken c k n
  modify fun s =>
    let x := slotOf s c k
    if x.sent.contains n then s else setSlot c k { x with sent := x.sent ++ [n], tokens := x.tokens.filter fun t => t.n != n } s

/-- The latest expiry time among the tokens of a chunk, for the header. -/
def expiryOf (x : Slot) (n : Nat) : Nat := ((x.tokens.filter fun t => t.n == n).map (·.ex)).foldl Nat.max 0

/-- A beat's elements of a local run, as bytes, or none where one faults; 4-bit codes travel one a byte (R304, R125). -/
def beatBytes (w : Who) (h : Handle) (ca : Coord) (tag : Nat) (js : List Nat) : M (List Byte) := whole do
  let xs ← mapList (fun j => copyRead w h (along ca j) tag false false copySpace) js
  let bits := esizeBits tag
  return if bits = 4 then xs.map (BitVec.ofNat 8 ·) else leBytes (js.length * (bits / 8)) (packCodes bits xs)

/-- The check of a sent element: the A element as a copy's, the D element's location as a PEER store of the same tag. -/
def checkSend (w : Who) (ha hd : Handle) (ca cd : Coord) (j : Nat) : M Unit := do
  checkRead w ha (along ca j) (hFmt hd) false copySpace
  let _ ← locate w hd (along cd j) .store false (fun t => t == hFmt ha) isPeer

/-- A sending record changed where it stands. -/
def mapRun (c : Nat) (e : Eng) (f : Run → Run) (s : State) : State :=
  match (s.seqOf c e).run with
  | some u => setRun c e (some (f u)) s
  | none => s

/-- The bytes of a part of a beat, what their reads record being noted for a fault (R125). -/
def beatRead (c : Nat) (e : Eng) (bytes : M (List Byte)) : M (List Byte) := do
  let s ← get
  let bs ← bytes
  modify fun t => mapRun c e (fun v => { v with undo := v.undo ++ stampChanges s t }) t
  return bs

/-- The parts of a beat in order, each sent once those before it have been acknowledged; `send` sends one, or takes its answer. -/
def sendParts (c : Nat) (e : Eng) (send : Run → Option Nat → List Nat → M Unit) : Nat → List (Option Nat × List Nat) → M Unit
  | _, [] => pure ()
  | i, (n, js) :: t => do
    match ((← get).seqOf c e).run with
    | none => pure ()
    | some v => do
      if v.sending.part ≤ i then
        send v n js
        modify (mapRun c e fun v => { v.withSending { v.sending with part := i + 1 } with ans := .none, acks := [] })
      sendParts c e send (i + 1) t

/-- A record's next beat, none of whose parts has been sent. -/
def Run.unparted (u : Run) : Run := u.withSending { u.sending with part := 0 }

/-- One part of a beat of `fab.send`: as WRITEs before chunk 0, else as part of its chunk. A message no longer the record's own has been
taken back: the chunk begun is completed, and then the record takes TOKEN_EXPIRED (R318, R331; notes/assumptions/27.md). -/
def sendPart (c : Nat) (e : Eng) (k : Nat) (w : Who) (p : Place) (bytes : M (List Byte)) (last : Bool) (v : Run) (n : Option Nat) : M Unit := do
  let g := v.sending
  let x := slotOf (← get) c k
  let fresh := unsent v.ans
  if fresh then
    if x.st = .withdrawn ∧ x.epoch = g.epoch then withdrawn c k (ePeer p.entry)
    let begun := match n with
      | some n => n + 1 == g.cur
      | none => false
    needM (slotMine x v e || begun) .tokenExpired (k + ePeer p.entry * 2 ^ 4)
    match n with
    | some n => if slotMine x v e then needToken c k n
    | none => pure ()
  let bs ← if fresh then beatRead c e bytes else pure []
  if fresh then
    match n with
    | some n =>
      if slotMine x v e then useToken c k n
      modify (mapRun c e fun v => v.withSending { g with cur := n + 1 })
    | none => pure ()
  match n with
  | none => remoteDo w p false (fun m => .remoteWrite (ePeer p.entry) { m with msg := some (k, g.epoch) }) bs k
  | some n => remoteDo w p false (fun m => .chunk (ePeer p.entry) c k g.epoch n ⟨expiryOf x n, [m], none, last⟩) bs k

/-- Where chunk 0 of a record's message begins: a restart may have moved it (R330). -/
def orgOf (x : Slot) (u : Run) (e : Eng) : Nat := if slotMine x u e then x.prefixN else u.sending.org

/-- One beat of `fab.send`. -/
def fabSendIssue (r : Rec) (c : Nat) (e : Eng) (u : Run) : M Run := do
  let w := engWho (← get) c e
  let k := r.spare.val % 16
  let hd := u.h 0
  let ha := u.h 1
  let cd := u.at r.d
  let ca := u.at r.a
  let bits := esizeBits (hFmt hd)
  let n := Nat.max 1 (bits / 8)
  let org := orgOf (slotOf (← get) c k) u e
  modify (mapRun c e fun v => v.withSending { v.sending with org := org })
  let v ← beatStep u (windowRun hd cd) bits (checkSend w ha hd ca cd) fun js =>
    sendParts c e (fun v m js => do
      let l ← locate w hd (along cd (nth 0 js 0)) .store false (fun _ => true) isPeer
      let b := u.bytes + runBytes (nth 0 js (js.length - 1) + 1) bits
      sendPart c e k w l.p (beatBytes w ha ca (hFmt hd) js) (m.any fun m => endsChunk org u.sending.len m b n) v m) 0
      (beatParts (fun j => chunkOfElem org (u.bytes + j * bits / 8) n) js)
  let cur := (((← get).seqOf c e).run.map (·.sending)).getD u.sending
  modify fun s =>
    let x := slotOf s c k
    if slotMine x u e then setSlot c k { x with moved := v.bytes + v.beat * 512 } s else s
  return (v.withSending cur).unparted

/-- The completion of a message: its slot turns FREE; the flag of a message that was taken back is not written (R318). -/
def fabSlotDone (r : Rec) (c : Nat) (e : Eng) (u : Run) : M Run := do
  let k := r.spare.val % 16
  if slotMine (slotOf (← get) c k) u e then
    modify (freeSlot c k)
    return u
  else return u.withSending { u.sending with taken := true }

/-! ## Multicast (R322, R389) -/

/-- The members of a multicast group but this module. -/
def mcMembers (s : State) (g : Nat) : List Nat :=
  (List.range 1024).filter fun m => bitAt (look 0 s.mcg (g * 16 + m / 64)).toNat (m % 64) && m != bitsAt s.dmr.toNat 0 10

/-- The place of a multicast's identity among a core's slots: 16 CEL, 17 CES (notes/assumptions/27.md). -/
def mcSlot (e : Eng) : Nat := if e = .ces then 17 else 16

def fabMcastEntry (r : Rec) (c : Nat) (e : Eng) (u : Run) : M Run := do
  let s ← get
  let g := r.spare.val % 64
  let k := mcSlot e
  needM (!(mcMembers s g).isEmpty) .permission
  let s := if (slotOf s c k).st = .free then s else freeSlot c k s
  set (announce c k { Slot.reset with
    st := .sending, stream := streamNo (engStream e), mods := mcMembers s g, len := recordBytes u (u.h 0) r.d, prio := r.opx.val % 8 } s)
  return u.withSending (.fresh (nextEpoch (slotOf s c k)) 0 (recordBytes u (u.h 0) r.d))

/-- One message to every destination at once, all of whose ACKs are awaited: the record lists their numbers. -/
def sendAll (c : Nat) (e : Eng) (mods : List Nat) (msg : List (Nat × Nat) → Msg) (s : State) : State :=
  let ids := (List.range mods.length).map fun k => s.msgNext + k
  let t := emit (msg (mods.zip ids)) s
  mapRun c e (fun u => { u with acks := ids, ans := .asked ⟨s.msgNext, s.time, true, Spot.none⟩ [] })
    { t with
      sent := s.sent ++ (mods.zip ids).map fun x => ⟨x.2, c, streamNo (engStream e), x.1, s.time⟩
      msgNext := s.msgNext + mods.length }

/-- One part of a beat of `fab.mcast`: it leaves for every member at once, and is transferred when every member has acknowledged it. -/
def mcastPart (c : Nat) (e : Eng) (k : Nat) (w : Who) (p : Place) (bytes : M (List Byte)) (last : Bool) (v : Run) (n : Nat) : M Unit := do
  let x := slotOf (← get) c k
  if unsent v.ans then
    needToken c k n
    let bs ← beatRead c e bytes
    useToken c k n
    modify fun s => sendAll c e x.mods (fun ms => .mcast ms c k x.epoch n ⟨expiryOf x n, [remoteAcc s w p bs false], none, last⟩) s
    waitM (.own 1)
  match v.ans with
  | .remote 0 => pure ()
  | .remote 0x10 => trapM .tokenExpired (nth 0 x.mods 0 * 2 ^ 4)
  | .remote st => remoteTrap p st
  | _ => waitM (.own 1)

/-- One beat of `fab.mcast`. A record that resumes after its multicast was withdrawn announces the bytes that it has left again: DEDUCED
(notes/assumptions/27.md). -/
def fabMcastIssue (r : Rec) (c : Nat) (e : Eng) (u : Run) : M Run := do
  let w := engWho (← get) c e
  let k := mcSlot e
  let hd := u.h 0
  let ha := u.h 1
  let cd := u.at r.d
  let ca := u.at r.a
  let bits := esizeBits (hFmt hd)
  let n := Nat.max 1 (bits / 8)
  let x := slotOf (← get) c k
  if unsent u.ans ∧ x.st = .withdrawn then
    modify fun s => setSlot c k { Slot.reset with epoch := x.epoch, mods := x.mods, len := x.len, prio := x.prio, moved := x.moved } s
    trapM .tokenExpired (nth 0 x.mods 0 * 2 ^ 4)
  if x.st = .free ∧ x.mods ≠ [] then
    modify (announce c k { x with st := .sending, stream := streamNo (engStream e), prefixN := x.moved, base := x.moved })
  let x := slotOf (← get) c k
  let org := x.prefixN
  let v ← beatStep u (windowRun hd cd) bits (checkSend w ha hd ca cd) fun js =>
    sendParts c e (fun v m js => do
      let l ← locate w hd (along cd (nth 0 js 0)) .store false (fun _ => true) isPeer
      let b := u.bytes + runBytes (nth 0 js (js.length - 1) + 1) bits
      mcastPart c e k w l.p (beatBytes w ha ca (hFmt hd) js) (m.any fun m => endsChunk org x.len m b n) v (m.getD 0)) 0
      (beatParts (fun j => chunkOfElem org (u.bytes + j * bits / 8) n) js)
  modify fun s => setSlot c k { slotOf s c k with moved := v.bytes + v.beat * 512 } s
  return { v.unparted with acks := [] }

def fabMcastDone (_ : Rec) (c : Nat) (e : Eng) (u : Run) : M Run := do
  modify (freeSlot c (mcSlot e))
  return u

/-! ## Priorities and returned tokens (R318, R321) -/

def fabPrioIssue (r : Rec) (_ : Nat) (_ : Eng) (u : Run) : M Run := do
  let i := immOf r.c
  let b := bitsAt i 0 8
  let n := bitsAt i 8 8
  needM (decide (b + n ≤ 255)) .bounds
  modify fun s => { s with bpri := (span b (b + n + 1)).foldl (fun t k => put t k (bitsAt i 16 3)) s.bpri }
  return u.next

/-- A slot's message taken back: held tokens returned, the message cancelled at its receivers, the slot FREE. -/
def takeBack (c k : Nat) (s : State) : State :=
  let x := slotOf s c k
  let s := x.tokens.foldl (fun s t => emit (.returnTok t.src c k x.epoch t.n) s) s
  let s := x.mods.foldl (fun s m => emit (.cancel m c k x.epoch) s) s
  freeSlot c k s

def fabTkrIssue (r : Rec) (c : Nat) (_ : Eng) (u : Run) : M Run := do
  let k := r.spare.val % 16
  modify fun s => if (slotOf s c k).st = .free then s else takeBack c k s
  return u.next

/-! ## Small remote operations (R323, R324) -/

/-- One beat of `fab.wr`: plain remote writes, at most 8,192 bytes a record. -/
def fabWrIssue (r : Rec) (c : Nat) (e : Eng) (u : Run) : M Run := whole do
  let w := engWho (← get) c e
  let hd := u.h 0
  let ha := u.h 1
  let cd := u.at r.d
  let ca := u.at r.a
  let bits := esizeBits (hFmt hd)
  needM (decide (u.bytes + runBytes (windowRun hd cd).toNat bits ≤ 8192)) .bounds
  beatStep u (windowRun hd cd) bits
    (checkSend w ha hd ca cd)
    (fun js => do
      let bs ← beatBytes w ha ca (hFmt hd) js
      let l ← locate w hd (along cd (nth 0 js 0)) .store false (fun _ => true) isPeer
      remoteDo w l.p false (.remoteWrite (ePeer l.p.entry)) bs)

/-- The operand of `fab.atom`: the A element, or the C immediate. -/
def atomOperand (w : Who) (r : Rec) (u : Run) : M Nat := do
  if opnd r.a = .mem then
    let (x, _) ← engRead w (u.h 1) (u.at r.a) false copySpace
    return x
  else return immOf r.c

/-- One remote atomic (R323); the message carries R219's code. A release waits as R137 states and is numbered in the agent's clock, a
compare-and-swap where it writes, which the issuer does not learn: a free bit (R219; notes/assumptions/34.md). -/
def fabAtomIssue (r : Rec) (c : Nat) (e : Eng) (u : Run) : M Run := whole do
  let w := engWho (← get) c e
  let l ← locate w (u.h 0) (u.at r.d) .atomic false (fun t => t == 0x44 || t == 0x45) isPeer
  let rel := bitAt r.opx.val 4
  let op := r.opx.val % 16
  let n := 2 ^ esizeBits l.p.tag
  let x ← if unsent u.ans then atomOperand w r u else pure 0
  if rel && unsent u.ans then performRelease w (if bitAt r.opx.val 5 then .system else .domain)
  remoteDo w l.p rel (fun m => .remoteAtomic (ePeer l.p.entry) m (op + 2) (BitVec.ofNat 64 (x % n)) (BitVec.ofNat 64 (immOf r.c % n))) []
  modify fun s => if rel && (op != 9 || Config.freeBit s.freeCtr 219) then (releasePass w.agent s).1 else s
  return u.next

/-- Word 0 of request record number `n` of a core. -/
def reqWord (s : State) (c : Nat) (e : Eng) (r : Rec) (n : Nat) : Nat :=
  1 + immOf r.c % 256 * 2 ^ 8 + bitsAt s.dmr.toNat 0 10 * 2 ^ 16 + c * 2 ^ 26 + streamNo (engStream e) * 2 ^ 36 + n * 2 ^ 39

/-- A `fab.req` issue takes its number as it first sends. -/
def takeSeq (c : Nat) (e : Eng) (s : State) : State :=
  let n := (s.core c).reqSeq
  mapRun c e (fun v => { v with carry := [0, n] }) (s.setCore c { s.core c with reqSeq := (n + 1) % 2 ^ 25 })

/-- `fab.req`: words 1 to 7 as remote writes; when they are acknowledged, a remote release of word 0 at scope domain. `carry` holds the half that
is under way and the issue's number. -/
def fabReqIssue (r : Rec) (c : Nat) (e : Eng) (u : Run) : M Run := do
  let w := engWho (← get) c e
  let ca := u.at r.a
  let l ← locate w (u.h 0) (u.at r.d) .store false int64Tag isPeer
  needM (l.p.addr % 64 == 0) .align (tinfo l.p.addr 6 0)
  if nth 0 u.carry 0 = 0 then
    let bs ← if unsent u.ans then do
        dry (forList (fun j => checkRead w (u.h 1) (along ca j) 0x45 false copySpace) (List.range 7))
        beatBytes w (u.h 1) ca 0x45 (List.range 7)
      else pure []
    if u.carry = [] then modify (takeSeq c e)
    let n := nth 0 ((((← get).seqOf c e).run.map (·.carry)).getD u.carry) 1
    remoteDo w { l.p with addr := l.p.addr + 8 } false (.remoteWrite (ePeer l.p.entry)) bs
    return { u with carry := [1, n], ans := .none }
  else
    if unsent u.ans then performRelease w .domain
    let s ← get
    remoteDo w l.p true (.remoteWrite (ePeer l.p.entry)) (leBytes 8 (reqWord s c e r (nth 0 u.carry 1)))
    modify fun s => (releasePass w.agent s).1
    return { u.next with carry := [] }

/-! ## Collectives (R325, R326) -/

def chunkOf (s : State) (k : Nat) : Chunk := look ⟨0, false⟩ s.chunks k
def setChunk (k : Nat) (x : Chunk) (s : State) : State := { s with chunks := put s.chunks k x }
def collMode (r : Rec) : Nat := r.opx.val % 4
def collChunk (r : Rec) : Nat := bitsAt (immOf r.c) 0 12
def collMember (r : Rec) : Nat := bitsAt (immOf r.c) 12 8
def collG (r : Rec) : Nat := bitsAt (immOf r.c) 20 8 + 1
def collTag (t : Nat) : Bool := t == 0x44 || t == 0x82 || t == 0x80 || t == 0x81

/-- Issues before `n` of a collective that have bytes to send, so its chunks' numbers: an issue with W = 0 has no beat and announces no chunk
(R304, R388). -/
def collRank (u : Run) (h : Handle) (d : Desc) (n : Nat) : Nat :=
  ((List.range n).filter fun k => decide (0 < windowRun h (coordOf d (recOf' u.instr).levels.val (indices k u.tc)))).length

/-- The entry of `fab.coll` in modes 1 and 2: the message is announced with one chunk per issue that sends (notes/assumptions/27.md). -/
def fabCollEntry (r : Rec) (c : Nat) (e : Eng) (u : Run) : M Run := do
  if collMode r = 1 ∨ collMode r = 2 then
    let s ← get
    let k := r.spare.val % 16
    let x := slotOf s c k
    let m := peerOf s (engWho s c e) (u.h 0)
    if x.st = .withdrawn then withdrawn c k m
    needM (x.st == .free) .permission
    let f := u.flagLoc.bind fun l => if l.p.space = 6 then some (remoteAcc s (engWho s c e) l.p (leBytes 8 1) true) else none
    set (announce c k { Slot.reset with
      st := .sending, stream := streamNo (engStream e), mods := [m], len := collRank u (u.h 0) r.d (Nat.min u.total 4096) * 65536
      prio := bitsAt r.opx.val 4 3, coll := true, flag := f } s)
    return u.withSending (.fresh (nextEpoch x) 0 0)
  else return u

/-- The checks of every mode: MEMBER at the first issue, chunk number and run length at each. -/
def collChecks (r : Rec) (u : Run) (w : Int) (bits : Nat) : M Unit := do
  needM (u.n != 0 || decide (collMember r < collG r)) .bounds
  needM (decide (collChunk r + u.n ≤ 4095 ∧ runBytes w.toNat bits ≤ 65536)) .bounds

/-- SEED and a complete COMMIT: the D run from the A run, as by `ce.cp`. -/
def collCopy (r : Rec) (c : Nat) (e : Eng) (u : Run) : M Run := do
  let w := engWho (← get) c e
  let hd := u.h 0
  let ha := u.h 1
  let cd := u.at r.d
  let ca := u.at r.a
  beatStep u (windowRun hd cd) (esizeBits (hFmt hd))
    (fun j => do
      let _ ← locate w ha (along ca j) .load false collTag copySpace
      checkRead w ha (along ca j) (hFmt hd) false copySpace
      checkWrite w hd (along cd j) (hFmt ha) copySpace)
    (fun js => do
      let xs ← mapList (fun j => copyRead w ha (along ca j) (hFmt hd) false false copySpace) js
      forList (fun x : Nat × Nat => engWrite w hd (along cd x.1) x.2 copySpace) (js.zip xs))

/-- Has the issue no run to move? It then does nothing (R304). -/
def emptyRun (r : Rec) (u : Run) : Bool := windowRun (u.h 0) (u.at r.d) == 0

def fabCollSeedIssue (r : Rec) (c : Nat) (e : Eng) (u : Run) : M Run := whole do
  collChecks r u (windowRun (u.h 0) (u.at r.d)) (esizeBits (hFmt (u.h 0)))
  if emptyRun r u then return u.next
  let v ← collCopy r c e u
  if v.n ≠ u.n then modify (setChunk (collChunk r + u.n) ⟨2 ^ collMember r, false⟩)
  return v

/-- The header of a chunk leaves: the sent map and the sent CONFLICT are read, at its first beat and at the first after a restart. One that lacks
this module's contribution is not sent (R325). -/
def sentMap (c : Nat) (e : Eng) (ck member : Nat) (v : Run) : M Sending := do
  let g := v.sending
  if g.map ≠ 0 then return g
  else
    let x := chunkOf (← get) ck
    needM (bitAt x.map member) .bounds
    let g := { g with map := x.map + 1, conf := x.conflict }
    modify (mapRun c e fun v => v.withSending g)
    return g

/-- One beat of a chunk of `fab.coll` in modes 1 and 2 (R325). -/
def collSend (r : Rec) (c : Nat) (e : Eng) (u : Run) : M Run := do
  let w := engWho (← get) c e
  let k := r.spare.val % 16
  let hd := u.h 0
  let ha := u.h 1
  let cd := u.at r.d
  let ca := u.at r.a
  let run := windowRun hd cd
  let bits := esizeBits (hFmt hd)
  let ck := collChunk r + u.n
  collChecks r u run bits
  let n := collRank u hd r.d u.n
  let v ← beatStep u run bits (fun j => do
      let _ ← locate w ha (along ca j) .load false collTag copySpace
      checkSend w ha hd ca cd j) fun js => do
    let x := slotOf (← get) c k
    if unsent u.ans then
      if x.st = .withdrawn ∧ x.epoch = u.sending.epoch then withdrawn c k (nth 0 x.mods 0)
      needM (slotMine x u e || u.sending.cur == n + 1) .tokenExpired (k + peerOf (← get) w hd * 2 ^ 4)
      if slotMine x u e then needToken c k n
    let bs ← if unsent u.ans then beatRead c e (beatBytes w ha ca (hFmt hd) js) else pure []
    let g ← sentMap c e ck (collMember r) (((← get).seqOf c e).run.getD u)
    if unsent u.ans then
      if slotMine x u e then useToken c k n
      modify (mapRun c e fun v => v.withSending { v.sending with cur := n + 1 })
    let l ← locate w hd (along cd (nth 0 js 0)) .store false (fun _ => true) isPeer
    remoteDo w l.p false (fun m =>
      .chunk (ePeer l.p.entry) c k g.epoch n ⟨expiryOf x n, [m], some ⟨collMode r == 2, bitsAt r.opx.val 2 2, ck, g.map - 1, g.conf⟩,
        decide (run.toNat ≤ nth 0 js (js.length - 1) + 1)⟩) bs k
  let g := (((← get).seqOf c e).run.map (·.sending)).getD u.sending
  modify fun s =>
    let x := slotOf s c k
    if slotMine x u e then setSlot c k { x with moved := if v.n = u.n then n * 65536 + v.beat * 512 else collRank u hd r.d v.n * 65536 } s else s
  return v.withSending (if v.n = u.n then g else { g with map := 0, conf := false })

def fabCollReduceIssue (r : Rec) (c : Nat) (e : Eng) (u : Run) : M Run := collSend r c e u
def fabCollPutIssue (r : Rec) (c : Nat) (e : Eng) (u : Run) : M Run := collSend r c e u

/-- Does a record of a collective send chunk `k`: its header has left, and its last beat, which is read as it is sent, has not been? -/
def Run.sendsChunk (u : Run) (r : Rec) (k : Nat) : Bool :=
  let bits := esizeBits (hFmt (u.h 0))
  let lastSent := !unsent u.ans && decide ((windowRun (u.h 0) (u.at r.d)).toNat ≤ (u.beat + 1) * beatLen bits)
  collChunk r + u.n == k && u.phase == .issue && u.sending.map != 0 && !lastSent

/-- Is chunk `k` being sent by this module (R325)? -/
def collSending (s : State) (k : Nat) : Bool :=
  s.cores.any fun c => c.2.seqs.any fun q => match q.2.run with
    | some u => (match u.instr with
      | .fabCollReduce r => u.sendsChunk r k
      | .fabCollPut r => u.sendsChunk r k
      | _ => false)
    | none => false

/-- COMMIT: a complete chunk without conflict is copied; another is counted missing, its number with CONFLICT in bit 12. -/
def fabCollCommitIssue (r : Rec) (c : Nat) (e : Eng) (u : Run) : M Run := whole do
  collChecks r u (windowRun (u.h 0) (u.at r.d)) (esizeBits (hFmt (u.h 0)))
  if emptyRun r u then return u.next
  let k := collChunk r + u.n
  let x := chunkOf (← get) k
  if 0 < u.beat ∨ (x.map = 2 ^ collG r - 1 ∧ x.conflict = false) then collCopy r c e u
  else return { u.next with miss := u.miss ++ [k + b2n x.conflict * 4096] }

/-- The COLL_INFO image of missing chunks (R326). -/
def collImage (miss : List Nat) : Nat :=
  (least (miss.map (· % 4096))).getD 0 + miss.length * 2 ^ 12 + b2n (miss.any fun m => decide (4096 ≤ m)) * 2 ^ 25

def fabCollCommitDone (_ : Rec) (c : Nat) (_ : Eng) (u : Run) : M Run := do
  if !u.miss.isEmpty then
    modify fun s => s.setCore c { s.core c with collInfo := BitVec.ofNat 64 (collImage u.miss) }
    trapM .collectivePartial (collImage u.miss)
  return u

/-! ## The seam check (R327, R328) -/

/-- The product with x in GF(2^64). -/
def gfX (a : Nat) : Nat := if bitAt a 63 then (a * 2 % 2 ^ 64) ^^^ 0x1B else a * 2
/-- The product in GF(2^64) modulo x^64 + x^4 + x^3 + x + 1; `n` low bits of `b` are left. -/
def gfMulLoop : Nat → Nat → Nat → Nat → Nat
  | 0, _, _, acc => acc
  | n + 1, a, b, acc => gfMulLoop n (gfX a) (b / 2) (if b % 2 = 1 then acc ^^^ a else acc)
def gfMul (a b : Nat) : Nat := gfMulLoop 64 (a % 2 ^ 64) b 0

/-- H1, H2 and N. -/
structure Seam where
  h1 : Nat
  h2 : Nat
  n  : Nat
deriving DecidableEq, Repr, Inhabited

/-- One word folded into the accumulator (R327). -/
def seamFold (a : Seam) (w : Nat) : Seam :=
  ⟨gfMul (a.h1 ^^^ w) Config.seamK1, gfMul (a.h2 ^^^ w) Config.seamK2, (a.n + 1) % 2 ^ 48⟩

def seamOf (s : State) (c : Nat) : Seam := ⟨(s.core c).seamH1.toNat, (s.core c).seamH2.toNat, (s.core c).seamN⟩
def setSeam (c : Nat) (a : Seam) (s : State) : State :=
  s.setCore c { s.core c with seamH1 := BitVec.ofNat 64 a.h1, seamH2 := BitVec.ofNat 64 a.h2, seamN := a.n }

/-- ACCUM: a run's bytes folded as words when the issue completes. -/
def fabSeamAccumIssue (r : Rec) (c : Nat) (e : Eng) (u : Run) : M Run := whole do
  let w := engWho (← get) c e
  let h := u.h 1
  let ca := u.at r.a
  let tag := hFmt h
  let n := windowRun h ca
  needM (decide (0 ≤ n)) .bounds (tinfo 0 0 3)
  let js := List.range n.toNat
  dry (forList (fun j => checkRead w h (along ca j) tag false copySpace) js)
  let xs ← mapList (fun j => copyRead w h (along ca j) tag false false copySpace) js
  let bytes := packCodes (esizeBits tag) xs
  modify fun s =>
    let a := if r.clr && u.n == 0 then ⟨0, 0, 0⟩ else seamOf s c
    setSeam c ((List.range ((runBytes js.length (esizeBits tag) + 7) / 8)).foldl (fun a k => seamFold a (bytes / 2 ^ (64 * k) % 2 ^ 64)) a) s
  return u.next

/-- The module digest over the named cores (R328). -/
def seamDigest (s : State) (cores : List Nat) : Nat × Nat :=
  cores.foldl (fun d c =>
    let a := seamOf s c
    (gfMul (gfMul (d.1 ^^^ a.h1) Config.seamK1 ^^^ a.n) Config.seamK1, gfMul (gfMul (d.2 ^^^ a.h2) Config.seamK2 ^^^ a.n) Config.seamK2)) (0, 0)

def ringV (s : State) : Bool := bitAt s.fabRing.toNat 52
def ringPos (s : State) : Nat := bitsAt s.fabRing.toNat 0 8
def ringSize (s : State) : Nat := bitsAt s.fabRing.toNat 8 8 + 1
def ringSucc (s : State) : Nat := bitsAt s.fabRing.toNat 16 10
def ringPred (s : State) : Nat := bitsAt s.fabRing.toNat 26 10
def ringTmo (s : State) : Nat := bitsAt s.fabRing.toNat 36 16

/-- A VOTE while no ring is configured raises PERMISSION at entry (R391). -/
def fabSeamEntry (r : Rec) (_ : Nat) (_ : Eng) (u : Run) : M Run := do
  let s ← get
  needM (r.opx.val % 2 == 0 || ringV s) .permission
  return u

/-- VOTE: the digest is sent, and the result awaited (R328, R392). -/
def fabSeamVoteIssue (r : Rec) (c : Nat) (e : Eng) (u : Run) : M Run := do
  let s ← get
  let w := engWho s c e
  let step := immOf r.c % 2 ^ 32
  if u.carry = [] then
    if s.voting.isSome then waitM .vote
    let k := u.at r.b
    dry (forList (fun j => checkRead w (u.h 2) (along k j) 0x43 false copySpace) (List.range 128))
    let xs ← mapList (fun j => copyRead w (u.h 2) (along k j) 0x43 false false copySpace) (List.range 128)
    let m := packCodes 8 xs
    let (d1, d2) := seamDigest (← get) ((List.range 1024).filter fun c => bitAt m c)
    let v : VoteInfo := ⟨step, BitVec.ofNat 64 d1, BitVec.ofNat 64 d2, ringPos s⟩
    modify fun s =>
      let s := emit (.vote (ringSucc s) v) { s with voting := some (c, streamNo (engStream e), step, s.time), voteRes := del s.voteRes w.agent }
      let s := if ringPos s = 0 then { s with votes := s.votes ++ [v] } else s
      setRun c e (some { u with carry := [1], ans := .none }) s
    waitM .vote
  else
    match find s.voteRes w.agent with
    | none => waitM .vote
    | some (k, d, mask) =>
      if k ≠ step then waitM .vote
      set { s with voteRes := del s.voteRes w.agent }
      match d with
      | .missing => return { u.next with miss := [1] }
      | .noMajority => return { u.next with miss := [2] }
      | .allAgree => return { u.next with miss := if bitAt mask (ringPos s) then [2] else [] }

/-- The result takes its effect at the VOTE's completion step: a missing digest raises COLLECTIVE_PARTIAL, a minority or no majority
DIVERGENCE with the step number (R328, R361; of DIVERGENCE R361 says only `the VOTE`: notes/assumptions/25.md). -/
def fabSeamVoteDone (r : Rec) (_ : Nat) (_ : Eng) (u : Run) : M Run :=
  match u.miss with
  | [] => return u
  | 1 :: _ => trapM .collectivePartial
  | _ => trapM .divergence (immOf r.c % 2 ^ 32)

def execFabPint (r : Rec) : State → Out := issueOp (.fabPint r) (fabPintIssue r)
def execFabSend (r : Rec) : State → Out := issueOp (.fabSend r) (fabSendIssue r)
def execFabWr (r : Rec) : State → Out := issueOp (.fabWr r) (fabWrIssue r)
def execFabAtom (r : Rec) : State → Out := issueOp (.fabAtom r) (fabAtomIssue r)
def execFabReq (r : Rec) : State → Out := issueOp (.fabReq r) (fabReqIssue r)
def execFabCollSeed (r : Rec) : State → Out := issueOp (.fabCollSeed r) (fabCollSeedIssue r)
def execFabCollReduce (r : Rec) : State → Out := issueOp (.fabCollReduce r) (fabCollReduceIssue r)
def execFabCollPut (r : Rec) : State → Out := issueOp (.fabCollPut r) (fabCollPutIssue r)
def execFabCollCommit (r : Rec) : State → Out := issueOp (.fabCollCommit r) (fabCollCommitIssue r)
def execFabSeamAccum (r : Rec) : State → Out := issueOp (.fabSeamAccum r) (fabSeamAccumIssue r)
def execFabSeamVote (r : Rec) : State → Out := issueOp (.fabSeamVote r) (fabSeamVoteIssue r)
def execFabMcast (r : Rec) : State → Out := issueOp (.fabMcast r) (fabMcastIssue r)
def execFabPrio (r : Rec) : State → Out := issueOp (.fabPrio r) (fabPrioIssue r)
def execFabTkr (r : Rec) : State → Out := issueOp (.fabTkr r) (fabTkrIssue r)

end Sys2Proof.Machine
end

