-- ==== Sys2Proof/Machine/Legal.lean ====
section
/-! DEFINITION. The head check of records (R177-R184, R248, R276, R302): which field values an operation admits, and which streams
accept it. -/
namespace Sys2Proof.Machine

/-! ## What an operation uses -/

/-- The fields an operation admits: roles of its slots, whether RND, SAT, CLR, CONJ and TRN are used, its greatest LEVELS, ACCF, OPX
and SPARE values by mask, and what further binds it. -/
structure OpUse where
  d      : List Opnd := [.absent]
  a      : List Opnd := [.absent]
  b      : List Opnd := [.absent]
  c      : List Opnd := [.absent]
  levels : Nat := 4
  rnd    : Bool := false
  sat    : Bool := false
  accf   : List Nat := [0]
  clr    : Bool := false
  conj   : Bool := false
  trn    : Bool := false
  opx    : Nat := 0
  spare  : Nat := 0
  more   : Rec → Bool := fun _ => true

/-- Are all bits of `x` among those of a mask? -/
def within (x mask : Nat) : Bool := x &&& mask == x

/-- An amax choice: OPX[5:0] and OPX[7] are zero without OPX[6]. -/
def amaxOpx (r : Rec) : Bool := bitAt r.opx.val 6 || r.opx.val == 0

/-- An immediate below a bound, where the C slot is one. -/
def immBelow (r : Rec) (n : Nat) : Bool := opnd r.c != .imm || decide (immOf r.c < n)

/-- A used WOP is 0 to 3 (R276). -/
def wopOk (r : Rec) : Bool := decide (r.spare.val % 8 ≤ 3)

/-- BS, at an OPX bit, needs a B of ROLE 0 (R272). -/
def bsOk (r : Rec) (k : Nat) : Bool := !bitAt r.opx.val k || opnd r.b == .mem

/-- The second operand is B or, where B is absent, an immediate C (R276). -/
def secondOk (r : Rec) : Bool := (opnd r.b != .absent) != (opnd r.c != .absent)

def vD : List Opnd := [.mem, .tile]
def vA : List Opnd := [.mem, .queue, .tile]
def maybeImm : List Opnd := [.absent, .imm]

/-- ME operations (R248). -/
def meMac (accf : List Nat) (conj : Bool) : OpUse where
  d := [.tile]
  a := [.mem, .queue]
  c := maybeImm
  sat := true
  accf := accf
  clr := true
  conj := conj
  trn := true
  spare := 1
  more := fun r => opnd r.a != .queue || (!r.trn && opnd r.c == .absent)

def meDrain (bound : Nat) : OpUse where
  d := [.mem]
  a := [.tile]
  c := maybeImm
  rnd := true
  sat := true
  opx := 0xFF
  more := fun r => amaxOpx r && immBelow r bound && (opnd r.c != .imm || decide (bitsAt (immOf r.c) 32 9 ≤ 256))

def meImm (bound : Nat) : OpUse where
  c := [.imm]
  levels := 0
  more := fun r => immBelow r bound

/-- VE two-operand operations: B or an immediate C. -/
def veTwo (rnd sat conj : Bool) : OpUse where
  d := vD
  a := vA
  b := .absent :: vA
  c := maybeImm
  rnd := rnd
  sat := sat
  conj := conj
  opx := 1
  spare := 7
  more := fun r => bsOk r 0 && secondOk r && wopOk r

def veOne (rnd sat : Bool) : OpUse where
  d := vD
  a := vA
  rnd := rnd
  sat := sat
  spare := 7
  more := wopOk

def veConv : OpUse where
  d := vD
  a := vA
  c := maybeImm
  rnd := true
  sat := true
  opx := 0xFF
  spare := 0xF
  more := fun r => amaxOpx r && wopOk r && immBelow r (2 ^ 32)

def veRed (opx : Nat) : OpUse where
  d := [.mem]
  a := vA
  rnd := true
  sat := true
  clr := true
  opx := opx

/-- Local copies: a run length within `bound` (R303). -/
def ceCopy (d : Opnd) (bound spare : Nat) : OpUse where
  d := [d]
  a := [.mem]
  c := maybeImm
  conj := true
  trn := true
  opx := 1
  spare := spare
  more := fun r => immBelow r bound

/-- B of a stash record: DMAP and strides zero (R312). -/
def statusOk (r : Rec) : Bool :=
  opnd r.b != .mem || (r.b.dmap.val == 0 && r.b.st0 == 0 && r.b.st1 == 0 && r.b.st2 == 0 && r.b.st3 == 0)

def stash (d a : List Opnd) (levels opx : Nat) : OpUse where
  d := d
  a := a
  b := [.absent, .mem]
  c := [.imm]
  levels := levels
  opx := opx
  more := fun r => statusOk r && immBelow r 65536

def fabColl (slot : Bool) : OpUse where
  d := [.mem]
  a := [.mem]
  c := [.imm]
  opx := 0x7F
  spare := if slot then 15 else 0
  more := fun r => bitsAt r.opx.val 2 2 != 3 && immBelow r (2 ^ 28)

/-- The fields each record operation admits. Control instructions and events have none. -/
def useOf : Instr → Option OpUse
  | .meMma _ => some (meMac [0, 1, 2, 3] false)
  | .meCmma _ => some (meMac [0, 3] true)
  | .meClr _ => some { d := [.tile], levels := 0, accf := [0, 1, 2, 3], opx := 1, more := fun r => r.opx.val == 0 || r.accf.val == 0 || r.accf.val == 3 }
  | .meBld _ => some { b := [.mem], c := [.imm], levels := 0, conj := true, opx := 0xFF, spare := 1, more := fun r => decide (r.opx.val ≤ 128 ∧ immOf r.c ≤ 256) }
  | .meDrn _ => some (meDrain (2 ^ 41))
  | .meDrq _ => some (meDrain (2 ^ 32))
  | .meFragLend _ => some (meImm (2 ^ 17))
  | .meFragReclaim _ => some (meImm (2 ^ 17))
  | .meAld _ => some { d := [.tile], a := [.mem] }
  | .meAst _ => some { d := [.mem], a := [.tile] }
  | .meSbw _ => some (meImm (2 ^ 16))
  | .veAdd _ => some (veTwo false true false)
  | .veSub _ => some (veTwo false true false)
  | .veMul _ => some (veTwo false true false)
  | .veMin _ => some (veTwo false false false)
  | .veMax _ => some (veTwo false false false)
  | .veAnd _ => some (veTwo false false false)
  | .veOr _ => some (veTwo false false false)
  | .veXor _ => some (veTwo false false false)
  | .veShl _ => some (veTwo false false false)
  | .veShr _ => some (veTwo false false false)
  | .veAbs _ => some (veOne false true)
  | .veFadd _ => some (veTwo true true true)
  | .veFsub _ => some (veTwo true true true)
  | .veFmul _ => some (veTwo true true true)
  | .veFma _ => some { d := vD, a := vA, b := vA, c := .imm :: vA, rnd := true, sat := true, conj := true, opx := 1, spare := 7, more := fun r => bsOk r 0 && wopOk r }
  | .veFmin _ => some (veTwo true true false)
  | .veFmax _ => some (veTwo true true false)
  | .veFabs _ => some (veOne false false)
  | .veFneg _ => some (veOne false false)
  | .veExp2 _ => some (veOne true true)
  | .veLog2 _ => some (veOne true true)
  | .veRcp _ => some (veOne true true)
  | .veRsqrt _ => some (veOne true true)
  | .veSqrt _ => some (veOne true true)
  | .veTanh _ => some (veOne true true)
  | .veSin _ => some (veOne true true)
  | .veCos _ => some (veOne true true)
  | .veCvt _ => some veConv
  | .veQuant _ => some { d := [.mem], a := vA, b := [.mem], rnd := true, sat := true, opx := 0x7F, spare := 8, more := amaxOpx }
  | .veDequant _ => some veConv
  | .veAmax _ => some { a := vA, opx := 0x3F }
  | .veRsum _ => some (veRed 0)
  | .veRmax _ => some (veRed 1)
  | .veRmin _ => some (veRed 1)
  | .veScan _ => some { d := vD, a := vA, rnd := true, sat := true, clr := true }
  | .veRsumsq _ => some (veRed 0)
  | .veCmp _ => some { d := [.mem], a := vA, b := .absent :: vA, c := maybeImm, opx := 0xF, more := fun r => bsOk r 3 && secondOk r && r.opx.val % 8 != 7 }
  | .veSel _ => some { d := vD, a := vA, b := vA, c := [.mem] }
  | .veAcs _ => some { d := vD, a := vA, b := vA, c := vA, rnd := true, sat := true, opx := 3, more := fun r => bsOk r 1 }
  | .vePerm _ => some { d := vD, a := vA, b := [.mem, .queue] }
  | .veTrn _ => some { d := [.mem], a := [.mem], conj := true }
  | .veBcast _ => some { d := vD, a := [.mem, .absent], c := maybeImm, spare := 7, more := fun r => wopOk r && (opnd r.a == .absent) == (opnd r.c == .imm) }
  | .veGath _ => some { d := vD, a := [.mem], b := [.mem, .queue] }
  | .veScat _ => some { d := [.mem], a := vA, b := [.mem, .queue], spare := 7, more := wopOk }
  | .veRng _ => some { d := vD, c := maybeImm, opx := 3, more := fun r => r.opx.val != 3 && (r.opx.val == 2) == (opnd r.c == .imm) && immBelow r (2 ^ 32) }
  | .veIota _ => some { d := vD, c := [.imm], rnd := true, sat := true }
  | .ceCp _ => some (ceCopy .mem 65537 0)
  | .ceLq _ => some (ceCopy .queue (2 ^ 13) 0)
  | .ceFill _ => some { d := [.mem], c := maybeImm }
  | .ceOvl _ => some { a := [.mem], c := [.imm], levels := 0, spare := 3, more := fun r => immBelow r 0xFFF }
  | .ceFlag _ => some { d := [.mem], c := maybeImm, levels := 0 }
  | .ceCpx _ => some (ceCopy .mem 65537 0x3F)
  -- LEN 0 makes the record illegal: DESIGN CHOICE, R317 gives the range 1 to 2^32 - 1 and no cause (notes/assumptions/59.md).
  | .fabPint _ => some { d := [.mem], c := [.imm], levels := 0, spare := 15, more := fun r => immBelow r (2 ^ 44) && immOf r.c % 2 ^ 32 != 0 }
  | .fabSend _ => some { d := [.mem], a := [.mem], c := [.imm], spare := 15, more := fun r => immBelow r (2 ^ 58) && immOf r.c % 2 ^ 32 == 0 && decide (bitsAt (immOf r.c) 44 14 ≤ 8192) }
  | .fabWr _ => some { d := [.mem], a := [.mem] }
  -- Ops 0 to 8 with A and C both absent take 0, and with both present take A: DESIGN CHOICE, R302 and R323 do not say (notes/assumptions/59.md).
  | .fabAtom _ => some { d := [.mem], a := [.mem, .absent], c := maybeImm, opx := 0x3F, more := fun r => decide (r.opx.val % 16 ≤ 9) && (r.opx.val % 16 != 9 || (opnd r.a == .mem && opnd r.c == .imm)) }
  | .fabReq _ => some { d := [.mem], a := [.mem], c := [.imm], more := fun r => immBelow r 256 }
  | .fabCollSeed _ => some (fabColl false)
  | .fabCollReduce _ => some (fabColl true)
  | .fabCollPut _ => some (fabColl true)
  | .fabCollCommit _ => some (fabColl false)
  | .fabSeamAccum _ => some { a := [.mem], clr := true, opx := 1 }
  | .fabSeamVote _ => some { b := [.mem], c := [.imm], levels := 0, opx := 1, more := fun r => immBelow r (2 ^ 32) }
  | .fabMcast _ => some { d := [.mem], a := [.mem], opx := 7, spare := 0x3F }
  | .fabPrio _ => some { c := [.imm], levels := 0, more := fun r => immBelow r (2 ^ 19) }
  | .fabTkr _ => some { levels := 0, spare := 15 }
  | .stashPut _ => some (stash [.absent] [.mem] 4 0)
  | .stashGet _ => some (stash [.mem] [.absent] 4 1)
  | .stashDrop _ => some (stash [.absent] [.absent] 0 0)
  | .stashPf _ => some { c := [.imm], levels := 0, more := fun r => immBelow r (2 ^ 28) }
  | _ => none

/-! ## The common fields (R177-R181) -/

/-- A field whose top bit is its valid bit: zero where invalid (R178). -/
def validField (x top : Nat) : Bool := decide (top ≤ x) || x == 0

/-- w1's token and semaphore fields. -/
def syncOk (r : Rec) : Bool := validField r.tpop.val 8 && validField r.tpush.val 8 && validField r.swait.val 32 && validField r.ssig.val 32

/-- Trip counts (R179). -/
def tripsOk (r : Rec) : Bool := (List.range 4).all fun k =>
  let x := tcField r k
  if r.levels.val ≤ k then x == 0 else !bitAt x 15 || bitsAt x 4 11 == 0

/-- Queues by engine: ME 2, VE 4, CE destinations 6 (R181). -/
def queuesOf (engine : Nat) : Nat := if engine = 1 then 2 else if engine = 2 then 4 else 6

/-- The descriptor's own rules (R181). -/
def descOk (engine : Nat) (d : Desc) : Bool :=
  let moves := d.dmap.val == 0 && d.st0 == 0 && d.st1 == 0 && d.st2 == 0 && d.st3 == 0
  match opnd d with
  | .absent => d.hnd.val == 0 && d.org.val == 0 && moves
  | .mem => true
  | .queue => decide (d.hnd.val < queuesOf engine) && d.org.val == 0 && moves
  | .tile => d.hnd.val == 0
  | .imm => d.hnd.val == 0 && d.org.val == 0 && d.dmap.val == 0
  | .bad => false

/-- The fields of a record of engines 1 to 4 against what its operation admits. -/
def fieldsOk (u : OpUse) (engine : Nat) (r : Rec) : Bool :=
  (if u.rnd then decide (r.rnd.val ≤ 4) else r.rnd.val == 0) && (u.sat || !r.sat) && u.accf.contains r.accf.val &&
  decide (r.levels.val ≤ u.levels) && (u.clr || !r.clr) && (u.conj || !r.conj) && (u.trn || !r.trn) &&
  within r.opx.val u.opx && within r.spare.val u.spare && !r.bind && syncOk r && tripsOk r &&
  descOk engine r.d && descOk engine r.a && descOk engine r.b && descOk engine r.c &&
  u.d.contains (opnd r.d) && u.a.contains (opnd r.a) && u.b.contains (opnd r.b) && u.c.contains (opnd r.c) && u.more r

/-! ## Sequencer records (R184) -/

/-- A record with every field zero that sequencer records leave unused. -/
def seqBlank (r : Rec) : Rec := { (default : Rec) with tpop := r.tpop, tpush := r.tpush, swait := r.swait, ssig := r.ssig, tc0 := r.tc0, tc2 := r.tc2 }

/-- The target of a sequencer branch at `pc`. -/
def seqTarget (pc : Nat) (r : Rec) : Int := (pc : Int) + 64 * r.tc0.toInt

def targetOk (pc : Nat) (r : Rec) : Bool := decide (0 ≤ seqTarget pc r ∧ seqTarget pc r < 262144)

/-- The head check of a sequencer record. -/
def seqOk (i : Instr) (pc : Nat) (r : Rec) : Bool :=
  r == seqBlank r && syncOk r &&
  match i with
  | .seqEnd _ => r.tc0 == 0 && r.tc2 == 0 && r.tpop.val == 0 && r.tpush.val == 0 && r.swait.val == 0 && r.ssig.val == 0
  | .seqWait _ => r.tc0 == 0 && r.tc2 == 0
  | .seqJmp _ => r.tc2 == 0 && targetOk pc r
  | _ => decide (r.tc2.toNat < 16) && targetOk pc r

/-! ## The head check (R182) -/

/-- Does a stream accept an engine's records? CES does not accept `ce.lq`. -/
def accepts (e : Eng) (engine : Nat) (i : Instr) : Bool :=
  engine == 0 ||
  (match e with
    | .me => engine == 1
    | .ve => engine == 2
    | .cel => engine == 3 || engine == 4
    | .ces => (engine == 3 || engine == 4) && (match i with | .ceLq _ => false | _ => true))

/-- The head check of a record at `pc` of a sequencer. -/
def recordLegal (e : Eng) (pc : Nat) (i : Instr) : Bool :=
  match i.record? with
  | none => false
  | some (engine, _, r) =>
    accepts e engine i && (if engine = 0 then seqOk i pc r else match useOf i with
      | some u => fieldsOk u engine r
      | none => false)

end Sys2Proof.Machine
end

