-- ==== Sys2Proof/Machine/Me.lean ====
section
/-! DEFINITION. The matrix engine (R244-R268): accumulator tiles, B banks, multiply-accumulate, drains, and lending of units to the VE. -/
namespace Sys2Proof.Machine

/-! ## Tiles (R244-R246) -/

/-- Units of a tile format, 0 for a tag that is none. -/
def unitsOf (f : Nat) : Nat :=
  match f with
  | 0x80 => 1 | 0x81 => 1 | 0x82 => 2 | 0x83 => 4 | 0xC0 => 4 | 0xC1 => 8 | _ => 0

/-- Byte offset of a tile element in accumulator memory; the placement is the model's (notes/assumptions/16.md). -/
def accOff (t f row col : Nat) : Nat := t * 32768 + (row * 256 + col) * esizeBytes f

/-- A checked tile position. -/
structure TilePos where
  t   : Nat
  f   : Nat
  row : Nat
  col : Nat
deriving DecidableEq, Repr, Inhabited

/-- The tag of a unit. -/
def unitTagOf (s : State) (c u : Nat) : Nat := look 0 (s.core c).unitTag u
/-- The tag of a unit as the ME reads it: behind its own results in flight (R126). -/
def unitTagMe (s : State) (c u : Nat) : Nat :=
  (s.core c).flight.foldl (fun g r => match r.dest with
    | .tag v t => if v = u ∧ r.stream = 2 then t else g
    | _ => g) (unitTagOf s c u)
def unitLent (s : State) (c u : Nat) : Bool := bitAt (s.core c).lent u
def tileUnits (t f : Nat) : List Nat := (List.range (unitsOf f)).map fun k => t + k

/-- The checks of R245: `wide` where the issue acts on whole rows and the column is 0. They are made of a run of no columns too: DESIGN CHOICE
(notes/assumptions/59.md). -/
def tileCoord (t f : Nat) (c : Coord) (wide : Bool) : Chk TilePos := do
  let u := unitsOf f
  need (decide (t ≤ 15) && u != 0 && t % u == 0 && decide (t + u ≤ 16)) .bounds
  need (nth 0 c 2 == 0 && nth 0 c 3 == 0) .bounds
  let r := nth 0 c 0 - t
  need (decide (0 ≤ r ∧ r ≤ 63 ∧ 0 ≤ nth 0 c 1 ∧ nth 0 c 1 ≤ 255)) .bounds
  need (!wide || nth 0 c 1 == 0) .bounds
  return ⟨t, f, r.toNat, (nth 0 c 1).toNat⟩

/-- A writing issue's tile: coordinates first, then lent units, then unit tags (R245, R246; notes/assumptions/23.md). -/
def tileWrite (s : State) (c t f : Nat) (k : Coord) (tags : Bool) : Chk TilePos := do
  let p ← tileCoord t f k true
  need ((tileUnits t f).all fun u => !unitLent s c u) .permission
  need (!tags || (tileUnits t f).all fun u => unitTagMe s c u == f || unitTagMe s c u == 0) .format
  return p

/-- A reading issue's tile, its format taken from the units (R246). -/
def tileRead (s : State) (c t : Nat) (k : Coord) (wide : Bool) : Chk TilePos := do
  need (decide (t ≤ 15)) .bounds
  let f := unitTagMe s c t
  if unitsOf f = 0 then
    need (!unitLent s c t) .permission
    fault .format
  else
    let p ← tileCoord t f k wide
    need ((tileUnits t f).all fun u => !unitLent s c u) .permission
    need ((tileUnits t f).all fun u => unitTagMe s c u == f) .format
    return p

/-- The tags of a tile's units, set when the issue's write leaves the engine. -/
def tagUnits (c t f : Nat) (s : State) : State := (tileUnits t f).foldl (fun s u => pend c 2 (.tag u f) s) s

/-- The code of a tile element as engine stream `n` reads it: 2 the ME, 3 the VE. -/
def accCode (s : State) (c n : Nat) (p : TilePos) (row col : Nat) : Nat := leNat (accBytes s c n (accOff p.t p.f row col) (esizeBytes p.f))

/-- Are `n` bytes of module memory at a flat address free of uncorrectable errors? One is never delivered (R101, R378). -/
def unmarked (a n : Nat) : M Unit := do
  let s ← get
  needM (s.marks.isEmpty || (List.range n).all fun k => match unitOf (a + k) with
    | some u => !s.marks.contains u
    | none => true) .uncorrectable

/-- The tile elements that an ME issue reads hold no uncorrectable error: `n` columns of `m` rows. Where there are errors, what the stream has in
flight is written first. -/
def accRead (c : Nat) (p : TilePos) (m n : Nat) : M Unit := do
  modify fun s => if s.marks.isEmpty then s else landEng c 2 s
  forList (fun i => unmarked (accAt c (accOff p.t p.f (p.row + i) p.col)) (n * esizeBytes p.f)) (List.range m)

/-- An accumulator write enters the engine's pipeline (R268). -/
def accWrite (c : Nat) (p : TilePos) (codes : List Nat) (s : State) : State :=
  pend c 2 (.acc (accOff p.t p.f p.row p.col) (codes.flatMap (leBytes (esizeBytes p.f)))) s

/-- The events of an issue, set in ME_FLAGS as it completes (R247, R371). -/
def setMeFlags (c : Nat) (e : Ev) (s : State) : State := pend c 2 (.flags false (e.bits % 32)) s

/-- Spaces of multiply and load operands, and of the moving ones (R249). -/
def nearSpace (sp : Nat) : Bool := decide (sp ≤ 1)
def tileSpace (sp : Nat) : Bool := decide (sp ≤ 3)

/-! ## Input classes (R250) -/

/-- Class of a tag: 1 8-bit, 2 16-bit, 3 32-bit, 4 64-bit, 5 cf32, 6 cf64, 0 none. -/
def inputClass (tag : Nat) : Nat :=
  if is8bit tag then 1
  else match tag with
    | 0x80 => 2 | 0x81 => 2 | 0x82 => 3 | 0x83 => 4 | 0xC0 => 5 | 0xC1 => 6 | _ => 0

/-- The tile format of an ACCF for a class, 0 where it is not admitted. -/
def accFormat (cls accf : Nat) : Nat :=
  match cls, accf with
  | 1, 0 => 0x82 | 1, 1 => 0x80 | 1, 2 => 0x81
  | 2, 0 => 0x82 | 2, 1 => 0x80 | 2, 2 => 0x81
  | 3, 0 => 0x82
  | 4, 3 => 0x83
  | 5, 0 => 0xC0
  | 6, 3 => 0xC1
  | _, _ => 0

/-- The tile format a multiply record names by ACCF and operation. -/
def mulFormat (cplx : Bool) (accf : Nat) : Nat :=
  if cplx then (if accf = 3 then 0xC1 else 0xC0) else match accf with
    | 0 => 0x82 | 1 => 0x80 | 2 => 0x81 | _ => 0x83

/-! ## Factors -/

/-- A scaled factor: its parts, and whether a NaN element or scale made it. -/
structure Factor where
  parts : List Val
  nan   : Bool
deriving DecidableEq, Repr, Inhabited

/-- Element and scale as one factor (R58). -/
def mkFactor (tag x : Nat) (conj : Bool) (sc : Val) : Factor :=
  let ps := valuesOf tag x
  let ps := if conj then conjOf ps else ps
  ⟨ps.map (·.mul sc), ps.any (·.isNan) || sc.isNan⟩

/-- The exact products of two factors: real part terms, imaginary part terms (R255). -/
def productTerms (a b : Factor) : List Val × List Val :=
  match a.parts, b.parts with
  | [ar, ai], [br, bi] => ([ar.mul br, (ai.mul bi).neg], [ar.mul bi, ai.mul br])
  | [x], [y] => ([x.mul y], [])
  | _, _ => ([], [])

/-- xsum: the exact sum; -0 only when every term is -0 (R256). -/
def xsum : List Val → Val
  | [] => Val.zero
  | a :: t => t.foldl (Val.add false) a

/-- One group's rounding into the running value (R255, R256): the new code and the events. -/
def groupStep (part : Nat) (sat : Bool) (nanIn : Bool) (x : Val) (terms : List Val) : Nat × Ev :=
  let v := x.add false (xsum terms)
  let (code, ev) := fencode part ⟨v, false⟩ .rne sat 0
  (code, if v.isNan then (if nanIn || x.isNan then { nanIn := true } else { invalid := true }) else ev)

/-- Groups of 32 factors. -/
def groups (l : List (Factor × Factor)) : List (List (Factor × Factor)) :=
  (List.range ((l.length + 31) / 32)).map fun g => (l.drop (32 * g)).take 32

/-- One column: the old parts' codes to the new code's parts, with events. -/
def macColumn (f : Nat) (sat : Bool) (old : List Nat) (l : List (Factor × Factor)) : List Nat × Ev :=
  (groups l).foldl (fun (acc : List Nat × Ev) g =>
    let ts := g.map fun e => productTerms e.1 e.2
    let nan := g.any fun e => e.1.nan || e.2.nan
    let (c0, e0) := groupStep (partTag f) sat nan (fvalue (partTag f) (nth 0 acc.1 0)) (ts.flatMap (·.1))
    if isCplx f then
      let (c1, e1) := groupStep (partTag f) sat nan (fvalue (partTag f) (nth 0 acc.1 1)) (ts.flatMap (·.2))
      ([c0, c1], (acc.2.or e0).or e1)
    else ([c0], acc.2.or e0)) (old, {})

/-- Does the ME's stream hold the licence (R157, R249)? -/
def needLicence (c : Nat) : M Unit := do
  let s ← get
  if holdsLic s c then pure ()
  else if (s.pair (pairOf c)).lic = .disabled ∨ (s.str c .me).wait = .denied then trapM .licenceDisabled
  else waitM (.licence true)

/-! ## B banks (R251, R252) -/

def bankOf (s : State) (c b : Nat) : Bank := look ⟨0, 0, 0, 0⟩ (s.core c).banks b
/-- Byte offset of element (k, n) of a bank, and of its scale. -/
def bankElem (k n : Nat) : Nat := (n * 128 + k) * 16
def bankScale (k n : Nat) : Nat := 524288 + (n * 128 + k) * 4

/-- A bank element with its scale. -/
def bankFactor (s : State) (c b k n : Nat) : Factor :=
  let h := bankOf s c b
  let x := leNat (memBytes s.mem (bankAt c b (bankElem k n)) 16)
  let sc := match h.kind with
    | 1 => fvalue 0x84 (leNat (memBytes s.mem (bankAt c b (bankScale k n)) 1))
    | 2 => fvalue 0x82 (leNat (memBytes s.mem (bankAt c b (bankScale k n)) 4))
    | _ => .fin false 1 0
  mkFactor h.tag x false sc

/-- A scale element's code and value; kind 0 has none. -/
def scaleCode (w : Who) (h : Handle) (i : List Nat) : M Nat := do
  if hScaleKind h = 0 then return 0
  let s ← get
  let p ← liftC (scalePlace s w h i)
  let l ← resolve w p .load
  hostGate w l false true
  readElem w l

/-- One element of a bank loaded, a NaN of an IEEE tag canonical (R52). -/
def bldElem (c : Nat) (w : Who) (h : Handle) (conj : Bool) (b k n : Nat) (cB : Coord) : M Unit := do
  let l ← locate w h (addTo (along cB k) 1 n) .load false (fun _ => true) (fun sp => sp == 1)
  needM (bitsAt l.p.raw 24 4 == c % 16 && bitsAt l.p.raw 16 8 == n) .bounds (tinfo l.p.addr 1 0)
  let x ← readElem w l
  let sc ← scaleCode w h l.p.abs
  let x := storeBits l.p.tag (if conj then conjCode l.p.tag x else x)
  modify fun s =>
    clearMarks (agentOf c .me) (towerOf c) (bankAt c b (bankElem k n)) 16 (clearMarks (agentOf c .me) (towerOf c) (bankAt c b (bankScale k n)) 4
      { s with mem := memStore (memStore s.mem (bankAt c b (bankElem k n)) (leBytes 16 x)) (bankAt c b (bankScale k n)) (leBytes 4 sc) })

/-- `me.bld` (R252). -/
def meBldIssue (r : Rec) (c : Nat) (e : Eng) (u : Run) : M Run := whole do
  needLicence c
  let w := engWho (← get) c e
  let b := r.spare.val % 2
  let kk := r.opx.val
  let nn := bitsAt (immOf r.c) 0 9
  let h := u.h 2
  forList (fun n => forList (fun k => bldElem c w h r.conj b k n (u.at r.b)) (List.range kk)) (List.range nn)
  needM (inputClass (hFmt h) != 0 && (!r.conj || isCplx (hFmt h))) .format
  modify fun s => s.setCore c { s.core c with banks := put (s.core c).banks b ⟨kk, nn, hFmt h, hScaleKind h⟩ }
  return u.next

/-! ## Rows of A (R253, R254) -/

/-- The view coordinate of element k of a row. -/
def rowCoord (r : Rec) (cA : Coord) (k : Nat) : Coord :=
  let g : Int := (k / 32 : Nat)
  let ts := if opnd r.c = .imm then [r.c.st0.toInt, r.c.st1.toInt, r.c.st2.toInt, r.c.st3.toInt] else [32, 0, 0, 0]
  let c := (List.range 4).foldl (fun c d => addTo c d (g * nth 0 ts d)) cA
  along c (k % 32)

/-- A memory row of `n` factors. -/
def memRow (w : Who) (r : Rec) (h : Handle) (cA : Coord) (n : Nat) : M (List Factor) :=
  mapList (fun k => do
    let (x, i) ← engRead w h (viewCoord r.trn (rowCoord r cA k)) false nearSpace
    let sc ← scaleOf w h i
    return mkFactor (hFmt h) x r.conj sc) (List.range n)

/-- Element k of `bits` bits in a byte string (4-bit elements low nibble first). -/
def packed (bs : List Byte) (bits k : Nat) : Nat :=
  if bits = 4 then (let x := (nth 0 bs (k / 2)).toNat; if k % 2 = 0 then x % 16 else x / 16)
  else leNat ((bs.drop (k * (bits / 8))).take (bits / 8))

/-- The bytes and tag of the row at a queue's head, and the position behind it: (elements popped, byte position). -/
def queueRow (c q pos : Nat) : M (List Byte × Nat × Nat × Nat) := do
  let x ← queuePeek c q 0
  let rb := 128 * esizeBits x.tag / 8
  if rb ≤ 512 then
    return ((x.bytes.drop pos).take rb, x.tag, if 512 ≤ pos + rb then 1 else 0, if 512 ≤ pos + rb then 0 else pos + rb)
  else
    let xs ← mapList (queuePeek c q) (List.range (rb / 512))
    needM (xs.all fun y => y.tag == x.tag) .format
    return (xs.flatMap (·.bytes), x.tag, rb / 512, 0)

/-- `me.mma` and `me.cmma` (R255). -/
def mulIssue (cplx : Bool) (r : Rec) (c : Nat) (e : Eng) (u : Run) : M Run := whole do
  needLicence c
  let s ← get
  let w := engWho s c e
  let b := r.spare.val % 2
  let bk := bankOf s c b
  let f := mulFormat cplx r.accf.val
  let queue := opnd r.a == .queue
  let q := r.a.hnd.val
  let last := decide (u.total ≤ u.n + 1)
  if bk.n = 0 then
    if queue && last && nth 0 u.qpos 0 != 0 then queuePop c q w.agent 1
    return u.next
  let p ← liftC (tileWrite s c r.d.org.val f (u.at r.d) true)
  let row ← if queue then (do let x ← queueRow c q (nth 0 u.qpos 0); return some x) else pure none
  let tag := match row with
    | some x => x.2.1
    | none => hFmt (u.h 1)
  let cls := inputClass bk.tag
  needM (inputClass tag == cls && accFormat cls r.accf.val == f && isCplx bk.tag == cplx) .format
  if bk.k = 0 && !r.clr then
    if queue && last && nth 0 u.qpos 0 != 0 then queuePop c q w.agent 1
    return u.next
  let as ← match row with
    | some x => pure ((List.range bk.k).map fun k => mkFactor tag (packed x.1 (esizeBits tag) k) r.conj (.fin false 1 0))
    | none => memRow w r (u.h 1) (u.at r.a) bk.k
  if !r.clr then accRead c p 1 bk.n
  forList (fun n => unmarked (bankAt c b (bankElem 0 n)) (bk.k * 16)) (List.range bk.n)
  if bk.kind != 0 then forList (fun n => unmarked (bankAt c b (bankScale 0 n)) (bk.k * 4)) (List.range bk.n)
  let s ← get
  let cols := (List.range bk.n).map fun n =>
    let old := if r.clr then (if isCplx f then [0, 0] else [0]) else partsOf f (accCode s c 2 p p.row n)
    macColumn f r.sat old ((List.range bk.k).map fun k => (nth default as k, bankFactor s c b k n))
  modify fun s => setMeFlags c (cols.foldl (fun e x => e.or x.2) {}) (tagUnits c p.t f (accWrite c p (cols.map fun x => joinParts f x.1) s))
  match row with
  | none => return u.next
  | some x => do
    let k := x.2.2.1
    let pos := x.2.2.2
    queuePop c q w.agent (if last && pos != 0 then k + 1 else k)
    return { u.next with qpos := setNth u.qpos 0 pos }

/-! ## Clear, load and store of tiles (R261, R262) -/

/-- `me.clr`. -/
def meClrIssue (r : Rec) (c : Nat) (_ : Eng) (u : Run) : M Run := whole do
  needLicence c
  let s ← get
  let f := mulFormat (r.opx.val % 2 == 1) r.accf.val
  let p ← liftC (tileWrite s c r.d.org.val f (u.at r.d) false)
  modify fun s => tagUnits c p.t f ((List.range (unitsOf f)).foldl (fun s k => pend c 2 (.acc ((p.t + k) * 32768) (List.replicate 32768 0)) s) s)
  return u.next

/-- `me.ald`. -/
def meAldIssue (r : Rec) (c : Nat) (e : Eng) (u : Run) : M Run := whole do
  needLicence c
  let s ← get
  let w := engWho s c e
  let h := u.h 1
  let f := hFmt h
  needM (unitsOf f != 0 && hScaleKind h == 0) .format
  let p ← liftC (tileWrite s c r.d.org.val f (u.at r.d) true)
  let xs ← mapList (fun n => do
    let (x, _) ← engRead w h (along (u.at r.a) n) false tileSpace
    return storeBits f x) (List.range 256)
  modify fun s => tagUnits c p.t f (accWrite c p xs s)
  return u.next

/-- `me.ast`. -/
def meAstIssue (r : Rec) (c : Nat) (e : Eng) (u : Run) : M Run := whole do
  needLicence c
  let s ← get
  let w := engWho s c e
  let h := u.h 0
  let p ← liftC (tileRead s c r.a.org.val (u.at r.a) true)
  needM (hFmt h == p.f && hScaleKind h == 0) .format
  accRead c p 1 256
  forList (fun n => engWrite w h (along (u.at r.d) n) (accCode s c 2 p p.row n) tileSpace) (List.range 256)
  return u.next

/-! ## Drains (R263-R265) -/

/-- The generator as the draws of an issue in flight leave it: it advances when the issue completes (R265). -/
def rngNow (k : Core) (ve : Bool) : Word :=
  (k.flight.foldl (fun g r => match r.dest with
    | .rng v x => if v == ve then x else g
    | _ => g) (if ve then k.rngVe else k.rngMe))

/-- Draws of RNG_ME. -/
def drawMe (c : Nat) : M Nat := do
  let s ← get
  let d := rngStep (rngNow (s.core c) false)
  set (pend c 2 (.rng false d.state) s)
  return d.r

/-- A conversion target (R63). -/
def encodable (tag : Nat) : Bool := tag != 0x84 && tag != 0xF0 && !isReserved tag

/-- A drained value's code, one draw with SR, and its events: an infinity times a zero is INVALID (R247, R263). -/
def drainPart (c : Nat) (tag : Nat) (rnd : Rnd) (sat : Bool) (nanIn : Bool) (v : Val) : M Nat := do
  let d ← if rnd = .sr then drawMe c else pure 0
  let (code, ev) := fencode tag ⟨v, false⟩ rnd sat d
  modify (setMeFlags c (if v.isNan && !nanIn then { ev with nanIn := false, invalid := true } else ev))
  return code

/-- An update of an amax register by engine stream `n`, which reads the register (R66, R378). -/
def amaxPend (c n k : Nat) (v : Val) : M Unit := do
  needM (!((← get).core c).mxBad.contains k) .uncorrectable
  modify (pend c n (.amax k (amaxUpdate 0 v)))

/-- The amax update that OPX names. -/
def drainAmax (c opx : Nat) (y v : Val) : M Unit := if bitAt opx 6 then amaxPend c 2 (opx % 64) (if bitAt opx 7 then v else y) else pure ()

/-- The multiplier of a drain. -/
def drainMul (r : Rec) : Val := if opnd r.c = .imm then fvalue 0x82 (bitsAt (immOf r.c) 0 32) else .fin false 1 0

/-- `me.drn`; with W = 0 the tile alone is checked. -/
def meDrnIssue (r : Rec) (c : Nat) (e : Eng) (u : Run) : M Run := whole do
  needLicence c
  let s ← get
  let w := engWho s c e
  let h := u.h 0
  let m := drainMul r
  let n := if opnd r.c = .imm then bitsAt (immOf r.c) 32 9 else 256
  let p ← liftC (tileRead s c r.a.org.val (u.at r.a) false)
  needM (decide (p.col + n ≤ 256)) .bounds
  needM (n == 0 || (isCplx p.f == isCplx (hFmt h) && hScaleKind h == 0 && encodable (hFmt h))) .format
  accRead c p 1 n
  let rnd := rndOf r.rnd.val
  forList (fun j => do
    let ys := valuesOf p.f (accCode s c 2 p p.row (p.col + j))
    let vs := ys.map (·.mul m)
    forList (fun z => drainAmax c r.opx.val z.1 z.2) (ys.zip vs)
    let cs ← mapList (fun z => drainPart c (partTag (hFmt h)) rnd r.sat (z.1.isNan || m.isNan) z.2) (ys.zip vs)
    engWrite w h (along (u.at r.d) j) (joinParts (hFmt h) cs) tileSpace) (List.range n)
  return u.next

/-- Largest finite value of a quantised target (R264). -/
def maxOf (tag : Nat) : Val :=
  match fmtOf tag with
  | some (.fp f) => f.max
  | some (.int sg n) => .fin false (if sg then 2 ^ (n - 1) - 1 else 2 ^ n - 1) 0
  | _ => Val.zero

/-- The greatest magnitude among values that are no NaN. -/
def maxAbs (l : List Val) : Val :=
  l.foldl (fun a v => if v.isNan then a else if a.lt v.abs then v.abs else a) Val.zero

/-- The block scale's code for a maximum (R264, R285). -/
def blockScale (tag : Nat) (a : Val) : Nat :=
  match a with
  | .inf _ => 254
  | _ =>
    if a.isZero then 127
    else ((List.range 255).find? fun k : Nat => !((maxOf tag).mul (.fin false 1 ((k : Int) - 127))).lt a).getD 254

/-- The scale element of a block located through the scale entry; a PEER entry is refused at step 8, as for the record's other operands
(R249; notes/assumptions/41.md). -/
def scaleLoc (w : Who) (h : Handle) (i : List Nat) : M Loc := do
  let s ← get
  let p ← liftC (scalePlace s w h i .store)
  needM (p.space != 6) .permission (tinfo p.addr 6 8)
  let l ← resolve w p .store
  hostGate w l false (storeAwaits (← get))
  raceCheck w l.p l.flat l.view true
  return l

/-- A scale element's code written. -/
def writeScale (w : Who) (h : Handle) (i : List Nat) (x : Nat) : M Unit := do
  let l ← scaleLoc w h i
  pendElem w l x

/-- `me.drq`. -/
def meDrqIssue (r : Rec) (c : Nat) (e : Eng) (u : Run) : M Run := whole do
  needLicence c
  let s ← get
  let w := engWho s c e
  let h := u.h 0
  let m := drainMul r
  let p ← liftC (tileRead s c r.a.org.val (u.at r.a) false)
  needM (p.row % 32 == 0 && p.col % 32 == 0) .bounds
  needM (is8bit (hFmt h) && hScaleKind h == 1 && !isCplx p.f) .format
  let cD := u.at r.d
  let i0 := absCoord h w.mt cD
  needM (!inWindow h cD || (nth 0 i0 0 % 32 == 0 && nth 0 i0 1 % 32 == 0)) .bounds
  accRead c p 32 32
  let s ← get
  let rnd := rndOf r.rnd.val
  let cells := (List.range 32).flatMap fun i => (List.range 32).map fun j => (i, j, fvalue p.f (accCode s c 2 p (p.row + i) (p.col + j)))
  let k := blockScale (hFmt h) (maxAbs (cells.map fun x => x.2.2.mul m))
  forList (fun x => do
    let v := x.2.2.mul m
    drainAmax c r.opx.val x.2.2 v
    let code ← drainPart c (hFmt h) rnd r.sat (x.2.2.isNan || m.isNan) (v.mul (.fin false 1 (127 - (k : Int))))
    engWrite w h (addTo (along cD x.2.1) 1 x.1) code tileSpace) cells
  writeScale w h i0 k
  return u.next

/-! ## Lending and the scoreboard (R266, R267) -/

/-- Units a VE record's fragment operands name. -/
def fragUnits (s : State) (c : Nat) (i : Instr) : List Nat :=
  let r := recOf' i
  if engineOf i ≠ 2 then []
  else [r.d, r.a, r.b, r.c].flatMap fun d => if opnd d = .tile then d.org.val :: tileUnits d.org.val (unitTagOf s c d.org.val) else []

/-- `me.frag`, lending: earlier issues' accumulator writes complete first. -/
def meLendIssue (r : Rec) (c : Nat) (_ : Eng) (u : Run) : M Run := do
  needLicence c
  modify fun s =>
    let s := landEng c 2 s
    s.setCore c { s.core c with lent := (s.core c).lent ||| bitsAt (immOf r.c) 0 16 }
  return u.next

/-- `me.frag`, reclaiming: it waits for the VE record of the snapshot taken as it begins, and for what that record has in flight. -/
def meReclaimIssue (r : Rec) (c : Nat) (e : Eng) (u : Run) : M Run := do
  needLicence c
  let s ← get
  let mask := bitsAt (immOf r.c) 0 16
  let ve := (s.seqOf c .ve).run
  let snap := match u.carry with
    | [] => match ve with
      | some v => if v.phase != .head && v.phase != .entry && (fragUnits s c v.instr).any (bitAt mask) then [1, v.noteId] else [0, 0]
      | none => [0, 0]
    | l => l
  let busy := nth 0 snap 0 == 1 && (match ve with
    | some v => v.noteId == nth 0 snap 1 && (v.phase != .complete || (s.core c).dump.any fun r => r.stream == 3)
    | none => false)
  if busy then
    set (setRun c e (some { u with carry := snap }) s)
    waitM .order
  else
    let s := if nth 0 snap 0 = 1 then landEng c 3 s else s
    set (s.setCore c { s.core c with lent := (s.core c).lent &&& (65535 - mask) })
    return { u.next with carry := [] }

/-- `me.sbw`. -/
def meSbwIssue (_ : Rec) (c : Nat) (_ : Eng) (u : Run) : M Run := do
  needLicence c
  return u.next

def meMmaIssue : Rec → Nat → Eng → Run → M Run := mulIssue false
def meCmmaIssue : Rec → Nat → Eng → Run → M Run := mulIssue true

def execMeMma (r : Rec) : State → Out := issueOp (.meMma r) (meMmaIssue r)
def execMeCmma (r : Rec) : State → Out := issueOp (.meCmma r) (meCmmaIssue r)
def execMeClr (r : Rec) : State → Out := issueOp (.meClr r) (meClrIssue r)
def execMeBld (r : Rec) : State → Out := issueOp (.meBld r) (meBldIssue r)
def execMeDrn (r : Rec) : State → Out := issueOp (.meDrn r) (meDrnIssue r)
def execMeDrq (r : Rec) : State → Out := issueOp (.meDrq r) (meDrqIssue r)
def execMeFragLend (r : Rec) : State → Out := issueOp (.meFragLend r) (meLendIssue r)
def execMeFragReclaim (r : Rec) : State → Out := issueOp (.meFragReclaim r) (meReclaimIssue r)
def execMeAld (r : Rec) : State → Out := issueOp (.meAld r) (meAldIssue r)
def execMeAst (r : Rec) : State → Out := issueOp (.meAst r) (meAstIssue r)
def execMeSbw (r : Rec) : State → Out := issueOp (.meSbw r) (meSbwIssue r)

end Sys2Proof.Machine
end

