-- ==== Sys2Proof/Machine/Power.lean ====
section
/-! DEFINITION. Power, current and thermal control (R407-R423). -/
namespace Sys2Proof.Machine

/-! ## Power classes and reservations (R409-R411, R419) -/

/-- The class entry: its reset image where it was never written. -/
def pclsOf (s : State) (k : Nat) : Nat := (look (BitVec.ofNat 64 0x11030A0) s.pcls k).toNat
/-- Units that a record of an engine reserves. -/
def classUnits (s : State) (k engine : Nat) : Nat :=
  if engine = 1 then bitsAt (pclsOf s k) 0 8 else if engine = 2 then bitsAt (pclsOf s k) 8 8 else bitsAt (pclsOf s k) 16 8
def classEn (s : State) (k : Nat) : Bool := bitAt (pclsOf s k) 24

def heldUnits (k : Cluster) : Nat := (k.held.map (·.units)).sum

/-- Order of requests: arrival, then core, then ME, VE, CEL, CES. -/
def comesFirst (a b : Resv) : Bool :=
  decide (a.since < b.since) || (a.since == b.since && (decide (a.core < b.core) || (a.core == b.core && decide (a.stream ≤ b.stream))))

def insertResv (a : Resv) : List Resv → List Resv
  | [] => [a]
  | b :: t => if comesFirst a b then a :: b :: t else b :: insertResv a t
def orderResv : List Resv → List Resv
  | [] => []
  | a :: t => insertResv a (orderResv t)

/-- One arbitration over ordered requests: a request that fits is granted; one that has waited 256 cycles and does not fit blocks the
rest. -/
def arbLoop (s : State) (k : Cluster) : List Resv → Cluster
  | [] => k
  | q :: t =>
    let d := s.die (dieOf q.core)
    if heldUnits k + q.units ≤ k.budget && !d.hold then arbLoop s { k with held := k.held ++ [q], wants := k.wants.erase q } t
    else if 256 ≤ q.cyc / 16 then k
    else arbLoop s k t

/-- The arbiter of a cluster (R411). -/
def arbitrate (n : Nat) (s : State) : State :=
  let k := s.cluster n
  if k.wants = [] then s else s.setCluster n (arbLoop s k (orderResv k.wants))

def execReservationArbitrate (k : Fin 256) : State → Out := event (arbitrate k)

/-- A request that its first arbitration passes over is an event of its own (R431). -/
def noteHeldBack (s : State) (e : Nat × Cluster) : State :=
  (e.2.wants.filter fun q => q.since == s.time).foldl (fun s q => s.noteOpen (agentOf q.core (streamOf q.stream)) 10) s

/-- The end of the cycle at which time moves on: every cluster arbitrates among the requests that have come (R411). -/
def arbitrateAll (s : State) : State :=
  let t := s.clusters.foldl (fun s e => arbitrate e.1 s) s
  t.clusters.foldl noteHeldBack t

/-- Does a stream hold a reservation, or wait for one (R410)? -/
def holdsResv (s : State) (c : Nat) (x : Stream) : Bool := (s.cluster (clusterOf c)).held.any fun r => r.core == c && r.stream == streamNo x
def wantsResv (s : State) (c : Nat) (x : Stream) : Bool := (s.cluster (clusterOf c)).wants.any fun r => r.core == c && r.stream == streamNo x

/-- The units that a stream holds. -/
def resvUnits (s : State) (c : Nat) (x : Stream) : Nat :=
  (((s.cluster (clusterOf c)).held.filter fun r => r.core == c && r.stream == streamNo x).map (·.units)).sum

/-- A record's request entered; its units stand, whatever is written to its class (R410, R419). -/
def reserve (c : Nat) (x : Stream) (units : Nat) (s : State) : State :=
  s.setCluster (clusterOf c) { s.cluster (clusterOf c) with wants := (s.cluster (clusterOf c)).wants ++ [⟨c, streamNo x, units, s.time, 0⟩] }

/-! ## Operating points (R408, R420) -/

/-- A change of CUR begins where min(REQ, LIM) differs and no transition runs. -/
def changePoint (d : Nat) (s : State) : State :=
  let k := s.die d
  let p := Nat.min k.req k.lim
  if !k.busy && p != k.cur then s.setDie d { k with busy := true, tgt := p, since := s.time } else s

/-- The wait in which a transition held a stream that was in no other (R155, R432). -/
def noteClock (c since : Nat) (s : State) (x : Nat × Strm) : State :=
  let cycles := cyc16 (s.die (dieOf c)).cur (s.time - since) / 16
  if (x.2.st == .run || x.2.st == .trap) && !x.2.pstop && bitsAt s.trcCtl.toNat 24 16 ≤ cycles then
    s.note (c * 8 + x.1) 4 (waitPayload (waitObj .clock) cycles 0x3FFF false)
  else s

/-- The end of a transition. -/
def transitionEnd (d : Nat) (s : State) : State :=
  let k := s.die d
  if k.busy then
    let s := (s.cores.filter fun e => dieOf e.1 == d).foldl (fun s e => e.2.strm.foldl (noteClock e.1 k.since) s) s
    changePoint d (s.setDie d { s.die d with busy := false, cur := k.tgt })
  else s

def execDvfsTransitionEnd (k : DieId) : State → Out := event (transitionEnd k)

/-- DVFS_CTL of a die: REQ 13-15 is refused. -/
def wrDvfs (d : Nat) (v : Word) (s : State) : Chk State := do
  need (decide (v.toNat % 16 ≤ 12)) .permission
  return changePoint d (s.setDie d { s.die d with req := v.toNat % 16 })
def dvfsImage (k : Die) : Nat := k.req + k.cur * 2 ^ 4 + k.lim * 2 ^ 8 + b2n k.busy * 2 ^ 12
def execDvfsCtlWrite (v : Word) : State → Out := regEvent 0x226 true fun s => wrDvfs (dieOf s.cc) v s

/-! ## The governor (R412, R413, R418) -/

/-- What units held in a cluster draw at their full current, in microwatts: 125 mA each at the die's present voltage, which the spec does not give
(notes/assumptions/17.md). -/
def drawOf (s : State) (k units : Nat) : Nat := units * 125 * Config.railMillivolts (s.die (k / 4)).cur

/-- What the reservations of every cluster may draw so that a cap holds: the cap itself for a window that lies ahead, less for one that holds a part
of the draw already made, which is a free value (R412; notes/assumptions/17.md). -/
def mayDraw (s : State) (cap n : Nat) : Nat := Nat.min (Config.freeNat s.freeCtr n) (cap * 10 ^ 7)

/-- Where the governor stands as it shares budgets: what is drawn, the budgets, the cluster served last, and which caps have held one back. -/
structure Share where
  draw   : Nat
  budget : Tbl Nat
  last   : Nat
  pk     : Bool
  avg    : Bool
deriving DecidableEq, Repr, Inhabited

/-- One cluster's turn: its request is admitted where both caps allow it. -/
def Share.turn (s : State) (pk avg : Nat) (x : Share) (k : Nat) (q : Resv) : Share :=
  let d := x.draw + drawOf s k q.units
  if d ≤ pk ∧ d ≤ avg then { x with draw := d, budget := put x.budget k (look 0 x.budget k + q.units), last := k }
  else { x with pk := x.pk || decide (pk < d), avg := x.avg || decide (avg < d) }

/-- The budgets of one sample: the fused maximum for every cluster where both caps allow them all; else each cluster's held units, and round robin
over the clusters' waiting requests, one oldest request a turn, from behind the cluster served last (R412). -/
def shareBudgets (s : State) (pk avg : Nat) : Share :=
  let ks := List.range 256
  let all := (ks.map fun k => drawOf s k Config.clMax).sum
  if all ≤ pk ∧ all ≤ avg then ⟨all, ks.map fun k => (k, Config.clMax), s.govNext, false, false⟩
  else
    let x : Share := ⟨(ks.map fun k => drawOf s k (heldUnits (s.cluster k))).sum, ks.map fun k => (k, heldUnits (s.cluster k)), s.govNext, false, false⟩
    let round := ks.map fun k => (s.govNext + 1 + k) % 256
    (List.range 16).foldl (fun x j => round.foldl (fun x k => match (orderResv (s.cluster k).wants)[j]? with
      | some q => x.turn s pk avg k q
      | none => x) x) x

/-- One sample: the means as measured, and the budgets under the caps of PWR_CAP as it stands (R412, R413, R418). -/
def governorSample (p10 p1s : Nat) (s : State) : State :=
  let x := shareBudgets s (mayDraw s (bitsAt s.pwrCap.toNat 16 16) 20) (mayDraw s (bitsAt s.pwrCap.toNat 0 16) 21)
  let sticky := bitsAt s.pwrStat.toNat 32 2 ||| (b2n x.pk + b2n x.avg * 2)
  let s := { s with
    pwrStat := BitVec.ofNat 64 (Nat.min p10 65535 + Nat.min p1s 65535 * 2 ^ 16 + sticky * 2 ^ 32), govNext := x.last }
  (List.range 256).foldl (fun s k => s.setCluster k { s.cluster k with budget := Nat.min (look 0 x.budget k) 2047 }) s

def execGovernorSample (p10 p1s : Nat) : State → Out := event (governorSample p10 p1s)

/-- PWR_CAP. -/
def wrPwrCap (v : Word) (s : State) : Chk State := do
  let a := bitsAt v.toNat 0 16
  let p := bitsAt v.toNat 16 16
  need (bitsAt v.toNat 32 32 == 0 && decide (a ≤ Config.avgMax ∧ p ≤ Config.pkMax ∧ a ≤ p ∧ 50 ≤ a ∧ 50 ≤ p)) .permission
  return { s with pwrCap := v }
def execPwrCapWrite (v : Word) : State → Out := regEvent 0x221 true (wrPwrCap v)

/-- PCLS_DATA: the selected class (R419). -/
def wrPcls (k : Nat) (v : Word) (s : State) : State := { s with pcls := put s.pcls k (BitVec.ofNat 64 (v.toNat % 2 ^ 25)) }
/-- The selector that register `n` of a core holds. -/
def selOf (s : State) (c n : Nat) : Nat := (look 0 (s.core c).sels n).toNat
def execPclsDataWrite (v : Word) : State → Out := regEvent 0x224 true fun s => .ok (wrPcls (selOf s s.cc 0x223 % 8) v s)

/-! ## Thermal control (R414, R415, R421) -/

def tjWarn (s : State) : Nat := bitsAt s.thCtl.toNat 0 8
def dtWarn (s : State) : Nat := bitsAt s.thCtl.toNat 8 4
/-- A Celsius temperature in sensor units of 0.25 degrees from -40. -/
def sensor (c : Nat) : Nat := (c + 40) * 4

/-- Sticky bits of TH_STATUS set; a bit that rises raises the vector where IRQ_EN = 1 (R415). -/
def thSet (t bit : Nat) (s : State) : State :=
  let w := s.tower t
  let s' := s.setTower t { w with thStat := w.thStat ||| BitVec.ofNat 64 (2 ^ bit) }
  if !bitAt w.thStat.toNat bit && bitAt s.thCtl.toNat 12 then raiseMsix (bitsAt s.thCtl.toNat 13 6) s' else s'

/-- The die rows of R414: `rs` are a die's readings. -/
def thermalDie (t d : Nat) (rs : List Nat) (s : State) : State :=
  let k := s.die d
  if rs.any fun r => decide (sensor Config.tjMax ≤ r) then thSet t 2 (s.setDie d { k with lim := 0, hold := true, cool := 0 })
  else
    let hold := k.hold && rs.any fun r => decide (sensor (tjWarn s) ≤ r)
    if rs.any fun r => decide (sensor (tjWarn s) ≤ r) then thSet t 0 (s.setDie d { k with lim := k.lim - 1, hold := hold, cool := 0 })
    else if rs.all fun r => decide (r + 20 < sensor (tjWarn s)) then
      if k.cool + 1 < 10 then s.setDie d { k with hold := hold, cool := k.cool + 1 }
      else s.setDie d { k with hold := hold, cool := 0, lim := Nat.min 12 (k.lim + 1) }
    else s.setDie d { k with hold := hold, cool := 0 }

/-- Difference of a pair's readings. -/
def thDiff (x : Nat × Nat) : Nat := if x.1 ≤ x.2 then x.2 - x.1 else x.1 - x.2

/-- The pair rows of R414 for pair `k` of tower `t`. -/
def thermalPair (t k : Nat) (x : Nat × Nat) (s : State) : State :=
  let s := if thDiff x < Config.dtMax * 4 then s
    else
      let s := setDisable (t * 16 + k / 4) true s
      let w := s.tower t
      let s := s.setTower t { w with thStat := w.thStat ||| BitVec.ofNat 64 (2 ^ (3 + k / 4)) }
      let d := if x.1 ≤ x.2 then 2 * t + 1 else 2 * t
      s.setDie d { s.die d with lim := (s.die d).lim - 1 }
  if thDiff x < dtWarn s * 4 then s else thSet t 1 s

/-- The last row of R414 for the area of core `n`: 1 ms of cool samples clears a disable of the controller's own. -/
def thermalArea (t n : Nat) (rd : List (Nat × Nat)) (s : State) : State :=
  let w := s.tower t
  if ((rd.drop (4 * n)).take 4).all fun x => decide (thDiff x < dtWarn s * 4) then
    let m := look 0 w.dtCool n + 1
    if 100 ≤ m ∧ bitAt w.thStat.toNat (3 + n) then
      let s := s.setTower t { w with dtCool := del w.dtCool n, thStat := w.thStat &&& ~~~(BitVec.ofNat 64 (2 ^ (3 + n))) }
      setDisable (t * 16 + n) false s
    else s.setTower t { w with dtCool := put w.dtCool n (Nat.min m 100) }
  else s.setTower t { w with dtCool := del w.dtCool n }

/-- One sample of a tower's 64 pairs (R414); a pair that the event does not give keeps no reading. -/
def thermalSample (t : Nat) (rd : List (Nat × Nat)) (s : State) : State :=
  let rd := (rd.take 64).map fun x => (x.1 % 1024, x.2 % 1024)
  let w := s.tower t
  let s := s.setTower t { w with thData := (rd.zip (List.range 64)).foldl (fun d x => put d x.2 ⟨x.1.1, x.1.2⟩) w.thData }
  let s := thermalDie t (2 * t) (rd.map (·.1)) s
  let s := thermalDie t (2 * t + 1) (rd.map (·.2)) s
  let s := (rd.zip (List.range 64)).foldl (fun s x => thermalPair t x.2 x.1 s) s
  let s := (List.range 16).foldl (fun s n => thermalArea t n rd s) s
  changePoint (2 * t + 1) (changePoint (2 * t) s)

def execThermalSample (t : TowerId) (rd : List (Nat × Nat)) : State → Out := event (thermalSample t rd)

/-- TH_CTL. -/
def wrThCtl (v : Word) (s : State) : Chk State := do
  need (bitsAt v.toNat 19 45 == 0 && decide (bitsAt v.toNat 0 8 < Config.tjMax ∧ bitsAt v.toNat 8 4 < Config.dtMax)) .permission
  return { s with thCtl := v }
def execThCtlWrite (v : Word) : State → Out := regEvent 0x229 true (wrThCtl v)

/-- LIC_CTL of the executing core's pair: a written 1 clears the pair's LICDIS bit (R156, R414). -/
def wrLicCtl (c : Nat) (v : Word) (s : State) : State :=
  let b := bitAt v.toNat 0
  let t := towerOf c
  let w := s.tower t
  let s := if b then s.setTower t { w with thStat := w.thStat &&& ~~~(BitVec.ofNat 64 (2 ^ (3 + onDie c))) } else s
  setDisable (pairOf c) b s
def execLicCtlWrite (v : Word) : State → Out := regEvent 0x1C9 true fun s => .ok (wrLicCtl s.cc v s)

/-- CL_STATUS of a core's cluster (R420). -/
def clStatusImage (s : State) (c : Nat) : Nat :=
  let k := s.cluster (clusterOf c)
  let blocked := match orderResv k.wants with
    | q :: _ => decide (k.budget < heldUnits k + q.units ∧ 256 ≤ q.cyc / 16)
    | [] => false
  k.budget + heldUnits k * 2 ^ 11 + k.wants.length * 2 ^ 22 + b2n blocked * 2 ^ 27

/-- TH_DATA of a pair of a tower. -/
def thDataImage (s : State) (t k : Nat) : Nat :=
  match find (s.tower t).thData k with
  | some x => x.lo + x.up * 2 ^ 10 + 2 ^ 20
  | none => 0

end Sys2Proof.Machine
end

