-- ==== Sys2Proof/Machine/MemInstr.lean ====
section
/-! DEFINITION. Control-core loads, stores, atomics, updates, memory-side requests, pins, the tag table, wait-on-address and queue
claims (R74-R79, R88, R133, R215-R226). -/
namespace Sys2Proof.Machine

/-! ## Loads and stores (R217, R218, R220) -/

/-- Tags a scalar register can hold (R216). -/
def scalarTag (t : Nat) : Bool := t != 0xC1 && t != 0xF0

/-- Tags of the atomics (R219). -/
def atomTag (t : Nat) : Bool := t == 0x44 || t == 0x45

/-- The executing control core's location for a memory operand. -/
def myLoc (s : State) (m : MOp) (a : Acc) (okTag : Nat → Bool) : M Loc := locate s.who (s.rdH m.h) (coordM s m) a false okTag

/-- The remote write of an element (R220): a release needs scope domain or system (R138). -/
def remoteStore (w : Who) (p : Place) (rlx rel : Bool) (e : Scope) (x : Nat) : M Unit := do
  needM (!rel || decide (4 ≤ scopeNo e)) .permission (tinfo p.addr 6 0)
  if rel && ansOf (← get) w.agent == .none then performRelease w e
  remoteDo w p rel (fun a => .remoteWrite (ePeer p.entry) { a with relaxed := a.relaxed || rlx }) (leBytes p.bytes x)
  if rel then modify fun s => (releasePass w.agent s).1

/-- `ld` (R217). -/
def loadBody (d : SReg) (m : MOp) (s : State) : M Unit := do
  let l ← myLoc s m .load scalarTag
  let x ← plainLoad s.who l
  modify (·.wrS d (loadBits l.p.tag x))

/-- `st` (R217, R220). -/
def storeBody (d : SReg) (m : MOp) (s : State) : M Unit := do
  let l ← myLoc s m .store scalarTag
  let x := storeBits l.p.tag (s.rdS d).toNat
  if l.p.space = 6 then remoteStore s.who l.p false false .module x else plainStore s.who l x

/-- `ld.ord` (R218). -/
def loadOrdBody (o : Ord) (e : Scope) (d : SReg) (m : MOp) (s : State) : M Unit := do
  let l ← myLoc s m .load scalarTag
  let x ← loadOrd s.who l o e
  modify (·.wrS d (loadBits l.p.tag x))

/-- `st.ord` (R218, R220). -/
def storeOrdBody (o : Ord) (e : Scope) (m : MOp) (a : SReg) (s : State) : M Unit := do
  let l ← myLoc s m .store scalarTag
  let x := storeBits l.p.tag (s.rdS a).toNat
  if l.p.space = 6 then
    needM (!isRel o || decide (4 ≤ scopeNo e)) .permission (tinfo l.p.addr 6 0)
    let sc := (relScope (← get) s.who.agent o e).filter fun e => decide (4 ≤ scopeNo e)
    remoteStore s.who l.p true sc.isSome (sc.getD e) x
  else storeOrd s.who l o e x

def execLd (gd : Guard) (d : SReg) (m : MOp) : State → Out := control gd 4 false fun s => Eff.ofM (loadBody d m s) s
def execSt (gd : Guard) (d : SReg) (m : MOp) : State → Out := control gd 4 false fun s => Eff.ofM (storeBody d m s) s
def execLdOrd (gd : Guard) (o : Ord) (e : Scope) (d : SReg) (m : MOp) : State → Out :=
  control gd 8 false fun s => Eff.ofM (loadOrdBody o e d m s) s
def execStOrd (gd : Guard) (o : Ord) (e : Scope) (m : MOp) (a : SReg) : State → Out :=
  control gd 8 false fun s => Eff.ofM (storeOrdBody o e m a s) s

/-! ## Atomics (R219, R220) -/

/-- An atomic of code `op`: `f` gives the new element from its width and the old one, or none where nothing is written. On a PEER element
every order needs scope domain or system (R104, R138), and a relaxed one behind a release fence of such a scope is a release (R111). Whether a
PEER `atom.cas` found its operand equal, and so released, its completion status does not tell: a free value (notes/assumptions/34.md). The
refusal of OP 3-9 on HOST in the PCI Express mode comes after steps 1 to 12: DESIGN CHOICE, R219 gives it no place
(notes/assumptions/59.md). -/
def atomBody (op : Nat) (o : Ord) (e : Scope) (d : SReg) (m : MOp) (x y : Word) (f : Nat → Nat → Option Nat) (s : State) : M Unit := do
  let l ← myLoc s m .atomic atomTag
  let w := s.who
  let n := esizeBits l.p.tag
  if l.p.space = 6 then
    needM (!isAcq o) .permission (tinfo l.p.addr 6 0)
    needM (decide (4 ≤ scopeNo e)) .permission (tinfo l.p.addr 6 0)
    let sc := (relScope (← get) w.agent o e).filter fun e => decide (4 ≤ scopeNo e)
    if ansOf (← get) w.agent == .none then performIf w sc
    remoteDo w l.p sc.isSome (fun a => .remoteAtomic (ePeer l.p.entry) a op x y) []
    if sc.isSome then modify fun s => if op = 11 && Config.freeBit s.freeCtr 219 then s else (releasePass w.agent s).1
    modify (·.wrS d 0)
  else
    needM (!(l.p.space == 5 && hostMode s == 0 && decide (3 ≤ op ∧ op ≤ 9))) .permission (tinfo l.p.addr 5 0)
    let old ← atomicAt w l o e (f n)
    modify (·.wrS d (loadBits l.p.tag old))

/-- A two-operand atomic of code 2 to 10. -/
def atom2 (op : Nat) (gd : Guard) (o : Ord) (e : Scope) (d : SReg) (m : MOp) (a : SReg) : State → Out :=
  control gd 8 false fun s =>
    Eff.ofM (atomBody op o e d m (s.rdS a) 0 (fun n x => some (atomicOp op n x ((s.rdS a).toNat % 2 ^ n))) s) s

def execAtomAdd := atom2 2
def execAtomAnd := atom2 3
def execAtomOr := atom2 4
def execAtomXor := atom2 5
def execAtomMin := atom2 6
def execAtomMax := atom2 7
def execAtomMinu := atom2 8
def execAtomMaxu := atom2 9
def execAtomSwp := atom2 10
/-- `atom.cas`: an unequal compare writes nothing. -/
def execAtomCas (gd : Guard) (o : Ord) (e : Scope) (d : SReg) (m : MOp) (a b : SReg) : State → Out :=
  control gd 8 false fun s =>
    Eff.ofM (atomBody 11 o e d m (s.rdS a) (s.rdS b)
      (fun n x => if x = (s.rdS a).toNat % 2 ^ n then some ((s.rdS b).toNat % 2 ^ n) else none) s) s

/-! ## Updates and memory-side requests (R221) -/

def updTag (t : Nat) : Bool := t == 0x44 || t == 0x82 || t == 0x81
def msaTag (t : Nat) : Bool := t == 0x44 || t == 0x82 || t == 0x80 || t == 0x81

/-- One update of the element by S(D). -/
def updBody (op : UOp) (d : SReg) (m : MOp) (s : State) : M Unit := do
  let l ← myLoc s m .update updTag
  updateAt s.who l op ((s.rdS d).toNat % 2 ^ esizeBits l.p.tag)

/-- One memory-side request by S(D). -/
def msaBody (op : UOp) (d : SReg) (m : MOp) (s : State) : M Unit := do
  let l ← myLoc s m .msa msaTag
  msaAt s.who l op ((s.rdS d).toNat % 2 ^ esizeBits l.p.tag)

def execUpdAdd (gd : Guard) (d : SReg) (m : MOp) : State → Out := control gd 4 false fun s => Eff.ofM (updBody .add d m s) s
def execUpdMin (gd : Guard) (d : SReg) (m : MOp) : State → Out := control gd 4 false fun s => Eff.ofM (updBody .min d m s) s
def execUpdMax (gd : Guard) (d : SReg) (m : MOp) : State → Out := control gd 4 false fun s => Eff.ofM (updBody .max d m s) s
def execMsaAdd (gd : Guard) (d : SReg) (m : MOp) : State → Out := control gd 4 false fun s => Eff.ofM (msaBody .add d m s) s
def execMsaMin (gd : Guard) (d : SReg) (m : MOp) : State → Out := control gd 4 false fun s => Eff.ofM (msaBody .min d m s) s
def execMsaMax (gd : Guard) (d : SReg) (m : MOp) : State → Out := control gd 4 false fun s => Eff.ofM (msaBody .max d m s) s

/-! ## Pins (R88, R222) -/

/-- Steps 1 to 12 of R35 as a load for a pin. -/
def pinLoc (s : State) (m : MOp) : M Loc := do
  let p ← cachePlace s.who (s.rdH m.h) (coordM s m)
  resolve s.who p .load

/-- `lpin`: the layout entry's refusals come before the line's (notes/assumptions/21.md). A line of a frozen page is refused with CLOSING and
does not stall (R37, R42). -/
def lpinBody (d : SReg) (m : MOp) (s : State) : M Unit := do
  let p ← cachePlace s.who (s.rdH m.h) (coordM s m)
  if frozenAt (← get) (ctxId s.who.root) p.addr then modify (·.wrS d 2)
  else do
  let l ← resolve s.who p .load
  let t := s.who.tower
  let line := l.flat / 256
  modify fun s =>
    let k := linePins s t line
    let (s', st) := pinEntry s.who.root l.p.lt l.p.entry s
    if st ≠ 0 then s.wrS d (BitVec.ofNat 64 st)
    else if 255 ≤ k then s.wrS d 6
    else if k = 0 && 8 ≤ pinnedWays s t line then s.wrS d 7
    else
      let s := makeRoom t line (decide (0 < k)) (mergeLine t line s')
      let s := if isGuest t l.flat then fillLine t line l.view s else s
      (setLinePins t line (k + 1) s).wrS d 0

/-- `lunpin`. -/
def lunpinBody (d : SReg) (m : MOp) (s : State) : M Unit := do
  let l ← pinLoc s m
  let t := s.who.tower
  let line := l.flat / 256
  modify fun s =>
    if linePins s t line = 0 then s.wrS d 10
    else (unpinEntry (ltKey s.who.root l.p.lt) (setLinePins t line (linePins s t line - 1) s)).wrS d 0

def execLpin (gd : Guard) (d : SReg) (m : MOp) : State → Out := control gd 4 false fun s => Eff.ofM (lpinBody d m s) s
def execLunpin (gd : Guard) (d : SReg) (m : MOp) : State → Out := control gd 4 false fun s => Eff.ofM (lunpinBody d m s) s

/-! ## The tag table (R74-R79, R223) -/

def ttSlotBits (c : Word) : Nat := bitsAt c.toNat 0 4 + 10
def ttWays (c : Word) : Nat := 2 ^ bitsAt c.toNat 4 3
def ttSlots (c : Word) : Nat := bitsAt c.toNat 8 10 + 1
def ttSets (c : Word) : Nat := ttSlots c / ttWays c
def ttEn (c : Word) : Bool := bitAt c.toNat 63

/-- An entry's image (R75). -/
def ttEntry (k : Core) (slot : Nat) : Nat := (look 0 k.tt slot).toNat

/-- The slots of a set, lowest first. -/
def setSlots (c : Word) (set : Nat) : List Nat := (List.range (ttWays c)).map fun j => set * ttWays c + j

/-- Does an entry hold a key: layout index and block? -/
def ttMatch (e lt block : Nat) : Bool := bitAt e 0 && bitsAt e 2 12 == lt && bitsAt e 16 46 == block

/-- The lookup word of a key (R76). -/
def ttLookup (k : Core) (lt block : Nat) : Nat :=
  let c := k.ttCfg
  let set := block % ttSets c
  match (setSlots c set).find? fun j => ttMatch (ttEntry k j) lt block with
  | some j => j + b2n (bitAt (ttEntry k j) 1) * 2 ^ 62
  | none =>
    let v := ((setSlots c set).find? fun j => !bitAt (ttEntry k j) 0).getD (set * ttWays c + look 0 k.rr set % ttWays c)
    v + b2n (bitAt (ttEntry k v) 1) * 2 ^ 61 + b2n (bitAt (ttEntry k v) 0) * 2 ^ 62 + 2 ^ 63

/-- `tlk` and the marking form `tlk.m`. -/
def tlkBody (mark : Bool) (d : SReg) (m : MOp) (s : State) : M Unit := do
  let p ← cachePlace s.who (s.rdH m.h) (coordM s m)
  modify fun s =>
    let k := s.myCore
    if !ttEn k.ttCfg then s.wrS d (BitVec.ofNat 64 (2 ^ 64 - 1))
    else
      let (s, r) := repValue s.myAgent (ttLookup k p.lt (p.addr / 2 ^ ttSlotBits k.ttCfg)) s
      let k := s.myCore
      let s := if mark && r < 2 ^ 63 then
          s.setMyCore { k with tt := put k.tt (r % 1024) (BitVec.ofNat 64 (setBits (ttEntry k (r % 1024)) 1 1 1)) }
        else s
      s.wrS d (BitVec.ofNat 64 r)

/-- `tins` (R77, R223): a disabled table and a slot number that no table has are refused before the key's checks
(notes/assumptions/26.md). -/
def tinsBody (d : SReg) (m : MOp) (s : State) : M Unit := do
  let slot := (s.rdS d).toNat
  let c := s.myCore.ttCfg
  needM (ttEn c) .permission
  needM (decide (slot < 1024)) .bounds
  let p ← cachePlace s.who (s.rdH m.h) (coordM s m)
  let s ← get
  let k := s.myCore
  let block := p.addr / 2 ^ ttSlotBits c
  let set := block % ttSets c
  needM (decide (slot < ttSlots c) && slot / ttWays c == set) .bounds (tinfo p.addr p.space 0)
  if bitAt (ttEntry k slot) 0 then set' s 8
  else if (setSlots c set).any fun j => ttMatch (ttEntry k j) p.lt block then set' s 9
  else
    let (s', st) := pinEntry s.who.root p.lt p.entry s
    if st ≠ 0 then set' s st
    else
      let e := 1 + p.lt * 2 ^ 2 + block * 2 ^ 16
      set' (s'.setMyCore { s'.myCore with tt := put s'.myCore.tt slot (BitVec.ofNat 64 e), rr := put s'.myCore.rr set ((slot % ttWays c + 1) % ttWays c) }) 0
where
  /-- The status written to D. -/
  set' (s : State) (n : Nat) : M Unit := set (s.wrS d (BitVec.ofNat 64 n))

/-- `tevc` (R78). -/
def tevcBody (d a : SReg) (s : State) : M Unit := do
  let slot := (s.rdS a).toNat
  let k := s.myCore
  needM (ttEn k.ttCfg) .permission
  needM (decide (slot < ttSlots k.ttCfg)) .bounds
  let e := ttEntry k slot
  if !bitAt e 0 then set (s.wrS d 10)
  else
    let s := s.setMyCore { k with tt := put k.tt slot (BitVec.ofNat 64 (e / 4 * 4)) }
    set ((unpinEntry (ltKey s.who.root (bitsAt e 2 12)) s).wrS d (BitVec.ofNat 64 (e + 2 ^ 63)))

def execTlk (gd : Guard) (d : SReg) (m : MOp) : State → Out := control gd 4 false fun s => Eff.ofM (tlkBody false d m s) s
def execTlkM (gd : Guard) (d : SReg) (m : MOp) : State → Out := control gd 4 false fun s => Eff.ofM (tlkBody true d m s) s
def execTins (gd : Guard) (d : SReg) (m : MOp) : State → Out := control gd 4 false fun s => Eff.ofM (tinsBody d m s) s
def execTevc (gd : Guard) (d a : SReg) : State → Out := control gd 4 false fun s => Eff.ofM (tevcBody d a s) s

/-! ## Wait-on-address (R133, R224) -/

/-- One evaluation: the returning acquire load, or the wait goes on. -/
def waddrEval (h : Nat) (k : Cond) (e : Scope) (d a : Nat) (l : Loc) : M Unit := do
  let s ← get
  let x ← loadOrd s.who l .acq e
  if cond k (BitVec.ofNat 64 x) (s.me.rdS a) then modify fun s => s.setMe (s.me.wrS d (BitVec.ofNat 64 x))
  else
    modify dropAns
    waitM (.addr h d a k e l)

/-- `waddr`: the checks run once, at arming; an armed wait evaluates at its location. -/
def waddrBody (k : Cond) (e : Scope) (d : SReg) (m : MOp) (a : SReg) (s : State) : M Unit := do
  match s.myStr.wait with
  | .addr h d a k e l => waddrEval h k e d a l
  | _ => do
    let l ← myLoc s m .load fun t => t == 0x45 || t == 0x83 || t == 0xC0
    waddrEval (hLt (s.rdH m.h)) k e d.val a.val l

def execWaddr (gd : Guard) (k : Cond) (e : Scope) (d : SReg) (m : MOp) (a : SReg) : State → Out :=
  control gd 8 false fun s => Eff.ofM (waddrBody k e d m a s) s

/-- A re-evaluation of an armed monitor by itself (R133). -/
def execWaddrReevaluate (c : CoreId) (x : Leader) : State → Out :=
  event <| asStream c.val (leaderStream x) fun s =>
    match s.myStr.wait with
    | .addr h d a k e l => if canRun s then (Eff.ofM (waddrEval h k e d a l) s).finish s.me s.pc 8 else s
    | _ => s

/-! ## Queues (R225, R226) -/

/-- Spaces of a queue header: another is refused at step 8 of R35 (R225; notes/assumptions/26.md for PEER). -/
def queueHead (sp : Nat) : Bool := sp == 2 || sp == 3 || sp == 5

/-- `q.claim`: its test is over unbounded integers (R8, R225). -/
def qClaimBody (e : Scope) (d : SReg) (m : MOp) (a : SReg) (s : State) : M Unit := do
  let w := s.who
  let l ← locate w (s.rdH m.h) (coordM s m) .atomic false (fun t => !isReserved t) queueHead
  needM (l.p.addr % 32 == 0) .align (tinfo l.p.addr l.p.space 0)
  needM (l.p.tag == 0x45) .format (tinfo l.p.addr l.p.space 5)
  performRelease w e
  hostGate w l true true
  performAcquire w e
  let x ← homeRead w l 32
  let wix := bitsAt x 0 64
  let rix := bitsAt x 64 64
  let cap := bitsAt x 128 64
  let n := (s.rdS a).toNat
  let pow2 := decide (1 ≤ cap ∧ cap ≤ 65536) && 2 ^ Nat.log2 cap == cap
  needM (pow2 && bitsAt x 192 64 == 0) .bounds (tinfo l.p.addr l.p.space 0)
  needM (decide (0 < n ∧ n ≤ cap)) .bounds (tinfo l.p.addr l.p.space 0)
  takeRels w.agent .acq e (look [] (← get).locs l.flat)
  if (wix : Int) - rix + n ≤ cap then
    homeWrite l 8 ((wix + n) % 2 ^ 64)
    modify fun s =>
      let (s, rs) := withRel w.agent (some e) (look [] s.locs l.flat) s
      setHomeRels l.flat rs s
    modify (·.wrS d (BitVec.ofNat 64 wix))
  else modify (·.wrS d (BitVec.ofNat 64 (2 ^ 64 - 1)))

/-- `q.ring`: the release store, then the notice to the command processor of the word's home tower, which waits while its buffer is full, the
store being made; only a re-execution after the wait was abandoned repeats it (R226, R243, R337). A word in SPM or WSS has no home tower, and a PEER word none of this module: PERMISSION for
both, DESIGN CHOICE, as R226 and R220 do not say (notes/assumptions/59.md). -/
def qRingBody (e : Scope) (m : MOp) (a : SReg) (s : State) : M Unit := do
  let w := s.who
  let l ← myLoc s m .store fun t => t == 0x45
  needM (l.p.space != 6) .permission (tinfo l.p.addr 6 0)
  needM (decide (2 ≤ l.p.space) && inScope w.agent e (8192 + 1024 + homeOf l.flat)) .permission (tinfo l.p.addr l.p.space 0)
  if ¬(s.myStr.st = .wait ∧ s.myStr.wait = .own 6) then storeOrd w l .rel e (s.rdS a).toNat
  let t := homeOf l.flat
  modify fun s => writeBack w.tower (l.flat / 256) s
  if Config.noticeMax ≤ ((← get).tower t).notices.length then
    modify dropAns
    waitM (.own 6)
  modify fun s => ringBells l.flat (s.setTower t { s.tower t with notices := (s.tower t).notices ++ [l.flat] })

def execQClaim (gd : Guard) (e : Scope) (d : SReg) (m : MOp) (a : SReg) : State → Out :=
  control gd 8 false fun s => Eff.ofM (qClaimBody e d m a s) s
def execQRing (gd : Guard) (e : Scope) (m : MOp) (a : SReg) : State → Out :=
  control gd 8 false fun s => Eff.ofM (qRingBody e m a s) s

end Sys2Proof.Machine
end

