-- ==== Sys2Proof/Machine/Trans.lean ====
section
/-! DEFINITION. Transcendental functions by interval arithmetic on integers (R282; notes/assumptions/11.md): an enclosure that fixes the
result's leading bits settles every rounding. -/
namespace Sys2Proof.Machine

/-- An interval in units of 2^-p, `p` being fixed by the use. -/
structure Iv where
  lo : Int
  hi : Int
deriving DecidableEq, Repr, Inhabited

/-- Fraction bits of an enclosure, and the bits dropped when it is read off. -/
def prec : Nat := 640
def guard64 : Nat := 64

/-- Ceiling of a division by a positive number. -/
def cdiv (a b : Int) : Int := -((-a) / b)
def Iv.add (a b : Iv) : Iv := ⟨a.lo + b.lo, a.hi + b.hi⟩
def Iv.sub (a b : Iv) : Iv := ⟨a.lo - b.hi, a.hi - b.lo⟩
def Iv.scale (a : Iv) (k : Nat) : Iv := ⟨a.lo * k, a.hi * k⟩
/-- Product of two intervals of non-negative numbers at `p` fraction bits. -/
def Iv.mul (p : Nat) (a b : Iv) : Iv := ⟨a.lo * b.lo / 2 ^ p, cdiv (a.hi * b.hi) (2 ^ p)⟩
/-- Division by a positive integer. -/
def Iv.divN (a : Iv) (n : Nat) : Iv := ⟨a.lo / n, cdiv a.hi n⟩
/-- Quotient of two positive intervals. -/
def Iv.div (p : Nat) (a b : Iv) : Iv := ⟨a.lo * 2 ^ p / b.hi, cdiv (a.hi * 2 ^ p) b.lo⟩
/-- A non-negative dyadic m * 2^e. -/
def Iv.dyadic (p m : Nat) (e : Int) : Iv :=
  if 0 ≤ e + p then ⟨m * 2 ^ (e + p).toNat, m * 2 ^ (e + p).toNat⟩ else ⟨(m / 2 ^ (-(e + p)).toNat : Nat), (m / 2 ^ (-(e + p)).toNat + 1 : Nat)⟩
def Iv.one (p : Nat) : Iv := ⟨2 ^ p, 2 ^ p⟩
/-- Room for a series' remainder below one unit. -/
def Iv.wide (a : Iv) : Iv := ⟨a.lo - 1, a.hi + 1⟩

/-- Terms of e^x for 0 ≤ x < 1. -/
def expTerms (p : Nat) (x : Iv) : Nat → Nat → Iv → Iv → Iv
  | 0, _, _, acc => acc
  | fuel + 1, k, t, acc =>
    let t := (Iv.mul p t x).divN k
    expTerms p x fuel (k + 1) t (acc.add t)
/-- e^x for 0 ≤ x < 1. -/
def expIv (p : Nat) (x : Iv) : Iv := (expTerms p x 180 1 (Iv.one p) (Iv.one p)).wide

/-- Terms of atanh z. -/
def atanhTerms (p : Nat) (z2 : Iv) : Nat → Nat → Iv → Iv → Iv
  | 0, _, _, acc => acc
  | fuel + 1, k, t, acc =>
    let t := Iv.mul p t z2
    atanhTerms p z2 fuel (k + 2) t (acc.add (t.divN k))
/-- atanh z for 0 ≤ z ≤ 1/3. -/
def atanhIv (p : Nat) (z : Iv) : Iv := (atanhTerms p (Iv.mul p z z) 230 3 z z).wide
/-- ln 2. -/
def ln2Iv (p : Nat) : Iv := (atanhIv p ((Iv.one p).divN 3)).scale 2
/-- ln (m / d) for d ≤ m < 2 d. -/
def lnIv (p m d : Nat) : Iv := (atanhIv p ⟨(m - d : Nat) * 2 ^ p / (m + d : Nat), cdiv ((m - d : Nat) * 2 ^ p) (m + d : Nat)⟩).scale 2

/-- Terms of atan (1 / n). -/
def atanTerms (n : Nat) : Nat → Nat → Bool → Iv → Iv → Iv
  | 0, _, _, _, acc => acc
  | fuel + 1, k, neg, t, acc =>
    let t := t.divN (n * n)
    let d := t.divN k
    atanTerms n fuel (k + 2) (!neg) t (if neg then acc.sub d else acc.add d)
def atanInv (p n fuel : Nat) : Iv := (atanTerms n fuel 3 true ((Iv.one p).divN n) ((Iv.one p).divN n)).wide
/-- pi. -/
def piIv (p : Nat) : Iv := ((atanInv p 5 (p / 4 + 8)).scale 16).sub ((atanInv p 239 (p / 15 + 8)).scale 4)

/-- Terms of sin or cos. -/
def trigTerms (p : Nat) (x2 : Iv) : Nat → Nat → Bool → Iv → Iv → Iv
  | 0, _, _, _, acc => acc
  | fuel + 1, k, neg, t, acc =>
    let t := (Iv.mul p t x2).divN (k * (k + 1))
    trigTerms p x2 fuel (k + 2) (!neg) t (if neg then acc.sub t else acc.add t)
/-- sin x and cos x for 0 ≤ x ≤ pi / 2. -/
def sinIv (p : Nat) (x : Iv) : Iv := (trigTerms p (Iv.mul p x x) 110 2 true x x).wide
def cosIv (p : Nat) (x : Iv) : Iv := (trigTerms p (Iv.mul p x x) 110 1 true (Iv.one p) (Iv.one p)).wide

/-- A positive number strictly inside an enclosure, to the bits above `guardBits`, where the enclosure fixes them. -/
def readAt (p guardBits : Nat) (neg : Bool) (shift : Int) (a : Iv) : Option Real :=
  let g : Int := 2 ^ guardBits
  if 0 < a.lo ∧ a.lo / g = a.hi / g ∧ a.lo % g ≠ 0 then some ⟨.fin neg (a.lo / g).toNat (shift + guardBits - p), true⟩ else none

/-- The same at the first of several widths: a value just beside a short binary fraction is fixed at a coarser one only. An enclosure that
fixed none would be read at its lower end; no argument is known to leave one (notes/assumptions/11.md). -/
def readOff (p g : Nat) (neg : Bool) (shift : Int) (a : Iv) : Real :=
  ([0, 100, 200, 280, 330].findSome? fun x => readAt p (g + x) neg shift a).getD ⟨.fin neg (a.lo / 2 ^ g).toNat (shift + g - p), true⟩

/-- Integer square root by bits. -/
def isqrtLoop (n : Nat) : Nat → Nat → Nat
  | 0, r => r
  | k + 1, r => let t := r + 2 ^ k; isqrtLoop n k (if t * t ≤ n then t else r)
def isqrt (n : Nat) : Nat := isqrtLoop n (Nat.log2 n / 2 + 1) 0

/-- A quotient of positive integers times 2^e, to at least 256 bits beyond the divisor and below the units place. -/
def quotient (neg : Bool) (a b : Nat) (e : Int) : Real :=
  let k := 256 + Nat.log2 b + e.toNat
  ⟨.fin neg (a * 2 ^ k / b) (e - k), a * 2 ^ k % b != 0⟩

/-- Exact quotient of finite values, the divisor not zero. -/
def Val.div (a b : Val) : Real :=
  match a, b with
  | .fin s m e, .fin t n f => if m = 0 then ⟨.fin (s ^^ t) 0 0, false⟩ else quotient (s ^^ t) m n (e - f)
  | .inf s, .fin t _ _ => ⟨.inf (s ^^ t), false⟩
  | _, _ => ⟨.nan, false⟩

/-- 2^a for a finite argument. -/
def exp2Fin (neg : Bool) (m : Nat) (e : Int) : Real :=
  if m = 0 then ⟨.fin false 1 0, false⟩
  else
    let whole := if 0 ≤ e then (if e < 64 then m * 2 ^ e.toNat else 4096) else m / 2 ^ (-e).toNat
    let exact := decide (0 ≤ e) || m % 2 ^ (-e).toNat == 0
    if 2048 ≤ whole then ⟨.fin false 1 (if neg then -2048 else 2048), false⟩
    else if exact then ⟨.fin false 1 (if neg then -(whole : Int) else whole), false⟩
    else
      let f := m - whole * 2 ^ (-e).toNat
      let (n, f) : Int × Nat := if neg then (-(whole : Int) - 1, 2 ^ (-e).toNat - f) else (whole, f)
      readOff prec guard64 false n (expIv prec (Iv.mul prec (Iv.dyadic prec f e) (ln2Iv prec)))

/-- log2 of a positive finite argument. -/
def log2Fin (m : Nat) (e : Int) : Real :=
  let l := Nat.log2 m
  let k : Int := e + l
  if m = 2 ^ l then ⟨.fin (decide (k < 0)) k.natAbs 0, false⟩
  else
    let x := Iv.div prec (lnIv prec m (2 ^ l)) (ln2Iv prec)
    let y : Iv := ⟨x.lo + k * 2 ^ prec, x.hi + k * 2 ^ prec⟩
    if 0 ≤ k then readOff prec guard64 false 0 y else readOff prec guard64 true 0 ⟨-y.hi, -y.lo⟩

/-- 1 / sqrt a and sqrt a of a positive finite argument. -/
def rsqrtFin (m : Nat) (e : Int) : Real :=
  let (m, e) := if e % 2 = 0 then (m, e) else (2 * m, e - 1)
  let k := 256 + Nat.log2 m
  let n := isqrt (2 ^ (2 * k) / m)
  ⟨.fin false n (-(e / 2) - k), n * n * m != 2 ^ (2 * k)⟩
def sqrtFin (m : Nat) (e : Int) : Real :=
  let (m, e) := if e % 2 = 0 then (m, e) else (2 * m, e - 1)
  let n := isqrt (m * 2 ^ 512)
  ⟨.fin false n (e / 2 - 256), n * n != m * 2 ^ 512⟩

/-- tanh of a finite argument that is not zero. -/
def tanhFin (neg : Bool) (m : Nat) (e : Int) : Real :=
  let big := decide (0 ≤ (e : Int) + Nat.log2 m - 7)
  if big then ⟨.fin neg (2 ^ 128 - 1) (-128), true⟩
  else
    -- t = e^(-2 a) = 2^(-n) e^(-f): a below 128 in units of ln 2
    let a2 := (Iv.dyadic prec m e).scale 2
    let ln2 := ln2Iv prec
    let n := (a2.lo / ln2.hi).toNat
    let f := a2.sub (ln2.scale n)
    let ex := expIv prec ⟨if f.lo < 0 then 0 else f.lo, f.hi⟩
    let t := Iv.div prec (Iv.one prec) (ex.scale (2 ^ n))
    readOff prec guard64 neg 0 (Iv.div prec ((Iv.one prec).sub t) ((Iv.one prec).add t))

/-- sin or cos of a finite argument that is not zero: reduced by multiples of pi / 2 at full length. -/
def trigFin (cosine neg : Bool) (m : Nat) (e : Int) : Real :=
  let p := prec + (if 0 ≤ e then e.toNat else 0) + 64
  let half : Iv := (piIv p).divN 2
  let x := Iv.dyadic p m e
  let k := (x.lo / half.hi).toNat
  let r := x.sub (half.scale k)
  let r : Iv := ⟨if r.lo < 0 then 0 else r.lo, r.hi⟩
  let q := (k + b2n cosine) % 4
  let y := if q % 2 = 0 then sinIv p r else cosIv p r
  let sgn := decide (2 ≤ q) ^^ (neg && !cosine)
  readOff p (p - prec + guard64) sgn 0 y

/-- A transcendental's exact result on a value (R282): a real, an infinity or NaN, with the events of its special operands. Operations by
OPCODE 0x20 to 0x27. -/
def transOf (op : Nat) (a : Val) : Real × Ev :=
  let ok (r : Real) : Real × Ev := (r, {})
  let bad : Real × Ev := (⟨.nan, false⟩, { invalid := true })
  match op, a with
  | _, .nan => (⟨.nan, false⟩, { nanIn := true })
  | 0x20, .inf neg => ok ⟨if neg then Val.zero else .inf false, false⟩
  | 0x20, .fin neg m e => ok (exp2Fin neg m e)
  | 0x21, .inf neg => if neg then bad else ok ⟨.inf false, false⟩
  | 0x21, .fin neg m e =>
    if m = 0 then (⟨.inf true, false⟩, { divZero := true })
    else if neg then bad else ok (log2Fin m e)
  | 0x22, .inf neg => ok ⟨.fin neg 0 0, false⟩
  | 0x22, .fin neg m e => if m = 0 then (⟨.inf neg, false⟩, { divZero := true }) else ok (quotient neg 1 m (-e))
  | 0x23, .inf neg => if neg then bad else ok ⟨Val.zero, false⟩
  | 0x23, .fin neg m e =>
    if m = 0 then (⟨.inf neg, false⟩, { divZero := true }) else if neg then bad else ok (rsqrtFin m e)
  | 0x24, .inf neg => if neg then bad else ok ⟨.inf false, false⟩
  | 0x24, .fin neg m e => if m = 0 then ok ⟨.fin neg 0 0, false⟩ else if neg then bad else ok (sqrtFin m e)
  | 0x25, .inf neg => ok ⟨.fin neg 1 0, false⟩
  | 0x25, .fin neg m e => if m = 0 then ok ⟨.fin neg 0 0, false⟩ else ok (tanhFin neg m e)
  | 0x26, .inf _ => bad
  | 0x26, .fin neg m e => if m = 0 then ok ⟨.fin neg 0 0, false⟩ else ok (trigFin false neg m e)
  | _, .inf _ => bad
  | _, .fin neg m e => if m = 0 then ok ⟨.fin false 1 0, false⟩ else ok (trigFin true neg m e)

end Sys2Proof.Machine
end

