-- ==== Sys2Proof/Machine/Ve.lean ====
section
/-! DEFINITION. The vector engine (R271-R299): operands as lanes, the active lane count, and every VE operation. -/
namespace Sys2Proof.Machine

/-! ## Lanes (R271-R273) -/

/-- Lanes of a 512-byte beat for a tag. -/
def laneCount (tag : Nat) : Nat := if esizeBits tag = 0 then 1 else 4096 / esizeBits tag

/-- A source operand of an issue; `bad`: a fragment whose own checks fail, with its unit's tag. -/
inductive Src where
  | none
  | run (h : Handle) (c : Coord)
  | scalar (h : Handle) (c : Coord)
  | lanes (h : Handle) (c : Coord)
  | queue (q : Nat) (tag : Nat)
  | frag (p : TilePos)
  | bad (f : Nat) (t : Trap)
  | imm (x : Nat)
deriving Repr, Inhabited

/-- A destination operand of an issue. -/
inductive Dst where
  | run (h : Handle) (c : Coord)
  | frag (p : TilePos)
  | bad (f : Nat) (t : Trap)
deriving Repr, Inhabited

/-- A fragment's position: every unit lent, and all of one format (R297). Where several of its checks fail, they stand in this order: DESIGN
CHOICE, R297 gives none (notes/assumptions/59.md). -/
def fragPos (s : State) (c t : Nat) (k : Coord) : Chk TilePos := do
  need (decide (t ≤ 15)) .bounds
  let f := unitTagOf s c t
  need (unitLent s c t) .permission
  if unitsOf f = 0 then fault .format
  else
    let p ← tileCoord t f k false
    need ((tileUnits t f).all (unitLent s c)) .permission
    need ((tileUnits t f).all fun u => unitTagOf s c u == f) .format
    return p

/-- The source that a slot names; `how`: 0 run, 1 scalar, 2 per lane. A failing check of a fragment is met in lane 0 (R275). -/
def srcOf (c : Nat) (u : Run) (slot : Nat) (d : Desc) (how : Nat) : M Src := do
  match opnd d with
  | .mem =>
    if how = 1 then return .scalar (u.h slot) (u.at d)
    else if how = 2 then return .lanes (u.h slot) (u.at d)
    else return .run (u.h slot) (u.at d)
  | .queue => do
    let q ← queueElem c (2 + d.hnd.val) 0
    return .queue (2 + d.hnd.val) q.tag
  | .tile => do
    let s ← get
    return match fragPos s c d.org.val (u.at d) with
      | .ok p => .frag p
      | .error t => .bad (unitTagOf s c d.org.val) t
  | .imm => return .imm (immOf d)
  | _ => return .none

def dstOf (c : Nat) (u : Run) (d : Desc) : M Dst := do
  match opnd d with
  | .tile => do
    let s ← get
    return match fragPos s c d.org.val (u.at d) with
      | .ok p => .frag p
      | .error t => .bad (unitTagOf s c d.org.val) t
  | _ => return .run (u.h 0) (u.at d)

/-- The tag of a source; an immediate carries the driving tag `t`. -/
def Src.tag (t : Nat) : Src → Nat
  | .none => t
  | .run h _ => hFmt h
  | .scalar h _ => hFmt h
  | .lanes h _ => hFmt h
  | .queue _ g => g
  | .frag p => p.f
  | .bad f _ => f
  | .imm _ => t
def Dst.tag : Dst → Nat
  | .run h _ => hFmt h
  | .frag p => p.f
  | .bad f _ => f

/-- Limit of a memory run (R273); a start outside the window leaves one lane, whose check then fails. -/
def runLimit (h : Handle) (c : Coord) : Nat := Nat.max 1 ((hWext h 0 : Int) + 1 - nth 0 c 0).toNat
def Src.limit (l : Nat) : Src → Nat
  | .run h c => runLimit h c
  | .frag p => 256 - p.col
  | _ => l
def Dst.limit : Dst → Nat
  | .run h c => runLimit h c
  | .frag p => 256 - p.col
  | .bad _ _ => 256

/-- The spaces of a VE memory operand (R272). -/
def veSpace (sp : Nat) : Bool := decide (sp ≤ 3) || sp == 5

/-- Lane code and absolute coordinate of a source. `adm` is the operation's test of the tag, made at step 5 of R35 for memory; a source that
is no memory is tested with a handle of zeros, which names no scale. -/
def readLane (c : Nat) (w : Who) (adm : Handle → Nat → Bool) (x : Src) (t j : Nat) : M (Nat × List Nat) := do
  match x with
  | .run h k => do
    let l ← locate w h (along k j) .load false (adm h) veSpace
    hostGate w l false true
    let v ← readElem w l
    return (v, l.p.abs)
  | .scalar h k => do
    let l ← locate w h k .load false (adm h) veSpace
    hostGate w l false true
    let v ← readElem w l
    return (v, l.p.abs)
  | .lanes h k => do
    let l ← locate w h (along k j) .load false (adm h) veSpace
    hostGate w l false true
    let v ← readElem w l
    return (v, l.p.abs)
  | .queue q g => do
    let b := esizeBits g
    let e ← queuePeek c q (j * b / 4096)
    needM (e.tag == g && adm 0 g) .format
    return (packed e.bytes b (j % (4096 / Nat.max 1 b)), [])
  | .frag p => do
    needM (adm 0 p.f) .format
    needM (decide (p.col + j ≤ 255)) .bounds
    modify fun s => if s.marks.isEmpty then s else landEng c 3 s
    unmarked (accAt c (accOff p.t p.f p.row (p.col + j))) (esizeBytes p.f)
    return (accCode (← get) c 3 p p.row (p.col + j), [])
  | .bad _ y => throw (.trap y)
  | .imm v => do
    needM (adm 0 t && t != 0xC1) .format
    return (v % 2 ^ esizeBits t, [])
  | .none => return (0, [])

/-- Beats of a queue that `n` lanes need. -/
def queueBeats (x : Src) (n : Nat) : Nat :=
  match x with
  | .queue _ g => (n * esizeBits g + 4095) / 4096
  | _ => 0

/-- The elements an issue read are popped as it completes (R272). -/
def popSrc (c : Nat) (w : Who) (x : Src) (n : Nat) : M Unit := do
  match x with
  | .queue q _ => queuePop c q w.agent (Nat.max 1 (queueBeats x n))
  | _ => pure ()

/-- Every queue element that an issue needs is present. -/
def needBeats (c : Nat) (x : Src) (n : Nat) : M Unit := do
  match x with
  | .queue q _ => do
    let _ ← queueElem c q (queueBeats x n - 1)
  | _ => pure ()

/-! ## Results (R275, R296) -/

/-- A located result. -/
inductive Put where
  | store (l : Loc)
  | update (l : Loc)
  | msa (l : Loc)
  | acc (p : TilePos) (row col : Nat)
deriving Repr, Inhabited

def wop (r : Rec) : Nat := r.spare.val % 8
def uopOf : Nat → UOp
  | 1 => .add | 2 => .min | _ => .max

/-- Locates one result with every check, race check included. -/
def putAt (w : Who) (wp : Nat) (adm : Handle → Nat → Bool) (h : Handle) (k : Coord) : M Put := do
  if wp = 0 then
    let l ← locate w h k .store false (adm h) veSpace
    hostGate w l false (storeAwaits (← get))
    raceCheck w l.p l.flat l.view true
    return .store l
  else if eSpace (ltEntry (← get) w (hLt h)) = 4 then
    let l ← locate w h k .msa false (fun t => adm h t && (t == 0x44 || t == 0x82 || t == 0x80 || t == 0x81))
    return .msa l
  else
    let l ← locate w h k .update false (fun t => adm h t && (t == 0x44 || t == 0x82 || t == 0x81)) veSpace
    return .update l

/-- Locates lane `j` of a destination; a fragment admits no update, after the test of its tag (R296). -/
def putLane (w : Who) (wp : Nat) (adm : Handle → Nat → Bool) (d : Dst) (j : Nat) : M Put := do
  match d with
  | .run h k => putAt w wp adm h (along k j)
  | .frag p => do
    needM (adm 0 p.f && (wp == 0 || updTag p.f)) .format
    needM (wp == 0) .permission
    needM (decide (p.col + j ≤ 255)) .bounds
    return .acc p p.row (p.col + j)
  | .bad _ y => throw (.trap y)

/-- Writes a code to a located result: a store or an accumulator write enters the engine's pipeline; an update or a memory-side request
leaves at once. -/
def putCode (c : Nat) (w : Who) (wp : Nat) (x : Put × Nat) : M Unit := do
  match x.1 with
  | .store l => do
    pendElem w l (storeBits l.p.tag x.2)
  | .update l => updateAt w l (uopOf wp) x.2
  | .msa l => msaAt w l (uopOf wp) x.2
  | .acc p row col => modify (pend c 3 (.acc (accOff p.t p.f row col) (leBytes (esizeBytes p.f) (storeBits p.f x.2))))

/-- Draws of RNG_VE, whose state advances when the issue completes (R278, R279). -/
def drawVe (c : Nat) : M Nat := do
  let s ← get
  let d := rngStep (rngNow (s.core c) true)
  set (pend c 3 (.rng true d.state) s)
  return d.r
def drawIf (c : Nat) (rnd : Rnd) : M Nat := if rnd = .sr then drawVe c else pure 0

/-- The events of an issue, set in VE_FLAGS as it completes (R277, R371). -/
def setVeFlags (c : Nat) (e : Ev) : M Unit := if e.bits = 0 then pure () else modify (pend c 3 (.flags true e.bits))

/-- A result encoded once: one draw with SR; a NaN that no NaN operand made is INVALID. -/
def encodeVe (c : Nat) (tag : Nat) (r : Rec) (nanIn : Bool) (v : Real) : M Nat := do
  let d ← drawIf c (rndOf r.rnd.val)
  let (code, ev) := fencode tag v (rndOf r.rnd.val) r.sat d
  setVeFlags c (if v.v.isNan && !nanIn then { ev with nanIn := false, invalid := true } else ev)
  return code

/-! ## Admitted tags -/

def isIntOp (t : Nat) : Bool := decide (0x40 ≤ t ∧ t ≤ 0x45)
def isTrans (t : Nat) : Bool := t == 0x80 || t == 0x81 || t == 0x82
/-- A handle with a scale is FORMAT at step 5 where the slot admits none (R275). -/
def plainTag (p : Nat → Bool) (h : Handle) (t : Nat) : Bool := hScaleKind h == 0 && p t
/-! ## The checks of a lane (R275) -/

/-- What a lane's operand gives. -/
inductive Got where
  | code (x : Nat)
  | scale (v : Val)
  | dest (p : Put)
deriving Inhabited

def Got.x : Got → Nat
  | .code x => x
  | _ => 0
def Got.v : Got → Val
  | .scale v => v
  | _ => .fin false 1 0
def Got.p : Got → Put
  | .dest p => p
  | _ => default

/-- Place of a trap in the step order of R35; a check that is none of R35's stands where its cause does, and an uncorrectable error, met by
the access itself, after step 13. -/
def trapRank (t : Trap) : Nat :=
  let n := bitsAt t.info 59 4
  if n ≠ 0 then n
  else match t.cause with
    | .bounds => 3
    | .format => 5
    | .permission => 8
    | .race => 13
    | _ => 14

/-- The traps of checks made each from one state, with what each leaves. -/
def trapsOf (s : State) : List (M Got) → List (Trap × State)
  | [] => []
  | m :: t => match m.go s with
    | (.error (.trap x), s') => (x, s') :: trapsOf s t
    | _ => trapsOf s t

/-- The trap of least step; of equal ones the first. -/
def leastTrap : Trap × State → List (Trap × State) → Trap × State
  | b, [] => b
  | b, a :: t => leastTrap (if trapRank a.1 < trapRank b.1 then a else b) t

/-- The operands of one lane: where one fails, the check of least step among them and those behind it decides the fault (R275). -/
def laneSet : List (M Got) → M (List Got)
  | [] => pure []
  | m :: t => fun s => match m.go s with
    | (.ok g, s1) => match (laneSet t).go s1 with
      | (.ok l, s2) => (.ok (g :: l), s2)
      | (.error e, s2) => (.error e, s2)
    | (.error (.trap x), s1) =>
      let (y, s2) := leastTrap (x, s1) (trapsOf s t)
      (.error (.trap y), s2)
    | (.error e, s1) => (.error e, s1)

/-- The lanes of an issue in order, each by its operands. -/
def lanesOf (n : Nat) (f : Nat → List (M Got)) : M (List (List Got)) := mapList (fun j => laneSet (f j)) (List.range n)

/-- The code of a source's lane. -/
def gotCode (c : Nat) (w : Who) (adm : Handle → Nat → Bool) (x : Src) (t j : Nat) : M Got := do
  let v ← readLane c w adm x t j
  return .code v.1
/-- A located destination lane. -/
def gotDest (w : Who) (wp : Nat) (adm : Handle → Nat → Bool) (d : Dst) (j : Nat) : M Got := do
  let p ← putLane w wp adm d j
  return .dest p
def gotPut (w : Who) (wp : Nat) (adm : Handle → Nat → Bool) (h : Handle) (k : Coord) : M Got := do
  let p ← putAt w wp adm h k
  return .dest p
/-- The scale of a source's lane: 1 for an operand that is no scaled memory. -/
def gotScale (w : Who) (x : Src) (j : Nat) : M Got :=
  match x with
  | .run h k => do
    let v ← scaleOf w h (absCoord h w.mt (along k j))
    return .scale v
  | _ => pure (.scale (.fin false 1 0))

/-! ## The common form: lanes of A, B and C into D -/

/-- The lanes of an issue whose operands all carry the driving tag, A's. `f` makes a lane's code. Operands that name one queue read the same
elements from its head and pop their elements one after the other: DESIGN CHOICE, R272 does not say (notes/assumptions/59.md). -/
def laneOp (adm : Nat → Bool) (bs : Bool) (f : Nat → Nat → Nat → Nat → M Nat) (r : Rec) (c : Nat) (e : Eng) (u : Run) : M Run := whole do
  let w := engWho (← get) c e
  let a ← srcOf c u 1 r.a 0
  let b ← srcOf c u 2 r.b (if bs then 1 else 0)
  let cc ← srcOf c u 3 r.c 0
  let d ← dstOf c u r.d
  let t := a.tag 0
  let ok := fun g => g == t && adm g
  let b' := match b with
    | .none => cc
    | _ => b
  let c' := match b with
    | .none => Src.none
    | _ => cc
  let l := laneCount t
  let n := Nat.min l (Nat.min (Nat.min (a.limit l) (b'.limit l)) (Nat.min (c'.limit l) d.limit))
  needBeats c a n
  needBeats c b' n
  needBeats c c' n
  let ins ← lanesOf n fun j =>
    [gotCode c w (plainTag ok) a t j, gotCode c w (plainTag ok) b' t j, gotCode c w (plainTag ok) c' t j,
      gotDest w (wop r) (plainTag ok) d j]
  let outs ← mapList (fun g => do
    let v ← f t (nth default g 0).x (nth default g 1).x (nth default g 2).x
    return ((nth default g 3).p, v)) ins
  forList (putCode c w (wop r)) outs
  popSrc c w a n
  popSrc c w b' n
  popSrc c w c' n
  return u.next

/-! ## Integer operations (R280) -/

/-- An integer result encoded by R62. -/
def intResult (c t : Nat) (sat : Bool) (i : Int) : M Nat := do
  let (code, ev) := fencode t ⟨Val.ofInt i, false⟩ .rtz sat 0
  setVeFlags c ev
  return code

/-- The value of an integer code. -/
def intVal (t x : Nat) : Int :=
  match fmtOf t with
  | some (.int sg n) => if sg then sx x n else (x % 2 ^ n : Nat)
  | _ => 0
def intSigned (t : Nat) : Bool :=
  match fmtOf t with
  | some (.int sg _) => sg
  | _ => false

/-- An integer operation by OPCODE. -/
def intLane (op : Nat) (r : Rec) (c : Nat) (t x y _z : Nat) : M Nat :=
  let a := intVal t x
  let b := intVal t y
  let n := esizeBits t
  match op with
  | 0x01 => intResult c t r.sat (a + b)
  | 0x02 => intResult c t r.sat (a - b)
  | 0x03 => intResult c t r.sat (a * b)
  | 0x04 => pure (if a ≤ b then x else y)
  | 0x05 => pure (if a ≤ b then y else x)
  | 0x06 => pure (x &&& y)
  | 0x07 => pure (x ||| y)
  | 0x08 => pure (x ^^^ y)
  | 0x09 => pure (x * 2 ^ (y % n) % 2 ^ n)
  | 0x0A => pure (if intSigned t then (a / 2 ^ (y % n) % 2 ^ n).toNat else x / 2 ^ (y % n))
  | _ => intResult c t r.sat (if a < 0 then -a else a)

def intIssue (op : Nat) (r : Rec) (c : Nat) : Eng → Run → M Run := laneOp isIntOp (bitAt r.opx.val 0) (intLane op r c) r c

/-! ## Floating operations (R281) -/

/-- The lesser or greater of two values, -0 below +0, NaN with either (R281). -/
def minVal (a b : Val) : Val :=
  if a.isNan || b.isNan then .nan else if a.lt b || (a.cmp b == some 0 && a.sign) then a else b
def maxVal (a b : Val) : Val :=
  if a.isNan || b.isNan then .nan else if b.lt a || (a.cmp b == some 0 && !a.sign) then a else b

/-- Real and imaginary terms of a product of values. -/
def mulTerms : List Val → List Val → List (List Val)
  | [ar, ai], [br, bi] => [[ar.mul br, (ai.mul bi).neg], [ar.mul bi, ai.mul br]]
  | [x], [y] => [[x.mul y]]
  | _, _ => []

/-- Terms per part of a floating sum or product by OPCODE. -/
def floatTerms (op : Nat) (a b z : List Val) : List (List Val) :=
  match op with
  | 0x10 => (a.zip b).map fun e => [e.1, e.2]
  | 0x11 => (a.zip b).map fun e => [e.1, e.2.neg]
  | 0x12 => mulTerms a b
  | _ => ((mulTerms a b).zip z).map fun e => e.1 ++ [e.2]

/-- A code's sign bits cleared or inverted. -/
def signOp (t x : Nat) (clear : Bool) : Nat :=
  let n := partBits t
  joinParts t ((partsOf t x).map fun p => if clear then p % 2 ^ (n - 1) else p ^^^ 2 ^ (n - 1))

/-- A floating operation by OPCODE. -/
def floatLane (op : Nat) (r : Rec) (c : Nat) (t x y z : Nat) : M Nat := do
  let va := valuesOf t x
  let a := if r.conj then conjOf va else va
  let b := valuesOf t y
  if op = 0x14 ∨ op = 0x15 then
    let v := if op = 0x14 then minVal (nth .nan a 0) (nth .nan b 0) else maxVal (nth .nan a 0) (nth .nan b 0)
    let d ← drawIf c (rndOf r.rnd.val)
    if v.isNan then setVeFlags c { nanIn := true }
    return (fencode t ⟨v, false⟩ (rndOf r.rnd.val) r.sat d).1
  else if op = 0x16 ∨ op = 0x17 then
    if a.any (·.isNan) then setVeFlags c { nanIn := true }
    return signOp t x (op == 0x16)
  else
    let zs := valuesOf t z
    let nan := a.any (·.isNan) || b.any (·.isNan) || (op == 0x13 && zs.any (·.isNan))
    let cs ← mapList (fun ts => encodeVe c (partTag t) r nan ⟨xsum ts, false⟩) (floatTerms op a b zs)
    return joinParts t cs

/-- Tags of a floating operation. -/
def floatTag (op : Nat) (conj : Bool) (t : Nat) : Bool :=
  ((decide (0x80 ≤ t ∧ t ≤ 0x83)) && !conj) || (isCplx t && (op == 0x10 || op == 0x11 || op == 0x12 || op == 0x13 || op == 0x17))

def floatIssue (op : Nat) (r : Rec) (c : Nat) : Eng → Run → M Run :=
  laneOp (floatTag op r.conj) (bitAt r.opx.val 0) (floatLane op r c) r c

/-! ## Transcendentals (R282) -/

def transLane (op : Nat) (r : Rec) (c : Nat) (t x _y _z : Nat) : M Nat := do
  let (v, ev) := transOf op (fvalue t x)
  let d ← drawIf c (rndOf r.rnd.val)
  let (code, e2) := fencode t v (rndOf r.rnd.val) r.sat d
  setVeFlags c (if v.v.isNan then ev else ev.or e2)
  return code

def transIssue (op : Nat) (r : Rec) (c : Nat) : Eng → Run → M Run := laneOp isTrans false (transLane op r c) r c

/-! ## Conversion and quantisation (R274, R284, R285) -/

/-- Placement of an issue of a width-changing operation: lanes L, and the positions of element i in A and in D (R274). -/
structure Widths where
  l    : Nat
  pa   : Nat → Nat
  pd   : Nat → Nat
  aLim : Bool
  dLim : Bool

/-- Position i of L in an interleave of w beats. -/
def interleave (l w i : Nat) : Nat := i % w * (l / w) + i / w

def widthsOf (ta td : Nat) (ilv : Bool) : Widths :=
  let a := esizeBits ta
  let d := esizeBits td
  if a < d then ⟨laneCount ta, id, interleave (laneCount ta) (d / Nat.max 1 a), true, false⟩
  else if d < a && ilv then ⟨laneCount td, interleave (laneCount td) (a / Nat.max 1 d), id, false, true⟩
  else ⟨laneCount ta, id, id, true, true⟩

/-- The amax update that OPX names (R66). -/
def veAmax (c opx : Nat) (v : Val) : M Unit := amaxPend c 3 (opx % 64) v

/-- `ve.cvt` and `ve.dequant`. -/
def cvtIssue (deq : Bool) (r : Rec) (c : Nat) (e : Eng) (u : Run) : M Run := whole do
  let w := engWho (← get) c e
  let a ← srcOf c u 1 r.a 0
  let d ← dstOf c u r.d
  let ta := a.tag 0
  let td := d.tag
  let pair := isCplx ta == isCplx td
  let mem := match a with
    | .run _ _ => true
    | _ => false
  let okA := fun h t => t != 0xF0 && pair && (if deq then mem && hScaleKind h != 0 else hScaleKind h == 0)
  let okD := fun h t => hScaleKind h == 0 && pair && (if deq then isIeee t else encodable t)
  let g := widthsOf ta td (bitAt r.spare.val 3)
  let n := Nat.min g.l (Nat.min (if g.aLim then a.limit g.l else g.l) (if g.dLim then d.limit else g.l))
  let m := if opnd r.c = .imm then fvalue 0x82 (bitsAt (immOf r.c) 0 32) else .fin false 1 0
  let beats := if g.aLim then n else g.l
  needBeats c a beats
  let ins ← lanesOf n fun i =>
    [gotCode c w okA a ta (g.pa i), if deq then gotScale w a (g.pa i) else pure (.scale (.fin false 1 0)), gotDest w (wop r) okD d (g.pd i),
      (do needM (opnd r.c != .imm || g.l != laneCount 0xC1) .format; return .code 0)]
  let outs ← mapList (fun i => do
    let sc := (nth default i 1).v
    let raw := valuesOf ta (nth default i 0).x
    let ys := raw.map fun y => if deq then y.mul sc else y
    let vs := ys.map (·.mul m)
    forList (fun z => if bitAt r.opx.val 6 then veAmax c r.opx.val (if bitAt r.opx.val 7 then z.2 else z.1) else pure ()) (ys.zip vs)
    let cs ← mapList (fun z => encodeVe c (partTag td) r (z.1.isNan || sc.isNan || m.isNan) ⟨z.2, false⟩) (raw.zip vs)
    return ((nth default i 2).p, joinParts td cs)) ins
  forList (putCode c w (wop r)) outs
  popSrc c w a beats
  return u.next

/-- `ve.quant`. B and the scale element belong to lane 0, and neither a NaN in B nor the encoding of the scale sets a flag: DESIGN CHOICE, R275 and
R285 say nothing of these (notes/assumptions/59.md). -/
def quantIssue (r : Rec) (c : Nat) (e : Eng) (u : Run) : M Run := whole do
  let w := engWho (← get) c e
  let a ← srcOf c u 1 r.a 0
  let ta := a.tag 0
  let h := u.h 0
  let td := hFmt h
  let g := widthsOf ta td (bitAt r.spare.val 3)
  let n := Nat.min g.l (Nat.min (if g.aLim then a.limit g.l else g.l) (if g.dLim then runLimit h (u.at r.d) else g.l))
  let beats := if g.aLim then n else g.l
  needBeats c a beats
  let okD := fun k t => hScaleKind k == 2 && is8bit t
  let scalar := gotCode c w (plainTag fun t => t == 0x82) (.scalar (u.h 2) (u.at r.b)) 0x82 0
  let ins ← lanesOf n fun i =>
    [gotCode c w (plainTag isIeee) a ta (g.pa i), if i = 0 then scalar else pure (.code 0), gotPut w 0 okD h (along (u.at r.d) (g.pd i)),
      if i = 0 then (do let l ← scaleLoc w h (absCoord h w.mt (u.at r.d)); return .dest (.store l)) else pure (.code 0)]
  let ar := (fvalue 0x82 (nth default (nth [] ins 0) 1).x).abs
  let sc := if ar.isNan || ar.isInf || ar.isZero then 0x3F800000 else (fencode 0x82 (ar.div (maxOf td)) .rup true 0).1
  let sv := fvalue 0x82 sc
  let outs ← mapList (fun i => do
    let v := fvalue ta (nth default i 0).x
    if bitAt r.opx.val 6 then veAmax c r.opx.val v
    let code ← encodeVe c td r v.isNan (v.div sv)
    return ((nth default i 2).p, code)) ins
  forList (putCode c w 0) outs
  putCode c w 0 ((nth default (nth [] ins 0) 3).p, sc)
  popSrc c w a beats
  return u.next

/-- `ve.amax` (R286). -/
def amaxIssue (r : Rec) (c : Nat) (e : Eng) (u : Run) : M Run := whole do
  let w := engWho (← get) c e
  let a ← srcOf c u 1 r.a 0
  let t := a.tag 0
  let l := laneCount t
  let n := Nat.min l (a.limit l)
  needBeats c a n
  let ins ← lanesOf n fun j => [gotCode c w (fun _ g => g != 0xF0) a t j, gotScale w a j]
  forList (fun g => forList (fun v => veAmax c r.opx.val (v.mul (nth default g 1).v)) (valuesOf t (nth default g 0).x)) ins
  popSrc c w a n
  return u.next

/-! ## Reductions and scan (R287, R288) -/

/-- Tags of a reduction. -/
def reduceTags (op ta td : Nat) : Bool :=
  (op != 0x3C && isIntOp ta && (td == 0x44 || td == 0x45)) || (isIeee ta && isIeee td) || (op == 0x38 && isCplx ta && isCplx td)

/-- One part's fold. -/
def reduceVal (op : Nat) (absv : Bool) (old : Val) (l : List Val) : Val :=
  match op with
  | 0x38 => xsum (old :: l)
  | 0x3C => xsum (old :: l.map fun v => v.mul v)
  | 0x39 => (l.map fun v => if absv then v.abs else v).foldl maxVal old
  | _ => (l.map fun v => if absv then v.abs else v).foldl minVal old

/-- A reduction; D's checks, to be read and to be written, stand with lane 0's: DESIGN CHOICE, R275 gives a scalar no lane
(notes/assumptions/59.md). -/
def reduceIssue (op : Nat) (r : Rec) (c : Nat) (e : Eng) (u : Run) : M Run := whole do
  let w := engWho (← get) c e
  let a ← srcOf c u 1 r.a 0
  let ta := a.tag 0
  let h := u.h 0
  let ok := reduceTags op ta (hFmt h)
  let l := laneCount ta
  let n := Nat.min l (a.limit l)
  needBeats c a n
  let fresh := r.clr && nth 0 (indices u.n u.tc) 0 == 0
  let td := hFmt h
  let adm := plainTag fun _ => ok
  let ins ← lanesOf n fun j =>
    [gotCode c w adm a ta j, if j = 0 ∧ fresh = false then gotCode c w adm (.scalar h (u.at r.d)) td 0 else pure (.code 0),
      if j = 0 then gotPut w 0 adm h (u.at r.d) else pure (.code 0)]
  let xs := ins.map fun g => valuesOf ta (nth default g 0).x
  let old := if fresh then
      List.replicate 2 (match op with
        | 0x39 => Val.inf true
        | 0x3A => Val.inf false
        | _ => Val.zero)
    else valuesOf td (nth default (nth [] ins 0) 1).x
  let p := (nth default (nth [] ins 0) 2).p
  let parts := if isCplx ta then [0, 1] else [0]
  let cs ← mapList (fun k => do
    let vs := xs.map fun v => nth .nan v k
    let o := nth .nan old k
    encodeVe c (partTag td) r (o.isNan || vs.any (·.isNan)) ⟨reduceVal op (bitAt r.opx.val 0) o vs, false⟩) parts
  putCode c w 0 (p, joinParts td cs)
  popSrc c w a n
  return u.next

/-- `ve.scan`: the carry is the code of the last partial sum. -/
def scanIssue (r : Rec) (c : Nat) (e : Eng) (u : Run) : M Run := whole do
  let w := engWho (← get) c e
  let a ← srcOf c u 1 r.a 0
  let d ← dstOf c u r.d
  let t := a.tag 0
  let ok := fun g => g == t && (isIntOp g || isIeee g)
  let l := laneCount t
  let n := Nat.min l (Nat.min (a.limit l) d.limit)
  needBeats c a n
  let got ← lanesOf n fun j => [gotCode c w (plainTag ok) a t j, gotDest w 0 (plainTag ok) d j]
  let ins := got.map fun g => ((nth default g 1).p, fvalue t (nth default g 0).x)
  let k0 := if u.carry.isEmpty || (r.clr && nth 0 (indices u.n u.tc) 0 == 0) then Val.zero else fvalue t (nth 0 u.carry 0)
  let vs := ins.map (·.2)
  let outs ← mapList (fun j => do
    let pre := k0 :: vs.take (j + 1)
    let code ← encodeVe c t r (pre.any (·.isNan)) ⟨xsum pre, false⟩
    return ((nth default ins j).1, code)) (List.range n)
  forList (putCode c w 0) outs
  popSrc c w a n
  return { u.next with carry := [(nth default outs (n - 1)).2] }

/-! ## Compare, select and add-compare-select (R289, R290) -/

/-- The condition of a comparison of parts; cond 0 eq, 1 ne, 2 lt, 3 le, 4 gt, 5 ge, 6 un. -/
def cmpHolds (k : Nat) (a b : List Val) : Bool :=
  let un := a.any (·.isNan) || b.any (·.isNan)
  let eq := !un && (a.zip b).all fun e => e.1.cmp e.2 == some 0
  match k, a, b with
  | 0, _, _ => eq
  | 1, _, _ => !eq
  | 6, _, _ => un
  | k, [x], [y] => match x.cmp y with
    | none => false
    | some o => match k with
      | 2 => decide (o < 0) | 3 => decide (o ≤ 0) | 4 => decide (0 < o) | _ => decide (0 ≤ o)
  | _, _, _ => false

/-- Bits packed into mask bytes, the last filled with zeros. -/
def maskByte (l : List Bool) (k : Nat) : Nat := ((List.range 8).map fun j => b2n (nth false l (8 * k + j)) * 2 ^ j).sum

/-- A mask run written: bytes located first. -/
def maskPuts (w : Who) (h : Handle) (k : Coord) (n : Nat) : M (List Put) :=
  mapList (fun b => putAt w 0 (plainTag fun t => t == 0x43) h (along k b)) (List.range ((n + 7) / 8))

def cmpIssue (r : Rec) (c : Nat) (e : Eng) (u : Run) : M Run := whole do
  let w := engWho (← get) c e
  let a ← srcOf c u 1 r.a 0
  let b0 ← srcOf c u 2 r.b (if bitAt r.opx.val 3 then 1 else 0)
  let c0 ← srcOf c u 3 r.c 0
  let b := match b0 with
    | .none => c0
    | x => x
  let t := a.tag 0
  let ok := fun g => g == t && g != 0xF0
  let h := u.h 0
  let l := laneCount t
  let n := Nat.min l (Nat.min (Nat.min (a.limit l) (b.limit l)) (8 * runLimit h (u.at r.d)))
  needBeats c a n
  needBeats c b n
  let got ← lanesOf n fun j =>
    [gotCode c w (plainTag ok) a t j, gotCode c w (plainTag ok) b t j,
      if j % 8 = 0 then gotPut w 0 (plainTag fun t => t == 0x43) h (along (u.at r.d) (j / 8)) else pure (.code 0)]
  let bits ← mapList (fun g => do
    let va := valuesOf t (nth default g 0).x
    let vb := valuesOf t (nth default g 1).x
    if va.any (·.isNan) || vb.any (·.isNan) then setVeFlags c { nanIn := true }
    return cmpHolds (r.opx.val % 8) va vb) got
  forList (fun k => putCode c w 0 ((nth default (nth [] got (8 * k)) 2).p, maskByte bits k)) (List.range ((n + 7) / 8))
  popSrc c w a n
  popSrc c w b n
  return u.next

def selIssue (r : Rec) (c : Nat) (e : Eng) (u : Run) : M Run := whole do
  let w := engWho (← get) c e
  let a ← srcOf c u 1 r.a 0
  let b ← srcOf c u 2 r.b 0
  let d ← dstOf c u r.d
  let t := a.tag 0
  let ok := fun g => g == t && g != 0xF0
  let hm := u.h 3
  let l := laneCount t
  let n := Nat.min l (Nat.min (Nat.min (a.limit l) (b.limit l)) (Nat.min d.limit (8 * runLimit hm (u.at r.c))))
  needBeats c a n
  needBeats c b n
  let got ← lanesOf n fun j =>
    [gotCode c w (plainTag ok) a t j, gotCode c w (plainTag ok) b t j,
      gotCode c w (plainTag fun g => g == 0x43) (.run hm (u.at r.c)) 0x43 (j / 8), gotDest w 0 (plainTag ok) d j]
  let outs := (List.range n).map fun j =>
    let g := nth [] got j
    ((nth default g 3).p, if bitAt (nth default g 2).x (j % 8) then (nth default g 0).x else (nth default g 1).x)
  forList (putCode c w 0) outs
  popSrc c w a n
  popSrc c w b n
  return u.next

/-- A lane of `ve.acs`. -/
def acsLane (r : Rec) (c : Nat) (t x y z : Nat) : M Nat := do
  let a := fvalue t x
  let b := fvalue t y
  let code ← if isIntOp t then (do
      let _ ← drawIf c (rndOf r.rnd.val)
      intResult c t r.sat (intVal t x + intVal t y))
    else encodeVe c t r (a.isNan || b.isNan) ⟨xsum [a, b], false⟩
  let s := fvalue t code
  let k := fvalue t z
  if k.isNan then setVeFlags c { nanIn := true }
  if s.isNan || k.isNan then return (fencode t ⟨.nan, false⟩ .rne false 0).1
  else
    let keep := if bitAt r.opx.val 0 then !k.lt s else !s.lt k
    return if keep then code else z

/-! ## Moving lanes (R291-R293) -/

/-- Lane j of an index run. -/
def gotIndex (c : Nat) (w : Who) (b : Src) (j : Nat) : M Got := gotCode c w (plainTag fun g => g == 0x44) b 0x44 j
def Got.index (g : Got) : Int := sx g.x 32

/-- The lanes that an index run's beats are counted for: a queue supplies those of all L lanes, and lanes at or beyond n are read and
ignored (R273). -/
def indexBeats (b : Src) (l n : Nat) : Nat :=
  match b with
  | .queue _ _ => l
  | _ => n

def permIssue (r : Rec) (c : Nat) (e : Eng) (u : Run) : M Run := whole do
  let w := engWho (← get) c e
  let a ← srcOf c u 1 r.a 0
  let b ← srcOf c u 2 r.b 0
  let d ← dstOf c u r.d
  let t := a.tag 0
  let ok := fun g => g == t && g != 0xF0
  let l := laneCount t
  let n := Nat.min l (Nat.min (Nat.min (a.limit l) (b.limit l)) d.limit)
  needBeats c a n
  needBeats c b (indexBeats b l n)
  let ins ← lanesOf n fun j =>
    [gotCode c w (plainTag ok) a t j,
      (do let i ← gotIndex c w b j; needM (decide (0 ≤ i.index ∧ i.index < n)) .bounds; return i), gotDest w 0 (plainTag ok) d j]
  forList (fun g => putCode c w 0 ((nth default g 2).p, (nth default (nth [] ins (nth default g 1).index.toNat) 0).x)) ins
  popSrc c w a n
  popSrc c w b (indexBeats b l n)
  return u.next

/-- `ve.bcast`. -/
def bcastIssue (r : Rec) (c : Nat) (e : Eng) (u : Run) : M Run := whole do
  let w := engWho (← get) c e
  let a0 ← srcOf c u 1 r.a 1
  let d ← dstOf c u r.d
  let a := match a0 with
    | .none => Src.imm (immOf r.c)
    | x => x
  let t := match a with
    | .imm _ => d.tag
    | x => x.tag 0
  let ok := fun g => g == t && g != 0xF0
  let n := Nat.min (laneCount t) d.limit
  let got ← lanesOf n fun j => [if j = 0 then gotCode c w (plainTag ok) a t 0 else pure (.code 0), gotDest w (wop r) (plainTag ok) d j]
  forList (fun g => putCode c w (wop r) ((nth default g 1).p, (nth default (nth [] got 0) 0).x)) got
  return u.next

def gathIssue (r : Rec) (c : Nat) (e : Eng) (u : Run) : M Run := whole do
  let w := engWho (← get) c e
  let h := u.h 1
  let b ← srcOf c u 2 r.b 0
  let d ← dstOf c u r.d
  let t := hFmt h
  let ok := fun g => g == t && g != 0xF0
  let l := laneCount t
  let n := Nat.min l (Nat.min (b.limit l) d.limit)
  needBeats c b (indexBeats b l n)
  let outs ← lanesOf n fun j =>
    [(do let i ← gotIndex c w b j; gotCode c w (plainTag ok) (.run h (addTo (u.at r.a) 0 i.index)) t 0), gotDest w 0 (plainTag ok) d j]
  forList (fun g => putCode c w 0 ((nth default g 1).p, (nth default g 0).x)) outs
  popSrc c w b (indexBeats b l n)
  return u.next

def scatIssue (r : Rec) (c : Nat) (e : Eng) (u : Run) : M Run := whole do
  let w := engWho (← get) c e
  let a ← srcOf c u 1 r.a 0
  let b ← srcOf c u 2 r.b 0
  let h := u.h 0
  let t := a.tag 0
  let ok := fun g => g == t && g != 0xF0
  let l := laneCount t
  let n := Nat.min l (Nat.min (a.limit l) (b.limit l))
  needBeats c a n
  needBeats c b (indexBeats b l n)
  let outs ← lanesOf n fun j =>
    [gotCode c w (plainTag ok) a t j,
      (do let i ← gotIndex c w b j; gotPut w (wop r) (plainTag ok) h (addTo (u.at r.d) 0 i.index))]
  forList (fun g => putCode c w (wop r) ((nth default g 1).p, (nth default g 0).x)) outs
  popSrc c w a n
  popSrc c w b (indexBeats b l n)
  return u.next

def trnIssue (r : Rec) (c : Nat) (e : Eng) (u : Run) : M Run := whole do
  let w := engWho (← get) c e
  let ha := u.h 1
  let hd := u.h 0
  let t := hFmt ha
  let ok := fun g => g == t && g != 0xF0 && (!r.conj || isCplx g)
  let outs ← mapList (fun q => do
    let i : Int := (q / 32 : Nat)
    let j : Int := (q % 32 : Nat)
    let g ← laneSet [gotCode c w (plainTag ok) (.run ha (addTo (addTo (u.at r.a) 0 j) 1 i)) t 0,
      gotPut w 0 (plainTag ok) hd (addTo (addTo (u.at r.d) 0 i) 1 j)]
    let x := (nth default g 0).x
    return ((nth default g 1).p, if r.conj then conjCode t x else x)) (List.range 1024)
  forList (putCode c w 0) outs
  return u.next

/-! ## Generated values (R294, R295) -/

def rngIssue (r : Rec) (c : Nat) (e : Eng) (u : Run) : M Run := whole do
  let w := engWho (← get) c e
  let mode := r.opx.val % 4
  if mode = 2 then
    let d ← dstOf c u r.d
    match d with
    | .frag _ => trapM .format
    | .bad _ y => throw (.trap (if trapRank y < 5 then y else ⟨.format, 0⟩))
    | .run _ _ => pure ()
    let h := u.h 0
    let n := Nat.min 4096 (8 * runLimit h (u.at r.d))
    let ps ← maskPuts w h (u.at r.d) n
    let bits ← mapList (fun _ => do
      let d ← drawVe c
      return decide (d < bitsAt (immOf r.c) 0 32)) (List.range n)
    forList (fun k => putCode c w 0 (nth default ps k, maskByte bits k)) (List.range ps.length)
    return u.next
  else
    let d ← dstOf c u r.d
    let t := d.tag
    let ok := fun g => if mode = 0 then g == 0x44 else isIeee g
    let n := Nat.min (laneCount t) d.limit
    let ps ← mapList (putLane w 0 (plainTag ok) d) (List.range n)
    forList (fun p => do
      let x ← drawVe c
      if mode = 0 then putCode c w 0 (p, x)
      else
        let (code, ev) := fencode t ⟨.fin false x (-32), false⟩ .rtz false 0
        setVeFlags c ev
        putCode c w 0 (p, code)) ps
    return u.next

def iotaIssue (r : Rec) (c : Nat) (e : Eng) (u : Run) : M Run := whole do
  let w := engWho (← get) c e
  let d ← dstOf c u r.d
  let t := d.tag
  let ok := fun g => isIntOp g || isIeee g
  let n := Nat.min (laneCount t) d.limit
  let b := sx (bitsAt (immOf r.c) 0 32) 32
  let k := sx (bitsAt (immOf r.c) 32 32) 32
  let c0 := nth 0 (u.at r.d) 0
  let ps ← mapList (putLane w 0 (plainTag ok) d) (List.range n)
  let outs ← mapList (fun j : Nat => do
    let code ← encodeVe c t r false ⟨Val.ofInt (b + k * (c0 + (j : Int))), false⟩
    return (nth default ps j, code)) (List.range n)
  forList (putCode c w 0) outs
  return u.next

/-! ## The operations -/

def veAddIssue (r : Rec) : Nat → Eng → Run → M Run := intIssue 0x01 r
def veSubIssue (r : Rec) : Nat → Eng → Run → M Run := intIssue 0x02 r
def veMulIssue (r : Rec) : Nat → Eng → Run → M Run := intIssue 0x03 r
def veMinIssue (r : Rec) : Nat → Eng → Run → M Run := intIssue 0x04 r
def veMaxIssue (r : Rec) : Nat → Eng → Run → M Run := intIssue 0x05 r
def veAndIssue (r : Rec) : Nat → Eng → Run → M Run := intIssue 0x06 r
def veOrIssue (r : Rec) : Nat → Eng → Run → M Run := intIssue 0x07 r
def veXorIssue (r : Rec) : Nat → Eng → Run → M Run := intIssue 0x08 r
def veShlIssue (r : Rec) : Nat → Eng → Run → M Run := intIssue 0x09 r
def veShrIssue (r : Rec) : Nat → Eng → Run → M Run := intIssue 0x0A r
def veAbsIssue (r : Rec) : Nat → Eng → Run → M Run := intIssue 0x0B r
def veFaddIssue (r : Rec) : Nat → Eng → Run → M Run := floatIssue 0x10 r
def veFsubIssue (r : Rec) : Nat → Eng → Run → M Run := floatIssue 0x11 r
def veFmulIssue (r : Rec) : Nat → Eng → Run → M Run := floatIssue 0x12 r
def veFmaIssue (r : Rec) : Nat → Eng → Run → M Run := floatIssue 0x13 r
def veFminIssue (r : Rec) : Nat → Eng → Run → M Run := floatIssue 0x14 r
def veFmaxIssue (r : Rec) : Nat → Eng → Run → M Run := floatIssue 0x15 r
def veFabsIssue (r : Rec) : Nat → Eng → Run → M Run := floatIssue 0x16 r
def veFnegIssue (r : Rec) : Nat → Eng → Run → M Run := floatIssue 0x17 r
def veExp2Issue (r : Rec) : Nat → Eng → Run → M Run := transIssue 0x20 r
def veLog2Issue (r : Rec) : Nat → Eng → Run → M Run := transIssue 0x21 r
def veRcpIssue (r : Rec) : Nat → Eng → Run → M Run := transIssue 0x22 r
def veRsqrtIssue (r : Rec) : Nat → Eng → Run → M Run := transIssue 0x23 r
def veSqrtIssue (r : Rec) : Nat → Eng → Run → M Run := transIssue 0x24 r
def veTanhIssue (r : Rec) : Nat → Eng → Run → M Run := transIssue 0x25 r
def veSinIssue (r : Rec) : Nat → Eng → Run → M Run := transIssue 0x26 r
def veCosIssue (r : Rec) : Nat → Eng → Run → M Run := transIssue 0x27 r
def veCvtIssue (r : Rec) : Nat → Eng → Run → M Run := cvtIssue false r
def veQuantIssue (r : Rec) : Nat → Eng → Run → M Run := quantIssue r
def veDequantIssue (r : Rec) : Nat → Eng → Run → M Run := cvtIssue true r
def veAmaxIssue (r : Rec) : Nat → Eng → Run → M Run := amaxIssue r
def veRsumIssue (r : Rec) : Nat → Eng → Run → M Run := reduceIssue 0x38 r
def veRmaxIssue (r : Rec) : Nat → Eng → Run → M Run := reduceIssue 0x39 r
def veRminIssue (r : Rec) : Nat → Eng → Run → M Run := reduceIssue 0x3A r
def veScanIssue (r : Rec) : Nat → Eng → Run → M Run := scanIssue r
def veRsumsqIssue (r : Rec) : Nat → Eng → Run → M Run := reduceIssue 0x3C r
def veCmpIssue (r : Rec) : Nat → Eng → Run → M Run := cmpIssue r
def veSelIssue (r : Rec) : Nat → Eng → Run → M Run := selIssue r
def veAcsIssue (r : Rec) (c : Nat) : Eng → Run → M Run :=
  laneOp (fun t => isIntOp t || isIeee t) (bitAt r.opx.val 1) (acsLane r c) r c
def vePermIssue (r : Rec) : Nat → Eng → Run → M Run := permIssue r
def veTrnIssue (r : Rec) : Nat → Eng → Run → M Run := trnIssue r
def veBcastIssue (r : Rec) : Nat → Eng → Run → M Run := bcastIssue r
def veGathIssue (r : Rec) : Nat → Eng → Run → M Run := gathIssue r
def veScatIssue (r : Rec) : Nat → Eng → Run → M Run := scatIssue r
def veRngIssue (r : Rec) : Nat → Eng → Run → M Run := rngIssue r
def veIotaIssue (r : Rec) : Nat → Eng → Run → M Run := iotaIssue r

def execVeAdd (r : Rec) : State → Out := issueOp (.veAdd r) (veAddIssue r)
def execVeSub (r : Rec) : State → Out := issueOp (.veSub r) (veSubIssue r)
def execVeMul (r : Rec) : State → Out := issueOp (.veMul r) (veMulIssue r)
def execVeMin (r : Rec) : State → Out := issueOp (.veMin r) (veMinIssue r)
def execVeMax (r : Rec) : State → Out := issueOp (.veMax r) (veMaxIssue r)
def execVeAnd (r : Rec) : State → Out := issueOp (.veAnd r) (veAndIssue r)
def execVeOr (r : Rec) : State → Out := issueOp (.veOr r) (veOrIssue r)
def execVeXor (r : Rec) : State → Out := issueOp (.veXor r) (veXorIssue r)
def execVeShl (r : Rec) : State → Out := issueOp (.veShl r) (veShlIssue r)
def execVeShr (r : Rec) : State → Out := issueOp (.veShr r) (veShrIssue r)
def execVeAbs (r : Rec) : State → Out := issueOp (.veAbs r) (veAbsIssue r)
def execVeFadd (r : Rec) : State → Out := issueOp (.veFadd r) (veFaddIssue r)
def execVeFsub (r : Rec) : State → Out := issueOp (.veFsub r) (veFsubIssue r)
def execVeFmul (r : Rec) : State → Out := issueOp (.veFmul r) (veFmulIssue r)
def execVeFma (r : Rec) : State → Out := issueOp (.veFma r) (veFmaIssue r)
def execVeFmin (r : Rec) : State → Out := issueOp (.veFmin r) (veFminIssue r)
def execVeFmax (r : Rec) : State → Out := issueOp (.veFmax r) (veFmaxIssue r)
def execVeFabs (r : Rec) : State → Out := issueOp (.veFabs r) (veFabsIssue r)
def execVeFneg (r : Rec) : State → Out := issueOp (.veFneg r) (veFnegIssue r)
def execVeExp2 (r : Rec) : State → Out := issueOp (.veExp2 r) (veExp2Issue r)
def execVeLog2 (r : Rec) : State → Out := issueOp (.veLog2 r) (veLog2Issue r)
def execVeRcp (r : Rec) : State → Out := issueOp (.veRcp r) (veRcpIssue r)
def execVeRsqrt (r : Rec) : State → Out := issueOp (.veRsqrt r) (veRsqrtIssue r)
def execVeSqrt (r : Rec) : State → Out := issueOp (.veSqrt r) (veSqrtIssue r)
def execVeTanh (r : Rec) : State → Out := issueOp (.veTanh r) (veTanhIssue r)
def execVeSin (r : Rec) : State → Out := issueOp (.veSin r) (veSinIssue r)
def execVeCos (r : Rec) : State → Out := issueOp (.veCos r) (veCosIssue r)
def execVeCvt (r : Rec) : State → Out := issueOp (.veCvt r) (veCvtIssue r)
def execVeQuant (r : Rec) : State → Out := issueOp (.veQuant r) (veQuantIssue r)
def execVeDequant (r : Rec) : State → Out := issueOp (.veDequant r) (veDequantIssue r)
def execVeAmax (r : Rec) : State → Out := issueOp (.veAmax r) (veAmaxIssue r)
def execVeRsum (r : Rec) : State → Out := issueOp (.veRsum r) (veRsumIssue r)
def execVeRmax (r : Rec) : State → Out := issueOp (.veRmax r) (veRmaxIssue r)
def execVeRmin (r : Rec) : State → Out := issueOp (.veRmin r) (veRminIssue r)
def execVeScan (r : Rec) : State → Out := issueOp (.veScan r) (veScanIssue r)
def execVeRsumsq (r : Rec) : State → Out := issueOp (.veRsumsq r) (veRsumsqIssue r)
def execVeCmp (r : Rec) : State → Out := issueOp (.veCmp r) (veCmpIssue r)
def execVeSel (r : Rec) : State → Out := issueOp (.veSel r) (veSelIssue r)
def execVeAcs (r : Rec) : State → Out := issueOp (.veAcs r) (veAcsIssue r)
def execVePerm (r : Rec) : State → Out := issueOp (.vePerm r) (vePermIssue r)
def execVeTrn (r : Rec) : State → Out := issueOp (.veTrn r) (veTrnIssue r)
def execVeBcast (r : Rec) : State → Out := issueOp (.veBcast r) (veBcastIssue r)
def execVeGath (r : Rec) : State → Out := issueOp (.veGath r) (veGathIssue r)
def execVeScat (r : Rec) : State → Out := issueOp (.veScat r) (veScatIssue r)
def execVeRng (r : Rec) : State → Out := issueOp (.veRng r) (veRngIssue r)
def execVeIota (r : Rec) : State → Out := issueOp (.veIota r) (veIotaIssue r)
end Sys2Proof.Machine
end

