-- ==== Sys2Proof/Machine/Life.lean ====
section
/-! DEFINITION. The life of a record at a sequencer: head check, entry, reads, checks, licence, reservation, issues, completion (R127,
R151, R153, R182-R185, R205, R305, R357, R409-R411, R459), and the sequencer records. -/
namespace Sys2Proof.Machine

/-! ## Issue, entry check and completion of each operation -/

/-- The next issue of a record. -/
def issueFn : Instr → Nat → Eng → Run → M Run
  | .meMma r => meMmaIssue r | .meCmma r => meCmmaIssue r | .meClr r => meClrIssue r | .meBld r => meBldIssue r
  | .meDrn r => meDrnIssue r | .meDrq r => meDrqIssue r | .meFragLend r => meLendIssue r
  | .meFragReclaim r => meReclaimIssue r | .meAld r => meAldIssue r | .meAst r => meAstIssue r | .meSbw r => meSbwIssue r
  | .veAdd r => veAddIssue r | .veSub r => veSubIssue r | .veMul r => veMulIssue r | .veMin r => veMinIssue r
  | .veMax r => veMaxIssue r | .veAnd r => veAndIssue r | .veOr r => veOrIssue r | .veXor r => veXorIssue r
  | .veShl r => veShlIssue r | .veShr r => veShrIssue r | .veAbs r => veAbsIssue r
  | .veFadd r => veFaddIssue r | .veFsub r => veFsubIssue r | .veFmul r => veFmulIssue r | .veFma r => veFmaIssue r
  | .veFmin r => veFminIssue r | .veFmax r => veFmaxIssue r | .veFabs r => veFabsIssue r | .veFneg r => veFnegIssue r
  | .veExp2 r => veExp2Issue r | .veLog2 r => veLog2Issue r | .veRcp r => veRcpIssue r | .veRsqrt r => veRsqrtIssue r
  | .veSqrt r => veSqrtIssue r | .veTanh r => veTanhIssue r | .veSin r => veSinIssue r | .veCos r => veCosIssue r
  | .veCvt r => veCvtIssue r | .veQuant r => veQuantIssue r | .veDequant r => veDequantIssue r | .veAmax r => veAmaxIssue r
  | .veRsum r => veRsumIssue r | .veRmax r => veRmaxIssue r | .veRmin r => veRminIssue r | .veScan r => veScanIssue r
  | .veRsumsq r => veRsumsqIssue r | .veCmp r => veCmpIssue r | .veSel r => veSelIssue r | .veAcs r => veAcsIssue r
  | .vePerm r => vePermIssue r | .veTrn r => veTrnIssue r | .veBcast r => veBcastIssue r | .veGath r => veGathIssue r
  | .veScat r => veScatIssue r | .veRng r => veRngIssue r | .veIota r => veIotaIssue r
  | .ceCp r => ceCpIssue r | .ceLq r => ceLqIssue r | .ceFill r => ceFillIssue r | .ceOvl r => ceOvlIssue r
  | .ceFlag r => ceFlagIssue r | .ceCpx r => ceCpxIssue r
  | .fabPint r => fabPintIssue r | .fabSend r => fabSendIssue r | .fabWr r => fabWrIssue r | .fabAtom r => fabAtomIssue r
  | .fabReq r => fabReqIssue r | .fabCollSeed r => fabCollSeedIssue r | .fabCollReduce r => fabCollReduceIssue r
  | .fabCollPut r => fabCollPutIssue r | .fabCollCommit r => fabCollCommitIssue r | .fabSeamAccum r => fabSeamAccumIssue r
  | .fabSeamVote r => fabSeamVoteIssue r | .fabMcast r => fabMcastIssue r | .fabPrio r => fabPrioIssue r
  | .fabTkr r => fabTkrIssue r
  | .stashPut r => stashPutIssue r | .stashGet r => stashGetIssue r | .stashDrop r => stashDropIssue r | .stashPf r => stashPfIssue r
  | _ => fun _ _ u => pure u.next

/-- The checks that a record makes at entry, after the token pop and the semaphore wait (R306, R310, R312-R314, R318, R389, R391). -/
def checkFn : Instr → Nat → Eng → Run → M Run
  | .ceCpx r => ceCpxEntry r | .ceOvl r => ceOvlEntry r | .stashPut r => stashPutEntry r | .stashGet r => stashGetEntry r
  | .stashDrop r => stashDropEntry r | .fabPint r => fabPintEntry r | .fabSend r => fabSendEntry r | .fabMcast r => fabMcastEntry r
  | .fabCollReduce r => fabCollEntry r | .fabCollPut r => fabCollEntry r | .fabSeamVote r => fabSeamEntry r
  | _ => fun _ _ u => pure u

/-- What an operation does after its last issue and before the completion actions. -/
def doneFn : Instr → Nat → Eng → Run → M Run
  | .ceOvl r => ceOvlDone r | .stashPut r => stashPutDone r | .stashGet r => stashGetDone r | .stashDrop r => stashDropDone r
  | .fabSend r => fabSlotDone r | .fabCollReduce r => fabSlotDone r | .fabCollPut r => fabSlotDone r | .fabMcast r => fabMcastDone r
  | .fabCollCommit r => fabCollCommitDone r
  | .fabSeamVote r => fabSeamVoteDone r
  | _ => fun _ _ u => pure u

/-! ## Head check (R82, R182, R378) -/

/-- The record at a stream's PC taken up, or the trap of its head check. -/
def recordHead (c : Nat) (e : Eng) (s : State) : State :=
  let m := s.str c (engStream e)
  if (s.seqOf c e).run.isSome || m.st == .idle || m.st == .halt || m.st == .trap then s
  else if 262144 ≤ m.pc + 63 then runTrap c e ⟨.illegal, 0⟩ s
  else if loadingAt s c m.pc then engWait c e .other s
  else if (List.range 8).any fun k => imMarked s c (m.pc + 8 * k) then runTrap c e ⟨.uncorrectable, 0⟩ s
  else match decodeRecord (recordWords s c m.pc) with
    | some i => if recordLegal e m.pc i then engRun c e (setRun c e (some (Run.fresh s c e i m.pc .entry)) s) else runTrap c e ⟨.recordIllegal, 0⟩ s
    | none => runTrap c e ⟨.recordIllegal, 0⟩ s

/-! ## Entry (R127, R160, R329) -/

/-- Is a core's job held by a vote under way: its context is that of the voting stream's core? -/
def voteHolds (s : State) (c : Nat) : Bool :=
  match s.voting with
  | some (v, _, _, _) => ctxId (s.core c).ascRoot.toNat == ctxId (s.core v).ascRoot.toNat
  | none => false

/-- The entry step: every named condition at once, then the token and the count are taken; in replay, both at their logged turns (R437). An
uncorrectable error in module state stops the job here (R378). -/
def recordEntry (c : Nat) (e : Eng) (s : State) : State :=
  match (s.seqOf c e).run with
  | some u =>
    if u.phase ≠ .entry then s
    else
      let r := recOf' u.instr
      let a := agentOf c (engStream e)
      if s.modBad then runTrap c e ⟨.uncorrectable, 0⟩ s
      else if engineOf u.instr ≠ 0 && voteHolds s c then engWait c e .vote s
      else if 8 ≤ r.tpop.val && (tokens s c (r.tpop.val % 8)).isEmpty then engWait c e (.token (r.tpop.val % 8) false) s
      else if 32 ≤ r.swait.val && (semOf s c (r.swait.val % 32)).1 == 0 then engWait c e (.sem (r.swait.val % 32) 1 false) s
      else
        let t := if 8 ≤ r.tpop.val then tokenPop c a (r.tpop.val % 8) (engRun c e s) else some (engRun c e s)
        match t.bind fun t => if 32 ≤ r.swait.val then semTake c a (r.swait.val % 32) 1 t else some t with
        | none => engWait c e .other s
        | some s =>
          let k := (s.str c (leaderStream (s.str c (engStream e)).job)).clk
          (setRun c e (some { u with phase := .read, noteId := s.freeCtr, views := k.views, clr := k.clr }) s).noteOpen a 1
  | none => s

/-! ## Reads of handles, bounds and CMPF (R153, R205, R305) -/

/-- Does a record read a register that holds an uncorrectable error (R378): the handles of its memory operands and of its flag, and the bounds
that its trip counts name? -/
def operandMarked (s : State) (c : Nat) (e : Eng) (i : Instr) : Bool :=
  let r := recOf' i
  let q := s.seqOf c e
  let x := s.ctlOf c (s.str c (engStream e)).job
  let seq := engineOf i == 0
  let mem := fun d : Desc => !seq && opnd d == .mem
  let hs := (if mem r.d then [r.d.hnd.val] else []) ++ (if mem r.a then [r.a.hnd.val] else []) ++ (if mem r.b then [r.b.hnd.val] else []) ++
    (if mem r.c then [r.c.hnd.val] else []) ++ (if r.flag then [bitsAt q.cmpf.toNat 0 5] else [])
  let tests := match i with | .seqJz _ => true | .seqJnz _ => true | _ => false
  let bs := if seq then (if tests then [r.tc2.toNat % 16] else [])
    else ((List.range r.levels.val).filter fun k => bitAt (tcField r k) 15).map fun k => tcField r k % 16
  x.bad.any (fun n => match n with | .h k => hs.contains k.val | _ => false) || q.bad.any fun k => bs.contains k

/-- The record reads its operands in the cycle after its entry: `latchReads` makes the read before the leader's next instruction. -/
def recordOperandRead (c : Nat) (e : Eng) (s : State) : State :=
  match (s.seqOf c e).run with
  | some u =>
    if u.phase ≠ .read then s
    else if operandMarked s c e u.instr then runTrap c e ⟨.uncorrectable, 0⟩ s
    else
      let v := Run.fresh s c e u.instr u.pc .check
      setRun c e (some { v with noteId := u.noteId, views := u.views, clr := u.clr, phase := if engineOf u.instr = 0 then .complete else .check }) s
  | none => s

/-! ## Checks, licence, reservation, issues (R157, R305, R357, R409) -/

/-- The flag element located (R305, R131): an `int64` atomic, in any space but MSA. -/
def flagCheck (c : Nat) (e : Eng) (u : Run) : M Run := do
  if (recOf' u.instr).flag then
    let w := engWho (← get) c e
    let l ← locate w (u.h 4) [(bitsAt u.cmpf.toNat 16 32 : Nat), 0, 0, 0] .atomic false int64Tag
    return { u with flagLoc := some l }
  else return u

/-- A flagged record's accesses perform after every earlier access of its stream has performed at the flag's scope (R126). -/
def flagPrior (c : Nat) (e : Eng) (u : Run) : M Unit := do
  match u.flagLoc with
  | some l => performRelease (engWho (← get) c e) (flagScope l.p.space)
  | none => pure ()

/-- The checks after entry, all or none but for what they send. -/
def recordChecks (c : Nat) (e : Eng) (u : Run) : M Run := do
  let u ← flagCheck c e u
  flagPrior c e u
  let u ← checkFn u.instr c e u
  return { u with phase := if u.total = 0 then .complete else .licence }

/-- The licence gate of ME records. -/
def licenceGate (c : Nat) (u : Run) : M Run := do
  if engineOf u.instr = 1 then needLicence c
  return { u with phase := .reserve }

/-- The reservation gate (R409): a disabled class or one above the fused maximum is denied; a request that waits keeps its units (R419). -/
def reserveGate (c : Nat) (e : Eng) (u : Run) : M Run := do
  let s ← get
  if engineOf u.instr = 1 && !holdsLic s c then
    modify (dropResv c (engStream e))
    return { u with phase := .licence }
  let k := (recOf' u.instr).pcls.val
  let n := classUnits s k (engineOf u.instr)
  let x := engStream e
  if holdsResv s c x then return { u with phase := .issue, held := resvUnits s c x }
  if wantsResv s c x then waitM .reservation
  needM (classEn s k && decide (n ≤ Config.clMax)) .powerDenied k
  if n = 0 then return { u with phase := .issue }
  set (reserve c x n s)
  waitM .reservation

/-- The gate a record past its reads stands at, or its next issue, before which the results of earlier ones may or may not have left the engine:
their latency is open (notes/assumptions/18.md). -/
def gate (c : Nat) (e : Eng) (u : Run) : M Run :=
  match u.phase with
  | .check => recordChecks c e u
  | .licence => licenceGate c u
  | .reserve => reserveGate c e u
  | .issue => do
    modify fun s =>
      let s := reinject c (streamNo (engStream e)) s
      if Config.freeBit s.freeCtr 453 then landEng c (streamNo (engStream e)) s else s
    if u.total ≤ u.n then return { u with phase := .complete } else issueFn u.instr c e u
  | _ => pure u

def recordIssue (c : Nat) (e : Eng) (s : State) : State :=
  match (s.seqOf c e).run with
  | some u =>
    match u.phase with
    | .check => runM c e (gate c e) s
    | .licence => runM c e (gate c e) s
    | .reserve => runM c e (gate c e) s
    | .issue => runM c e (gate c e) s
    | _ => s
  | none => s

/-! ## Completion (R127, R131, R132) -/

/-- The PEER flag write: a remote atomic add with release order at scope domain (R131). -/
def remoteFlag (w : Who) (p : Place) : M Unit := do
  if unsent (ansOf (← get) w.agent) then performRelease w .domain
  remoteDo w p true (fun m => .remoteAtomic (ePeer p.entry) m 2 1 0) []
  modify fun s => (releasePass w.agent s).1

/-- A message that was taken back: its flag is not written (R318). -/
def unflagged (u : Run) : Bool :=
  (match u.instr with
    | .fabSend _ => true
    | .fabCollReduce _ => true
    | .fabCollPut _ => true
    | _ => false) && u.sending.taken

/-- The next completion action: semaphore signal, token push, flag write, in this order. -/
def actOne (c : Nat) (e : Eng) (u : Run) : M Run := do
  let r := recOf' u.instr
  let a := agentOf c (engStream e)
  match u.acted with
  | 0 =>
    if 32 ≤ r.ssig.val then
      match semSignal c a (r.ssig.val % 32) 1 (← get) u.pass with
      | some t => set t
      | none => waitM (.sem (r.ssig.val % 32) 1 true)
    return { u with acted := 1 }
  | 1 =>
    if 8 ≤ r.tpush.val then
      match tokenPush c a (r.tpush.val % 8) (← get) u.pass with
      | some t => set t
      | none => waitM (.token (r.tpush.val % 8) true)
    return { u with acted := 2 }
  | _ =>
    if unflagged u then return { u with acted := 3, ans := .none }
    let u ← if u.flagLoc.isNone then flagCheck c e u else pure u
    match u.flagLoc with
    | some l =>
      let w := engWho (← get) c e
      if l.p.space = 6 then remoteFlag w l.p else flagAdd w l 1 u.pass
    | none => pure ()
    return { u with acted := 3, ans := .none }

/-- The actions still to take, as far as they go: the record as it then stands, and why it stopped. -/
def actLoop (c : Nat) (e : Eng) : Nat → Run → State → State × Run × Option Stop
  | 0, u, s => (s, u, none)
  | fuel + 1, u, s =>
    if 3 ≤ u.acted then (s, u, none)
    else match (actOne c e u).go s with
      | (.ok v, t) => actLoop c e fuel v t
      | (.error x, t) => (t, u, some x)

/-- The deferred completion actions of earlier records, oldest first, as far as they go (R127). -/
def flushDefer (c : Nat) (e : Eng) : Nat → State → State
  | 0, s => s
  | fuel + 1, s =>
    match (s.seqOf c e).defer with
    | [] => s
    | d :: t =>
      let cur := (s.seqOf c e).run
      let (s, v, x) := actLoop c e 3 d (setRun c e (some d) s)
      let back := fun (l : List Run) (s : State) => s.setSeqOf c e { s.seqOf c e with run := cur, defer := l }
      match x with
      | none => flushDefer c e fuel (back t s)
      | some (.wait _) => back (v :: t) s
      | some (.ask q r sp got) => back ({ v with ans := asking s q sp got } :: t) (sendAsk c (engStream e) q r s)
      | some (.trap y) => back (v :: t) (engineTrap c e y d.pc 0xFFF (indices d.n d.tc) s)

/-- The PC after a record: sequencer branches test the bound read after entry (R184). -/
def afterPc (u : Run) : Nat :=
  let t := (seqTarget u.pc (recOf' u.instr)).toNat
  match u.instr with
  | .seqJmp _ => t
  | .seqJz _ => if u.bval = 0 then t else u.pc + 64
  | .seqJnz _ => if u.bval = 0 then u.pc + 64 else t
  | _ => u.pc + 64

/-- The record leaves its sequencer; the stream goes on at the PC that follows. -/
def leave (c : Nat) (e : Eng) (u : Run) (s : State) : State :=
  let s := engRun c e (setRun c e none s)
  let m := s.str c (engStream e)
  (s.setStr c (engStream e) { m with pc := afterPc u }).noteOpen (agentOf c (engStream e)) 2

/-- The arrival of an engine stream at its job's rendezvous (R151). -/
def arrive (c : Nat) (e : Eng) (u : Run) (s : State) : State :=
  let (s, p) := releasePass (agentOf c (engStream e)) (leave c e u s)
  let m := s.str c (engStream e)
  let l := s.ctlOf c m.job
  let s := (s.setCtlOf c m.job { l with rdvF := l.rdvF.take p }).actBy (ObjKind.rdv.key (c * 2 + streamNo (leaderStream m.job))) (agentOf c (engStream e))
  lapse c (s.setStr c (engStream e) { m with st := .idle, inJob := false, wait := .none })

/-- The operation's own end: its last accesses performed, its reservation released (R410), what it does before its actions. -/
def closeOp (c : Nat) (e : Eng) (u : Run) : M Run := do
  let n := streamNo (engStream e)
  modify fun s => dropResv c (engStream e) (landEng c n (reinject c n s))
  let v ← doneFn u.instr c e u
  return { v with status := 1, held := 0, ans := .none }

/-- Is a stop a wait on a token FIFO or a semaphore, which holds back only completion actions (R127)? -/
def holdsBack : Stop → Bool
  | .wait (.sem _ _ _) => true
  | .wait (.token _ _) => true
  | _ => false

/-- A record whose actions are held back keeps what they hand on: the pair and frontier its stream holds after the record's last access
(R127). RC is incremented here, once for all of them. -/
def keepPass (c : Nat) (e : Eng) (u : Run) (s : State) : Run × State :=
  match u.pass with
  | some _ => (u, s)
  | none =>
    let (s, p) := releasePass (agentOf c (engStream e)) s
    ({ u with pass := some p }, s)

/-- The completion step of a record that has closed: its actions in order behind those of earlier records. -/
def takeActions (c : Nat) (e : Eng) (u : Run) (s : State) : State :=
  let s := flushDefer c e 16 s
  if (s.str c (engStream e)).st == .trap then s
  else
    let q := s.seqOf c e
    match u.instr with
    | .seqEnd _ => if q.defer.isEmpty then arrive c e u s else engWait c e .other s
    | _ =>
      if !q.defer.isEmpty then
        let (v, s) := keepPass c e u s
        leave c e v (s.setSeqOf c e { q with defer := q.defer ++ [v] })
      else match actLoop c e 3 u s with
        | (t, _, none) => leave c e u t
        | (t, v, some x) =>
          if holdsBack x then
            let (v, t) := keepPass c e v t
            leave c e v (t.setSeqOf c e { t.seqOf c e with defer := [v] })
          else match x with
            | .wait w => engWait c e w (setRun c e (some v) t)
            | .ask m r sp got => engWait c e (.own 1) (askRun c e m r sp got (setRun c e (some v) t))
            | .trap y => runTrap c e y (setRun c e (some v) t)

def recordCompletion (c : Nat) (e : Eng) (s : State) : State :=
  match (s.seqOf c e).run with
  | some u =>
    if u.phase ≠ .complete then s
    else
      let s := if u.status = 0 then runM c e (closeOp c e) s else s
      match (s.seqOf c e).run with
      | some v => if v.status = 1 then takeActions c e v s else s
      | none => s
  | none => s

/-- An act of an engine stream that can move. -/
def engAct (c : Nat) (e : Eng) (f : State → State) (s : State) : State := if canRun (focus c (engStream e) s) then f s else s

def execRecordHead (c : CoreId) (e : Eng) : State → Out := event (engAct c e (recordHead c e))
def execRecordEntry (c : CoreId) (e : Eng) : State → Out := event (engAct c e (recordEntry c e))
def execRecordOperandRead (c : CoreId) (e : Eng) : State → Out := event (engAct c e (recordOperandRead c e))
def execRecordIssue (c : CoreId) (e : Eng) : State → Out := event (engAct c e (recordIssue c e))
def execRecordCompletion (c : CoreId) (e : Eng) : State → Out := event (engAct c e (recordCompletion c e))

/-- The engines of a core that have entered a record read its operands: the cycle after an entry comes before the leader's next instruction
(R153, R205). A read that met an uncorrectable error is made again with each later step of a control core until the record leaves its read gate,
and traps each time that the register still holds the error: DESIGN CHOICE (notes/assumptions/59.md). -/
def latchReads (c : Nat) (s : State) : State :=
  [Eng.me, .ve, .cel, .ces].foldl (fun s e => match (s.seqOf c e).run with
    | some u => if u.phase = .read ∧ !(s.str c (engStream e)).pstop then recordOperandRead c e s else s
    | none => s) s

/-- One step of an engine stream: earlier records' deferred actions as far as they go, then the gate its record stands at. A record whose head
check has passed is not fetched again when an overlay load of its region begins: DESIGN CHOICE, R82 speaks of the next instruction
(notes/assumptions/59.md). -/
def engineStep (c : Nat) (e : Eng) (s : State) : State :=
  let s := flushDefer c e 16 s
  if (s.str c (engStream e)).st == .trap then s
  else match (s.seqOf c e).run with
    | none => recordHead c e s
    | some u =>
      match u.phase with
      | .head => recordHead c e s
      | .entry => recordEntry c e s
      | .read => recordOperandRead c e s
      | .complete => recordCompletion c e s
      | _ => recordIssue c e s

/-! ## Sequencer records (R151, R184) -/

/-- A sequencer record past its entry: taken up at its sequencer where it does not stand there, then completed. -/
def seqOp (i : Instr) : State → Out :=
  event fun s =>
    let c := s.cc
    let e := seqFor s i
    let fresh := setRun c e (some (Run.fresh s c e i (s.str c (engStream e)).pc .complete)) s
    let s := match (s.seqOf c e).run with
      | some u => if u.instr = i ∧ u.phase = .complete then s else fresh
      | none => fresh
    recordCompletion c e s

def execSeqEnd (r : Rec) : State → Out := seqOp (.seqEnd r)
def execSeqWait (r : Rec) : State → Out := seqOp (.seqWait r)
def execSeqJmp (r : Rec) : State → Out := seqOp (.seqJmp r)
def execSeqJz (r : Rec) : State → Out := seqOp (.seqJz r)
def execSeqJnz (r : Rec) : State → Out := seqOp (.seqJnz r)

end Sys2Proof.Machine
end

