-- ==== Sys2Proof/Machine/SyncInstr.lean ====
section
/-! DEFINITION. Synchronisation instructions of the control cores: gussets, semaphores, tokens, barriers, the licence, jobs, bounds, fences,
amax registers and time (R227-R236). -/
namespace Sys2Proof.Machine

/-! ## Gussets (R228) -/

/-- A gusset access: claim or refusal, the read, and the write `f` gives from the old value. -/
def gussetBody (g : Nat) (read : Bool) (f : Word → Option Word) : M Word := do
  claimGussets
  let s ← get
  repM .gusset (pairOf s.cc * 64 + g) s.myAgent false
  let old ← if read then gussetRead g else pure 0
  match f old with
  | some v => gussetWrite g v
  | none => pure ()
  modify fun s => lapse s.cc s
  return old

def execGld (gd : Guard) (d : SReg) (a : GReg) : State → Out :=
  control gd 4 false fun s => Eff.ofM (do let v ← gussetBody a true fun _ => none; modify (·.wrS d v)) s
def execGst (gd : Guard) (d : GReg) (a : SReg) : State → Out :=
  control gd 4 false fun s => Eff.ofM (do let _ ← gussetBody d false fun _ => some (s.rdS a)) s
def execGswp (gd : Guard) (d : SReg) (a : GReg) (b : SReg) : State → Out :=
  control gd 4 false fun s => Eff.ofM (do let v ← gussetBody a true fun _ => some (s.rdS b); modify (·.wrS d v)) s
def execGadd (gd : Guard) (d : SReg) (a : GReg) (b : SReg) : State → Out :=
  control gd 4 false fun s => Eff.ofM (do let v ← gussetBody a true fun o => some (o + s.rdS b); modify (·.wrS d v)) s
/-- `gcas`: a failing compare is an acquire only. -/
def execGcas (gd : Guard) (d : SReg) (a : GReg) (b : SReg) : State → Out :=
  control gd 4 false fun s =>
    Eff.ofM (do let v ← gussetBody a true fun o => if o = s.rdS d then some (s.rdS b) else none; modify (·.wrS d v)) s

/-! ## Semaphores and tokens (R229, R230) -/

/-- An operation that may have to wait. -/
def orWait (s : State) (w : Wait) : Option State → Eff
  | some t => .done t
  | none => .stay s w

def execSemSig (gd : Guard) (a : SemIx) (n : Fin 256) : State → Out :=
  control gd 4 false fun s => orWait s (.sem a n true) (semSignal s.cc s.myAgent a n s)
def execSemWait (gd : Guard) (a : SemIx) (n : Fin 256) : State → Out :=
  control gd 4 false fun s => orWait s (.sem a n false) (semTake s.cc s.myAgent a n s)
def execSemRd (gd : Guard) (d : SReg) (a : SemIx) : State → Out :=
  control gd 4 false fun s => .done (s.wrS d (BitVec.ofNat 64 (semOf s s.cc a).1))
def execTkPush (gd : Guard) (a : TkIx) : State → Out :=
  control gd 4 false fun s => orWait s (.token a true) (tokenPush s.cc s.myAgent a s)
def execTkPop (gd : Guard) (a : TkIx) : State → Out :=
  control gd 4 false fun s => orWait s (.token a false) (tokenPop s.cc s.myAgent a s)
def execTkCnt (gd : Guard) (d : SReg) (a : TkIx) : State → Out :=
  control gd 4 false fun s => .done (s.wrS d (BitVec.ofNat 64 (tokens s s.cc a).length))

/-! ## Barriers (R231) -/

def execBarArv (gd : Guard) (a : BgIx) : State → Out := control gd 4 false fun s => Eff.ofM (arriveGroup a) s
def execBarWait (gd : Guard) (a : BgIx) : State → Out := control gd 4 false fun s => Eff.ofM (waitGroup a) s

/-- `bar.ara`: arrive and wait, with the record that lets it resume between them (R164). -/
def barAra (g pc : Nat) : M Unit := do
  let x := (← get).me
  if !(x.araV && x.araG == g && x.araPc == pc) then
    arriveGroup g
    modify fun s => s.setMe { s.me with araV := true, araG := g, araPc := pc }
  waitGroup g
  modify fun s => s.setMe { s.me with araV := false }
def execBarAra (gd : Guard) (a : BgIx) : State → Out := control gd 4 false fun s => Eff.ofM (barAra a s.pc) s

/-! ## The licence (R157, R232) -/

/-- `lic.acq`: one that waits as the licence becomes DISABLED takes the trap, whatever DISABLE holds when it is taken (R157). -/
def licAcq (s : State) : Eff :=
  let k := s.pair (pairOf s.cc)
  if k.lic = .disabled ∨ s.myStr.wait = .denied then .trap s ⟨.licenceDisabled, 0⟩
  else if holdsLic s s.cc then .done s
  else .stay (wantLic s.cc s) (.licence true)

/-- `lic.rel`: it completes when the drain it began has ended. -/
def licRel (s : State) : Eff :=
  let k := s.pair (pairOf s.cc)
  if k.lic == .releasing && k.who == levelOf s.cc && s.myStr.wait == .licence false then .stay s (.licence false)
  else if holdsLic s s.cc && s.myStr.wait != .licence false then
    .stay (releaseLic s.cc (s.actBy (ObjKind.lic.key (pairOf s.cc)) s.myAgent)) (.licence false)
  else .done s

def execLicAcq (gd : Guard) : State → Out := control gd 4 false licAcq
def execLicRel (gd : Guard) : State → Out := control gd 4 false licRel
def execLicenceDrainEnd (p : PairId) : State → Out := event (drainEnd p)
def execLicenceHandoverEnd (p : PairId) : State → Out := event (handoverEnd p)

/-! ## Jobs (R150, R151, R233) -/

/-- The streams a mask names, in ascending number, each with its PC register. -/
def maskStreams (a m : Nat) : List (Eng × Nat) :=
  let l := [(Eng.me, 0), (.ve, 1), (.cel, 2), (.ces, 3)].filter fun e => bitAt m e.2
  (l.zip (List.range 4)).map fun e => (e.1.1, a + e.2)

/-- Is some engine stream of a leader's job not IDLE? -/
def jobBusy (s : State) (c : Nat) (l : Leader) : Bool :=
  [Eng.me, .ve, .cel, .ces].any fun e => (s.str c (engStream e)).inJob && (s.str c (engStream e)).job == l && (s.str c (engStream e)).st != .idle

/-- One engine stream started. -/
def startEngine (c : Nat) (l : Leader) (mt : Nat) (p : Pass) (s : State) (e : Eng × Nat) : State :=
  let m := s.str c (engStream e.1)
  let s := s.setStr c (engStream e.1) { m with pc := e.2, mt := mt, inJob := true, job := l, st := .run, wait := .none, clk := m.clk.acquire p }
  s.setSeqOf c e.1 { s.seqOf c e.1 with run := none }

/-- The checks of `eng.start` in the order of R150. -/
def engStartChecks (i : Instr) (xs : List (Eng × Nat)) (s : State) : Chk Unit := do
  need (s.myStr.inJob && !xs.isEmpty) .permission
  for e in xs do
    let pc := (s.me.rdS e.2).toNat
    need (pc % 64 == 0) .align
    need (decide (pc < 262144)) .illegal (wordsInfo (encode i))
  need (xs.all fun e => (s.str s.cc (engStream e.1)).st == .idle) .permission

def execEngStart (gd : Guard) (a : SReg) (m : Fin 16) : State → Out :=
  control gd 4 false fun s => Eff.ofChk s do
    let xs := maskStreams a m
    engStartChecks (.engStart gd a m) xs s
    let (t, p) := releasePass s.myAgent s
    return .done ((xs.map fun e => (e.1, (s.me.rdS e.2).toNat)).foldl (startEngine s.cc s.cl s.myStr.mt p) t)

/-- `rdv`: every engine stream of the job has arrived; their arrivals are acquired. -/
def rdv (s : State) : Eff :=
  if jobBusy s s.cc s.cl then .stay s .rdv
  else
    let s := takeFrontier s.myAgent s.me.rdvF s
    .done (s.setMe { s.me with rdvF := .empty })
def execRdv (gd : Guard) : State → Out := control gd 4 false rdv

/-- `jend`: the report is a release at system scope (R334). -/
def jendBody : M Unit := do
  let s ← get
  needM s.myStr.inJob .permission
  needM (!jobBusy s s.cc s.cl) .permission
  performRelease s.who .system
  modify fun s => endJob s.cc s.cl false (endWait s.cc s.cur.2 false s)

/-- A job's end leaves the stream IDLE past the instruction. -/
def jend (s : State) : Eff :=
  match Eff.ofM jendBody s with
  | .done t =>
    let t := dropAns t
    .ended (t.setMyStr { t.myStr with pc := s.pc + 4 })
  | e => e
def execJend (gd : Guard) : State → Out := control gd 4 false jend

/-! ## Bounds (R153, R234) -/

def bndBody (e : Eng) (k : Nat) (a : SReg) (s : State) : Eff := Eff.ofChk s do
  let v := (s.rdS a).toNat
  need (decide (v ≤ 65535)) .bounds
  let q := s.seqOf s.cc e
  return .done (s.setSeqOf s.cc e { q with b := put q.b k v, bad := q.bad.filter fun n => n != k })
def execBndMe (gd : Guard) (k : Fin 16) (a : SReg) : State → Out := control gd 4 false (bndBody .me k a)
def execBndVe (gd : Guard) (k : Fin 16) (a : SReg) : State → Out := control gd 4 false (bndBody .ve k a)
def execBndCel (gd : Guard) (k : Fin 16) (a : SReg) : State → Out := control gd 4 false (bndBody .cel k a)
def execBndCes (gd : Guard) (k : Fin 16) (a : SReg) : State → Out := control gd 4 false (bndBody .ces k a)

/-! ## Fences (R111, R136, R142, R227) -/

/-- An acquire fence: what relaxed reads saw is acquired where the scopes match. -/
def fenceAcq (e : Scope) : M Unit := do
  let s ← get
  performAcquire s.who e
  modify fun s =>
    let m := s.myStr
    let s := acquireRels s.myAgent e m.seen s
    s.setMyStr { s.myStr with seen := m.seen.filter fun r => !matches' r.agent r.scope s.myAgent e }

/-- The wider of two release scopes. -/
def widest (a : Option Scope) (e : Scope) : Scope :=
  match a with
  | some b => if scopeNo e ≤ scopeNo b then b else e
  | none => e

/-- A release fence makes later relaxed atomics releases at its scope; the widest of a stream's fences stands (R111). -/
def fenceRelease (e : Scope) : M Unit := do
  let s ← get
  performRelease s.who e
  modify fun s => s.setMyStr { s.myStr with relF := some (widest s.myStr.relF e) }

/-- The first request that a `fence.msa` does not wait for: the next one as it issued. One that waits for its release has none left. -/
def msaMark (s : State) : Nat :=
  match s.myStr.st, s.myStr.wait with
  | .wait, .own k => k - 16
  | _, _ => s.msaNext

/-- `fence.msa`: every memory-side request that the core issued before the fence has been applied, then a release fence (R142). -/
def fenceMsa (e : Scope) : M Unit := do
  let s ← get
  let m := msaMark s
  if s.msa.any fun r => r.core == s.cc && decide (r.id < m) then waitM (.own (16 + m))
  fenceRelease e

def execFenceAcq (gd : Guard) (e : Scope) : State → Out := control gd 4 false fun s => Eff.ofM (fenceAcq e) s
def execFenceRel (gd : Guard) (e : Scope) : State → Out := control gd 4 false fun s => Eff.ofM (fenceRelease e) s
def execFenceFull (gd : Guard) (e : Scope) : State → Out := control gd 4 false fun s => Eff.ofM (do fenceAcq e; fenceRelease e) s
def execFenceMsa (gd : Guard) (e : Scope) : State → Out := control gd 4 false fun s => Eff.ofM (fenceMsa e) s

/-! ## Amax registers and time (R65-R70, R235, R236) -/

def setMx (k : Nat) (v : Word) (s : State) : State :=
  s.setMyCore { s.myCore with mx := put s.myCore.mx k v, mxBad := s.myCore.mxBad.filter fun n => n != k }
def getMx (k : Nat) (s : State) : Word := look 0 s.myCore.mx k
def execMxRd (gd : Guard) (d : SReg) (a : MxIx) : State → Out := control gd 4 false fun s => .done (s.wrS d (getMx a s))
def execMxWr (gd : Guard) (d : MxIx) (a : SReg) : State → Out :=
  control gd 4 false fun s => Eff.ofChk s do
    need (!amaxBad (s.rdS a)) .format
    return .done (setMx d (s.rdS a) s)
def execMxClr (gd : Guard) (d : MxIx) : State → Out := control gd 4 false fun s => .done (setMx d 0 s)
def execMxUpd (gd : Guard) (d : MxIx) (a : SReg) : State → Out :=
  control gd 4 false fun s => .done (setMx d (amaxUpdate (getMx d s) (fp32.value (bitsAt (s.rdS a).toNat 0 32))) s)
def execTimeRd (gd : Guard) (d : SReg) : State → Out := 
  control gd 4 false fun s => let (s, v) := repValue s.myAgent s.time s; .done (s.wrS d (BitVec.ofNat 64 v))

end Sys2Proof.Machine
end

