-- ==== Sys2Proof/Machine/Waits.lean ====
section
/-! DEFINITION. The ends of waits: a waiting stream whose condition holds completes what it waited for (R128, R129, R136, R151, R155, R164,
R215). A control core re-executes the instruction at its PC; a sequencer takes the step it stands at. -/
namespace Sys2Proof.Machine

/-- The next state of an outcome, or the state it came from. -/
def orSame (s : State) : Out → State
  | .next t => t
  | _ => s

/-- The instruction that a waiting control core has issued; one that is not known is fetched (R82). -/
def issued (s : State) (c : Nat) (l : Leader) : Option Instr :=
  match (s.ctlOf c l).held with
  | some i => some i
  | none => match fetchControl s c (s.str c (leaderStream l)).pc with
    | .got i => some i
    | _ => none

/-- Control core `l` of core `c`, in a wait that `ok` names and not held itself, re-executes its instruction where `redo` knows it. -/
def redoCtl (c : Nat) (l : Leader) (ok : Wait → Bool) (redo : Instr → Option (State → Out)) (s : State) : State :=
  let m := s.str c (leaderStream l)
  if m.st == .wait && canRun (focus c (leaderStream l) s) && ok m.wait then
    match (issued s c l).bind redo with
    | some f => asStream c (leaderStream l) (fun t => orSame t (f t)) s
    | none => s
  else s

/-- Stream `x` of core `c`, in a wait that `ok` names, tries again. -/
def redoStr (c : Nat) (x : Stream) (ok : Wait → Bool) (redo : Instr → Option (State → Out)) (s : State) : State :=
  if isCtl x then redoCtl c (streamLeader x) ok redo s
  else
    let m := s.str c x
    if m.st == .wait && canRun (focus c x s) && (ok m.wait || !(s.seqOf c (streamEng x)).defer.isEmpty) then engineStep c (streamEng x) s else s

def isSemWait : Wait → Bool
  | .sem _ _ _ => true | _ => false
def isTokenWait : Wait → Bool
  | .token _ _ => true | _ => false
def isBarrierWait : Wait → Bool
  | .barrier _ _ _ => true | _ => false
def isOwnWait : Wait → Bool
  | .own _ => true | _ => false

def redoSem : Instr → Option (State → Out)
  | .semSig gd a n => some (execSemSig gd a n)
  | .semWait gd a n => some (execSemWait gd a n)
  | _ => none
def redoToken : Instr → Option (State → Out)
  | .tkPush gd a => some (execTkPush gd a)
  | .tkPop gd a => some (execTkPop gd a)
  | _ => none
def redoBarrier : Instr → Option (State → Out)
  | .barArv gd a => some (execBarArv gd a)
  | .barWait gd a => some (execBarWait gd a)
  | .barAra gd a => some (execBarAra gd a)
  | _ => none
def redoRdv : Instr → Option (State → Out)
  | .rdv gd => some (execRdv gd)
  | _ => none

/-- The instructions that await their own accesses (R136, R142, R220, R227, R243). -/
def redoOwn : Instr → Option (State → Out)
  | .ld gd d m => some (execLd gd d m)
  | .st gd d m => some (execSt gd d m)
  | .ldOrd gd o e d m => some (execLdOrd gd o e d m)
  | .stOrd gd o e m a => some (execStOrd gd o e m a)
  | .atomAdd gd o e d m a => some (execAtomAdd gd o e d m a)
  | .atomAnd gd o e d m a => some (execAtomAnd gd o e d m a)
  | .atomOr gd o e d m a => some (execAtomOr gd o e d m a)
  | .atomXor gd o e d m a => some (execAtomXor gd o e d m a)
  | .atomMin gd o e d m a => some (execAtomMin gd o e d m a)
  | .atomMax gd o e d m a => some (execAtomMax gd o e d m a)
  | .atomMinu gd o e d m a => some (execAtomMinu gd o e d m a)
  | .atomMaxu gd o e d m a => some (execAtomMaxu gd o e d m a)
  | .atomSwp gd o e d m a => some (execAtomSwp gd o e d m a)
  | .atomCas gd o e d m a b => some (execAtomCas gd o e d m a b)
  | .qClaim gd e d m a => some (execQClaim gd e d m a)
  | .qRing gd e m a => some (execQRing gd e m a)
  | .barArv gd a => some (execBarArv gd a)
  | .barAra gd a => some (execBarAra gd a)
  | .fenceAcq gd e => some (execFenceAcq gd e)
  | .fenceRel gd e => some (execFenceRel gd e)
  | .fenceFull gd e => some (execFenceFull gd e)
  | .fenceMsa gd e => some (execFenceMsa gd e)
  | .jend gd => some (execJend gd)
  | _ => none

def execSemaphoreWaitEnd (c : CoreId) (x : Stream) : State → Out := event (redoStr c x isSemWait redoSem)
def execTokenWaitEnd (c : CoreId) (x : Stream) : State → Out := event (redoStr c x isTokenWait redoToken)
def execBarrierWaitEnd (c : CoreId) (x : Leader) : State → Out := event (redoCtl c x isBarrierWait redoBarrier)
def execRdvComplete (c : CoreId) (x : Leader) : State → Out := event (redoCtl c x (· == .rdv) redoRdv)
def execReleaseComplete (c : CoreId) (x : Stream) : State → Out := event (redoStr c x isOwnWait redoOwn)

end Sys2Proof.Machine
end

