-- ==== Sys2Proof/Machine/Preempt.lean ====
section
/-! DEFINITION. Delivery and end of engine traps (R366, R459), pre-emption (R367-R372), queue timeouts (R375), flushing a job (R376). -/
namespace Sys2Proof.Machine

def allEng : List Eng := [.me, .ve, .cel, .ces]
def allStreams : List Stream := [.lcc, .ccc, .me, .ve, .cel, .ces]

/-! ## Engine traps (R366, R459) -/

/-- The pending engine trap of the lowest stream number reaches its leader at an instruction boundary (R366). -/
def engineTrapDeliver (c : Nat) (l : Leader) (s : State) : State :=
  if (s.ctlOf c l).pendEng.isEmpty then s else (deliver c l s).getD s
def execEngineTrapDeliver (c : CoreId) (x : Leader) : State → Out := event (engineTrapDeliver c x)

/-- ENG_CTL on one engine: a stream in TRAP runs again at its restart point. -/
def resumeEngine (c : Nat) (s : State) (e : Eng) : State :=
  let m := s.str c (engStream e)
  if m.st == .trap && !m.pstop then
    (s.setStr c (engStream e) { m with st := .run, wait := .none }).setSeqOf c e { s.seqOf c e with tValid := false }
  else s

/-- ENG_CTL of a core. -/
def wrEngCtl (c : Nat) (v : Word) (s : State) : State := (allEng.filter fun e => bitAt v.toNat (engNo e)).foldl (resumeEngine c) s
def execEngCtlResume (m : Fin 16) : State → Out := regEvent 0x107 true fun s => .ok (wrEngCtl s.cc (BitVec.ofNat 64 m.val) s)

/-- A write to PC of an engine's trap register: while VALID it discards the restart point, and the stream begins the record at the new
PC from its head check. -/
def wrEngTrapPc (c : Nat) (e : Eng) (v : Word) (s : State) : State :=
  let q := s.seqOf c e
  let pc := bitsAt v.toNat 8 18
  if q.tValid then
    let m := s.str c (engStream e)
    let late := q.tBeat == 0xFFF && (match q.defer with
      | d :: _ => d.pc == q.tPc
      | [] => false)
    (s.setStr c (engStream e) { m with pc := pc }).setSeqOf c e
      { q with tPc := pc, tBeat := 0xFFE, run := none, defer := if late then q.defer.drop 1 else q.defer } |> dropResv c (engStream e)
  else s.setSeqOf c e { q with tPc := pc }
def execEngTrapPcWrite (e : Eng) (pc : Fin 262144) : State → Out :=
  regEvent (0x108 + engNo e) true fun s => .ok (wrEngTrapPc s.cc e (BitVec.ofNat 64 (pc.val * 256)) s)

/-- ENG_TRAP and ENG_RST images. -/
def engTrapImage (q : Seq) : Nat := q.tCause + b2n q.tValid * 2 ^ 7 + q.tPc % 2 ^ 18 * 2 ^ 8 + q.tBeat % 2 ^ 12 * 2 ^ 26
def engRstImage (q : Seq) : Nat :=
  nth 0 q.rst 0 % 2 ^ 16 + nth 0 q.rst 1 % 2 ^ 16 * 2 ^ 16 + nth 0 q.rst 2 % 2 ^ 16 * 2 ^ 32 + nth 0 q.rst 3 % 2 ^ 16 * 2 ^ 48

/-! ## The stop edge (R369, R370) -/

/-- The waiting `lic.acq` (or, with false, `lic.rel`) of a core's control cores completes. -/
def licenceEnds (c : Nat) (acq : Bool) (s : State) : State :=
  [Leader.lcc, .ccc].foldl (fun s l =>
    if (s.str c (leaderStream l)).wait = .licence acq then asStream c (leaderStream l) (fun s => (Eff.done s).finish s.me s.pc 4) s else s) s

/-- The licence request that a resume made is taken back: does one stand? -/
def dropReq (c : Nat) (s : State) : State × Bool :=
  if (s.core c).licReq then
    let s := s.setCore c { s.core c with licReq := false }
    (if othersWant c .me s then s else noWant c s, true)
  else (s, false)

/-- The licence at the stop edge; is LIC_HELD to be set? A hand-over under way to the core completes its `lic.acq`, and a drain under way
its `lic.rel`: both stand. A request that an earlier resume made and that still waits is made again by the next: DEDUCED
(notes/assumptions/52.md). -/
def stopLicence (c : Nat) (s : State) : State × Bool :=
  let p := pairOf c
  let s := if (s.pair p).who = levelOf c ∧ (s.pair p).lic = .held then s.actBy (ObjKind.lic.key p) (agentOf c (leaderStream (s.str c .me).job)) else s
  let k := s.pair p
  if k.who ≠ levelOf c then dropReq c s
  else match k.lic with
    | .held => (drainEnd p (s.setPair p { k with lic := .releasing }), true)
    | .releasing => (licenceEnds c false (drainEnd p s), false)
    | .handover =>
      let s := licenceEnds c true (handoverEnd p s)
      (drainEnd p (s.setPair p { s.pair p with lic := .releasing }), true)
    | _ => dropReq c s

/-- One stream stops: its wait is abandoned, to be entered again from its start. -/
def stopStream (c : Nat) (s : State) (x : Stream) : State :=
  let m := s.str c x
  if m.st == .idle || m.st == .halt || m.pstop then s
  else
    let s := endWait c x true s
    let s := if isCtl x then s.setCtlOf c (streamLeader x) { s.ctlOf c (streamLeader x) with held := none } else s
    let st : SState := if m.st = .trap then .trap else if isCtl x then (s.ctlOf c (streamLeader x)).runState else .run
    s.setStr c x { m with st := st, wait := .none, pstop := true }

/-- A pin for each result whose destination is memory, or none where one is refused (R37, R369). -/
def pinResults (root : Nat) : List Result → State → Option (List Result × State)
  | [], s => some ([], s)
  | r :: t, s =>
    let got := match r.dest with
      | .mem l _ =>
        let (s', code) := pinEntry root l.p.lt l.p.entry s
        if code = 0 then some ({ r with pin := some (ltKey root l.p.lt) }, s') else none
      | _ => some (r, s)
    match got with
    | none => none
    | some (r, s) => (pinResults root t s).map fun x => (r :: x.1, x.2)

/-- A result's kind, place and value: zeros of an accumulator's bytes take no words. -/
def Dest.words : Dest → List Nat
  | .acc off bs =>
    if bs.all (· == 0) then [off, bs.length + 2 ^ 32] else [off, bs.length] ++ (List.range ((bs.length + 7) / 8)).map fun j => leNat ((bs.drop (8 * j)).take 8)
  | .tag u t => [u, t]
  | .mem l x => [l.p.addr, x % 2 ^ 64] ++ if l.p.bytes ≤ 8 then [] else [x / 2 ^ 64]
  | .amax k u => [k, u.toNat]
  | .flags ve b => [b2n ve, b]
  | .rng ve g => [b2n ve, g.toNat]
def Dest.kind : Dest → Nat
  | .acc _ _ => 0 | .tag _ _ => 1 | .mem _ _ => 2 | .amax _ _ => 3 | .flags _ _ => 4 | .rng _ _ => 5

/-- The words of a dumped result in the image (R373): its stream, kind and latency and what names its element; its issue; its place and value
(notes/assumptions/12.md). -/
def resultWords (r : Result) : List Nat :=
  let p := match r.dest with | .mem l _ => l.p | _ => default
  [r.stream % 8 + r.dest.kind * 2 ^ 3 + r.lat % 256 * 2 ^ 8 + p.space % 8 * 2 ^ 16 + p.nib.elim 0 (fun h => 2 + b2n h) * 2 ^ 20 + p.bytes % 32 * 2 ^ 24 +
    p.tag % 256 * 2 ^ 32 + p.lt % 4096 * 2 ^ 40, r.iss] ++ r.dest.words

/-- Does the dump with more results fit the 48 KiB that the image gives it, with its count and LIC_HELD (R373)? -/
def dumpFits (rs : List Result) : Bool := decide ((rs.map fun r => (resultWords r).length).sum ≤ 6142)

/-- Results of a stream leave its engine, oldest first, until the rest fit the dump: when a result leaves is open (notes/assumptions/18.md). -/
def landOver (c n : Nat) : Nat → State → State
  | 0, s => s
  | fuel + 1, s =>
    let k := s.core c
    match k.flight.find? fun r => r.stream == n with
    | some r =>
      if dumpFits (k.dump ++ k.flight.filter fun r => r.stream == n) then s
      else landOver c n fuel (landOne c r (s.setCore c { k with flight := k.flight.erase r }))
    | none => s

/-- The results of issue `i` of a stream at the stop edge: dumped where every pin is granted, else they drain (R369). -/
def stopIssue (c n : Nat) (s : State) (i : Nat) : State :=
  let mine := fun (r : Result) => r.stream == n && r.iss == i
  let rs := (s.core c).flight.filter mine
  match (if n ≤ 3 then pinResults (s.core c).ascRoot.toNat rs s else none) with
  | some (ds, s) => s.setCore c { s.core c with flight := (s.core c).flight.filter fun r => !mine r, dump := ds ++ (s.core c).dump }
  | none => rs.foldl (fun s r => landOne c r s) (s.setCore c { s.core c with flight := (s.core c).flight.filter fun r => !mine r })

/-- What a stream has in flight at the stop edge, issue by issue from the newest, so that none drains before an older one that is dumped. -/
def stopFlight (c : Nat) (s : State) (n : Nat) : State :=
  let s := landOver c n (s.core c).flight.length s
  ((((s.core c).flight.filter fun r => r.stream == n).map (·.iss)).eraseDups.reverse).foldl (stopIssue c n) s

/-- Has a stream results that are dumped? -/
def isDumped (s : State) (c : Nat) (e : Eng) : Bool := (s.core c).dump.any fun r => r.stream == streamNo (engStream e)

/-- Has a record's issue sent an access to other modules that they have still to answer, or whose answer it has still to take (R369)? -/
def Run.drains (u : Run) : Bool := u.phase == .issue && match u.ans with
  | .asked q _ => q.sp == Spot.none
  | .remote _ => true
  | _ => false

/-- A stopped record's restart point: it passes its licence and reservation again on resume; one with dumped results does so before they return
(R372, R410). ENG_RST holds its restart issue, the first not completed (R366, R372). -/
def restRun (c : Nat) (e : Eng) (s : State) : State :=
  let q := s.seqOf c e
  match q.run with
  | some u =>
    let again := u.phase = .issue ∨ u.phase = .reserve ∨ (u.phase = .complete ∧ u.status = 0 ∧ isDumped s c e)
    s.setSeqOf c e { q with
      rst := indices (restartIssue s c e u) u.tc, run := some (if again then { u.halted with phase := .licence, held := 0 } else u) }
  | none => s

/-- A record at the stop edge: it makes the read of its operands, its waiting reservation request is withdrawn, and it rests unless an access that
it has sent drains. -/
def stopRun (c : Nat) (s : State) (e : Eng) : State :=
  let s := recordOperandRead c e (dropWants c (engStream e) s)
  if ((s.seqOf c e).run).any Run.drains then s else restRun c e s

/-- A message stopped before its first chunk moves what it has left in chunks: chunk 0 begins where it stopped, and its record's beat is
sent again (R330). -/
def cutPrefix (c k : Nat) (x : Slot) (s : State) : State :=
  if x.moved < x.prefixN ∧ x.sent.isEmpty then
    let e : Eng := if x.stream = 5 then .ces else .cel
    mapRun c e (fun u => if slotMine x u e then { u.unparted with ans := .none } else u) (setSlot c k { x with prefixN := x.moved } s)
  else s

/-- Has every byte of a chunk of a slot's message been transferred? -/
def chunkMoved (x : Slot) (n : Nat) : Bool := decide (x.prefixN + (n + 1) * 65536 ≤ x.moved ∨ x.len ≤ x.moved)

/-- Slots in use return their tokens and send a suspend notice, which names those and the tokens of the chunks that have begun: what is left of
these moves against new ones (R330, R388). -/
def suspendSlots (c : Nat) (s : State) : State :=
  (s.core c).slots.foldl (fun s e =>
    let x := e.2
    if (x.st = .announced ∨ x.st = .sending) ∧ !x.susp then
      let s := x.tokens.foldl (fun s t => emit (.returnTok t.src c e.1 x.epoch t.n) s) s
      let begun := x.sent.filter fun n => !chunkMoved x n
      let s := x.mods.foldl (fun s m => emit (.suspend m c e.1 x.epoch ((x.tokens.filter fun t => t.src == m).map (·.n) ++ begun)) s) s
      let s := cutPrefix c e.1 x s
      setSlot c e.1 { slotOf s c e.1 with tokens := [], sent := x.sent.filter (chunkMoved x), susp := true } s
    else s) s

/-- Is a leader of a core a prepared gang member (R344, R367)? -/
def gangHeld (s : State) (c : Nat) : Bool := [Stream.lcc, .ccc].any fun x => (s.str c x).wait == .gang

/-- Does a stop request wait: for a gang's decision (R344), or for the end of a clock transition (R155)? -/
def stopWaits (s : State) (c : Nat) : Bool := gangHeld s c || (s.die (dieOf c)).busy

/-- A stop request: ignored while BUSY or where no stream is left to stop. -/
def stopCore (c : Nat) (s : State) : State :=
  let k := s.core c
  if k.busy || allStreams.all fun x => let m := k.str x; m.pstop || m.st == .idle || m.st == .halt then s
  else if stopWaits s c then s.setCore c { k with stopReq := true }
  else
    let s := [2, 3, 4, 5].foldl (stopFlight c) (s.setCore c { k with busy := true, saved := false, stopReq := false })
    let (s, held) := stopLicence c s
    let s := allStreams.foldl (stopStream c) s
    let s := allEng.foldl (stopRun c) s
    s.setCore c { s.core c with licHeld := held }
def execPreemptStop (c : CoreId) : State → Out := event fun s => if ckptOwns s c then s else stopCore c s

/-- Remote accesses of a core's streams not yet acknowledged (R140). -/
def coreSent (s : State) (c : Nat) : Bool := s.sent.any fun r => r.core == c

/-- A stopped record takes the answer of the access that it had sent: its beat is transferred, or faults (R304, R369). -/
def drainRun (c : Nat) (s : State) (e : Eng) : State :=
  match (s.seqOf c e).run with
  | some u =>
    if u.drains then
      let s := runM c e (issueFn u.instr c e) s
      let m := s.str c (engStream e)
      s.setStr c (engStream e) { m with st := if m.st = .trap then .trap else .run, wait := .none }
    else s
  | none => s

/-- The end of a stop, once every access sent has performed: the reservations are released (R410), and the message slots suspended. -/
def stopDone (c : Nat) (s : State) : State :=
  let drained := fun (s : State) => !coreSent s c && !(s.msa.any fun r => r.core == c)
  if (s.core c).busy && drained s then
    let s := allEng.foldl (drainRun c) s
    if drained s then
      let s := suspendSlots c (allEng.foldl (fun s e => dropResv c (engStream e) (restRun c e s)) s)
      s.setCore c { s.core c with busy := false }
    else s
  else s
def execPreemptStopDone (c : CoreId) : State → Out := event (stopDone c)

/-- Notify mode: the leader of each job takes PREEMPT at its next boundary (R368). -/
def notifyCore (c : Nat) (s : State) : State :=
  [Leader.lcc, .ccc].foldl (fun s l => if (s.str c (leaderStream l)).inJob then s.setCtlOf c l { s.ctlOf c l with pendPre := true } else s) s
def execPreemptNotify (c : CoreId) : State → Out := event (notifyCore c)

/-! ## Resume (R372) -/

/-- A suspended message announces its untransferred bytes again, with no starting run of granted bytes (R330). -/
def reannounce (c : Nat) (s : State) : State :=
  (s.core c).slots.foldl (fun s e =>
    if e.2.susp then sendIntents c e.1 e.2.mods (setSlot c e.1 { e.2 with susp := false, base := e.2.moved, ids := [], resend := [] } s) else s) s

/-- RESUME: ignored where no stream is PSTOP. -/
def resumeCore (c : Nat) (s : State) : State :=
  let k := s.core c
  if k.busy || !(k.strm.any fun e => e.2.pstop) then s
  else
    let s := s.setCore c { k with strm := k.strm.map fun e => (e.1, { e.2 with pstop := false }), licHeld := false, saved := false }
    reannounce c (if k.licHeld && (s.pair (pairOf c)).lic != .disabled then wantLic c (s.setCore c { s.core c with licReq := true }) else s)
def execPreemptResume (c : CoreId) : State → Out := event fun s => if ckptOwns s c then s else resumeCore c s

/-- An engine's dumped results return when it may issue (R372). -/
def reinjectEng (c : Nat) (s : State) (e : Eng) : State :=
  match (s.seqOf c e).run with
  | some u =>
    if u.phase = .issue ∧ canRun (focus c (engStream e) s) ∧ (e ≠ .me ∨ holdsLic s c) then reinject c (streamNo (engStream e)) s else s
  | none => s
def dumpReinject (c : Nat) (s : State) : State := [Eng.me, .ve].foldl (reinjectEng c) s
def execDumpReinject (c : CoreId) : State → Out := event (dumpReinject c)

/-- PRE_CTL. -/
def wrPreCtl (v : Word) (s : State) : Chk State := do
  let x := v.toNat
  let c := bitsAt x 0 10
  need (bitsAt x 12 52 == 0) .bounds
  return if ckptOwns s c then s else if bitAt x 11 then resumeCore c s else if bitAt x 10 then notifyCore c s else stopCore c s

/-- PRE_STATUS of a core. -/
def preStatusImage (k : Core) : Nat :=
  (if k.busy then 0 else (allStreams.map fun x => b2n (k.str x).pstop * 2 ^ streamNo x).sum) + b2n k.busy * 2 ^ 6 + b2n k.licHeld * 2 ^ 7 +
    b2n k.saved * 2 ^ 8

/-! ## Queue timeouts (R375) -/

/-- TINFO of QUEUE_TIMEOUT, for the waits it applies to (R361). -/
def timeoutInfo : Wait → Option Nat
  | .queue k _ => some (k * 4)
  | .token k _ => some (1 + k * 4)
  | .sem k _ _ => some (2 + k * 4)
  | _ => none

/-- The control instructions that wait on a token FIFO or a semaphore. -/
def redoTimed (i : Instr) : Option (State → Out) :=
  match redoSem i with
  | some f => some f
  | none => redoToken i

/-- A wait that has lasted LIMIT us takes QUEUE_TIMEOUT, unless what it awaits is there: that is taken, and nothing traps (R375, R380). -/
def queueTimeout (c : Nat) (x : Stream) (s : State) : State :=
  let m := s.str c x
  let lim := (s.core c).qtmo
  match timeoutInfo m.wait with
  | none => s
  | some n =>
    if m.st == .wait && canRun (focus c x s) && lim != 0 && decide (m.since + lim * 1000 ≤ s.time) then
      let t := redoStr c x (fun _ => true) redoTimed s
      let w := t.str c x
      if !(w.st == .wait && w.wait == m.wait && w.since == m.since) then t
      else if isCtl x then asStream c x (trapHere ⟨.queueTimeout, n⟩ 4) s
      else runTrap c (streamEng x) ⟨.queueTimeout, n⟩ s
    else s
def execQueueTimeout (c : CoreId) (x : Stream) : State → Out := event (queueTimeout c x)

/-! ## Flushing a job (R376) -/

/-- Is a stream of a core in the job of a leader? -/
def inJobOf (s : State) (c : Nat) (l : Leader) (x : Stream) : Bool :=
  if isCtl x then x == leaderStream l && (s.str c x).inJob else (s.str c x).inJob && (s.str c x).job == l

/-- The dumped results of a stream discarded, and their pins released (R371, R376). -/
def dropDump (c n : Nat) (s : State) : State :=
  let s := ((s.core c).dump.filter fun r => r.stream == n).foldl (fun s r => dropPin r s) s
  s.setCore c { s.core c with dump := (s.core c).dump.filter fun r => r.stream != n }

/-- What a flush drops of one engine stream of the job (steps 1 to 5): the record and its actions, the elements of the queues that the
engine consumes, its message slots, its INCOMPLETE objects, and an overlay load under way (R82). -/
def flushEngine (c : Nat) (s : State) (e : Eng) : State :=
  let x := engStream e
  let ovl := match (s.seqOf c e).run with
    | some u => match u.instr with
      | .ceOvl r => if u.carry ≠ [] then some (r.spare.val % 4) else none
      | _ => none
    | none => none
  let s := dropResv c x (endWait c x true s)
  let s := s.setSeqOf c e { s.seqOf c e with run := none, defer := [], tValid := false }
  let qs := if e = .me then [0, 1] else if e = .ve then [2, 3, 4, 5] else []
  let s := qs.foldl (fun s k => setQueue c k [] s) s
  let s := dropDump c (streamNo x) (stopFlight c s (streamNo x))
  let s := (s.core c).slots.foldl (fun s k => if k.2.stream = streamNo x ∧ k.2.st ≠ .free then takeBack c k.1 s else s) s
  let s := match ovl with
    | some k => s.setCore c { s.core c with
        loading := (s.core c).loading &&& (15 - 2 ^ k), ovl := put (s.core c).ovl k 0xFFF, undef := put (s.core c).undef k s.freeCtr }
    | none => s
  let d := s.die (dieOf c)
  let s := s.setDie (dieOf c) { d with objs := d.objs.filter fun o => !(o.2.st == .incomplete && o.2.core == c && o.2.stream == streamNo x) }
  let m := s.str c x
  s.setStr c x { m with st := .halt, wait := .none, pstop := false }

/-- Steps 1 to 5: the job stops and drops what it holds; step 6 follows once its accesses have performed (`flushEnd`). -/
def flushJob (c : Nat) (l : Leader) (s : State) : State :=
  let lic := inJobOf s c l .me
  let s := (allEng.filter fun e => inJobOf s c l (engStream e)).foldl (flushEngine c) s
  let s := if lic then (fun s => s.setCore c { s.core c with licHeld := false }) (stopLicence c (dropReq c s).1).1 else s
  let s := endWait c (leaderStream l) true s
  let m := s.str c (leaderStream l)
  let s := s.setStr c (leaderStream l) { m with st := .halt, wait := .none, pstop := false }
  let x := s.ctlOf c l
  let s := s.setCtlOf c l { x with pendPre := false, pendEng := [], pendGang := none, pendDiv := none, ans := .none, held := none }
  { s with jflush := if s.jflush.contains (c, l) then s.jflush else s.jflush ++ [(c, l)] }

/-- Step 6: once nothing of the core is outstanding, every stream of the job is IDLE and the starter has its report. -/
def flushEnd (s : State) (f : Nat × Leader) : State :=
  let (c, l) := f
  if (s.sent.any fun r => r.core == c && inJobOf s c l (streamOf r.stream)) || s.msa.any fun r => r.core == c then s
  else
    let s := writeBackAll (towerOf c) s
    let s := (allEng.filter fun e => inJobOf s c l (engStream e)).foldl (fun s e =>
      let m := s.str c (engStream e)
      s.setStr c (engStream e) { m with st := .idle, inJob := false, mt := 0xFFF }) s
    endJob c l true { s with jflush := s.jflush.erase f }

/-- The flushes that can end. -/
def flushEnds (s : State) : State := s.jflush.foldl flushEnd s

/-- JFLUSH. -/
def wrJflush (v : Word) (s : State) : Chk State := do
  let x := v.toNat
  let c := bitsAt x 0 10
  let l : Leader := if bitAt x 10 then .ccc else .lcc
  need (bitsAt x 11 53 == 0) .bounds
  need (s.str c (leaderStream l)).inJob .permission
  return flushEnds (flushJob c l s)
def execJflushWrite (v : Word) : State → Out := regEvent 0x106 true (wrJflush v)

/-- Stop requests that waited for a gang's decision or for the end of a clock transition (R155, R344). -/
def stopWaiting (s : State) : State :=
  s.cores.foldl (fun s e => if e.2.stopReq && !stopWaits s e.1 then stopCore e.1 (s.setCore e.1 { s.core e.1 with stopReq := false }) else s) s

end Sys2Proof.Machine
end

