-- ==== Sys2Proof/Machine/Image.lean ====
section
/-! DEFINITION. The context image (R373, R374): its words and bytes, as `ctx.sv` and the checkpoint write them. Where R373 gives a section's
contents and not their places, each is one 8-byte word, in the order given; what the machine has and R373 does not list goes by
`State.ctxSide` (notes/assumptions/12.md). -/
namespace Sys2Proof.Machine

/-! ## Registers that the image holds packed -/

/-- TSTATUS (R363). -/
def tstatusImage (x : Ctl) : Nat := b2n x.priv + b2n x.ppriv * 2 + b2n x.inh * 4 + b2n x.step * 8

/-- IM_STATE (R81). -/
def imStateImage (k : Core) : Nat := k.loading % 16 + ((List.range 4).map fun r => look 0xFFF k.ovl r * 2 ^ (8 + 12 * r)).sum

/-! ## Words of the image -/

/-- Bytes of a context image. -/
def imgBytes : Nat := 0x640000

/-- A list cut or filled with zeros to `n` words. -/
def fitTo (n : Nat) (l : List Nat) : List Nat := (l ++ List.replicate n 0).take n
/-- Words from a byte offset on. -/
def wordsFrom (off : Nat) (l : List Nat) : List (Nat × Nat) := (l.zip (List.range l.length)).map fun x => (off + 8 * x.2, x.1)
/-- `n` words read from a byte offset on. -/
def readWords (w : Nat → Nat) (off n : Nat) : List Nat := (List.range n).map fun k => w (off + 8 * k)
/-- Bits of a list of Bools. -/
def packBits (l : List Bool) : Nat := (l.zip (List.range l.length)).foldl (fun x b => x + b2n b.1 * 2 ^ b.2) 0

def stateNo : SState → Nat
  | .idle => 0 | .run => 1 | .wait => 2 | .trap => 3 | .halt => 4
def stateFrom : Nat → SState
  | 1 => .run | 2 => .run | 3 => .trap | 4 => .halt | _ => .idle

def frWords (f : Frontier) : List Nat := fitTo 17 ((f.ents.length + b2n f.sat * 256) :: f.ents.map fun e => e.1 % 2 ^ 14 + e.2 % 2 ^ 32 * 2 ^ 14)
def frFrom (l : List Nat) : Frontier :=
  ⟨(((l.drop 1).take (Nat.min (nth 0 l 0 % 256) 16))).map fun x => (x % 2 ^ 14, x / 2 ^ 14 % 2 ^ 32), bitAt (nth 0 l 0) 8⟩
def passWords (p : Pass) : List Nat := (p.agent % 2 ^ 14 + p.rc % 2 ^ 32 * 2 ^ 14) :: frWords p.fr
def passFrom (l : List Nat) : Pass := ⟨nth 0 l 0 % 2 ^ 14, nth 0 l 0 / 2 ^ 14 % 2 ^ 32, frFrom (l.drop 1)⟩

/-- What a gusset hands on, as one frontier with the pair at its head. -/
def gusFrontier : Option Pass → Frontier
  | some p => ⟨((p.agent, p.rc) :: p.fr.ents).take 16, p.fr.sat || decide (16 ≤ p.fr.ents.length)⟩
  | none => .empty
def gusPass (f : Frontier) : Option Pass :=
  match f.ents with
  | a :: t => some ⟨a.1, a.2, ⟨t, f.sat⟩⟩
  | [] => none

def handleWords (h : Handle) : List Nat := (List.range 4).map fun k => bitsAt h.toNat (64 * k) 64
def handleFrom (l : List Nat) : Handle := BitVec.ofNat 256 (((List.range 4).map fun k => nth 0 l k * 2 ^ (64 * k)).sum)

/-! ## Sections: words -/

/-- The selectors of R456, in its order. -/
def selNums : List Nat := [0x1CC, 0x1E0, 0x1E2, 0x20C, 0x20E, 0x208, 0x210, 0x223, 0x227, 0x23F, 0x202]

/-- The header of R374 and the core registers. -/
def coreWords (s : State) (c : Nat) : List (Nat × Nat) :=
  let k := s.core c
  wordsFrom 0 [1 + c * 2 ^ 16 + ctxId k.ascRoot.toNat * 2 ^ 26, k.ascLtb.toNat, k.ascRoot.toNat, s.time % 2 ^ 64] ++
  wordsFrom 0x40 ([k.ttCfg.toNat, imStateImage k, k.meFlags, k.veFlags, k.rngMe.toNat, k.rngVe.toNat] ++
    (allEng.map fun e => (k.seq e).cmpf.toNat) ++
    [k.seamH1.toNat, k.seamH2.toNat, k.seamN, k.collInfo.toNat, k.race0.toNat, k.race1.toNat, k.qtmo] ++
    [((List.range 8).map fun u => look 0 k.unitTag u * 2 ^ (8 * u)).sum, ((List.range 8).map fun u => look 0 k.unitTag (8 + u) * 2 ^ (8 * u)).sum,
     k.lent, (s.pair (pairOf c)).last] ++ selNums.map fun n => (look 0 k.sels n).toNat) ++
  wordsFrom 0x800 ((List.range 64).map fun n => (look 0 k.mx n).toNat)

/-- What a control core adds to its stream's block. -/
def ctlWords (x : Ctl) : List Nat := [tstatusImage x, x.tvec.toNat, x.tcause.toNat, x.tpc.toNat, x.tinfo.toNat, x.tscratch.toNat]
def barWords (x : Ctl) : List Nat :=
  [b2n x.araV, x.araG, x.araPc, packBits ((List.range 64).map fun g => look false x.arr g)] ++
  (List.range 32).map fun j => look 0 x.ticket (2 * j) + look 0 x.ticket (2 * j + 1) * 2 ^ 32

/-- The block of stream `x`; an engine's CLR and views are those of its record's entry (R160). -/
def strmWords (k : Core) (x : Stream) : List (Nat × Nat) :=
  let m := k.str x
  let t := k.ctl (streamLeader x)
  let v := match (if isCtl x then none else (k.seq (streamEng x)).run) with
    | some u => (u.clr, u.views)
    | none => (m.clk.clr, m.clk.views)
  wordsFrom (0x1000 + 0x400 * streamNo x)
    ([stateNo m.st, b2n m.pstop, b2n m.inJob, b2n (m.job == .ccc), m.pc, m.mt] ++
     (if isCtl x then ctlWords t else [0, 0, 0, 0, 0, 0]) ++ [m.clk.rc] ++ frWords m.clk.fr ++
     (v.1.map fun v => v.elim 0 (· + 2 ^ 32)) ++ v.2 ++ (if isCtl x then barWords t else []))

/-- The restart beat of a sequencer: the code of R366 for the record that stands there. -/
def restartBeat (q : Seq) : Nat := q.run.elim 0xFFE trapBeat

/-- The reads and the carry of a record: its handles, its bounds, CMPF, and the carry of a scan. -/
def runWords (u : Run) : List Nat :=
  fitTo 20 (u.hs.flatMap handleWords) ++ [((u.tc.zip [0, 1, 2, 3]).map fun x => x.1 % 65536 * 2 ^ (16 * x.2)).sum, u.bval, u.cmpf.toNat,
    match u.instr with | .veScan _ => nth 0 u.carry 0 | _ => 0]

/-- The block of a sequencer. -/
def seqWords (k : Core) (e : Eng) : List (Nat × Nat) :=
  let q := k.seq e
  wordsFrom (0x2800 + 0x200 * engNo e)
    (((List.range 16).map (look 0 q.b)) ++ [engTrapImage q, engRstImage q, restartBeat q] ++ (q.run.map runWords).getD [])

def fileWords (off : Nat) (x : Ctl) : List (Nat × Nat) :=
  wordsFrom off ((List.range 64).map fun n => (look 0 x.s n).toNat) ++
  wordsFrom (off + 512) ((List.range 8).map fun n => b2n (look false x.p n)) ++
  wordsFrom (off + 576) ((List.range 32).flatMap fun n => handleWords (x.rdH n))

def tokenWords (k : Core) : List (Nat × Nat) :=
  wordsFrom 0x4000 ((List.range 8).map fun n => (look [] k.tk n).length) ++
  (List.range 8).flatMap fun n => ((look [] k.tk n).zip (List.range 8)).flatMap fun x => wordsFrom (0x4100 + 2048 * n + 256 * x.2) (passWords x.1)
def semWords (k : Core) : List (Nat × Nat) :=
  (List.range 32).flatMap fun n => let v := look (0, Frontier.empty) k.sem n; wordsFrom (0x9000 + 256 * n) (v.1 :: frWords v.2)
def gusWords (p : Pair) : List (Nat × Nat) :=
  wordsFrom 0xB000 [b2n p.ownV, p.ownCtx] ++ (List.range 16).flatMap fun n =>
    let v := look ((0 : Word), none) p.g n
    wordsFrom (0xB100 + 256 * n) (v.1.toNat :: frWords (gusFrontier v.2))

def slotCode : SlotSt → Nat
  | .free => 0 | .announced => 1 | .sending => 2 | .withdrawn => 3
def slotFrom' : Nat → SlotSt
  | 1 => .announced | 2 => .sending | 3 => .withdrawn | _ => .free

/-- Chunks sent without a gap from chunk 0. -/
def sentPrefix (l : List Nat) : Nat → Nat → Nat
  | 0, k => k
  | f + 1, k => if l.contains k then sentPrefix l f (k + 1) else k

/-- Priority, or the bucket with bit 3 set. -/
def prioWord (x : Slot) : Nat := x.bucket.elim x.prio fun b => 8 + b * 2 ^ 4

/-- A message slot: its state, its module, S, priority or bucket, the chunks granted and transferred, the prefix sent, the restart beat, the
suspend flag. Held tokens are always zero. -/
def slotWords (k : Core) (n : Nat) : List (Nat × Nat) :=
  let x := look Slot.reset k.slots n
  let p := sentPrefix x.sent x.sent.length 0
  wordsFrom (0xD000 + 256 * n)
    ([slotCode x.st, nth 0 x.mods 0, x.len, prioWord x, p] ++
     ((List.range 12).map fun j => packBits ((List.range 64).map fun b => x.sent.contains (p + 64 * j + b))) ++
     [Nat.min x.moved x.prefixN, x.moved / 512, b2n x.susp])
def slotFrom (w : Nat → Nat) (n : Nat) : Slot :=
  let l := readWords w (0xD000 + 256 * n) 20
  let r := nth 0 l 3
  let p := Nat.min (nth 0 l 4) 65536
  { Slot.reset with
    st := slotFrom' (nth 0 l 0), stream := 4, mods := if nth 0 l 0 = 0 then [] else [nth 0 l 1 % 1024], len := nth 0 l 2
    prio := if bitAt r 3 then 0 else r % 8, bucket := if bitAt r 3 then some (r / 2 ^ 4) else none
    sent := List.range p ++ ((List.range 768).filter fun b => bitAt (nth 0 l (5 + b / 64)) (b % 64)).map (p + ·)
    prefixN := nth 0 l 17, moved := nth 0 l 18 * 512, susp := bitAt (nth 0 l 19) 0 }

def tagWords (k : Core) : List (Nat × Nat) :=
  wordsFrom 0xE000 ((List.range 1024).map fun n => (look 0 k.tt n).toNat) ++
  wordsFrom 0x10000 ((List.range 64).map fun j => ((List.range 16).map fun n => look 0 k.rr (16 * j + n) % 16 * 2 ^ (4 * n)).sum)

/-- Operand-queue elements: contents, then tag, position (1 at the head, 0 for a free place), and the writer's pair and frontier. -/
def queueWords (k : Core) : List (Nat × Nat) :=
  (List.range 6).flatMap fun n => ((look [] k.q n).zip (List.range 16)).flatMap fun x =>
    wordsFrom (0x12000 + 512 * (16 * n + x.2)) ((List.range 64).map fun j => leNat ((x.1.bytes.drop (8 * j)).take 8)) ++
    wordsFrom (0x1E000 + 256 * (16 * n + x.2)) ([x.1.tag % 256, x.2 + 1] ++ passWords x.1.pass)
def queueFrom (w : Nat → Nat) (n : Nat) : List QElem :=
  ((List.range 16).filter fun j => w (0x1E008 + 256 * (16 * n + j)) != 0).map fun j =>
    let a := 0x1E000 + 256 * (16 * n + j)
    ⟨(readWords w (0x12000 + 512 * (16 * n + j)) 64).flatMap (leBytes 8), w a % 256, passFrom (readWords w (a + 16) 18), false⟩

/-- The dump: how many results, and each; then LIC_HELD. -/
def dumpWords (k : Core) : List (Nat × Nat) :=
  wordsFrom 0x30000 ([k.dump.length] ++ k.dump.flatMap resultWords ++ [b2n k.licHeld])

def bankWords (k : Core) : List (Nat × Nat) :=
  (List.range 2).flatMap fun b => let x := look ⟨0, 0, 0, 0⟩ k.banks b; wordsFrom (0x3C000 + 0x40 * b) [x.k, x.n, x.tag]

/-- The words of the image's sections below its memories. -/
def imageWords (s : State) (c : Nat) : List (Nat × Nat) :=
  let k := s.core c
  coreWords s c ++ (allStreams.flatMap (strmWords k)) ++ (allEng.flatMap (seqWords k)) ++ fileWords 0x3000 k.lcc ++ fileWords 0x3800 k.ccc ++
  tokenWords k ++ semWords k ++ gusWords (s.pair (pairOf c)) ++ (List.range 16).flatMap (slotWords k) ++ tagWords k ++ queueWords k ++
  dumpWords k ++ bankWords k

/-- The image's memory sections: offset, bytes, flat address. -/
def memSections (c : Nat) : List (Nat × Nat × Nat) :=
  [(0x40000, 0x80000, bankAt c 0 0), (0xC0000, 0x20000, bankAt c 0 0x80000), (0xE0000, 0x80000, bankAt c 1 0),
   (0x160000, 0x20000, bankAt c 1 0x80000), (0x180000, 0x80000, accAt c 0), (0x200000, 0x400000, spmAt c 0)]

/-- The image as its bytes that are not zero: offset and byte. -/
def imageCells (s : State) (c : Nat) : List (Nat × Byte) :=
  ((imageWords s c).flatMap fun x => ((leBytes 8 x.2).zip (List.range 8)).map fun b => (x.1 + b.2, b.1)).filter (·.2 != 0) ++
  ((memSections c).flatMap fun x => (s.mem.filter fun m => decide (x.2.2 ≤ m.1 ∧ m.1 < x.2.2 + x.2.1)).map fun m => (m.1 - x.2.2 + x.1, m.2)) ++
  ((List.range 0x40000).map fun k => (0x600000 + k, imByte s c k)).filter (·.2 != 0)

end Sys2Proof.Machine
end

