-- ==== Sys2Proof/Machine/Noweone.lean ====
section
/-! DEFINITION. What arrives from other modules: remote accesses and acknowledgements (R137, R316, R457), bulk messages, tokens and the
grant scheduler (R318-R320, R385-R388), and collectives' chunks (R325). -/
namespace Sys2Proof.Machine

/-! ## Remote accesses at their target (R16, R137, R457) -/

/-- The layout fields that a message carries, as an entry image. -/
def accEntry (m : RemoteAcc) : Entry :=
  1 + 6 * 2 + b2n m.relaxed * 2 ^ 4 + m.tag % 256 * 2 ^ 8 + m.domLevel % 8 * 2 ^ 16 + m.domInst % 1024 * 2 ^ 19 + m.keyIx % 8192 * 2 ^ 32 +
    b2n m.keyReq * 2 ^ 45

/-- A module known to be a member of a domain: an access of its through an entry of that domain has passed its checks (R24). -/
def notePeer (m : RemoteAcc) (s : State) : State :=
  let p := (m.domLevel % 8, m.domInst % 1024, m.sender)
  if s.peers.contains p then s else { s with peers := s.peers ++ [p] }

/-- One element of an arriving access, located by steps 10 to 12 under PEER_CTX; the access performs at its home tower. The sender's
membership counts in a stage group or the scale-up domain only (R24). -/
def peerLoc (m : RemoteAcc) (addr : Nat) (nib : Option Bool) (a : Acc) : M (Who × Loc) := do
  let s ← get
  let root := s.peerCtx.toNat
  needM (bitAt root 63) .translation
  let ctx := ctxId root
  if frozenAt s ctx addr then waitM .other
  needM (decide (5 ≤ m.domLevel ∧ m.domLevel ≤ 6)) .permission
  match translate s 0 root addr with
  | none => trapM .translation
  | some (pte, size) =>
    set (cacheTr s 0 root addr (pte, size))
    let safe := pKind pte == 1 && decide (2 ^ 41 ≤ pFrame pte * 2 ^ 16 + addr % 2 ^ 16)
    needM (decide (pKind pte ≤ 1) && pPeer pte && (if a = .atomic then pAt pte else pWr pte) && !safe) .permission
    needM (keyOk s pte m.keyIx m.keyReq) .key
    modify (notePeer m)
    let flat := physOf pte size addr
    return (⟨ingressAgent m.sender, homeOf flat, none, 0, root, 0xFFF, false, 0⟩,
      ⟨⟨6, m.ltIndex, m.tag, addr, addr, nib, esizeBytes m.tag, accEntry m, []⟩, flat, viewOf s pte addr, ctx⟩)

/-- The elements of an arriving write: address, nibble and code. A 4-bit run carries a code a byte, then the first nibble. -/
def elemsOf (m : RemoteAcc) : List (Nat × Option Bool × Nat) :=
  if esizeBits m.tag = 4 then
    let xs := m.bytes.dropLast
    let hi := ((m.bytes.getLast?).map (·.toNat)).getD 0
    (List.range xs.length).map fun k => (m.va + (hi + k) / 2, some ((hi + k) % 2 == 1), (nth 0 xs k).toNat)
  else
    let n := Nat.max 1 (esizeBytes m.tag)
    (List.range (m.bytes.length / n)).map fun k => (m.va + k * n, none, leNat ((m.bytes.drop (k * n)).take n))

/-- A value written by a remote release is a delivery where its word is a channel's DELIVER word (R352). -/
def tryDeliver (m : RemoteAcc) (flat v : Nat) : M Unit := do
  let s ← get
  match deliverChan s m.sender flat with
  | none => pure ()
  | some n =>
    let k := clockOf s (ingressAgent m.sender) 0
    let t ← liftC (chanDeliver n v (k.pass (ingressAgent m.sender)) s)
    set t

/-- A remote write of release order performed: a release at module scope. -/
def performRelWrite (m : RemoteAcc) : M Unit := whole do
  forList (fun e => do
    let (w, l) ← peerLoc m e.1 e.2.1 .store
    storeOrd w l .rel .module e.2.2
    tryDeliver m l.flat e.2.2) (elemsOf m)

/-- The checks of a plain remote write, all or none: the elements that it is to write. -/
def writeChecks (m : RemoteAcc) : M (List (Loc × Nat)) := whole do
  mapList (fun e => do
    let (w, l) ← peerLoc m e.1 e.2.1 .store
    raceCheck w l.p l.flat l.view true
    return (l, storeBits l.p.tag e.2.2)) (elemsOf m)

/-- One element of a plain remote write performs. -/
def landElem (sender : Nat) (l : Loc) (x : Nat) : M Unit := do
  let w : Who := ⟨ingressAgent sender, homeOf l.flat, none, 0, (← get).peerCtx.toNat, 0xFFF, false, 0⟩
  let bs ← elemBytes w l x
  writeLoc w l bs

/-- Acknowledgements to a module: each number with its ring flag. -/
def ackAll (sender status : Nat) (acks : List (Nat × Nat)) (s : State) : State :=
  acks.foldl (fun s a => emit (.ack sender a.1 status (a.2 == 1)) s) s

/-- The next element of a write whose checks are made performs, apart from the others (R105); the write is acknowledged with its last. What is
left of it waits. -/
def landNext (sender : Nat) (els : List (Loc × Nat)) (acks : List (Nat × Nat)) (s : State) : State × Option Held :=
  match els with
  | [] => (ackAll sender 0 acks s, none)
  | e :: t =>
    match (landElem sender e.1 e.2).go s with
    | (.ok _, s') => if t.isEmpty then (ackAll sender 0 acks s', none) else (s', some (.landing sender t acks))
    | (.error (.trap x), s') => (ackAll sender (causeCode x.cause) acks s', none)
    | (.error _, _) => (s, some (.landing sender els acks))

/-- The new value of a remote atomic, none where nothing is written (R219). -/
def remoteOp (op n : Nat) (x y : Word) (old : Nat) : Option Nat :=
  if op = 11 then (if old = x.toNat % 2 ^ n then some (y.toNat % 2 ^ n) else none) else some (atomicOp op n old (x.toNat % 2 ^ n))

/-- A remote atomic performed. -/
def performAtomic (m : RemoteAcc) (op : Nat) (x y : Word) : M Unit := whole do
  let (w, l) ← peerLoc m m.va none .atomic
  let n := esizeBits m.tag
  let old ← atomicAt w l (if m.release then .rel else .rlx) .module (remoteOp op n x y)
  match remoteOp op n x y old with
  | some v => if m.release then tryDeliver m l.flat v else pure ()
  | none => pure ()

/-- An access performed and acknowledged: 0, or the cause that its check names (R316); where it must wait, `h` is what waits. `quiet`: nobody
awaits its acknowledgement. -/
def tryAcc (h : Held) (m : RemoteAcc) (quiet : Bool) (f : M Unit) (s : State) : State × Option Held :=
  let report := fun (st : Nat) (t : State) => if quiet then t else emit (.ack m.sender m.id st false) t
  match f.go s with
  | (.ok _, t) => (report 0 t, none)
  | (.error (.trap x), t) => (report (causeCode x.cause) t, none)
  | (.error _, _) => (s, some h)

/-- Plain writes checked in order, one that fails being acknowledged with its cause: the elements of the others, with their acknowledgements.
None where one must wait. -/
def checkWrites (ring : Bool) : List RemoteAcc → List (Loc × Nat) → List (Nat × Nat) → State → Option (List (Loc × Nat) × List (Nat × Nat) × State)
  | [], els, acks, s => some (els, acks, s)
  | m :: t, els, acks, s =>
    match (writeChecks m).go s with
    | (.ok es, s') => checkWrites ring t (els ++ es) (acks ++ [(m.id, b2n ring)]) s'
    | (.error (.trap x), s') => checkWrites ring t els acks (emit (.ack m.sender m.id (causeCode x.cause) ring) s')
    | (.error _, _) => none

/-- Plain writes of a module performed, `h` being what waits where one must. -/
def tryWrites (h : Held) (sender : Nat) (ring : Bool) (ms : List RemoteAcc) (s : State) : State × Option Held :=
  match checkWrites ring ms [] [] s with
  | some (els, acks, s') => landNext sender els acks s'
  | none => (s, some h)

/-! ## Answers (R316, R385) -/

/-- An answer once message `id` has been acknowledged. -/
def Answer.settled (id status : Nat) : Answer → Answer
  | .asked q got => if q.id = id then .remote status else .asked q got
  | a => a

/-- The answer that a waiting access holds once message `id` has been acknowledged. A multicast's beat awaits every number it lists. -/
def Run.answer (u : Run) (id status : Nat) : Run :=
  if u.acks.contains id then
    let left := u.acks.erase id
    if status ≠ 0 then { u with acks := [], ans := .remote status }
    else if left.isEmpty then { u with acks := [], ans := .remote 0 }
    else { u with acks := left }
  else { u with ans := u.ans.settled id status }

/-- The access `id` of a stream is settled with a status. -/
def settle' (id status : Nat) (s : State) : State :=
  match s.sent.find? fun r => r.id == id with
  | none => s
  | some r =>
    let x := streamOf r.stream
    let s := { s with sent := s.sent.filter fun q => q.id != id }.actBy (ObjKind.own.key (agentOf r.core x)) (ingressAgent r.module)
    if isCtl x then
      let l := streamLeader x
      let t := s.ctlOf r.core l
      s.setCtlOf r.core l { t with ans := t.ans.settled id status }
    else
      let e := streamEng x
      let q := s.seqOf r.core e
      s.setSeqOf r.core e { q with run := q.run.map (·.answer id status), defer := q.defer.map (·.answer id status) }

/-- A busy INTENT goes to the slot's resend list, due in 2 us. -/
def busyIntent (id : Nat) (s : State) : State :=
  { s with cores := s.cores.map fun c => (c.1, { c.2 with slots := c.2.slots.map fun k =>
      (k.1, match k.2.ids.find? fun x => x.1 == id with
        | some x => { k.2 with ids := k.2.ids.erase x, resend := k.2.resend ++ [(x.2.1, s.time + 2000)] }
        | none => k.2) }) }

/-- An INTENT, or a credit of the microbatch scheduler, has been acknowledged. -/
def noted (id : Nat) (s : State) : State :=
  { s with
    mbsSent := s.mbsSent.filter fun q => q.1 != id
    cores := s.cores.map fun c => (c.1, { c.2 with slots := c.2.slots.map fun k => (k.1, { k.2 with ids := k.2.ids.filter fun x => x.1 != id }) }) }

def ackArrives (id status : Nat) (s : State) : State := if status = 0x7F then busyIntent id s else settle' id status (noted id s)

/-- An INTENT that nothing answers: its message is withdrawn (R316, R452; notes/assumptions/27.md). -/
def orphanIntent (id : Nat) (s : State) : State :=
  { s with cores := s.cores.map fun c => (c.1, { c.2 with slots := c.2.slots.map fun k =>
      (k.1, if k.2.ids.any fun x => x.1 == id && decide (x.2.2 + 100000 ≤ s.time) then { k.2 with st := .withdrawn, tokens := [], resend := [], ids := [] }
        else k.2) }) }

/-- A remote access not acknowledged within 100 us is orphaned (R316); so is a message's INTENT, and a credit of the microbatch scheduler. -/
def remoteOrphan (id : Nat) (s : State) : State :=
  let s := orphanIntent id { s with mbsSent := s.mbsSent.filter fun q => !(q.1 == id && decide (q.2.2 + 100000 ≤ s.time)) }
  if s.sent.any fun r => r.id == id && decide (r.since + 100000 ≤ s.time) then settle' id 0x10 s else s
def execRemoteOrphan (id : Nat) : State → Out := event (remoteOrphan id)

/-! ## Sender's side of bulk messages (R318, R319, R385) -/

/-- Is slot `k` of a core in use under an epoch? -/
def slotLive (x : Slot) (ep : Nat) : Bool := (x.st == .announced || x.st == .sending) && x.epoch == ep

/-- The INTENTs due again. -/
def intentResend (c k : Nat) (s : State) : State :=
  let x := slotOf s c k
  let due := x.resend.filter fun r => decide (r.2 ≤ s.time)
  if slotLive x x.epoch && !x.susp then
    sendIntents c k (due.map (·.1)) (setSlot c k { x with resend := x.resend.filter fun r => !decide (r.2 ≤ s.time) } s)
  else s
def execIntentResend (c : CoreId) (k : Fin 18) : State → Out := event (intentResend c k)

/-- A token granted by module `src` for chunk `n`; a stale one is dropped. -/
def grantArrives (c k src ep n ex : Nat) (s : State) : State :=
  let x := slotOf s c k
  if slotLive x ep && !x.susp && x.mods.contains src then setSlot c k { x with tokens := x.tokens ++ [⟨src, n, ex⟩] } s else s
def execGrant (c : CoreId) (k : Fin 18) (src ep n ex : Nat) : State → Out := event (grantArrives c k src ep n ex)

/-- The sender discards an expired token. -/
def tokenExpiry (c k src n : Nat) (s : State) : State :=
  let x := slotOf s c k
  setSlot c k { x with tokens := x.tokens.filter fun t => !(t.src == src && t.n == n && decide (t.ex ≤ s.time)) } s
def execTokenExpiry (c : CoreId) (k : Fin 18) (src n : Nat) : State → Out := event (tokenExpiry c k src n)

/-- Notice that the receiver has withdrawn the message. -/
def withdrawArrives (c k ep : Nat) (s : State) : State :=
  let x := slotOf s c k
  if slotLive x ep then setSlot c k { x with st := .withdrawn, tokens := [], resend := [] } s else s
def execWithdraw (c : CoreId) (k : Fin 18) (ep : Nat) : State → Out := event (withdrawArrives c k ep)

/-! ## The grant scheduler (R386-R388) -/

def intentAt (s : State) (i : MsgId) : Option Intent := s.intents.find? fun x => x.id == i
def mapIntent (i : MsgId) (f : Intent → Intent) (s : State) : State :=
  { s with intents := s.intents.map fun x => if x.id = i then f x else x }
def dropIntent (i : MsgId) (s : State) : State := { s with intents := s.intents.filter fun x => x.id != i }

/-- A chunk number put back among the ungranted ones, in rising order. -/
def addChunk (n : Nat) : List Nat → List Nat
  | [] => [n]
  | m :: t => if n < m then n :: m :: t else if n = m then m :: t else m :: addChunk n t

/-- Tokens that stop being outstanding; their chunks are ungranted again unless begun. -/
def Intent.untake (x : Intent) (ns : List Nat) : Intent :=
  let back := (x.tokens.map (·.1)).filter fun n => ns.contains n && !x.got.contains n
  { x with tokens := x.tokens.filter fun t => !ns.contains t.1, wanted := back.foldl (fun l n => addChunk n l) x.wanted }

/-- The chunks that an INTENT announces: those of the bytes behind its prefix. -/
def announced (n : IntentInfo) : List Nat := span (n.start / 65536) ((n.start + (n.len - n.pfx) + 65535) / 65536)

/-- A message with no chunk to grant and no token outstanding leaves the table (R386). -/
def closeIntent (i : MsgId) (s : State) : State :=
  { s with intents := s.intents.filter fun x => !(x.id == i && !x.susp && x.wanted.isEmpty && x.tokens.isEmpty) }

/-- INTENT: busy where 8,192 are held, else acknowledged. One under the identity of an intent held replaces it: it announces the bytes that have
not been transferred, whose chunks are granted anew but for those whose token no RETURN or SUSPEND named (R330, R386, R388). A message without a
chunk leaves nothing to grant and is not held. One that announces a message from its beginning forgets an earlier message of its identity. -/
def intentArrives (i : MsgId) (n : IntentInfo) (s : State) : State :=
  let ns := announced n
  match intentAt s i with
  | some _ =>
    let s := mapIntent i (fun x => { x with
      susp := false, prio := n.prio, bucket := n.bucket, lost := 0, last := s.time, got := x.got.filter fun k => !ns.contains k
      wanted := ns.filter fun k => !(x.tokens.any fun t => t.1 == k) }) { s with begun := s.begun.filter fun b => !(b.1 == i && ns.contains b.2) }
    emit (.ack i.sender n.num 0 n.coll) (closeIntent i s)
  | none =>
    if 8192 ≤ s.intents.length then emit (.ack i.sender n.num 0x7F n.coll) s
    else
      let s := if n.start = 0 then { s with begun := s.begun.filter fun b => b.1 != i, collIn := s.collIn.filter fun b => b.1 != i } else s
      emit (.ack i.sender n.num 0 n.coll) (if n.len ≤ n.pfx then s
        else { s with intents := s.intents ++ [⟨i, n.len - n.pfx, n.prio, n.bucket, ns, [], false, 0, [], s.time, n.coll, n.flag⟩] })
def execIntent (i : MsgId) (n : IntentInfo) : State → Out := event (intentArrives i n)

/-- Tokens outstanding. -/
def outst (s : State) : Nat := (s.intents.map fun i => i.tokens.length).sum

/-- eff(i): the priority at the moment of the grant. -/
def effPrio (s : State) (x : Intent) : Nat :=
  match x.bucket with
  | some b => look 0 s.bpri b
  | none => x.prio

/-- A grant's number in the order log: its message and its chunk. -/
def grantCode (x : Intent) : Nat :=
  x.id.sender % 1024 + x.id.core % 1024 * 2 ^ 10 + x.id.slot % 32 * 2 ^ 20 + x.id.epoch % 256 * 2 ^ 25 + nth 0 x.wanted 0 * 2 ^ 33

/-- The scheduler's choice of an intent recorded, or in replay none but the logged one (R436, R437). -/
def grantTurn (x : Intent) (s : State) : Option State := repTurn (ObjKind.grant.key 0) (grantCode x) s

/-- The intent that the next grant goes to. -/
def nextGrant (s : State) : Option Intent :=
  let cs := s.intents.filter fun x => !x.susp && !x.wanted.isEmpty && decide (x.tokens.length < 4) && (grantTurn x s).isSome
  let p := (cs.map (effPrio s)).foldl Nat.max 0
  let cs := cs.filter fun x => effPrio s x == p
  match least (cs.map fun x => (x.id.sender % 1024 + 1023 - s.lastM) % 1024) with
  | none => none
  | some d => cs.find? fun x => (x.id.sender % 1024 + 1023 - s.lastM) % 1024 == d

/-- The grants of one cycle. -/
def grantLoop : Nat → State → State
  | 0, s => s
  | fuel + 1, s =>
    if outst s < s.maxTok then
      match nextGrant s with
      | none => s
      | some x =>
        match x.wanted with
        | [] => s
        | n :: rest =>
          let ex := s.time + 20000
          let s := mapIntent x.id (fun y => { y with wanted := rest, tokens := y.tokens ++ [(n, ex)], last := if y.tokens.isEmpty then s.time else y.last }) s
          let s := ((grantTurn x s).getD s).noteOpen 0x3FD0 8
          grantLoop fuel (emit (.grant x.id n ex) { s with lastM := x.id.sender % 1024 })
    else s
def grantSchedule (s : State) : State := grantLoop s.maxTok s
def execGrantSchedule : State → Out := event grantSchedule

/-- A token whose header has not come by E + 10 us is abandoned (R387). -/
def tokenAbandon (i : MsgId) (n : Nat) (s : State) : State :=
  match intentAt s i with
  | some x =>
    if x.tokens.any fun t => t.1 == n && !x.got.contains n && decide (t.2 + 10000 ≤ s.time) then
      mapIntent i (fun y => { y.untake [n] with lost := y.lost + 1 }) s
    else s
  | none => s
def execTokenAbandon (i : MsgId) (n : Nat) : State → Out := event (tokenAbandon i n)

/-- RETURN: a token comes back. -/
def returnArrives (i : MsgId) (n : Nat) (s : State) : State := mapIntent i (fun x => x.untake [n]) s
def execReturnTok (i : MsgId) (n : Nat) : State → Out := event (returnArrives i n)

/-- SUSPEND: no grants, no withdrawal. -/
def suspendArrives (i : MsgId) (ns : List Nat) (s : State) : State := mapIntent i (fun x => { x.untake ns with susp := true }) s
def execSuspend (i : MsgId) (ns : List Nat) : State → Out := event (suspendArrives i ns)

/-- CANCEL: the bytes received stand, and a chunk whose header has come is still taken whole (R331, R387). -/
def execCancel (i : MsgId) : State → Out := event (dropIntent i)

/-- Does a chunk that was accepted wait to perform? -/
def chunkHeld (s : State) (i : MsgId) (n : Nat) : Bool := s.held.any fun h => match h.2 with
  | .chunk j m _ => j == i && m == n
  | _ => false

/-- What had begun of a withdrawn message is no longer awaited, but for what has arrived and waits (R387). -/
def dropBegun (i : MsgId) (s : State) : State :=
  { s with
    begun := s.begun.filter fun b => b.1 != i || chunkHeld s i b.2
    collIn := s.collIn.filter fun b => b.1 != i || chunkHeld s i b.2.1 }

/-- The receiver withdraws a message that lost eight tokens in a row, or that sent nothing for 100 us while holding one; a reclaimed
collective's flag is written (R320, R325, R387). -/
def messageWithdraw (i : MsgId) (s : State) : State :=
  match intentAt s i with
  | some x =>
    if !x.susp && (decide (8 ≤ x.lost) || (!x.tokens.isEmpty && decide (x.last + 100000 ≤ s.time))) then
      let s := emit (.withdraw i x.coll) { dropBegun i (dropIntent i s) with wdraw := Nat.min (s.wdraw + 1) 0xFFFFFFFF }
      match x.flag with
      | some m => if x.coll then { s with held := s.held ++ [(s.peerCtx, .atomic { m with msg := some (i.slot, i.epoch) } 2 1 0)] } else s
      | none => s
    else s
  | none => s
def execMessageWithdraw (i : MsgId) : State → Out := event (messageWithdraw i)

/-- GS_CTL and GS_STATUS. -/
def wrGsCtl (v : Word) (s : State) : State :=
  let n := v.toNat % 1024
  if 1 ≤ n ∧ n ≤ 512 then { s with maxTok := n } else s
def execGsCtlWrite (v : Word) : State → Out := regEvent 0x205 true fun s => .ok (wrGsCtl v s)
def gsStatusImage (s : State) : Nat := s.intents.length + outst s * 2 ^ 14 + s.wdraw * 2 ^ 24

/-! ## Chunks (R319, R325, R387) -/

/-- The operation of a collective by its number. -/
def collOp : Nat → UOp
  | 1 => .min | 2 => .max | _ => .add

/-- The elements of an arriving run located; the D entry of a collective must be relaxed (R325). -/
def collLocs (m : RemoteAcc) : M (List (Who × Loc × Nat)) := do
  needM m.relaxed .permission
  mapList (fun e => do
    let (w, l) ← peerLoc m e.1 e.2.1 .store
    return (w, l, storeBits m.tag e.2.2)) (elemsOf m)

/-- What an arrival does under the PEER_CTX that it met (R457). -/
def underCtx {α : Type} (v : Word) (m : M α) : M α := do
  let old := (← get).peerCtx
  modify fun s => { s with peerCtx := v }
  let a ← m
  modify fun s => { s with peerCtx := old }
  return a

/-- A whole chunk applied to the chunk table and the data, each run under the PEER_CTX that it met (R325, R457). -/
def collApply (p : CollInfo) (ms : List (Word × RemoteAcc)) : M Unit := whole do
  let x := chunkOf (← get) (p.chunk % 4096)
  let els ← mapList (fun m : Word × RemoteAcc => do
    let l ← underCtx m.1 (collLocs m.2)
    return l.map fun e => (m.2.tag, e)) ms
  let els := els.flatten
  if p.put then
    forList (fun e => do
      let bs ← elemBytes e.2.1 e.2.2.1 e.2.2.2
      writeLoc e.2.1 e.2.2.1 bs) els
    modify (setChunk (p.chunk % 4096) ⟨p.map, p.conflict⟩)
  else if x.map &&& p.map = 0 then
    forList (fun e => do
      let l := e.2.2.1
      let old ← homeRead e.2.1 l l.p.bytes
      writeLoc e.2.1 l (leBytes l.p.bytes (opHelper (collOp p.op) e.1 old e.2.2.2))) els
    modify (setChunk (p.chunk % 4096) { x with map := x.map ||| p.map })
  else modify (setChunk (p.chunk % 4096) { x with conflict := true })

/-- Is this chunk's header accepted: it has begun, or it comes against a token outstanding before E + 10 us (R387)? -/
def headerOk (i : MsgId) (n : Nat) (s : State) : Bool :=
  s.begun.contains (i, n) || s.intents.any fun x => x.id == i && x.tokens.any fun t => t.1 == n && decide (s.time < t.2 + 10000)

/-- The header noted as it arrives: the whole chunk is then taken, whatever its bytes wait for, and a beat of it that fails here may be sent
again. With the chunk's last flit its token is no longer outstanding (R316, R386, R387). -/
def noteHeader (i : MsgId) (n : Nat) (last : Bool) (s : State) : State :=
  let s := mapIntent i (fun y => { y with
    got := if y.got.contains n then y.got else y.got ++ [n], wanted := y.wanted.erase n, lost := 0, last := s.time
    tokens := if last then y.tokens.filter fun t => t.1 != n else y.tokens }) s
  closeIntent i { s with begun := if s.begun.contains (i, n) then s.begun else s.begun ++ [(i, n)] }

/-- Bytes of a chunk that nothing accepts: the sender finds its message withdrawn. -/
def turnAway (p : ChunkInfo) (s : State) : State := p.writes.foldl (fun s m => emit (.ack m.sender m.id 0x10 p.coll.isSome) s) s

/-- A collective's run held for its chunk under the PEER_CTX that it met, one sent again in the place of the first. -/
def holdRun (i : MsgId) (n : Nat) (m : RemoteAcc) (s : State) : State :=
  let new := fun (b : MsgId × Nat × List (Word × RemoteAcc)) => !(b.1 == i && b.2.1 == n)
  let old := ((s.collIn.find? fun b => !new b).map (·.2.2)).getD []
  { s with collIn := s.collIn.filter new ++ [(i, n, old.filter (fun a => m.va != a.2.va) ++ [(s.peerCtx, m)])] }

/-- Beats of a collective's chunk: each is checked as it comes; with the last the whole chunk is applied, behind a sending of the same chunk by
this module (R325). None where it must wait. -/
def collBeat (i : MsgId) (n : Nat) (q : CollInfo) (last : Bool) : List RemoteAcc → State → Option State
  | [], s => some s
  | m :: t, s =>
    match (whole (collLocs m)).go s with
    | (.ok _, _) =>
      if last && t.isEmpty then
        if collSending s (q.chunk % 4096) then none
        else
          let s := holdRun i n m s
          let runs := ((s.collIn.find? fun b => b.1 == i && b.2.1 == n).map (·.2.2)).getD []
          match (collApply q runs).go { s with collIn := s.collIn.filter fun b => !(b.1 == i && b.2.1 == n) } with
          | (.ok _, s') => some (emit (.ack m.sender m.id 0 true) s')
          | (.error (.trap x), _) => some (emit (.ack m.sender m.id (causeCode x.cause) true) s)
          | (.error _, _) => none
      else collBeat i n q last t (emit (.ack m.sender m.id 0 true) (holdRun i n m s))
    | (.error (.trap x), _) => collBeat i n q last t (emit (.ack m.sender m.id (causeCode x.cause) true) s)
    | (.error _, _) => none

/-- Bytes of chunk `n`, whose header was noted as they arrived. -/
def tryChunk (i : MsgId) (n : Nat) (p : ChunkInfo) (s : State) : State × Option Held :=
  match p.coll with
  | some q => match collBeat i n q p.last p.writes s with
    | some s' => (s', none)
    | none => (s, some (.chunk i n p))
  | none => tryWrites (.chunk i n p) i.sender false p.writes s

/-! ## Arrival on a channel (R137) -/

/-- The module that an arrival comes from. -/
def Held.sender : Held → Nat
  | .landing m _ _ => m
  | .write m => m.sender
  | .atomic m _ _ _ => m.sender
  | .chunk i _ _ => i.sender

/-- The prefix of a message comes as writes, which count as sent (R320). -/
def prefixFlit (m : RemoteAcc) (s : State) : State :=
  match m.msg with
  | some (k, ep) => mapIntent ⟨m.sender, m.agent / 8, k, ep⟩ (fun x => { x with last := s.time }) s
  | none => s

/-- An arrival performed, and what of it must wait. A credit of a stage channel names the channel, in space 8 (R352; notes/assumptions/15.md);
the flag of a reclaimed collective is this module's own write (R325). -/
def tryHeld (s : State) : Held → State × Option Held
  | .landing m els acks => landNext m els acks s
  | .write m => if m.release then tryAcc (.write m) m false (performRelWrite m) s else tryWrites (.write m) m.sender false [m] s
  | .atomic m op x y =>
    if m.space = 8 then (mbsDo (.credit (m.va % 32) m.sender m.id) s, none)
    else tryAcc (.atomic m op x y) m m.msg.isSome (performAtomic m op x y) s
  | .chunk i n p => tryChunk i n p s

/-- What an arrival does as it is accepted, before it performs: a chunk's header is noted, or its bytes are turned away (R387). -/
def acceptHeld (h : Held) (s : State) : State × Bool :=
  match h with
  | .chunk i n p => if headerOk i n s then (noteHeader i n p.last s, true) else (turnAway p s, false)
  | .write m => (prefixFlit m s, true)
  | _ => (s, true)

/-- An arrival: it performs at once, or waits behind those of its channel that wait, under the PEER_CTX that it met (R457). -/
def arriveHeld (h : Held) (s : State) : State :=
  match repArrival (.remote h) (fun e => match e with | .remote x => x.sender == h.sender | _ => false) s with
  | none => s
  | some s =>
    match acceptHeld h s with
    | (s, false) => s
    | (s, true) =>
      if s.held.any fun x => x.2.sender == h.sender then { s with held := s.held ++ [(s.peerCtx, h)] }
      else match tryHeld s h with
        | (s', none) => s'
        | (s', some k) => { s' with held := s'.held ++ [(s'.peerCtx, k)] }

/-- An arrival tried under the PEER_CTX that it met. -/
def tryUnder (v : Word) (h : Held) (s : State) : State × Option Held :=
  let r := tryHeld { s with peerCtx := v } h
  ({ r.1 with peerCtx := s.peerCtx }, r.2)

/-- The waiting arrivals, in order, as far as each channel goes. -/
def retryLoop : List (Word × Held) → List (Word × Held) → State → State
  | [], kept, s => { s with held := kept }
  | h :: t, kept, s =>
    if kept.any fun x => x.2.sender == h.2.sender then retryLoop t (kept ++ [h]) s
    else match tryUnder h.1 h.2 s with
      | (s', none) => retryLoop t kept s'
      | (s', some k) => retryLoop t (kept ++ [(h.1, k)]) s'
def retryHeld (s : State) : State := if s.held.isEmpty then s else retryLoop s.held [] s

def execRemoteWrite (m : RemoteAcc) : State → Out := event (arriveHeld (.write m))
def execRemoteAtomic (m : RemoteAcc) (op : Fin 16) (x y : Word) : State → Out := event (arriveHeld (.atomic m op.val x y))
def execChunkArrive (i : MsgId) (n : Nat) (p : ChunkInfo) : State → Out := event (arriveHeld (.chunk i n p))

/-! ## PEER_CTX (R457) -/

def wrPeerCtx (v : Word) (s : State) : Chk State := do
  need (bitsAt v.toNat 0 11 == 0 && bitsAt v.toNat 52 11 == 0) .bounds
  return { s with peerCtx := v }
def execPeerCtxWrite (v : Word) : State → Out := regEvent 0x21C true (wrPeerCtx v)

end Sys2Proof.Machine
end

