-- ==== Sys2Proof/Machine/Trace.lean ====
section
/-! DEFINITION. The trace ring and its registers (R430-R432), and the global time counter's following of a master (R429). -/
namespace Sys2Proof.Machine

/-- The checkpoint path: agent class 4 (R103). -/
def ckptAgent : Nat := 8192 + 4 * 1024

/-! ## TRC_CTL and the ring (R431) -/

def trcLt (v : Nat) : Nat := bitsAt v 12 12

/-- What an entry must be to hold the ring. -/
def ringOk (ltb : Nat) (e : Entry) : Bool :=
  entryOk ltb e && eSpace e == 2 && eRelaxed e && eFmt e == 0x45 && decide (4 ≤ eExt e 0) && eExt e 1 == 1 && eExt e 2 == 1 && eExt e 3 == 1

/-- TRC_CTL written by core `c`, whose context names the ring from then on (notes/assumptions/32.md). -/
def wrTrcCtl (c : Nat) (v : Word) (s : State) : Chk State := do
  let x := v.toNat % 2 ^ 40
  let k := s.core c
  let w := whoStream s c .lcc
  need (!bitAt x 0 || ringOk w.ltb (ltEntry s w (trcLt x))) .permission
  return { s with trcCtl := BitVec.ofNat 64 x, trcWho := (c, k.ascLtb, k.ascRoot) }

/-- The ring's accesses: those of the checkpoint path's agent in the context kept with TRC_CTL. -/
def trcAgent (s : State) : Who :=
  let (c, ltb, root) := s.trcWho
  ⟨ckptAgent, towerOf c, some c, ltb.toNat, root.toNat, 0xFFF, true, 0⟩

/-- One word of the ring; trace writes are never race-checked. -/
def ringWord (i x : Nat) : M Unit := do
  let w := trcAgent (← get)
  let l ← wordLoc w (trcLt (← get).trcCtl.toNat) i .store
  writeLoc w l (leBytes 8 x)

/-- The four words of a record at place `k` of the ring. -/
def ringRecord (k time who payload : Nat) : M Unit := do
  ringWord (4 * k) time
  ringWord (4 * k + 1) who
  ringWord (4 * k + 2) (payload % 2 ^ 64)
  ringWord (4 * k + 3) (payload / 2 ^ 64)

/-- A record dropped: LOST counts it, saturating. -/
def trcLost (s : State) : State :=
  let v := s.trcStat.toNat
  { s with trcStat := BitVec.ofNat 64 (setBits v 32 32 (Nat.min (bitsAt v 32 32 + 1) 0xFFFFFFFF)) }

/-- One event written to the ring with its source's next SEQ, or dropped where the write path is busy: an open choice
(notes/assumptions/7.md). -/
def traceOne (s : State) (e : Nat × Nat × Nat) : State :=
  let (src, kind, payload) := e
  let q := look 0 s.trcSeq src
  let s := { s with trcSeq := put s.trcSeq src ((q + 1) % 2 ^ 32) }
  let v := s.trcStat.toNat
  let n := eExt (ltEntry s (trcAgent s) (trcLt s.trcCtl.toNat)) 0 / 4
  if n = 0 || Config.freeBit s.freeCtr (src * 2 ^ 32 + q) then trcLost s
  else
    match (whole (ringRecord (v % 2 ^ 32 % n) s.time (src + kind * 2 ^ 14 + q * 2 ^ 32) payload)).go s with
    | (.ok _, t) => { t with trcStat := BitVec.ofNat 64 (setBits v 0 32 (v % 2 ^ 32 + 1)) }
    | _ => trcLost s

/-- The events of a step, in each source's order. -/
def traceDrain (s : State) : State := if s.trcQ.isEmpty then s else s.trcQ.foldl traceOne { s with trcQ := [] }

def execTrcCtlWrite (v : Word) : State → Out := regEvent 0x236 true fun s => wrTrcCtl s.cc v s

/-! ## WAITFOR (R432) -/

/-- OBJ and NUM of the six streams of a core; `clk` while its die changes its clock. -/
def waitforImage (clk : Bool) (k : Core) : Nat :=
  ((List.range 6).map fun n =>
    let m := k.str (streamOf n)
    let (o, i) := if m.st = .wait then waitObj m.wait else if m.st = .run ∧ clk then (12, 0) else (15, 0)
    (o + i % 64 * 2 ^ 4) * 2 ^ (10 * n)).sum

/-! ## TSYNC (R429) -/

def tsMaster (v : Word) : Bool := bitAt v.toNat 0 && bitAt v.toNat 1
def tsFollower (v : Word) : Bool := bitAt v.toNat 0 && !bitAt v.toNat 1

/-- LOCKED set to `b`. -/
def setLocked (b : Bool) (v : Word) : Word := BitVec.ofNat 64 (v.toNat % 4 + b2n b * 4)

/-- TSYNC written: a master is locked; a follower that was none is not, until a message shows it so. A module that follows no more does not go on
slewing. -/
def wrTsync (v : Word) (s : State) : State :=
  { s with
    tsync := setLocked (tsMaster v || (tsFollower v && tsFollower s.tsync && bitAt s.tsync.toNat 2)) v
    slew := if tsFollower v then s.slew else 0 }

/-- The master sends its time. -/
def timeSyncSend (s : State) : State := if tsMaster s.tsync then emit (.time (BitVec.ofNat 64 s.time)) s else s

/-- Has this module children in the barrier tree of bg0? -/
def treeChildren (s : State) : Bool := fbtV (fbtOf s 0) && bitsAt (fbtOf s 0).cfg.toNat 11 3 != 0

/-- The master's time comes, the path delay removed: a follower more than 1 ms behind jumps forward, else it slews. The time goes on along the tree
of bg0. -/
def timeMessage (t : Word) (s : State) : State :=
  if tsFollower s.tsync then
    let s := if treeChildren s then emit (.time t) s else s
    let d : Int := (t.toNat : Int) - s.time
    let s := { s with tsync := setLocked (decide (-50 ≤ d ∧ d ≤ 50)) s.tsync }
    if 1000000 < d then { s with time := t.toNat, slew := 0 } else { s with slew := d }
  else s

def execTimeSyncSend : State → Out := event timeSyncSend
def execTimeMessage (t : Word) : State → Out := event (timeMessage t)
def execTsyncWrite (v : Word) : State → Out := regEvent 0x234 true fun s => .ok (wrTsync v s)

end Sys2Proof.Machine
end

