-- ==== Sys2Proof/Machine/Xlt.lean ====
section
/-! DEFINITION. The translation unit's commands (R38-R42), walks, merges, memory-side applications, scrubs, key slots, TT_CFG (R15, R74, R91,
R96, R100, R101), reset and power (R6, R95, R429). -/
namespace Sys2Proof.Machine

/-! ## Contexts by number (R21) -/

/-- ASC_LTB and ASC_ROOT images of a context: a core's, a queue's, a stage's, PEER_CTX's or the host window's. -/
def ctxRegs (s : State) (ctx : Nat) : Option (Nat × Nat) :=
  let inRoot := fun (root : Nat) => ctxId root == ctx
  match s.cores.find? fun k => inRoot k.2.ascRoot.toNat && k.2.ascRoot != 0 with
  | some k => some (k.2.ascLtb.toNat, k.2.ascRoot.toNat)
  | none =>
    match (s.towers.flatMap fun t => t.2.cpq).find? fun q => qEnable q.2 && inRoot q.2.root.toNat with
    | some q => some (q.2.ltb.toNat, q.2.root.toNat)
    | none =>
      match s.stages.find? fun g => stEnable g.2 && inRoot (stW g.2 4) with
      | some g => some (stW g.2 3, stW g.2 4)
      | none =>
        if bitAt s.peerCtx.toNat 63 && inRoot s.peerCtx.toNat then some (0, s.peerCtx.toNat)
        else if bitAt s.hwinCtl.toNat 12 && s.hwinCtl.toNat % 4096 == ctx then some (0, ctx * 2 ^ 40 + bitsAt s.hwinRoot.toNat 11 29 * 2 ^ 11)
        else if ctx = 0 then some (0, 0)
        else none

/-! ## Command arguments and results (R38) -/

def xVa (s : State) : Nat := bitsAt s.xltArg0.toNat 0 56
def xCtx (s : State) : Nat := bitsAt s.xltArg1.toNat 0 12
def xSize (s : State) : Nat := bitsAt s.xltArg1.toNat 12 2
def xFrame (s : State) : Nat := bitsAt s.xltArg1.toNat 24 40

/-- A command's end with a result. -/
def xDone (r : Nat) (s : State) : State := { s with xltBusy := false, xltCmd := none, xltRes := r }
/-- A command under way. -/
def xBegin (op : Nat) (s : State) : State := { s with xltBusy := true, xltCmd := some (op, xCtx s) }

/-- Malformed arguments of the page commands. -/
def xMalformed (s : State) : Bool := xSize s == 3 || xVa s % 2 ^ sizeBits (xSize s) != 0

/-- The page of VA that is closing or frozen. -/
def closingAt (s : State) (ctx va : Nat) : Option Closing :=
  s.closing.find? fun p => p.ctx == ctx && p.va / 2 ^ sizeBits p.size == va / 2 ^ sizeBits p.size

/-- The leaf of the commanded size that maps VA. -/
def xLeaf (s : State) : Option Leaf :=
  match ctxRegs s (xCtx s) with
  | some (_, root) => (walk s root (xVa s)).filter fun l => l.size == xSize s
  | none => none

/-- The page that a command names, with the layout table of its context. -/
def xPage (s : State) (l : Leaf) (frozen : Bool) : Closing :=
  ⟨xCtx s, xVa s, xSize s, l.at', frozen, ((ctxRegs s (xCtx s)).map (·.1)).getD 0⟩

/-- Is some layout entry of the page's context pinned whose span overlaps it, in the table that the command found (R37)? -/
def pinnedOver (s : State) (p : Closing) : Bool :=
  s.pins.any fun e => e.1 / 4096 == p.ctx && e.2 != 0 && overlaps (ltFresh s p.ltb (e.1 % 4096)) p

/-- A page dropped from every translation cache. -/
def dropPage (p : Closing) (s : State) : State :=
  let b := sizeBits p.size - 16
  let hit := fun (k : Nat) => k / 2 ^ 40 == p.ctx && k % 2 ^ 40 / 2 ^ b == p.va / 2 ^ 16 / 2 ^ b
  { s with towers := s.towers.map fun t => (t.1, { t.2 with tcache := t.2.tcache.filter fun e => !hit e.1 }) }

/-- An access that has been translated and has not performed: its context, its device-virtual address, whether that is translated (one to SPM or
WSS goes by its layout entry alone), and its view. -/
structure Flying where
  ctx  : Nat
  va   : Nat
  page : Bool
  view : Option (Nat × Nat)
deriving DecidableEq, Repr, Inhabited

/-- An access by the location it has found. -/
def Loc.flying (l : Loc) : Flying := ⟨l.ctx, l.p.addr, decide (2 ≤ l.p.space ∧ l.p.space ≠ 6), l.view⟩
/-- An access that awaits the host. -/
def Spot.flying (p : Spot) : Flying := ⟨p.ctx, p.va, true, Option.none⟩

/-- What a sequencer's record holds translated: its flag (R305), and accesses that await the host. -/
def Run.flying (u : Run) : List Flying := (u.flagLoc.toList.map Loc.flying) ++ u.ans.spots.map Spot.flying

/-- What a core holds translated: results inside its engines, records, armed monitors (R224), accesses that await the host. -/
def coreFlying (k : Core) : List Flying :=
  ((k.flight ++ k.dump).filterMap fun r => match r.dest with | .mem l _ => some l.flying | _ => none) ++
  (k.seqs.flatMap fun q => (q.2.run.toList ++ q.2.defer).flatMap (·.flying)) ++
  (k.strm.filterMap fun x => match x.2.wait with | .addr _ _ _ _ _ l => some l.flying | _ => none) ++
  [k.lcc, k.ccc].flatMap fun x => x.ans.spots.map Spot.flying

/-- What an arrival from another module holds translated: the elements that it has still to write. -/
def Held.flying : Held → List Flying
  | .landing _ els _ => els.map fun e => e.1.flying
  | _ => []

/-- Every access of the module that is in flight: streams', memory-side requests, arrivals', command processors' and the scheduler's (R40, R41,
R100). -/
def inFlight (s : State) : List Flying :=
  (s.cores.flatMap fun k => coreFlying k.2) ++ (s.msa.map fun r => ⟨r.via.1, r.via.2, true, r.view⟩) ++ (s.held.flatMap fun h => h.2.flying) ++
  (s.towers.flatMap fun t => t.2.cpq.flatMap fun q => q.2.ans.spots.map Spot.flying) ++ s.mbsAns.spots.map Spot.flying

/-- The bytes of the flat map that a closing or frozen page covers: its first, and how many. -/
def pageSpan (s : State) (p : Closing) : Nat × Nat := (physOf (devNat s p.leaf 8) p.size p.va, 2 ^ sizeBits p.size)

/-- The page's update-only lines. -/
def pageLines (s : State) (p : Closing) : List Nat :=
  let (a, n) := pageSpan s p
  (s.towers.flatMap fun t => t.2.upd.map (·.1)).filter fun l => decide (a / 256 ≤ l ∧ l < (a + n) / 256)

/-- Is an access through the page still in flight, or an update-only line of it not yet merged? -/
def pageFlying (s : State) (p : Closing) : Bool :=
  !(pageLines s p).isEmpty ||
    (inFlight s).any fun f => f.page && f.ctx == p.ctx && f.va / 2 ^ sizeBits p.size == p.va / 2 ^ sizeBits p.size

/-- The page's update-only lines are recalled and merged, in replay in their logged turns (R91, R102, R437). -/
def recallPage (p : Closing) (s : State) : State := (pageLines s p).foldl (fun s l => if mergesWait s l then s else recallHolders l s) s

/-- A page-table entry stored in DEV memory; a copy of its line that the host holds goes first (R136, R145). -/
def storePte (pa p : Nat) (s : State) : State :=
  let s := snoop (pa / 256) s
  { s with mem := memStore s.mem pa (leBytes 8 p) }

/-! ## The commands (R39-R41) -/

/-- UNMAP begins: the page becomes closing. -/
def xUnmap (s : State) : State :=
  if xMalformed s then xDone 4 s
  else match xLeaf s with
    | none => xDone 3 s
    | some l =>
      if (closingAt s (xCtx s) (xVa s)).isSome then xDone 2 s
      else xBegin 1 { s with closing := s.closing ++ [xPage s l false] }

/-- UNMAP goes on once no overlapping pin is left: the page's update-only lines merge, the page is dropped from the caches, and once no access
through it is in flight, V is cleared in its leaf. -/
def unmapDone (s : State) : State :=
  match s.xltCmd, s.closing.find? fun p => !p.frozen with
  | some (1, _), some p =>
    if pinnedOver s p then s
    else
      let s := dropPage p (recallPage p s)
      if pageFlying s p then s
      else xDone 0 (storePte p.leaf (devNat s p.leaf 8 / 2 * 2) { s with closing := s.closing.erase p })
  | _, _ => s

/-- MIGRATE_BEGIN: the page is frozen in one step, or PINNED. -/
def xMigrateBegin (s : State) : State :=
  if xMalformed s then xDone 4 s
  else match xLeaf s with
    | none => xDone 3 s
    | some l =>
      if (closingAt s (xCtx s) (xVa s)).isSome then xDone 2 s
      else
        let p := xPage s l true
        if pinnedOver s p then xDone 1 s else xBegin 2 (dropPage p { s with closing := s.closing ++ [p] })

/-- The page MIGRATE_BEGIN froze: the last one. -/
def beganPage (s : State) : Option Closing := (s.closing.filter (·.frozen)).getLast?

/-- MIGRATE_BEGIN ends once the page's update-only lines have merged and every access translated through it has performed. -/
def migrateBeginDone (s : State) : State :=
  match s.xltCmd, beganPage s with
  | some (2, _), some p =>
    let s := recallPage p s
    if pageFlying s p then s else xDone 0 s
  | _, _ => s

/-- MIGRATE_END and MIGRATE_ABORT: the frozen page is released, with a new frame or its old one. A frame that the page's size does not
allow is malformed. -/
def xMigrateEnd (new : Bool) (s : State) : State :=
  if xMalformed s || (new && xFrame s % 2 ^ (sizeBits (xSize s) - 16) != 0) then xDone 4 s
  else match (closingAt s (xCtx s) (xVa s)).filter fun p => p.frozen && p.size == xSize s with
    | none => xDone 5 s
    | some p =>
      let s := { s with closing := s.closing.erase p }
      xDone 0 (if new then storePte p.leaf (setBits (devNat s p.leaf 8) 24 40 (xFrame s)) s else s)

/-- FLUSH_CTX begins: every cached translation and layout entry of the context is dropped. -/
def xFlush (s : State) : State :=
  xBegin 5 { s with towers := s.towers.map fun t => (t.1, { t.2 with
    tcache := t.2.tcache.filter fun e => e.1 / 2 ^ 40 != xCtx s, lcache := t.2.lcache.filter fun e => e.1 / 4096 != xCtx s }) }
/-- FLUSH_CTX ends once no access of the context that it named is in flight. -/
def flushDone (s : State) : State :=
  match s.xltCmd with
  | some (5, ctx) => if (inFlight s).any fun f => f.ctx == ctx then s else xDone 0 s
  | _ => s

/-- LT_INVAL: PINNED where the entry is pinned. SIZE, and VA above bit 11, are ignored here, as are VA and SIZE by FLUSH_CTX: DESIGN CHOICE, R38 does
not say whether they make these two malformed (notes/assumptions/59.md). -/
def xLtInval (s : State) : State :=
  let k := xCtx s * 4096 + xVa s % 4096
  if look 0 s.pins k ≠ 0 then xDone 1 s
  else xDone 0 { s with towers := s.towers.map fun t => (t.1, { t.2 with lcache := del t.2.lcache k }) }

/-- A command's start: while one runs it is ignored, with OVERRUN. -/
def xltStart (f : State → State) (s : State) : State := if s.xltBusy then { s with xltOver := true } else f s

/-- XLT_CMD: reserved bits or an unknown OP give BADCMD. -/
def wrXltCmd (v : Word) (s : State) : State :=
  xltStart (fun s =>
    if v.toNat / 16 ≠ 0 then xDone 4 s
    else match v.toNat % 16 with
      | 1 => xUnmap s
      | 2 => xMigrateBegin s
      | 3 => xMigrateEnd true s
      | 4 => xMigrateEnd false s
      | 5 => xFlush s
      | 6 => xLtInval s
      | _ => xDone 4 s) s

/-- The numbers of commands that BADCMD answers. -/
def badOp (op : Nat) : Bool := op == 0 || decide (7 ≤ op)

def xltStatusImage (s : State) : Nat := b2n s.xltBusy + s.xltRes * 2 ^ 4 + b2n s.xltOver * 2 ^ 8

def execUnmap : State → Out := regEvent 0x18A true fun s => .ok (xltStart xUnmap s)
def execUnmapDone : State → Out := event unmapDone
def execMigrateBegin : State → Out := regEvent 0x18A true fun s => .ok (xltStart xMigrateBegin s)
def execMigrateBeginDone : State → Out := event migrateBeginDone
def execMigrateEnd : State → Out := regEvent 0x18A true fun s => .ok (xltStart (xMigrateEnd true) s)
def execMigrateAbort : State → Out := regEvent 0x18A true fun s => .ok (xltStart (xMigrateEnd false) s)
def execFlushCtx : State → Out := regEvent 0x18A true fun s => .ok (xltStart xFlush s)
def execFlushCtxDone : State → Out := event flushDone
def execLtInval : State → Out := regEvent 0x18A true fun s => .ok (xltStart xLtInval s)
/-- BADCMD: the write of an OP that names no command; other OPs are the commands above. -/
def execBadcmd (op : Fin 16) : State → Out :=
  regEvent 0x18A true fun s => .ok (if badOp op.val then wrXltCmd (BitVec.ofNat 64 op.val) s else s)

/-! ## Walks, merges, memory-side applications (R15, R91, R96) -/

/-- A walk for a stream's access: its result enters the tower's translation cache. -/
def translationWalk (c : Nat) (x : Stream) (va : Nat) (s : State) : State :=
  let w := whoStream s c x
  match walk s w.root (va % 2 ^ 56) with
  | some l => if frozenAt s (ctxId w.root) (va % 2 ^ 56) then s else cacheTr s w.tower w.root (va % 2 ^ 56) (l.pte, l.size)
  | none => s
def execTranslationWalk (c : CoreId) (x : Stream) (va : Nat) : State → Out := event (translationWalk c x va)

def execUpdateLineMerge (t : TowerId) (line : Nat) : State → Out := 
  event fun s => if (repTurn (ObjKind.line.key line) t.val s).isSome then mergeLine t.val line s else s

/-- One memory-side request in flight applied at its home; in replay, at its logged turn (R437). -/
def msaApply (n : Nat) (s : State) : State :=
  match s.msa[n]? with
  | none => s
  | some r =>
    match repTurn (ObjKind.line.key r.line) (32 + r.core) s with
    | none => s
    | some s =>
    let u : ULine := ⟨r.op, r.tag, r.view, r.vals⟩
    r.vals.foldl (mergeElem u r.line) { s with msa := s.msa.eraseIdx n }
def execMsaApply (n : Nat) : State → Out := event (msaApply n)

/-! ## Scrubs and keys (R100, R101, R438) -/

/-- A patrol scrub's visit to a unit: one that finds a new uncorrectable error marks it and counts it. -/
def patrolScrub (level unit : Nat) (r : ScrubResult) (s : State) : State :=
  match r with
  | .clean => s
  | .corrected => countErr level 0 s
  | .uncorrectable => if s.marks.contains (level, unit) then s else countErr level 32 { s with marks := s.marks ++ [(level, unit)] }
def execPatrolScrub (level : Fin 7) (unit : Nat) (r : ScrubResult) : State → Out := event (patrolScrub level unit r)

/-- A slot loaded; one whose unload is under way is not (R100). -/
def execKeySlotLoad (k : Fin 8192) (key : Nat) : State → Out :=
  event fun s => if s.keyOut.contains k.val then s else { s with keys := put s.keys k.val key }

/-- An unload that has begun ends, the slot empty, once no access that passed its KEY check with the slot is in flight (R100). -/
def unloadSlot (s : State) (k : Nat) : State :=
  if (inFlight s).any fun f => f.view.any fun v => some v.1 == find s.keys k then s
  else { s with keys := del s.keys k, keyOut := s.keyOut.erase k }
/-- The unloads under way, as far as they go. -/
def unloadSlots (s : State) : State := s.keyOut.foldl unloadSlot s

/-- A slot's unload begins: from here its KEY checks fail. It ends at once where no access holds it up. -/
def unloadBegin (k : Nat) (s : State) : State :=
  if (find s.keys k).isNone || s.keyOut.contains k then s else unloadSlot { s with keyOut := s.keyOut ++ [k] } k
def execKeySlotUnload (k : Fin 8192) : State → Out := event (unloadBegin k.val)

/-! ## TT_CFG (R74) -/

/-- TT_CFG of a core. -/
def wrTtCfg (c : Nat) (v : Word) (s : State) : Chk State := do
  let x := v.toNat
  let slots := bitsAt x 8 10 + 1
  let size := 2 ^ (x % 16 + 10)
  let base := bitsAt x 20 12 * 1024
  let k := s.core c
  need (decide (x % 16 ≤ 6 ∧ bitsAt x 4 3 ≤ 4) && !bitAt x 7 && bitsAt x 18 2 == 0 && bitsAt x 32 31 == 0 &&
    2 ^ Nat.log2 slots == slots && decide (2 ^ bitsAt x 4 3 ≤ slots ∧ base % size = 0 ∧ base + slots * size ≤ 2 ^ 22)) .bounds
  need (x % 2 ^ 63 == k.ttCfg.toNat % 2 ^ 63 || !(k.tt.any fun e => bitAt e.2.toNat 0)) .permission
  return s.setCore c { k with ttCfg := v }
def execTtCfgWrite (v : Word) : State → Out := regEvent 0x1A0 false fun s => wrTtCfg s.cc v s

/-! ## Reset and power (R6, R95, R429) -/

/-- A flat address that keeps its byte across device reset: the safe tier, and the host's own memory. -/
def keptAt (a : Nat) : Bool := decide (capBase + 2 ^ 41 ≤ a ∧ a < spmBase)

/-- Device reset: every register takes its reset value; the always-on domain goes on. What has left the module, and the schedule of
notes/assumptions/1.md, are not the machine's own and stay, as do the images' further bytes (notes/assumptions/12.md), whose memory may be the
safe tier. -/
def deviceReset (s : State) : State :=
  { State.reset with
    agenda := s.agenda, cur := s.cur, freeCtr := s.freeCtr, outbox := s.outbox, msgNext := s.msgNext, time := s.time
    mem := s.mem.filter fun c => keptAt c.1
    crypt := s.crypt.filter fun e => keptAt (e.1 * 64)
    marks := s.marks.filter fun m => m.1 == 6 && decide (2 ^ 41 / 32 ≤ m.2), ctxSide := s.ctxSide
    ckptStat := BitVec.ofNat 64 (s.ckptStat.toNat / 4 * 4), ckptImg := s.ckptImg, imgKey := s.imgKey
    openMem := s.openMem.filter fun r => keptAt r.start }
def execDeviceReset : State → Out := event deviceReset

/-- All power is lost, the safe tier with it; the host's memory is not the module's. -/
def auxPowerLoss (s : State) : State :=
  { State.reset with
    agenda := s.agenda, cur := s.cur, freeCtr := s.freeCtr, outbox := s.outbox, msgNext := s.msgNext
    mem := s.mem.filter fun c => decide (hostBase ≤ c.1 ∧ c.1 < spmBase), powered := false }
def execAuxPowerLoss : State → Out := event auxPowerLoss

/-- Power-on: the time counter starts from 0 (R429). A module that has power is not powered on again. -/
def powerOn (s : State) : State := if s.powered then s else { auxPowerLoss s with powered := true }
def execPowerOn (s : State) : Out := .next (powerOn s)

end Sys2Proof.Machine
end

