-- ==== Sys2Proof/Machine/Ckpt.lean ====
section
/-! DEFINITION. The hourly checkpoint and its restore (R424-R428), increments and replay (R435-R437). -/
namespace Sys2Proof.Machine

/-! ## CKPT_STATUS and CKPT_CTL (R426) -/

def ckPhase (s : State) : Nat := s.ckptStat.toNat % 4
def ckValid (s : State) : Bool := bitAt s.ckptStat.toNat 6
def ckKey (s : State) : Nat := bitsAt s.ckptCtl.toNat 17 13
def ckDrained (s : State) : Bool := bitAt s.ckptCtl.toNat 2
def ckRunOn (s : State) : Bool := bitAt s.ckptCtl.toNat 4

def setCk (l n v : Nat) (s : State) : State := { s with ckptStat := BitVec.ofNat 64 (setBits s.ckptStat.toNat l n v) }
/-- PHASE changes, and the trace notes it. -/
def setPhase (p : Nat) (s : State) : State := (setCk 0 2 p s).noteOpen ckptAgent 11
def setResult (r : Nat) (s : State) : State := setCk 2 4 r s

/-- The cores that a stop of the module stops: those with a stream that runs, waits or has trapped. -/
def stoppable (s : State) : List Nat :=
  (s.cores.filter fun e => allStreams.any fun x => let m := e.2.str x; !(m.pstop || m.st == .idle || m.st == .halt)).map (·.1)

/-- Every core not stopped already gets a stop. -/
def stopAll (s : State) : State :=
  let cs := stoppable s
  cs.foldl (fun s c => stopCore c s) { s with ckptGot := cs }

/-- The cores that this stop stopped go on. -/
def restartAll (s : State) : State := s.ckptGot.foldl (fun s c => resumeCore c s) { s with ckptGot := [] }

/-- Is every core stopped, with nothing outstanding (R140, R142)? -/
def quiesced (s : State) : Bool :=
  (stoppable s).isEmpty && !(s.cores.any fun e => e.2.busy || e.2.stopReq) && s.sent.isEmpty && s.msa.isEmpty

/-- Update-only lines merged, dirty L2 lines written back. -/
def cleanTowers (s : State) : State :=
  let s := s.towers.foldl (fun s t => t.2.upd.foldl (fun s u => mergeLine t.1 u.1 s) s) s
  s.towers.foldl (fun s t => writeBackAll t.1 s) s

/-! ## The frame map (R425) -/

def mapBytes : Nat := 6 * 2 ^ 20
/-- The map's cells in DEV memory. -/
def mapCells (s : State) : List Host.Cell :=
  s.mem.filter fun c => decide (s.ckptMap.toNat ≤ c.1 ∧ c.1 < s.ckptMap.toNat + mapBytes)
/-- The marked frames in map order. -/
def markedFrames (base : Nat) (cells : List Host.Cell) : List Nat :=
  cells.flatMap fun c => ((List.range 8).filter fun b => bitAt c.2.toNat b).map fun b => 8 * (c.1 - base) + b
/-- The flat address of a map frame: DEV frames, then those of the spill tier. -/
def frameAddr (f : Nat) : Nat := if f < 2 ^ 24 then f * 2 ^ 16 else capBase + (f - 2 ^ 24) * 2 ^ 16

/-- The image's fixed units, and where its module state, contexts, WSS, frame map and frames stand (R424). -/
def imageFixed : Nat := 237665
def imageModule : Nat := imageBase + 2 ^ 16
def imageCore (c : Nat) : Nat := imageBase + 2 ^ 28 + 2 ^ 16 + c * imgBytes
def imageSlabs : Nat := imageBase + 6 * 2 ^ 30 + 512 * 2 ^ 20 + 2 ^ 16
def imageMap : Nat := imageBase + 14 * 2 ^ 30 + 512 * 2 ^ 20 + 2 ^ 16
def imageFrame (k : Nat) : Nat := imageBase + (imageFixed + k) * 2 ^ 16

/-! ## The digest (R428) -/

/-- The word at an address as it stands. -/
def storedWord (s : State) (a : Nat) : Nat := leNat (((storedLine s (a / 64)).drop (a % 64)).take 8)

/-- The fold of `n` words from address `a` with key `k`, on `d`. -/
def foldWords (s : State) (k : Nat) : Nat → Nat → Nat → Nat
  | 0, _, d => d
  | n + 1, a, d => foldWords s k n (a + 8) (gfMul (d ^^^ storedWord s a) k)

/-- The fold of R428 with key `k` over an image of `n` units of 64 KiB: every word from 64 KiB to its end, as stored. -/
def imageFold (s : State) (k n : Nat) : Nat := foldWords s k ((n * 2 ^ 16 - 2 ^ 16) / 8) imageModule 0

/-- Bytes written whole from an address on, as they are to be read under the view that their lines are then held under: zeros but for the cells
given. The bytes' marks and releases go (R101). -/
def writeRange (a n : Nat) (cells : List (Nat × Byte)) (s : State) : State :=
  let s := clearRels a n (cutOpen a n s)
  { s with
    mem := cells.foldl (fun m c => memWr m (a + c.1) c.2) (memClear s.mem a (a + n))
    crypt := s.crypt.filter fun e => !(decide (a ≤ e.1 * 64 ∧ e.1 * 64 < a + n))
    marks := s.marks.filter fun m => !(m.1 == 5 && decide (a ≤ m.2 * 32 ∧ m.2 * 32 < a + n)) &&
      !(m.1 == 6 && decide (a ≤ capBase + m.2 * 32 ∧ capBase + m.2 * 32 < a + n)) }

/-- A word list as bytes from offset 0 on. -/
def wordCells (ws : List Nat) : List (Nat × Byte) := ((ws.flatMap (leBytes 8)).zip (List.range (8 * ws.length))).map fun x => (x.2, x.1)

/-- The image's header (R424), with the digest of the rest as it stands. -/
def writeHeader (slot n : Nat) (s : State) : State :=
  writeRange imageBase (2 ^ 16) (wordCells
    [1 + bitsAt s.dmr.toNat 0 10 * 2 ^ 16, s.dmr.toNat, s.time % 2 ^ 64, n, slot, imageFold s Config.seamK1 n, imageFold s Config.seamK2 n]) s

/-- The sections before the frame map, all to be held under `key`: the module state, whose layout and so bytes are open (notes/assumptions/13.md),
the 1,024 context images, and the slabs. -/
def writeSections (key : Nat) (s : State) : State :=
  let s := leaveOpen imageModule (2 ^ 28) (writeRange imageModule (2 ^ 28) [] { s with imgKey := some key })
  let cells := fun c => imageCells s c
  let slabs := (s.mem.filter fun m => decide (wssBase ≤ m.1 ∧ m.1 < wssBase + 8 * 2 ^ 30)).map fun m => (m.1 - wssBase, m.2)
  writeRange imageSlabs (8 * 2 ^ 30) slabs ((List.range 1024).foldl (fun s c => writeRange (imageCore c) imgBytes (cells c) s) s)

/-- Word `j` of the header as a key reads it. -/
def headerWord (s : State) (key j : Nat) : Nat := leNat ((seenLine s (some (key, 0)) (imageBase / 64)).drop (8 * j) |>.take 8)

/-- Does the digest of the stored image equal its header's? -/
def digestOk (s : State) (key n : Nat) : Bool :=
  headerWord s key 5 == imageFold s Config.seamK1 n && headerWord s key 6 == imageFold s Config.seamK2 n

/-- Open bytes of a range, at another place. -/
def OpenMem.shift (src dst n : Nat) (r : OpenMem) : List OpenMem :=
  let a := Nat.max r.start src
  let b := Nat.min (r.start + r.len) (src + n)
  if a < b then [⟨a - src + dst, b - a, r.seed, r.off + (a - r.start)⟩] else []

/-- `n` bytes as stored, copied with the views their lines are held under (R99, R425). -/
def copyRange (src dst n : Nat) (s : State) : State :=
  let new := s.openMem.flatMap (·.shift src dst n)
  let views := s.crypt.filter fun e => decide (src ≤ e.1 * 64 ∧ e.1 * 64 < src + n)
  let s := writeRange dst n ((s.mem.filter fun c => decide (src ≤ c.1 ∧ c.1 < src + n)).map fun c => (c.1 - src, c.2)) s
  { s with openMem := s.openMem ++ new, crypt := views.foldl (fun t e => put t (e.1 - src / 64 + dst / 64) e.2) s.crypt }

/-- Frames copied, each to the place that `to` gives its rank. -/
def copyFrames (src dst : Nat → Nat → Nat) : Nat → List Nat → State → State
  | _, [], s => s
  | k, f :: t, s => copyFrames src dst (k + 1) t (copyRange (src k f) (dst k f) (2 ^ 16) s)

/-! ## The image -/

/-- What a tower's part of the module state keeps: queues and line pins. -/
def towerKept (t : Tower) : Tower :=
  { Tower.reset with cpq := t.cpq, homePin := t.homePin
                     guest := (t.guest.filter fun g => g.2.pins != 0).map fun g => (g.1, ⟨[], 0, true, g.2.pins, none, none, []⟩) }
/-- What a die's part keeps: the bobbin. -/
def dieKept (d : Die) : Die :=
  { Die.reset with keepBase := d.keepBase, keepSize := d.keepSize, spillBase := d.spillBase, spillSize := d.spillSize
                   thr := d.thr, objs := d.objs, nextObj := d.nextObj }

/-- The module state and contexts with the cores' memories and WSS, and the frames named. What the image's sections have no room for is kept
with it (notes/assumptions/13.md). -/
def capture (frames slabs : List Nat) (s : State) : ModImage where
  cores := s.cores.map fun e => (e.1, { e.2 with saved := false })
  frames := frames
  slabs := slabs
  mem := s.mem.filter fun c => decide (spmBase ≤ c.1) || frames.any fun f => decide (frameAddr f ≤ c.1 ∧ c.1 < frameAddr f + 2 ^ 16)
  crypt := s.crypt.filter fun e => frames.any fun f => decide (frameAddr f ≤ e.1 * 64 ∧ e.1 * 64 < frameAddr f + 2 ^ 16)
  pairs := s.pairs
  dies := s.dies.map fun e => (e.1, dieKept e.2)
  towers := s.towers.map fun e => (e.1, towerKept e.2)
  stages := s.stages
  rules := s.rules
  chans := s.chans
  chunks := s.chunks
  intents := s.intents
  bpri := s.bpri
  maxTok := s.maxTok
  groups := s.groups
  fbt := s.fbt
  dgen := s.dgen
  ctxSide := s.ctxSide
  mcg := s.mcg
  slt := s.slt
  sltAct := s.sltAct
  sltSwap := s.sltSwap
  pins := s.pins
  dmr := s.dmr
  fabRing := s.fabRing
  peerCtx := s.peerCtx
  hwinBase := s.hwinBase
  hwinCtl := s.hwinCtl
  hwinRoot := s.hwinRoot
  pwrCap := s.pwrCap
  pcls := s.pcls
  thCtl := s.thCtl
  xltArg0 := s.xltArg0
  xltArg1 := s.xltArg1
  xltBusy := s.xltBusy
  xltRes := s.xltRes
  xltOver := s.xltOver
  xltCmd := s.xltCmd
  closing := s.closing

/-- A tower of the image over one of the machine. -/
def towerBack (now : Tower) (t : Tower) : Tower := { now with cpq := t.cpq, homePin := t.homePin, guest := t.guest, upd := [] }
/-- A bobbin of the image over a die of the machine. -/
def dieBack (now : Die) (d : Die) : Die :=
  { now with keepBase := d.keepBase, keepSize := d.keepSize, spillBase := d.spillBase, spillSize := d.spillSize
             thr := d.thr, objs := d.objs, nextObj := d.nextObj }
/-- A licence is not held across a restore: its holder asks again on resume (R372). The gussets come back. -/
def pairBack (p : Pair) : Pair := { Pair.reset with g := p.g, ownV := p.ownV, ownCtx := p.ownCtx, last := p.last, disable := p.disable, lic := if p.disable then .disabled else .free }

/-- An arriving message's intent after a restore: its tokens are gone, and it waits for its sender to announce again (R388). -/
def intentBack (x : Intent) : Intent := { x.untake (x.tokens.map (·.1)) with susp := true }

/-- A core of the image: what R373 does not carry is the machine's own, its step count and the stop armed on it (R434). -/
def coreBack (now : Core) (k : Core) : Core := { k with scyc := now.scyc, scycFr := now.scycFr, haltSc := now.haltSc }

/-- WSS, module state and contexts from an image; every race stamp is reset (R427). -/
def install (g : ModImage) (s : State) : State :=
  { s with
    mem := (g.mem.filter fun c => decide (spmBase ≤ c.1)).foldl (fun m c => memWr m c.1 c.2) (memClear s.mem spmBase (2 ^ 70))
    marks := s.marks.filter fun m => decide (4 ≤ m.1)
    cores := ((s.cores ++ g.cores).map (·.1)).foldl (fun t c => put t c (coreBack (s.core c) (look Core.reset g.cores c))) []
    stamps := [], claims := [], locs := []
    pairs := g.pairs.map fun e => (e.1, pairBack e.2)
    dies := ((s.dies ++ g.dies).map (·.1)).foldl (fun t d => put t d (dieBack (s.die d) (look Die.reset g.dies d))) []
    towers := ((s.towers ++ g.towers).map (·.1)).foldl (fun t n => put t n (towerBack (s.tower n) (look Tower.reset g.towers n))) []
    stages := g.stages, rules := g.rules, chans := g.chans, chunks := g.chunks, intents := g.intents.map intentBack
    bpri := g.bpri, maxTok := g.maxTok, groups := g.groups, fbt := g.fbt, dgen := g.dgen, ctxSide := g.ctxSide, begun := [], collIn := [], mcg := g.mcg
    slt := g.slt, sltAct := g.sltAct, sltSwap := g.sltSwap, pins := g.pins, dmr := g.dmr, fabRing := g.fabRing, peerCtx := g.peerCtx
    hwinBase := g.hwinBase, hwinCtl := g.hwinCtl, hwinRoot := g.hwinRoot, pwrCap := g.pwrCap, pcls := g.pcls, thCtl := g.thCtl
    xltArg0 := g.xltArg0, xltArg1 := g.xltArg1, xltBusy := g.xltBusy, xltRes := g.xltRes, xltOver := g.xltOver, xltCmd := g.xltCmd
    closing := g.closing
    modBad := false }

/-! ## START and the two phases (R426) -/

/-- START: refused while one runs, over an image not drained, or without its key. -/
def ckptStart (force : Bool) (s : State) : State :=
  if ckPhase s ≠ 0 ∨ s.repBusy then setResult 7 s
  else if !ckDrained s && !force then setResult 3 s
  else if (find s.keys (ckKey s)).isNone then setResult 4 s
  else setPhase 1 (stopAll { s with ckptCtl := BitVec.ofNat 64 (setBits s.ckptCtl.toNat 2 1 0) })

/-- The end of the quiesce phase: NOSPACE restarts the stopped cores. -/
def ckptQuiesceDone (s : State) : State :=
  if ckPhase s ≠ 1 then s
  else
    let s := s.cores.foldl (fun s e => stopDone e.1 s) s
    if quiesced s then
      let s := cleanTowers s
      let n := imageFixed + (markedFrames s.ckptMap.toNat (mapCells s)).length
      if 2 ^ 24 < n then restartAll (setPhase 0 (setResult 2 s))
      else setPhase 2 (setCk 6 1 0 s)
    else s

/-- Is a unit, register or queue element that the image reads marked uncorrectable, one of the frame map among them, or the module's state? -/
def imageMarked (frames : List Nat) (s : State) : Bool :=
  s.modBad || s.cores.any (·.2.marked) || (s.pairs.any fun p => !p.2.gBad.isEmpty) || s.marks.any fun m =>
    if m.1 ≤ 3 then true
    else if m.1 = 4 then false
    else
      let a := if m.1 = 5 then m.2 * 32 else capBase + m.2 * 32
      decide (s.ckptMap.toNat ≤ a ∧ a < s.ckptMap.toNat + mapBytes) || frames.any fun f => decide (frameAddr f ≤ a ∧ a < frameAddr f + 2 ^ 16)

/-- The end of the write phase: the sections stand in the safe tier, the frames in map order behind the map, and the header was written last. -/
def ckptWriteDone (s : State) : State :=
  if ckPhase s ≠ 2 then s
  else
    let fs := markedFrames s.ckptMap.toNat (mapCells s)
    if imageMarked fs s then { setPhase 0 (setResult 5 s) with ckptGot := [] }
    else
      let g := capture [] [] s
      let s := copyRange s.ckptMap.toNat imageMap mapBytes (writeSections (look 0 s.keys (ckKey s)) s)
      let s := copyFrames (fun _ f => frameAddr f) (fun k _ => imageFrame k) 0 fs s
      let s := writeHeader (ckKey s) (imageFixed + fs.length) { s with ckptImg := some g }
      let s := setPhase 0 (setResult 1 (setCk 6 1 1 (setCk 7 25 (imageFixed + fs.length) s)))
      if ckRunOn s then restartAll s else { s with ckptGot := [] }

/-! ## RESTORE (R427, R437) -/

def allIdle (s : State) : Bool := s.cores.all fun e => allStreams.all fun x => (e.2.str x).st == .idle

/-- A unit marked uncorrectable fails the digest where the digest reads it: from 64 KiB to the image's end, and in the header's words 4 to 7, whose
unit holds D1 and D2 (R424, R428). -/
def imageDamaged (s : State) (n : Nat) : Bool := s.marks.any fun m =>
  let o := m.2 * 32 - 2 ^ 41
  m.1 == 6 && decide (2 ^ 41 ≤ m.2 * 32) && (o == 32 || decide (2 ^ 16 ≤ o ∧ o < n * 2 ^ 16))

/-- The increment that a restore in replay names is open (notes/assumptions/13.md). -/
def chosenIncrement (s : State) : Option (Nat × ModImage) := s.repIncs[Config.freeNat s.freeCtr 27 % s.repIncs.length]?

/-- Frames of an increment laid over memory and its lines' views. -/
def layFrames (m : List Host.Cell × Tbl (Nat × Nat)) (g : ModImage) : List Host.Cell × Tbl (Nat × Nat) :=
  let mine := fun a => g.frames.any fun f => decide (frameAddr f ≤ a ∧ a < frameAddr f + 2 ^ 16)
  ((g.mem.filter fun c => decide (c.1 < spmBase)).foldl (fun m c => memWr m c.1 c.2) (g.frames.foldl (fun m f => memClear m (frameAddr f) (frameAddr f + 2 ^ 16)) m.1),
   g.crypt.foldl (fun t e => put t e.1 e.2) (m.2.filter fun e => !mine (e.1 * 64)))

/-- Increment `n` restored: its log begins, each frame comes back as the last increment up to it holds it, and the rest as it holds it. -/
def restoreIncrement (n : Nat) (g : ModImage) (s : State) : State :=
  let upTo := (s.repIncs.filter fun e => decide (e.1 ≤ n)).map (·.2)
  let s := (upTo.flatMap (·.frames)).foldl (fun s f => writeRange (frameAddr f) (2 ^ 16) [] s) s
  let m := upTo.foldl layFrames (s.mem, s.crypt)
  install g { s with mem := m.1, crypt := m.2, repLog := s.repLog.filter fun e => decide (n ≤ e.1) }

/-- RESTORE: KEY, then the other conditions, then the digest; frames, WSS, module state and contexts. -/
def ckptRestore (s : State) : State :=
  if (find s.keys (ckKey s)).isNone then setResult 4 s
  else if ckPhase s ≠ 0 ∨ s.repBusy ∨ !allIdle s then setResult 7 s
  else match (if repMode s = 2 then chosenIncrement s else none) with
  | some (n, g) => setResult 1 (restoreIncrement n g s)
  | none =>
    match s.ckptImg with
    | some g =>
      if !ckValid s then setResult 7 s
      else if imageDamaged s (bitsAt s.ckptStat.toNat 7 25) || !digestOk s (look 0 s.keys (ckKey s)) (bitsAt s.ckptStat.toNat 7 25) then setResult 6 s
      else
        let s := setPhase 3 s
        let s := copyFrames (fun k _ => imageFrame k) (fun _ f => frameAddr f) 0 (markedFrames imageMap (s.mem.filter fun c => decide (imageMap ≤ c.1 ∧ c.1 < imageMap + mapBytes))) s
        setPhase 0 (setResult 1 (install g s))
    | none => setResult 7 s

/-- CKPT_CTL: the RW fields, then START or RESTORE. A START while an operation runs changes nothing but RESULT (R426, R440). -/
def wrCkptCtl (v : Word) (s : State) : State :=
  let x := v.toNat
  if bitAt x 0 ∧ (ckPhase s ≠ 0 ∨ s.repBusy) then setResult 7 s else
  let s := { s with ckptCtl := BitVec.ofNat 64 (bitsAt x 2 1 * 4 + bitsAt x 4 1 * 16 + bitsAt x 17 13 * 2 ^ 17) }
  if bitAt x 0 then ckptStart (bitAt x 3) s else if bitAt x 1 then ckptRestore s else s

def execCkptStart : State → Out := regEvent 0x230 true fun s => .ok (ckptStart false s)
def execCkptQuiesceDone : State → Out := event ckptQuiesceDone
def execCkptWriteDone : State → Out := event ckptWriteDone
def execCkptRestore : State → Out := regEvent 0x230 true fun s => .ok (ckptRestore s)

/-! ## Increments (R435) -/

def repBase (v : Nat) : Nat := bitsAt v 12 20
def repSize (v : Nat) : Nat := bitsAt v 32 20

/-- REPLAY_CTL. Recording begins with an empty region. -/
def wrReplayCtl (v : Word) (s : State) : Chk State := do
  let x := v.toNat % 2 ^ 52
  let t := bitsAt x 2 10
  need (x % 4 != 3 && decide (1 ≤ t ∧ t ≤ 1000) &&
    !(s.dies.any fun d => rangesMeet (repBase x) (repSize x) d.2.spillBase d.2.spillSize)) .permission
  let s' := { s with replay := BitVec.ofNat 64 x }
  return if x % 4 = 1 ∧ repMode s ≠ 1 then { s' with repLog := [], repIncs := [], repNext := 0, repAt := s.time } else s'

/-- Marked frames written since the last increment, all for the first: those whose bytes or views differ from what the increments hold
(notes/assumptions/13.md). -/
def writtenFrames (s : State) : List Nat :=
  let fs := markedFrames s.ckptMap.toNat (mapCells s)
  let gs := s.repIncs.map (·.2)
  let m := gs.foldl layFrames ([], [])
  let at' := fun (x : List Host.Cell × Tbl (Nat × Nat)) f =>
    (x.1.filter fun c => decide (frameAddr f ≤ c.1 ∧ c.1 < frameAddr f + 2 ^ 16), x.2.filter fun e => decide (frameAddr f ≤ e.1 * 64 ∧ e.1 * 64 < frameAddr f + 2 ^ 16))
  fs.filter fun f => !(gs.any fun g => g.frames.contains f) || at' m f != at' (s.mem, s.crypt) f

/-- Slabs of WSS written since the last increment, by tower. -/
def writtenSlabs (s : State) : List Nat :=
  let slab := fun (m : List Host.Cell) t => m.filter fun c => decide (wssAt t 0 ≤ c.1 ∧ c.1 < wssAt t 0 + 2 ^ 28)
  match s.repIncs.getLast? with
  | some (_, g) => (List.range 32).filter fun t => slab g.mem t != slab s.mem t
  | none => List.range 32

/-- The increment of a stopped module. -/
def increment (s : State) : ModImage := capture (writtenFrames s) (writtenSlabs s) s

/-- 64 KiB units of an increment: header, module state, contexts, slabs and frames (R435). -/
def incUnits (g : ModImage) : Nat := 1 + 4096 + 102400 + 4096 * g.slabs.length + g.frames.length

/-- Is the region too small for the increments, the order log taking a part that is open (notes/assumptions/13.md)? -/
def regionFull (s : State) (l : List (Nat × ModImage)) : Bool :=
  decide (bitsAt s.replay.toNat 32 20 * 32 < (l.map fun e => incUnits e.2).sum + Config.freeNat s.freeCtr 26)

/-- An increment merged into the first: the later state, with the frames and slabs of both. -/
def mergeInto (a b : Nat × ModImage) : Nat × ModImage :=
  let m := layFrames (layFrames ([], []) a.2) b.2
  (b.1, { b.2 with
    frames := (a.2.frames ++ b.2.frames).eraseDups, slabs := (a.2.slabs ++ b.2.slabs).eraseDups
    mem := m.1 ++ b.2.mem.filter fun c => decide (spmBase ≤ c.1)
    crypt := m.2 })

/-- While the region is full, the oldest increment other than the first is merged into the first (R435). -/
def mergeOldest (s : State) : Nat → List (Nat × ModImage) → List (Nat × ModImage)
  | fuel + 1, a :: b :: t => if regionFull s (a :: b :: t) then mergeOldest s fuel (mergeInto a b :: t) else a :: b :: t
  | _, l => l

/-- An increment that is due stops the module; once it has stopped, the increment is written and the cores go on. -/
def replayIncrement (s : State) : State :=
  if s.repBusy then
    let s := s.cores.foldl (fun s e => stopDone e.1 s) s
    if quiesced s then
      let s := cleanTowers s
      let l := s.repIncs ++ [(s.repNext + 1, increment s)]
      restartAll { leaveOpen (repArea s).1 (repArea s).2 s with
        repIncs := mergeOldest s l.length l, repNext := s.repNext + 1, repBusy := false, repAt := s.time }
    else s
  else if repMode s = 1 ∧ ckPhase s = 0 ∧ s.repAt + bitsAt s.replay.toNat 2 10 * 1000000 ≤ s.time then { stopAll s with repBusy := true }
  else s

def execReplayCtlWrite (v : Word) : State → Out := regEvent 0x23E true fun s => wrReplayCtl v s
def execReplayIncrement : State → Out := event replayIncrement

end Sys2Proof.Machine
end

