-- ==== Sys2Proof/Machine/HostIf.lean ====
section
/-! DEFINITION. The host port: training (R400), the host window (R402), host accesses (R144), and the host's answers to device accesses
(R403). -/
namespace Sys2Proof.Machine

/-! ## The link (R400, R403) -/

/-- One training: the mode by what both sides offer; GEN is 5 under CXL 2.0 and at most 6 under CXL 3.x. -/
def hostTrain (gen width : Nat) (cxl2 cxl3 : Bool) (s : State) : State :=
  let h := s.hostLink.toNat
  let mode := if cxl3 && bitAt h 12 then 2 else if cxl2 && bitAt h 11 then 1 else 0
  let gen := if mode = 1 then 5 else Nat.max 5 (Nat.min gen (if mode = 2 then 6 else 7))
  let width := if width < 8 then 4 else if width < 16 then 8 else 16
  { s with hostHold := [], hostDev := [], hostLink := BitVec.ofNat 64 (1 + gen * 2 + width * 2 ^ 4 + mode * 2 ^ 9 + bitsAt h 11 2 * 2 ^ 11) }
def execHostLinkTrain (gen width : Nat) (cxl2 cxl3 : Bool) : State → Out := event (hostTrain gen width cxl2 cxl3)

/-- The link goes down. -/
def hostDown (s : State) : State := { s with hostLink := s.hostLink &&& ~~~1 }
def execHostLinkDown : State → Out := event hostDown

/-- HOST_LINK: CXL2 and CXL3 are writable. -/
def wrHostLink (v : Word) (s : State) : State :=
  { s with hostLink := BitVec.ofNat 64 (s.hostLink.toNat % 2 ^ 11 + bitsAt v.toNat 11 2 * 2 ^ 11) }

/-! ## The window (R402) -/

/-- The window's context: its CTX_ID and its tables. -/
def hwinRootOf (s : State) : Nat := s.hwinCtl.toNat % 4096 * 2 ^ 40 + bitsAt s.hwinRoot.toNat 11 29 * 2 ^ 11
def hwinEn (s : State) : Bool := bitAt s.hwinCtl.toNat 12

/-- One address of the window, translated under its registers: none where the access is turned away. The host reads the safe tier and
does not write it (R17; notes/assumptions/31.md). -/
def hostLoc (va n : Nat) (a : Acc) : M (Option Loc) := do
  let s ← get
  let root := hwinRootOf s
  if 2 ^ 56 ≤ va then return none
  if frozenAt s (ctxId root) va then waitM .other
  match translate s 0 root va with
  | none => return none
  | some (pte, size) =>
    set (cacheTr s 0 root va (pte, size))
    let safe := pKind pte == 1 && decide (2 ^ 41 ≤ pFrame pte * 2 ^ 16 + va % 2 ^ 16)
    let perm := match a with
      | .load => pRd pte
      | .atomic => pAt pte
      | _ => pWr pte
    if pKind pte ≤ 1 && !pEnc pte && perm && (!safe || a == .load) then
      return some ⟨⟨2 + pKind pte, 0, if n = 4 then 0x44 else 0x45, va, va, none, n, 0, []⟩, physOf pte size va, none, ctxId root⟩
    else return none

/-- The host as accessor at a location's home tower. -/
def hostWho (l : Loc) : Who := ⟨hostAgent, homeOf l.flat, none, 0, 0, 0xFFF, true, 0⟩

/-- A refusal is counted in the log of host-window refusals (R402, R438). -/
def hostRefused (s : State) : State := { s with hostLog := Nat.min (s.hostLog + 1) 0xFFFFFFFF }

/-- A host access to DEV stalls while a checkpoint stands in its phase 1 or 2 (R440). -/
def hostStall (ls : List Loc) : M Unit := do
  if ckptHolds (← get) && ls.any fun l => l.p.space == 2 then waitM .other

/-- The locations of the bytes from a window offset, all or none. -/
def hostLocs (off n : Nat) (a : Acc) : M (Option (List Loc)) := do
  let base := bitsAt (← get).hwinBase.toNat 16 40 * 2 ^ 16
  let ls ← mapList (fun k => hostLoc (base + off + k) 1 a) (List.range n)
  hostStall (ls.filterMap id)
  return if ls.all (·.isSome) then some (ls.filterMap id) else none

/-- A posted write: without a relaxing attribute a release at system scope (R144). A copy that the host holds is its own to change. -/
def hostWrite (off : Nat) (bs : List Byte) (relaxed : Bool) : M Unit := do
  let s ← get
  if !hwinEn s then return ()
  match ← hostLocs off bs.length .store with
  | none => modify hostRefused
  | some ls =>
    let held := (← get).hostDev
    forList (fun x : Loc × Byte => writeLoc (hostWho x.1) x.1 [x.2]) (ls.zip bs)
    modify fun s => { s with hostDev := held }
    if !relaxed then
      modify fun s =>
        let (s, p) := releasePass hostAgent s
        ls.foldl (fun s l => setHomeRels l.flat (addRel [] hostAgent .system (Frontier.empty.take p)) s) s

/-- Under CXL 3.x the host may keep the DEV lines that it reads (R143). -/
def hostKeeps (ls : List Loc) (s : State) : State :=
  if hostMode s = 2 then ls.foldl (fun s l =>
    if l.p.space = 2 && !s.hostDev.contains (l.flat / 256) then { s with hostDev := s.hostDev ++ [l.flat / 256] } else s) s
  else s

/-- A read: the bytes, or Unsupported Request. `cxl` tells a CXL.mem read, whose line the host may keep. -/
def hostRead (off n : Nat) (cxl : Bool := false) : M Unit := do
  let s ← get
  if !hwinEn s then modify (emit .hostUnsupported)
  else
    match ← hostLocs off n .load with
    | none => modify fun s => emit .hostUnsupported (hostRefused s)
    | some ls =>
      let bs ← mapList (fun l => readLoc (hostWho l) l 1) ls
      if cxl then modify (hostKeeps ls)
      modify (emit (.hostReply bs.flatten))

/-- An AtomicOp: an acquire-release atomic at system scope; the old value is returned. -/
def hostAtomic (off : Nat) (op : HostAtomic) (wide : Bool) (x y : Word) : M Unit := do
  let s ← get
  let n := if wide then 8 else 4
  if !hwinEn s then modify (emit .hostUnsupported)
  else
    match ← hostLoc (bitsAt s.hwinBase.toNat 16 40 * 2 ^ 16 + off) n .atomic with
    | none => modify fun s => emit .hostUnsupported (hostRefused s)
    | some l =>
      hostStall [l]
      let m := 2 ^ (8 * n)
      let old ← atomicAt (hostWho l) l .acqrel .system fun v =>
        match op with
        | .fetchAdd => some ((v + x.toNat) % m)
        | .swap => some (x.toNat % m)
        | .cas => if v = x.toNat % m then some (y.toNat % m) else none
      modify (emit (.hostReply (leBytes n old)))

/-- A host access tried: none where it must wait (R404, R440). One that meets an uncorrectable error delivers nothing (R378). -/
def tryHost (s : State) (q : HostReq) : Option State :=
  let m := match q with
    | .write off bs r => hostWrite off bs r
    | .read off n => hostRead off n
    | .atomic off op wide x y => hostAtomic off op wide x y
    | .cxlWrite off bs => do hostWrite off bs true; modify (emit (.hostReply []))
    | .cxlRead off n => hostRead off n true
  match (whole m).go s with
  | (.ok _, t) => some t
  | (.error (.trap _), t) => some (emit .hostUnsupported t)
  | (.error _, _) => none

/-- Accesses of the host that change memory. -/
def HostReq.writes : HostReq → Bool
  | .write _ _ _ => true | .atomic _ _ _ _ _ => true | .cxlWrite _ _ => true | .read _ _ => false | .cxlRead _ _ => false

/-- Host accesses perform in the order they come: one waits behind those that wait. -/
def hostAccess (q : HostReq) (s : State) : State :=
  match (if q.writes then repArrival (.host q) (fun e => match e with | .host _ => true | _ => false) s else some s) with
  | none => s
  | some s => if s.hostHeld.isEmpty then (tryHost s q).getD { s with hostHeld := [q] } else { s with hostHeld := s.hostHeld ++ [q] }

def hostRetry : List HostReq → State → State
  | [], s => { s with hostHeld := [] }
  | q :: t, s =>
    match tryHost s q with
    | some s' => hostRetry t s'
    | none => { s with hostHeld := q :: t }
def retryHost (s : State) : State := if s.hostHeld.isEmpty then s else hostRetry s.hostHeld s

/-- The first 64 GiB of the window are in BAR 2, its first 1 TiB in the HDM range of the CXL modes (R401). -/
def inBar2 (off n : Nat) : Bool := decide (off + n ≤ 2 ^ 36)
def inHdm (s : State) (off n : Nat) : Bool := hostMode s != 0 && decide (off + n ≤ 2 ^ 40)

/-- A host access that its entry point admits, while the link is up. -/
def hostIf (ok : Bool) (q : HostReq) (s : State) : State := if hostUp s && ok then hostAccess q s else s

/-! ## The MSI-X table (R401; notes/assumptions/62.md) -/

/-- Pending interrupts whose vector is no longer masked are sent. -/
def sendPending (s : State) : State :=
  (List.range 64).foldl (fun s v => if bitAt s.msixPend v && !msixMasked s v then emit (.msix v) { s with msixPend := s.msixPend - 2 ^ v } else s) s

/-- A write of one byte of the table. -/
def msixPut (s : State) (x : Nat × Byte) : State :=
  if x.1 < 1024 then
    { s with msixTbl := put s.msixTbl (x.1 / 8) (BitVec.ofNat 64 (setBits (msixWord s (x.1 / 8)).toNat (8 * (x.1 % 8)) 8 x.2.toNat)) }
  else s
def msixWrite (off : Nat) (bs : List Byte) (s : State) : State :=
  sendPending (((List.range bs.length).zip bs).foldl (fun s x => msixPut s (off + x.1, x.2)) s)

/-- A byte of BAR 4: the table, then the pending bits at 0x800. -/
def msixByte (s : State) (a : Nat) : Byte :=
  if a < 1024 then BitVec.ofNat 8 (bitsAt (msixWord s (a / 8)).toNat (8 * (a % 8)) 8)
  else if 0x800 ≤ a ∧ a < 0x808 then BitVec.ofNat 8 (bitsAt s.msixPend (8 * (a - 0x800)) 8)
  else 0

/-- A host write by the BAR it addresses; BAR 0 has its own event (R458). -/
def hostBarWrite (bar : HostBar) (off : Nat) (bs : List Byte) (relaxed : Bool) (s : State) : State :=
  match bar with
  | .window => hostIf (inBar2 off bs.length) (.write off bs relaxed) s
  | .msix => if hostUp s && decide (off + bs.length ≤ 4096) then msixWrite off bs s else s
  | .regs => s
def execHostPostedWrite (off : BarAt) (bs : List Byte) (relaxed : Bool) : State → Out := event (hostBarWrite off.bar off.off bs relaxed)
def execHostAtomicop (off : Nat) (op : HostAtomic) (wide : Bool) (x y : Word) : State → Out :=
  event fun s => hostIf (inBar2 off (if wide then 8 else 4)) (.atomic off op wide x y) s
def execCxlMemWrite (off : Nat) (bs : List Byte) : State → Out := event fun s => hostIf (inHdm s off bs.length) (.cxlWrite off bs) s
def execCxlMemRead (off n : Nat) : State → Out := event fun s => hostIf (inHdm s off n) (.cxlRead off n) s

/-! ## Answers to device accesses (R403) -/

/-- The number of the request to the host that an answer awaits, and since when. -/
def Answer.hostAsk : Answer → Option (Nat × Nat)
  | .asked q _ => if q.sp = Spot.none then Option.none else some (q.id, q.since)
  | _ => Option.none

/-- The host's answer to request `id`. -/
def Answer.byHost (id : Nat) (r : HostReply) : Answer → Answer
  | .asked q got => if q.id = id ∧ q.sp ≠ Spot.none then .host q.sp r got else .asked q got
  | a => a

/-- The host's memory as the host itself has written it: a byte that it has changed carries no release of the device (R109, R145). -/
def hostCell (s : State) (x : Nat × Byte) : State :=
  let a := hostBase + x.1
  if a < spmBase ∧ memRd s.mem a ≠ x.2 then clearRels a 1 { s with mem := memWr s.mem a x.2 } else s
def hostCells (r : HostReply) (s : State) : State :=
  match r with
  | .done cells => cells.foldl hostCell s
  | _ => s

/-- The answers that an asker holds: a stream's own, of a sequencer its record's and its deferred actions', a queue's, the scheduler's. -/
def askAnswers (c : HostAsker) (x : Stream) (s : State) : List Answer :=
  match c with
  | .core c =>
    if isCtl x then [(s.ctlOf c (streamLeader x)).ans]
    else ((s.seqOf c (streamEng x)).defer ++ (s.seqOf c (streamEng x)).run.toList).map (·.ans)
  | .cp t q => [(getQ s t q).ans]
  | .mbs => [s.mbsAns]

/-- The oldest request of an asker that the host has still to answer. -/
def askOldest (c : HostAsker) (x : Stream) (s : State) : Option (Nat × Nat) :=
  let qs := (askAnswers c x s).filterMap (·.hostAsk)
  (least (qs.map (·.1))).bind fun n => qs.find? fun q => q.1 == n

/-- An asker's answers changed. -/
def mapAnswers (c : HostAsker) (x : Stream) (f : Answer → Answer) (s : State) : State :=
  match c with
  | .core c =>
    if isCtl x then
      let t := s.ctlOf c (streamLeader x)
      s.setCtlOf c (streamLeader x) { t with ans := f t.ans }
    else
      let e := streamEng x
      let q := s.seqOf c e
      let g := fun (u : Run) => { u with ans := f u.ans }
      s.setSeqOf c e { q with run := q.run.map g, defer := q.defer.map g }
  | .cp t q => setQ t q { getQ s t q with ans := f (getQ s t q).ans } s
  | .mbs => { s with mbsAns := f s.mbsAns }

/-- The host's answer to the oldest request of an asker. -/
def hostAnswer (c : HostAsker) (x : Stream) (r : HostReply) (s : State) : State :=
  match askOldest c x s with
  | some q =>
    let s := match c with
      | .core k => s.actBy (ObjKind.own.key (agentOf k x)) hostAgent
      | _ => s
    mapAnswers c x (·.byHost q.1 r) s
  | none => s
def execHostCompletion (c : HostAsker) (x : Stream) (r : HostReply) : State → Out := event fun s => hostAnswer c x r (hostCells r s)

/-- No completion within 10 ms: as a poisoned one. -/
def hostTimeout (c : HostAsker) (x : Stream) (s : State) : State :=
  match askOldest c x s with
  | some q => if q.2 + 10000000 ≤ s.time then hostAnswer c x .poisoned s else s
  | none => s
def execHostCompletionTimeout (c : HostAsker) (x : Stream) : State → Out := event (hostTimeout c x)

end Sys2Proof.Machine
end

