-- ==== Sys2Proof/Machine/Tree.lean ====
section
/-! DEFINITION. Domains and barrier groups as configured (R159, R163), multicast groups and the barrier tree (R389, R390), the ring vote
(R391, R392), links and lanes (R382, R393-R395), slot tables and the egress limit (R397, R399). -/
namespace Sys2Proof.Machine

/-! ## Domains (R159) -/

/-- Is a stream of the module in a job? -/
def anyJob (s : State) : Bool := s.cores.any fun k => k.2.strm.any fun e => e.2.inJob

/-- The instance of the module at a level 4 to 6. -/
def modInst (dmr l : Nat) : Option Nat := coreInst dmr 0 l

/-- DMR_GLOBAL: the domains whose membership changes, and those nested in them, advance. -/
def wrDmrGlobal (v : Word) (s : State) : Chk State := do
  let x := v.toNat
  need (!anyJob s && !(bitAt x 31 && !bitAt x 32) && bitsAt x 33 31 == 0) .permission
  let old := s.dmr.toNat
  let ch := [4, 5, 6].filter fun l => modInst old l != modInst x l || bitsAt old (10 * (l - 4)) 10 != bitsAt x (10 * (l - 4)) 10
  let s := ch.foldl (fun s l => match modInst old l with
    | some i => advanceDgen l i s
    | none => s) s
  return ch.foldl (fun s l => match modInst x l with
    | some i => advanceDgen l i s
    | none => s) { s with dmr := v }
def execDmrGlobalWrite (v : Word) : State → Out := regEvent 0x1C5 true (wrDmrGlobal v)

/-- DMR_LOCAL of a core. -/
def dmrLocalImage (c : Nat) : Nat :=
  c + pairOf c * 2 ^ 10 + towerOf c * 2 ^ 19 + towerOf c / 4 * 2 ^ 24 + levelOf c * 2 ^ 27 + onDie c * 2 ^ 28

/-! ## Barrier groups (R162, R163) -/

/-- Does a group's mask name a core outside its instance? Levels 5 and 6 take every core of the module. -/
def maskOutside (s : State) (g : Group) : Bool :=
  decide (gLevel g < 5) && (List.range 1024).any fun c => gMask g c && coreInst s.dmr.toNat c (gLevel g) != some (gInst g)

/-- Is a group with SUPERSTEP and ENABLE ill formed: not both streams, or not every core of the instance on this module? -/
def superBad (s : State) (g : Group) : Bool :=
  gSuper g && gEnable g && (gStreams g != 3 || (List.range 1024).any fun c => gMask g c != (coreInst s.dmr.toNat c (gLevel g) == some (gInst g)))

/-- Has another enabled group SUPERSTEP for the same instance? -/
def superTwice (s : State) (n : Nat) (g : Group) : Bool :=
  gSuper g && gEnable g && s.groups.any fun e => e.1 != n && gSuper e.2 && gEnable e.2 && gLevel e.2 == gLevel g && gInst e.2 == gInst g

/-- BG_DATA: word 0 is the configuration, words 1 to 16 the mask. -/
def wrBgData (n w : Nat) (v : Word) (s : State) : State :=
  let g := s.group n
  let g' : Group := if w = 0 then { g with cfg := v } else { g with mask := put g.mask (w - 1) v }
  if g.count != 0 || decide (16 < w) || bitsAt g'.cfg.toNat 17 47 != 0 || gLevel g' == 7 || maskOutside s g' || superBad s g' || superTwice s n g' then
    s.setGroup n { g with refused := true }
  else s.setGroup n g'
def bgSel (s : State) (c : Nat) : Nat := (look 0 (s.core c).sels 0x1CC).toNat
def execBgDataWrite (v : Word) : State → Out := regEvent 0x1CD true fun s => .ok (wrBgData (bgSel s s.cc % 64) (bgSel s s.cc / 64 % 32) v s)

/-- The word that BG_DATA reads. The reserved words 17 to 31 of BG_SEL read 0: DESIGN CHOICE, R162 gives no word there
(notes/assumptions/59.md). -/
def bgDataImage (g : Group) (w : Nat) : Word := if w = 0 then g.cfg else if w ≤ 16 then look 0 g.mask (w - 1) else 0
def bgStatusImage (g : Group) : Nat := g.gen + g.count * 2 ^ 32 + b2n g.refused * 2 ^ 45
/-- BG_STATUS: REFUSED is cleared by a 1. -/
def wrBgStatus (n : Nat) (v : Word) (s : State) : State := if bitAt v.toNat 45 then s.setGroup n { s.group n with refused := false } else s

/-! ## Multicast groups and the barrier tree (R389, R390) -/

/-- Is a `fab.mcast` of a group in progress? -/
def mcBusy (s : State) (g : Nat) : Bool :=
  s.cores.any fun k => k.2.seqs.any fun q => match q.2.run with
    | some u => match u.instr with
      | .fabMcast r => r.spare.val % 64 == g && u.phase != .entry && u.phase != .read
      | _ => false
    | none => false

/-- MCG_DATA of core `c`. -/
def wrMcg (c : Nat) (v : Word) (s : State) : State :=
  let sel := (look 0 (s.core c).sels 0x20C).toNat
  if mcBusy s (sel % 64) then setRefused c 0x20C s else { s with mcg := put s.mcg (sel % 64 * 16 + sel / 64 % 16) v }
def execMcgDataWrite (v : Word) : State → Out := regEvent 0x20D true fun s => .ok (wrMcg s.cc v s)

/-- FBT_DATA: refused while arrivals stand. -/
def wrFbt (n : Nat) (v : Word) (s : State) : State :=
  if (s.group n).count ≠ 0 then s.setGroup n { s.group n with refused := true }
  else
    let s := { s with fbt := put s.fbt n { fbtOf s n with cfg := v &&& 0x7FFF } }
    (look [] s.gangs n).foldl (fun s x => tryGang n x.id s) s
def execFbtDataWrite (v : Word) : State → Out := regEvent 0x20F true fun s => .ok (wrFbt ((look 0 (s.core s.cc).sels 0x20E).toNat % 64) v s)

/-- The other modules of a group's instance that have accessed this one: of a scale-up domain, also those of the module's stage group (R158;
notes/assumptions/57.md). -/
def groupPeers (s : State) (g : Group) : List Nat :=
  (s.peers.filter fun p => (p.1 == gLevel g && p.2.1 == gInst g) ||
    (gLevel g == 6 && p.1 == 5 && modInst s.dmr.toNat 5 == some p.2.1 && modInst s.dmr.toNat 6 == some (gInst g))).map (·.2.2)

/-- The edges that a barrier message of a module hands on to the group here: the pairs of the ingresses of that module and of every other module
of the instance, whose members' arrivals it stands for (R110, R118). -/
def treeEdge (n src : Nat) (s : State) : State :=
  (src :: groupPeers s (s.group n)).eraseDups.foldl (fun s m =>
    let (s, p) := releasePass (ingressAgent m) s
    let g := s.group n
    s.setGroup n { g with merged := g.merged.take { p with fr := .empty } }) s

/-- ARRIVE from a child. -/
def arriveTree (n src : Nat) (s : State) : State :=
  let s := treeEdge n src s
  let f := fbtOf s n
  tryComplete n { s with fbt := put s.fbt n { f with arrived := if f.arrived.contains src then f.arrived else f.arrived ++ [src] } }
def execArrive (g : BgIx) (src : Nat) : State → Out := event (arriveTree g src)

/-- COMPLETE from the parent, for the generation whose ARRIVE was sent. -/
def completeArrives (n gen : Nat) (s : State) : State :=
  if fbtV (fbtOf s n) && (s.group n).gen == gen && (s.group n).sentUp then completeTree n (treeEdge n (fbtParent (fbtOf s n)) s) else s
def execComplete (g : BgIx) (gen : Nat) : State → Out := event (completeArrives g gen)

/-! ## The ring and its vote (R329, R391, R392) -/

/-- FAB_RING. -/
def wrFabRing (v : Word) (s : State) : Chk State := do
  let x := v.toNat
  need (!anyJob s && !(bitsAt x 8 8 == 0 && bitAt x 52) && bitsAt x 36 16 != 0 && bitsAt x 53 11 == 0) .permission
  return { s with fabRing := v }
def execFabRingWrite (v : Word) : State → Out := regEvent 0x200 true (wrFabRing v)

/-- Is a core's job a voting job: its context is that of the core whose stream votes? -/
def votingCore (s : State) (v c : Nat) : Bool := ctxId (s.core c).ascRoot.toNat == ctxId (s.core v).ascRoot.toNat

/-- DIVERGENCE on this module: records held at entry trap there, and every control core of a voting job traps before its next
instruction. -/
def diverge (v step : Nat) (s : State) : State :=
  s.cores.foldl (fun s k =>
    if votingCore s v k.1 then
      let s := [Leader.lcc, .ccc].foldl (fun s l =>
        if (s.str k.1 (leaderStream l)).inJob then s.setCtlOf k.1 l { s.ctlOf k.1 l with pendDiv := some step } else s) s
      [Eng.me, .ve, .cel, .ces].foldl (fun s e =>
        match (s.seqOf k.1 e).run with
        | some u => if u.phase = .entry ∧ engineOf u.instr ≠ 0 then runTrap k.1 e ⟨.divergence, step⟩ s else s
        | none => s) s
    else s) s

/-- A result for this module's vote. -/
def applyResult (step : Nat) (d : VoteDecision) (mask : Nat) (s : State) : State :=
  match s.voting with
  | some (c, x, k, _) =>
    if k = step then
      let s := { s with voting := none, voteRes := put s.voteRes (c * 8 + x) (step, d, mask) }
      if d = .noMajority ∨ (d = .allAgree ∧ bitAt mask (ringPos s)) then diverge c step s else s
    else s
  | none => s

/-- The majority among votes, if there is one: its digests. -/
def majority (vs : List VoteInfo) (size : Nat) : Option VoteInfo :=
  vs.find? fun v => decide (size < 2 * (vs.countP fun w => w.d1 == v.d1 && w.d2 == v.d2))

/-- The root's decision sent round the ring and applied here. -/
def rootDecide (step : Nat) (missing : Bool) (s : State) : State :=
  let vs := s.votes.filter fun v => v.step == step
  let (d, mask) := if missing then (VoteDecision.missing, 0)
    else match majority vs (ringSize s) with
      | some m => (VoteDecision.allAgree, ((vs.filter fun v => !(v.d1 == m.d1 && v.d2 == m.d2)).map fun v => 2 ^ v.pos).sum)
      | none => (VoteDecision.noMajority, 0)
  applyResult step d mask (emit (.result (ringSucc s) step d mask) { s with votes := s.votes.filter fun v => v.step != step })

/-- The root decides once it holds every vote of its step. -/
def voteSettle (s : State) : State :=
  match s.voting with
  | some (_, _, step, _) =>
    if ringPos s = 0 ∧ ringSize s ≤ (s.votes.filter fun v => v.step == step).length then rootDecide step false s else s
  | none => s

/-- A vote on the ring: passed on, except one that came from the successor; the root keeps one a position and step. -/
def voteArrives (v : VoteInfo) (s : State) : State :=
  if !ringV s then s
  else
    let s := if v.pos = (ringPos s + 1) % ringSize s then s else emit (.vote (ringSucc s) v) s
    let s := if ringPos s = 0 ∧ !(s.votes.any fun w => w.pos == v.pos && w.step == v.step) then { s with votes := s.votes ++ [v] } else s
    voteSettle s
def execVote (v : VoteInfo) : State → Out := event (voteArrives v)

/-- The root decides VOTE_TMO after its own vote: a vote is missing. -/
def voteRootTimeout (s : State) : State :=
  match s.voting with
  | some (_, _, step, t) => if ringPos s = 0 ∧ t + ringTmo s * 1000 ≤ s.time then rootDecide step true s else s
  | none => s
def execVoteRootTimeout : State → Out := event voteRootTimeout

/-- RESULT: passed on round the ring, and applied. -/
def resultArrives (step : Nat) (d : VoteDecision) (mask : Nat) (s : State) : State :=
  if !ringV s then s
  else
    let s := if (ringPos s + 1) % ringSize s = 0 ∨ ringPos s = 0 then s else emit (.result (ringSucc s) step d mask) s
    applyResult step d mask s
def execResult (step : Nat) (d : VoteDecision) (mask : Nat) : State → Out := event (resultArrives step d mask)

/-- No RESULT 2 x VOTE_TMO after this module's vote: COLLECTIVE_PARTIAL at its VOTE. -/
def voteResultTimeout (s : State) : State :=
  match s.voting with
  | some (_, _, step, t) => if t + 2 * ringTmo s * 1000 ≤ s.time then applyResult step .missing 0 s else s
  | none => s
def execVoteResultTimeout : State → Out := event voteResultTimeout

/-! ## Links and lanes (R382, R393-R395) -/

def linkOf (s : State) (l : Nat) : Link := look Link.reset s.links l
def setLink (l : Nat) (k : Link) (s : State) : State := { s with links := put s.links l k }
def laneOf (k : Link) (n : Nat) : Lane := look Lane.reset k.lanes n

/-- A replayed flit: the sixteenth replay in a row takes the link down, and it trains again. Whether a replay is of the flit replayed
last is open (notes/assumptions/30.md). -/
def flitCrcFail (l : Nat) (s : State) : State :=
  let k := linkOf s l
  let n := if Config.freeBit s.freeCtr l then k.replays + 1 else 1
  setLink l (if 16 ≤ n then { k with replays := 0, st := 1 } else { k with replays := n }) s
def execFlitCrcFail (l : Fin 16) : State → Out := event (flitCrcFail l)

/-- Lanes of a link that are not weak. -/
def goodLanes (k : Link) : Nat := (List.range 9).countP fun n => !(laneOf k n).weak

/-- The end of a training on which `good` lanes came up; a weak one is no good lane. A retraining runs on 4, or leaves the link down; the first
training after reset runs on 8 where there are so many (notes/assumptions/30.md). A link that is up, or stays down, does not train. -/
def linkRetrain (l good : Nat) (s : State) : State :=
  let k := linkOf s l
  let n := Nat.min good (goodLanes k)
  if k.st = 0 ∧ k.retrain = 0 ∧ 8 ≤ n then setLink l { k with st := 2 } s
  else if k.st = 1 ∨ (k.st = 0 ∧ k.retrain = 0) then
    setLink l { k with st := if 4 ≤ n then 4 else 0, retrain := Nat.min (k.retrain + 1) 65535 } s
  else s
def execLinkRetrain (l : Fin 16) (good : Fin 10) : State → Out := event (linkRetrain l good)

/-- LANE_PROPOSE for a lane, with an open sequence count (R394; notes/assumptions/7.md). -/
def proposeLane (l n : Nat) (s : State) : State :=
  emit (.lanePropose l n (Config.freeNat s.freeCtr (200 + l))) (setLink l { linkOf s l with propose := some (n, s.time) } s)

/-- One sample of a lane: weak after two bad ones in a row. A weak lane is swapped where AUTO is set and the spare unused; a second weak
lane, the spare in use among them, takes the link down. -/
def laneSample (l n cerr margin : Nat) (s : State) : State :=
  let k := linkOf s l
  let a := laneOf k n
  let bad := decide (bitsAt s.lnkCtl.toNat 0 32 < cerr ∨ margin < bitsAt s.lnkCtl.toNat 32 8)
  let b := if bad then Nat.min 2 (a.bad + 1) else 0
  let weak := decide (2 ≤ b)
  let s := setLink l { k with lanes := put k.lanes n ⟨weak, b, margin % 256, cerr % 2 ^ 32⟩ } s
  if weak && !a.weak then
    if k.spared ≠ 0xF then (if k.st = 3 ∧ n ≠ k.spared then setLink l { linkOf s l with st := 1 } s else s)
    else if n != 8 && bitAt s.lnkCtl.toNat 40 && k.propose.isNone && k.swapAt.isNone then proposeLane l n s
    else s
  else s
def execLaneSample (l : Fin 16) (n : Fin 9) (cerr margin : Nat) : State → Out := event (laneSample l n cerr margin)

/-- LANE_PROPOSE from the receiving end: whether Q is still ahead of the transmit count is open (notes/assumptions/7.md). -/
def laneProposed (l n q : Nat) (s : State) : State :=
  if Config.freeBit s.freeCtr (300 + l) then emit (.laneAck l n q) (setLink l { linkOf s l with txSwap := some (n, q) } s)
  else emit (.laneNak l n q) s
def execLanePropose (l : Fin 16) (n : Fin 9) (q : Nat) : State → Out := event (laneProposed l n q)

/-- LANE_ACK: the swap is agreed for flit Q + 4. -/
def laneAcked (l n q : Nat) (s : State) : State :=
  let k := linkOf s l
  if (k.propose.map (·.1)) = some n then setLink l { k with propose := none, swapAt := some (n, q) } s else s
def execLaneAck (l : Fin 16) (n : Fin 9) (q : Nat) : State → Out := event (laneAcked l n q)

/-- LANE_NAK: proposed again with a new Q. -/
def laneNaked (l n : Nat) (s : State) : State := if ((linkOf s l).propose.map (·.1)) = some n then proposeLane l n s else s
def execLaneNak (l : Fin 16) (n : Fin 9) (_ : Nat) : State → Out := event (laneNaked l n)

/-- No reply within 10 us: proposed again. -/
def laneProposeTimeout (l : Nat) (s : State) : State :=
  match (linkOf s l).propose with
  | some (n, t) => if t + 10000 ≤ s.time then proposeLane l n s else s
  | none => s
def execLaneProposeTimeout (l : Fin 16) : State → Out := event (laneProposeTimeout l)

/-- Flit Q + 4 of an agreed swap: the lane's symbols come on the selvedge lane. A second lane that turned weak before then takes the link down
as the spare comes into use (R395). -/
def selvedgeSwap (l : Nat) (s : State) : State :=
  let k := linkOf s l
  let more := (List.range 9).any fun j => some j != k.swapAt.map (·.1) && (laneOf k j).weak
  match k.swapAt with
  | some (n, _) =>
    (setLink l { k with swapAt := none, spared := n, st := if k.st = 2 then (if more then 1 else 3) else k.st } s).noteOpen (0x3FC0 + l) 9
  | none => s
def execSelvedgeSwap (l : Fin 16) : State → Out := event (selvedgeSwap l)

/-- LNK_STATUS of a link and lane. -/
def lnkStatusImage (s : State) (l n : Nat) : Nat :=
  let k := linkOf s l
  let a := laneOf k n
  k.st + b2n a.weak * 2 ^ 3 + k.spared * 2 ^ 4 + a.margin * 2 ^ 8 + a.cerr * 2 ^ 16 + k.retrain * 2 ^ 48

/-! ## Slot tables and the egress limit (R397, R399) -/

/-- A slot entry that R397 refuses. -/
def slotBad (v : Nat) : Bool :=
  bitsAt v 30 34 != 0 ||
  ((List.range 6).any fun k => bitAt v (4 * k + 3) && (bitsAt v (4 * k) 3 == k || decide (5 < bitsAt v (4 * k) 3))) ||
  ((List.range 6).any fun j => (List.range j).any fun k => bitAt v (4 * j + 3) && bitAt v (4 * k + 3) && bitsAt v (4 * j) 3 == bitsAt v (4 * k) 3)

/-- Key of the entry that SLT_SEL names: bank, tower, slot. -/
def sltKey (sel : Nat) : Nat := sel / 32 % 2 * 8192 + sel % 32 * 256 + sel / 64 % 256
/-- SLT_DATA of core `c`. -/
def wrSlt (c : Nat) (v : Word) (s : State) : State :=
  let sel := (look 0 (s.core c).sels 0x210).toNat
  if sel / 32 % 2 = s.sltAct ∨ slotBad v.toNat then s else { s with slt := put s.slt (sltKey sel) v }
def execSltDataWrite (v : Word) : State → Out := regEvent 0x211 true fun s => .ok (wrSlt s.cc v s)

/-- SLT_CTL: a change of banks asked for. -/
def wrSltCtl (v : Word) (s : State) : State := if bitAt v.toNat 1 then { s with sltSwap := true } else s
def execSltSwap : State → Out := regEvent 0x212 true fun s => .ok (wrSltCtl 2 s)

/-- Slot 0 of the next round: the banks change where asked. -/
def slotBankChange (s : State) : State := if s.sltSwap then { s with sltAct := 1 - s.sltAct, sltSwap := false } else s
def execSlotBankChange : State → Out := event slotBankChange

/-- EGR_LIM. -/
def wrEgrLim (v : Word) (s : State) : Chk State := do
  let n := v.toNat % 32
  need (decide (1 ≤ n ∧ n ≤ Config.egrRateMax)) .permission
  return { s with egrRate := n }
def execEgrLimWrite (v : Word) : State → Out := regEvent 0x21B true (wrEgrLim v)
def egrLimImage (s : State) : Nat := s.egrRate + Config.egrRateMax * 2 ^ 5

end Sys2Proof.Machine
end

