-- ==== Sys2Proof/Machine/Csr.lean ====
section
/-! DEFINITION. The control/status registers: which numbers there are, who may read and write them, their RW fields (R6, R237, R238, R358,
R379, R406, R422, R439), and what a read of each returns. -/
namespace Sys2Proof.Machine

/-! ## The numbers -/

/-- A register: may job level read it, may job level write it, and the bits of its RW fields. -/
structure Reg where
  jobRd : Bool
  jobWr : Bool
  rw    : Nat
deriving DecidableEq, Repr, Inhabited

/-- `n` ones from bit `l`. -/
def fieldAt (l n : Nat) : Nat := (2 ^ n - 1) * 2 ^ l
def allBits : Nat := fieldAt 0 64

/-- Registers of traps and context (R363, R366, R367, R375, R376, R379, R459). -/
def trapRegs : Tbl Reg := [
  (0x100, ⟨false, false, fieldAt 2 16⟩), (0x101, ⟨false, false, fieldAt 0 11⟩), (0x102, ⟨false, false, fieldAt 0 18⟩),
  (0x103, ⟨false, false, allBits⟩), (0x104, ⟨false, false, allBits⟩), (0x105, ⟨false, false, fieldAt 1 3⟩),
  (0x106, ⟨false, false, 0⟩), (0x107, ⟨false, false, 0⟩),
  (0x108, ⟨false, false, fieldAt 8 18⟩), (0x109, ⟨false, false, fieldAt 8 18⟩), (0x10A, ⟨false, false, fieldAt 8 18⟩),
  (0x10B, ⟨false, false, fieldAt 8 18⟩), (0x10C, ⟨false, false, 0⟩), (0x10D, ⟨false, false, 0⟩), (0x10E, ⟨false, false, 0⟩),
  (0x10F, ⟨false, false, 0⟩), (0x110, ⟨true, false, fieldAt 0 20⟩), (0x111, ⟨false, false, 0⟩), (0x112, ⟨true, false, 0⟩)]

/-- Registers of R238. -/
def coreRegs : Tbl Reg := [
  (0x180, ⟨false, false, fieldAt 18 22 + 2 ^ 63⟩), (0x181, ⟨false, false, fieldAt 11 41⟩),
  (0x188, ⟨false, false, fieldAt 0 56⟩), (0x189, ⟨false, false, fieldAt 0 14 + fieldAt 24 40⟩), (0x18A, ⟨false, false, 0⟩),
  (0x18B, ⟨false, false, 0⟩), (0x1A0, ⟨true, true, fieldAt 0 7 + fieldAt 8 10 + fieldAt 20 12 + 2 ^ 63⟩), (0x1A1, ⟨true, false, 0⟩),
  (0x1B0, ⟨true, false, 0⟩), (0x1B1, ⟨true, false, 0⟩), (0x1C0, ⟨true, false, 0⟩), (0x1C2, ⟨true, false, fieldAt 0 12⟩),
  (0x1C4, ⟨true, false, 0⟩), (0x1C5, ⟨true, false, fieldAt 0 33⟩), (0x1C8, ⟨true, false, 0⟩), (0x1C9, ⟨false, false, 1⟩),
  (0x1CA, ⟨true, false, 0⟩), (0x1CC, ⟨true, false, fieldAt 0 11⟩), (0x1CD, ⟨true, false, allBits⟩), (0x1CE, ⟨true, false, 0⟩)]

/-- Registers of the engines, sequencers and the seam check (R247, R277, R278, R305, R326, R327). -/
def engineRegs : Tbl Reg := [
  (0x1D0, ⟨true, true, 0⟩), (0x1D1, ⟨true, false, 0⟩), (0x1D2, ⟨true, true, 0⟩), (0x1D4, ⟨true, true, allBits⟩),
  (0x1D5, ⟨true, true, allBits⟩), (0x1D8, ⟨true, true, fieldAt 0 5 + fieldAt 16 32⟩), (0x1D9, ⟨true, true, fieldAt 0 5 + fieldAt 16 32⟩),
  (0x1DA, ⟨true, true, fieldAt 0 5 + fieldAt 16 32⟩), (0x1DB, ⟨true, true, fieldAt 0 5 + fieldAt 16 32⟩), (0x1DC, ⟨true, false, 0⟩),
  (0x1DD, ⟨true, true, allBits⟩), (0x1DE, ⟨true, true, allBits⟩), (0x1DF, ⟨true, true, fieldAt 0 48⟩)]

/-- Registers of scheduling (R358). -/
def schedRegs : Tbl Reg := [
  (0x1E0, ⟨false, false, fieldAt 0 8⟩), (0x1E1, ⟨false, false, allBits⟩), (0x1E2, ⟨true, true, fieldAt 0 11⟩),
  (0x1E3, ⟨true, false, allBits⟩), (0x1E4, ⟨true, true, fieldAt 0 8 + fieldAt 16 3⟩), (0x1E5, ⟨false, false, 0⟩),
  (0x1E6, ⟨true, false, fieldAt 0 38⟩), (0x1E7, ⟨true, false, fieldAt 0 40⟩), (0x1E8, ⟨true, false, fieldAt 0 24⟩),
  (0x1E9, ⟨true, false, 0⟩), (0x1EA, ⟨true, false, 0⟩), (0x1EB, ⟨true, true, 0⟩)]

/-- Registers of the fabric and the host port (R406). -/
def fabricRegs : Tbl Reg := [
  (0x200, ⟨true, false, fieldAt 0 53⟩), (0x202, ⟨true, true, fieldAt 0 8⟩), (0x204, ⟨true, false, 0⟩), (0x205, ⟨true, false, fieldAt 0 10⟩),
  (0x208, ⟨true, false, fieldAt 0 8⟩), (0x209, ⟨true, false, 0⟩), (0x20A, ⟨true, false, fieldAt 0 41⟩), (0x20C, ⟨true, false, fieldAt 0 10⟩),
  (0x20D, ⟨true, false, allBits⟩), (0x20E, ⟨true, false, fieldAt 0 6⟩), (0x20F, ⟨true, false, fieldAt 0 15⟩),
  (0x210, ⟨true, false, fieldAt 0 14⟩), (0x211, ⟨true, false, allBits⟩), (0x212, ⟨true, false, 0⟩), (0x218, ⟨true, false, fieldAt 11 2⟩),
  (0x219, ⟨true, false, fieldAt 16 40⟩), (0x21A, ⟨true, false, fieldAt 0 13⟩), (0x21B, ⟨true, false, fieldAt 0 5⟩),
  (0x21C, ⟨true, false, fieldAt 11 41 + 2 ^ 63⟩), (0x21D, ⟨true, false, fieldAt 11 29⟩), (0x21E, ⟨true, false, 0⟩)]

/-- Registers of power and temperature (R422), checkpoint, trace, debug, replay and error counts (R439). -/
def systemRegs : Tbl Reg := [
  (0x220, ⟨true, false, 0⟩), (0x221, ⟨true, false, fieldAt 0 32⟩), (0x222, ⟨true, false, 0⟩), (0x223, ⟨true, false, fieldAt 0 3⟩),
  (0x224, ⟨true, false, fieldAt 0 25⟩), (0x225, ⟨true, false, 0⟩), (0x226, ⟨true, false, fieldAt 0 4⟩), (0x227, ⟨true, true, fieldAt 0 6⟩),
  (0x228, ⟨true, false, 0⟩), (0x229, ⟨true, false, fieldAt 0 19⟩), (0x22A, ⟨true, false, 0⟩), (0x22B, ⟨true, false, 0⟩),
  (0x230, ⟨false, false, 4 + 16 + fieldAt 17 13⟩), (0x231, ⟨false, false, fieldAt 21 19⟩), (0x232, ⟨true, false, 0⟩),
  (0x233, ⟨true, false, 0⟩), (0x234, ⟨true, false, 3⟩), (0x235, ⟨true, false, 0⟩), (0x236, ⟨true, false, fieldAt 0 40⟩),
  (0x237, ⟨true, false, 0⟩), (0x238, ⟨false, false, fieldAt 0 12⟩), (0x239, ⟨false, false, 0⟩), (0x23A, ⟨false, false, allBits⟩),
  (0x23B, ⟨false, false, allBits⟩), (0x23C, ⟨false, false, 0⟩), (0x23D, ⟨false, false, 0⟩), (0x23E, ⟨true, false, fieldAt 0 52⟩),
  (0x23F, ⟨true, true, fieldAt 0 4⟩)]

/-- The register of a number, if one is assigned. -/
def regOf (n : Nat) : Option Reg :=
  if n < 0x180 then find trapRegs n else if n < 0x1D0 then find coreRegs n else if n < 0x1E0 then find engineRegs n
  else if n < 0x200 then find schedRegs n else if n < 0x220 then find fabricRegs n else find systemRegs n

/-! ## Images -/

/-- The state code of STREAM_STATE; a stream stopped by pre-emption reads HALT, one held by a clock transition reads WAIT (R149, R367,
R408), but a control core in its trap handler TRAP then too: DESIGN CHOICE, R149 and R408 say both (notes/assumptions/59.md). -/
def stateCode (clk busy : Bool) (m : Strm) : Nat :=
  if m.pstop && !busy then 4
  else match m.st with
    | .idle => 0
    | .run => if clk then 2 else 1
    | .wait => 2
    | .trap => 3
    | .halt => 4

/-- STREAM_STATE (R149). JOB_s of a stream in no job reads 0: DESIGN CHOICE, R150 sets JOB and nothing clears it (notes/assumptions/59.md). -/
def streamStateImage (s : State) (c : Nat) : Nat :=
  let k := s.core c
  ((List.range 6).map fun n =>
    let m := k.str (streamOf n)
    let l := if n = 1 then Leader.ccc else if n = 0 then .lcc else m.job
    (stateCode (s.die (dieOf c)).busy k.busy m + b2n m.inJob * 8 + b2n (m.inJob && l == .ccc) * 16) * 2 ^ (8 * n)).sum

def licCode : Lic → Nat
  | .free => 0 | .held => 1 | .releasing => 2 | .handover => 3 | .disabled => 4

/-- LIC_STATE of a core (R156). -/
def licStateImage (s : State) (c : Nat) : Nat :=
  let p := s.pair (pairOf c)
  let l := levelOf c
  let mine := (p.lic == .held || p.lic == .releasing || p.lic == .handover) && p.who == l
  licCode p.lic + b2n mine * 8 + b2n (p.want.contains l) * 16 + b2n (p.want.contains (1 - l)) * 32 + p.last * 64

/-- GUS_OWN (R135). -/
def gusOwnImage (p : Pair) : Nat := p.ownCtx % 4096 + b2n p.ownV * 4096

/-- MBS_CORE: the enabled stages a core belongs to (R358). -/
def mbsCoreImage (s : State) (c : Nat) : Nat :=
  ((List.range 16).map fun k =>
    let g := stageOf s k
    b2n (stEnable g && bitAt (stW g 0) (32 + towerOf c) && bitAt (stW g 1) (c % 32)) * 2 ^ k).sum

/-- The word that CPQ_DATA reads (R336). -/
def cpqImage (s : State) (c : Nat) : Nat :=
  let d := getQ s (towerOf c) (selOf s c 0x1E0 % 64)
  match selOf s c 0x1E0 / 64 % 4 with
  | 0 => d.w0.toNat
  | 1 => d.ltb.toNat
  | 2 => d.root.toNat
  | _ => qStatusImage d

/-- ERR_DATA: LEVEL 7 counts host-window refusals (R438). -/
def errImage (s : State) (k : Nat) : Nat := if k = 7 then s.hostLog else if k ≤ 8 then (look 0 s.errs k).toNat else 0

/-- DBG_STATUS (R433). -/
def dbgStatusImage (s : State) : Nat := b2n s.dbgBusy + s.dbgRes % 8 * 2 + b2n s.dbgOver * 16 + s.dbgData.toNat / 2 ^ 32 * 2 ^ 32

/-! ## Reads (R6): WO fields and reserved bits read 0 -/

/-- Traps and context. -/
def rdTrap (c : Nat) (l : Leader) (n : Nat) (s : State) : Nat :=
  let x := s.ctlOf c l
  match n with
  | 0x100 => x.tvec.toNat
  | 0x101 => x.tcause.toNat
  | 0x102 => x.tpc.toNat
  | 0x103 => x.tinfo.toNat
  | 0x104 => x.tscratch.toNat
  | 0x105 => tstatusImage x
  | 0x108 => engTrapImage (s.seqOf c .me)
  | 0x109 => engTrapImage (s.seqOf c .ve)
  | 0x10A => engTrapImage (s.seqOf c .cel)
  | 0x10B => engTrapImage (s.seqOf c .ces)
  | 0x10C => engRstImage (s.seqOf c .me)
  | 0x10D => engRstImage (s.seqOf c .ve)
  | 0x10E => engRstImage (s.seqOf c .cel)
  | 0x10F => engRstImage (s.seqOf c .ces)
  | 0x110 => (s.core c).qtmo
  | 0x112 => preStatusImage (s.core c)
  | _ => 0

/-- The registers of R238. -/
def rdCore (c : Nat) (l : Leader) (n : Nat) (s : State) : Nat :=
  match n with
  | 0x180 => (s.core c).ascLtb.toNat
  | 0x181 => (s.core c).ascRoot.toNat
  | 0x188 => s.xltArg0.toNat
  | 0x189 => s.xltArg1.toNat
  | 0x18B => xltStatusImage s
  | 0x1A0 => (s.core c).ttCfg.toNat
  | 0x1A1 => imStateImage (s.core c)
  | 0x1B0 => (s.core c).race0.toNat
  | 0x1B1 => (s.core c).race1.toNat
  | 0x1C0 => streamStateImage s c
  | 0x1C2 => (s.str c (leaderStream l)).mt
  | 0x1C4 => dmrLocalImage c
  | 0x1C5 => s.dmr.toNat
  | 0x1C8 => licStateImage s c
  | 0x1C9 => b2n (s.pair (pairOf c)).disable
  | 0x1CA => gusOwnImage (s.pair (pairOf c))
  | 0x1CC => selOf s c 0x1CC
  | 0x1CD => (bgDataImage (s.group (bgSel s c % 64)) (bgSel s c / 64 % 32)).toNat
  | 0x1CE => bgStatusImage (s.group (bgSel s c % 64))
  | _ => 0

/-- The engines' registers. -/
def rdEngine (c n : Nat) (s : State) : Nat :=
  let k := s.core c
  match n with
  | 0x1D0 => k.meFlags
  | 0x1D1 => k.lent
  | 0x1D2 => k.veFlags
  | 0x1D4 => k.rngMe.toNat
  | 0x1D5 => k.rngVe.toNat
  | 0x1D8 => (k.seq .me).cmpf.toNat
  | 0x1D9 => (k.seq .ve).cmpf.toNat
  | 0x1DA => (k.seq .cel).cmpf.toNat
  | 0x1DB => (k.seq .ces).cmpf.toNat
  | 0x1DC => k.collInfo.toNat
  | 0x1DD => k.seamH1.toNat
  | 0x1DE => k.seamH2.toNat
  | 0x1DF => k.seamN
  | _ => 0

/-- Scheduling. MBS_VER names the stage whose program the control core runs; one not started by the scheduler raises PERMISSION (R350). -/
def rdSched (c : Nat) (l : Leader) (n : Nat) (s : State) : Chk Nat :=
  let d := s.die (dieOf c)
  match n with
  | 0x1E0 => .ok (selOf s c 0x1E0)
  | 0x1E1 => .ok (cpqImage s c)
  | 0x1E2 => .ok (selOf s c 0x1E2)
  | 0x1E3 => .ok (mbsImage s c)
  | 0x1E4 => match stageOfCtl (s.ctlOf c l) with
    | some k => .ok (verImage (stageOf s k))
    | none => fault .permission
  | 0x1E6 => .ok (bobKeepImage d)
  | 0x1E7 => .ok (bobSpillImage d)
  | 0x1E8 => .ok d.thr.toNat
  | 0x1E9 => .ok (bobStatusImage d)
  | 0x1EA => .ok (mbsCoreImage s c)
  | _ => .ok 0

/-- The fabric and the host port. -/
def rdFabric (c n : Nat) (s : State) : Nat :=
  match n with
  | 0x200 => s.fabRing.toNat
  | 0x202 => selOf s c 0x202 + look 0 s.bpri (selOf s c 0x202) * 2 ^ 8
  | 0x204 => gsStatusImage s
  | 0x205 => s.maxTok
  | 0x208 => selOf s c 0x208
  | 0x209 => lnkStatusImage s (selOf s c 0x208 % 16) (selOf s c 0x208 / 16 % 16)
  | 0x20A => s.lnkCtl.toNat
  | 0x20C => selOf s c 0x20C
  | 0x20D => (look 0 s.mcg (selOf s c 0x20C % 64 * 16 + selOf s c 0x20C / 64 % 16)).toNat
  | 0x20E => selOf s c 0x20E
  | 0x20F => (look Fbt.reset s.fbt (selOf s c 0x20E % 64)).cfg.toNat
  | 0x210 => selOf s c 0x210
  | 0x211 => (look 0 s.slt (sltKey (selOf s c 0x210))).toNat
  | 0x212 => s.sltAct
  | 0x218 => s.hostLink.toNat
  | 0x219 => s.hwinBase.toNat
  | 0x21A => s.hwinCtl.toNat
  | 0x21B => egrLimImage s
  | 0x21C => s.peerCtx.toNat
  | 0x21D => s.hwinRoot.toNat
  | 0x21E => s.hregLog.toNat
  | _ => 0

/-- Power, temperature, checkpoint, trace, debug, replay, errors. -/
def rdSystem (c n : Nat) (s : State) : Nat :=
  match n with
  | 0x220 => s.pwrFuse.toNat
  | 0x221 => s.pwrCap.toNat
  | 0x222 => s.pwrStat.toNat
  | 0x223 => selOf s c 0x223
  | 0x224 => pclsOf s (selOf s c 0x223 % 8)
  | 0x225 => clStatusImage s c
  | 0x226 => dvfsImage (s.die (dieOf c))
  | 0x227 => selOf s c 0x227
  | 0x228 => thDataImage s (towerOf c) (selOf s c 0x227 % 64)
  | 0x229 => s.thCtl.toNat
  | 0x22A => (s.tower (towerOf c)).thStat.toNat
  | 0x22B => errImage s (selOf s c 0x23F % 16)
  | 0x230 => s.ckptCtl.toNat
  | 0x231 => s.ckptMap.toNat
  | 0x232 => s.ckptStat.toNat
  | 0x233 => waitforImage (s.die (dieOf c)).busy (s.core c)
  | 0x234 => s.tsync.toNat
  | 0x235 => (s.core c).scyc.toNat
  | 0x236 => s.trcCtl.toNat
  | 0x237 => s.trcStat.toNat
  | 0x238 => s.dbgCtl.toNat
  | 0x23A => s.dbgArg0.toNat
  | 0x23B => s.dbgArg1.toNat
  | 0x23C => dbgStatusImage s
  | 0x23D => s.dbgData.toNat
  | 0x23E => s.replay.toNat
  | 0x23F => selOf s c 0x23F
  | _ => 0

/-- The read of register `n` as control core `l` of core `c` makes it. -/
def readReg (c : Nat) (l : Leader) (n : Nat) (s : State) : Chk Nat :=
  if n < 0x180 then .ok (rdTrap c l n s) else if n < 0x1D0 then .ok (rdCore c l n s) else if n < 0x1E0 then .ok (rdEngine c n s)
  else if n < 0x200 then rdSched c l n s else if n < 0x220 then .ok (rdFabric c n s) else .ok (rdSystem c n s)

end Sys2Proof.Machine
end

