-- ==== Sys2Proof/Machine/Debug.lean ====
section
/-! DEFINITION. The debug master (R433, R434, R440, R446). -/
namespace Sys2Proof.Machine

/-! ## The commands at their target -/

/-- The result of a command: RESULT, and the DATA of a read. -/
structure DbgRes where
  res  : Nat
  data : Option Word
deriving DecidableEq, Repr, Inhabited

def dbgDone : DbgRes := ⟨0, none⟩
def dbgRefused : DbgRes := ⟨1, none⟩
def dbgBad : DbgRes := ⟨3, none⟩
/-- A read that delivers `v`. -/
def dbgRead (v : Nat) : DbgRes := ⟨0, some (BitVec.ofNat 64 v)⟩

/-- The cores a HALT or RESUME names: ARG0 [9:0], or all with [10]. -/
def dbgCores (a0 : Nat) (s : State) : List Nat := if bitAt a0 10 then s.cores.map (·.1) else [a0 % 1024]

/-- A stop or a resume by the debug master: ignored at a core that a checkpoint holds (R440). -/
def dbgStop (s : State) (c : Nat) : State := if ckptOwns s c then s else stopCore c s
def dbgGo (s : State) (c : Nat) : State := if ckptOwns s c then s else resumeCore c s

/-- HALT_SC: refused as a bad argument where SCYC has passed N (notes/assumptions/24.md). -/
def dbgArmSc (c n : Nat) (s : State) : State × DbgRes :=
  if n ≤ (s.core c).scyc.toNat then (s, dbgBad) else (s.setCore c { s.core c with haltSc := some n }, dbgDone)

/-- RD_CSR at supervisor privilege, the LCC's copy where there are two; an unassigned number is a bad argument
(notes/assumptions/24.md). -/
def dbgCsr (c n : Nat) (s : State) : DbgRes :=
  match regOf n with
  | none => dbgBad
  | some _ => match readReg c .lcc n s with
    | .ok v => dbgRead v
    | .error _ => dbgRefused

/-- RD_MEM: 8 bytes of DEV as stored. A unit with an uncorrectable error is not delivered (R378): refused (notes/assumptions/24.md). -/
def dbgMem (pa : Nat) (s : State) : DbgRes :=
  if pa % 8 ≠ 0 ∨ Config.devBytes ≤ pa then dbgBad
  else if (unitOf pa).any s.marks.contains then dbgRefused
  else dbgRead (leNat (((storedLine s (pa / 64)).drop (pa % 64)).take 8))

/-- RD_STAMP: a word of the stamp of the SPM granule at a permuted offset. -/
def dbgStamp (c off w : Nat) (s : State) : DbgRes :=
  if 5 ≤ w then dbgBad
  else dbgRead ((look Stamp.reset s.stamps (spmAt c off / 64)).image / 2 ^ (64 * w) % 2 ^ 64)

/-- A command at its target. -/
def dbgAct (op a0 a1 : Nat) (s : State) : State × DbgRes :=
  match op with
  | 1 => ((dbgCores a0 s).foldl dbgStop s, dbgDone)
  | 2 => ((dbgCores a0 s).foldl dbgGo s, dbgDone)
  | 3 => ({ s with haltAt := some a0 }, dbgDone)
  | 4 => dbgArmSc (a0 % 1024) a1 s
  | 5 => (s, dbgCsr (a0 % 1024) (bitsAt a0 10 12) s)
  | 6 => (s, dbgMem a0 s)
  | 7 => (s, dbgStamp (a0 % 1024) (bitsAt a0 10 22) (bitsAt a0 32 3) s)
  | _ => (s, dbgBad)

/-- A command ends at the master; DATA changes with a read that delivers. -/
def dbgEnd (r : DbgRes) (s : State) : State := { s with dbgBusy := false, dbgWait := none, dbgRes := r.res, dbgData := r.data.getD s.dbgData }

/-- DBG_CMD: ignored while one runs; refused where this module is no master; here, or sent to another module. -/
def wrDbgCmd (v : Word) (s : State) : State :=
  let op := v.toNat % 8
  let m := bitsAt v.toNat 3 10
  if s.dbgBusy then { s with dbgOver := true }
  else if !bitAt s.dbgCtl.toNat 0 then dbgEnd dbgRefused s
  else if m = moduleInst s then
    let (t, r) := dbgAct op s.dbgArg0.toNat s.dbgArg1.toNat s
    dbgEnd r t
  else
    { emit (.debug m op s.dbgArg0 s.dbgArg1) s with dbgBusy := true, dbgWait := some (s.msgNext, s.time), msgNext := s.msgNext + 1 }

/-- A command that comes from another module: obeyed from the module that ACCEPT names; the answer goes back. -/
def dbgArrives (m op a0 a1 : Nat) (s : State) : State :=
  if bitAt s.dbgCtl.toNat 11 && bitsAt s.dbgCtl.toNat 1 10 == m then
    let (t, r) := dbgAct op a0 a1 s
    emit (.debugReply m r.res r.data) t
  else emit (.debugReply m 1 none) s

/-- A command as an event: this module's own DBG_CMD with its arguments set up, or one from another module. -/
def dbgEvent (src : Option Nat) (op a0 a1 : Nat) : State → Out :=
  match src with
  | none => regEvent 0x239 true fun s =>
      .ok (wrDbgCmd (BitVec.ofNat 64 (op + moduleInst s * 8)) { s with dbgArg0 := BitVec.ofNat 64 a0, dbgArg1 := BitVec.ofNat 64 a1 })
  | some m => event (dbgArrives m op a0 a1)

def execDbgHalt (src : Option Nat) (c : CoreId) (all : Bool) : State → Out := dbgEvent src 1 (c.val + b2n all * 1024) 0
def execDbgResume (src : Option Nat) (c : CoreId) (all : Bool) : State → Out := dbgEvent src 2 (c.val + b2n all * 1024) 0
def execDbgHaltAt (src : Option Nat) (t : Word) : State → Out := dbgEvent src 3 t.toNat 0
def execDbgHaltSc (src : Option Nat) (c : CoreId) (n : Nat) : State → Out := dbgEvent src 4 c.val n
def execDbgRdCsr (src : Option Nat) (c : CoreId) (n : Fin 4096) : State → Out := dbgEvent src 5 (c.val + n.val * 1024) 0
def execDbgRdMem (src : Option Nat) (pa : Nat) : State → Out := dbgEvent src 6 pa 0
def execDbgRdStamp (src : Option Nat) (c : CoreId) (off : Nat) (w : Nat) : State → Out :=
  dbgEvent src 7 (c.val + off % 2 ^ 22 * 2 ^ 10 + w % 8 * 2 ^ 32) 0
def execDbgBadOp : State → Out := dbgEvent none 0 0 0

/-! ## Armed stops, answers and time-outs -/

/-- T is reached: every core's stop edge. -/
def haltAtTrigger (s : State) : State :=
  match s.haltAt with
  | some t => if t ≤ s.time then s.cores.foldl (fun s e => dbgStop s e.1) { s with haltAt := none } else s
  | none => s
def execHaltAtTrigger : State → Out := event haltAtTrigger

/-- SCYC reaches N: the core's stop edge. -/
def haltScTrigger (c : Nat) (s : State) : State :=
  match (s.core c).haltSc with
  | some n => if n ≤ (s.core c).scyc.toNat then dbgStop (s.setCore c { s.core c with haltSc := none }) c else s
  | none => s
def execHaltScTrigger (c : CoreId) : State → Out := event (haltScTrigger c)

/-- The answer to the command that runs: its RESULT, and the DATA of a read at the other module. -/
def dbgAnswer (id : Nat) (a : AckInfo) (s : State) : State :=
  match s.dbgWait with
  | some (i, _) => if i = id then dbgEnd ⟨Nat.min a.code 3, a.data⟩ s else s
  | none => s

/-- ACK: the answer to a remote access, an announcement, or a debug command. -/
def execAck (id : Nat) (status : AckInfo) : State → Out := event fun s => dbgAnswer id status (ackArrives id status.code s)

/-- No answer within 100 us. -/
def dbgTimeout (s : State) : State :=
  match s.dbgWait with
  | some (_, t) => if t + 100000 ≤ s.time then dbgEnd ⟨2, none⟩ s else s
  | none => s
def execDbgCommandTimeout : State → Out := event dbgTimeout

end Sys2Proof.Machine
end

