-- ==== Sys2Proof/Machine/HandleInstr.lean ====
section
/-! DEFINITION. Handle instructions (R205-R214). -/
namespace Sys2Proof.Machine

/-- Field `f` of R207 as `hget` returns it. -/
def hget (h : Handle) (f : Nat) : Nat :=
  if f = 19 then hbits h 0 0 32 &&& 0xFF00E000 else hbits h (hfield f).1 (hfield f).2.1 (hfield f).2.2

/-- `hset`: the handle with field `f` set, or BOUNDS (R208). -/
def hsetField (h : Handle) (f v : Nat) : Chk Handle :=
  if f = 19 then
    if v % 2 ^ 13 ≠ 0 ∨ v / 2 ^ 16 % 2 ^ 8 ≠ 0 ∨ 2 ^ 32 ≤ v then fault .bounds
    else .ok (hset h 0 0 32 ((hbits h 0 0 32 &&& 0x00FF1FFF) ||| v))
  else if 2 ^ (hfield f).2.2 ≤ v then fault .bounds
  else .ok (hset h (hfield f).1 (hfield f).2.1 (hfield f).2.2 v)

/-- `hoff` (R209). -/
def hoffset (h : Handle) (d : Nat) (v : Word) : Chk Handle :=
  let o : Int := (hOrigin h d : Int) + v.toInt
  if o < 0 ∨ (2 ^ 32 : Nat) ≤ o then fault .bounds else .ok (hset h (2 + d) 0 32 o.toNat)

/-- `hslc` (R210). -/
def hslice (h : Handle) (d : Nat) (v : Word) : Chk Handle :=
  let off := bitsAt v.toNat 0 32
  let len := bitsAt v.toNat 32 32
  if hTagRel h && d == hTdim h then fault .bounds
  else if len = 0 ∨ hWext h d + 1 < off + len then fault .bounds
  else if 2 ^ 32 ≤ hOrigin h d + off then fault .bounds
  else .ok (hset (hset h (2 + d) 0 32 (hOrigin h d + off)) (6 + d / 2) (16 * (d % 2)) 16 (len - 1))

/-- The handle `hld` makes onto entry `n` (R206). -/
def wholeHandle (n : Nat) (e : Entry) : Handle :=
  let h : Handle := BitVec.ofNat 256 (n + 2 ^ 12 + eFmt e * 2 ^ 16 + 0xFFF * 2 ^ 50)
  [0, 1, 2, 3].foldl (fun h d => hset h (6 + d / 2) (16 * (d % 2)) 16 (Nat.min (eExt e d) 65536 - 1)) h

/-- The checks of `hld`. -/
def hldHandle (s : State) (v : Word) (i : BitVec 9) : Chk (Nat × Entry × Handle) := do
  let n : Int := v.toInt + i.toInt
  need (decide (0 ≤ n ∧ n ≤ 4095)) .bounds
  need (bitAt s.who.ltb 63) .translation
  let e := ltEntry s s.who n.toNat
  need (eValid e && !eMalformed e) .translation
  need (!isReserved (eFmt e)) .format
  return (n.toNat, e, wholeHandle n.toNat e)

/-- Steps 1, 2, 4, 5 and 7 of R35 (R212). `opaque` is no reason to fail: whether a form admits it is the kind of access
(notes/assumptions/22.md). -/
def hcheck (s : State) (h : Handle) : Bool :=
  let e := ltEntry s s.who (hLt h)
  !hMalformed h && hTagOk h s.who.mt && entryOk s.who.ltb e && formatOk h e true (fun _ => true) && domainOk s s.who e

def execHmov (gd : Guard) (d a : HReg) : State → Out := control gd 4 false fun s => .done (s.wrH d (s.rdH a))
def execHbind (gd : Guard) (d a : HReg) (b : SReg) : State → Out :=
  control gd 4 false fun s => Eff.ofChk s do
    need (decide ((s.rdS b).toNat ≤ 4094)) .bounds
    return .done (s.wrH d (hset (s.rdH a) 1 18 12 (s.rdS b).toNat))
def execHunb (gd : Guard) (d a : HReg) : State → Out :=
  control gd 4 false fun s => .done (s.wrH d (hset (hset (hset (s.rdH a) 1 18 12 0xFFF) 0 13 3 0) 0 24 8 0))
/-- `hchk`. The entry it reads, like that of an `hld` that faults, is not kept in the layout cache: DESIGN CHOICE, R21 leaves old or new
contents open (notes/assumptions/59.md). -/
def execHchk (gd : Guard) (d : PReg) (a : HReg) : State → Out :=
  control gd 4 false fun s => .done (s.wrP d (hcheck s (s.rdH a)))
def execHld (gd : Guard) (d : HReg) (a : SReg) (i : BitVec 9) : State → Out :=
  control gd 4 false fun s => Eff.ofChk s do
    let (n, e, h) ← hldHandle s (s.rdS a) i
    return .done ((cacheLt s s.who n e).wrH d h)
def execHget (gd : Guard) (d : SReg) (a : HReg) (f : Fin 256) : State → Out :=
  control gd 4 false fun s => .done (s.wrS d (BitVec.ofNat 64 (hget (s.rdH a) f)))
def execHset (gd : Guard) (d : HReg) (a : SReg) (f : Fin 256) : State → Out :=
  control gd 4 false fun s => Eff.ofChk s do
    let h ← hsetField (s.rdH d) f (s.rdS a).toNat
    return .done (s.wrH d h)
def execHoff (gd : Guard) (d : HReg) (a : SReg) (k : Fin 4) : State → Out :=
  control gd 4 false fun s => Eff.ofChk s do
    let h ← hoffset (s.rdH d) k (s.rdS a)
    return .done (s.wrH d h)
def execHslc (gd : Guard) (d : HReg) (a : SReg) (k : Fin 4) : State → Out :=
  control gd 4 false fun s => Eff.ofChk s do
    let h ← hslice (s.rdH d) k (s.rdS a)
    return .done (s.wrH d h)

end Sys2Proof.Machine
end

