-- ==== Sys2Proof/Machine/CsrInstr.lean ====
section
/-! DEFINITION. Writes of the control/status registers, each by its own rules; `csr.rd`, `csr.wr`, `csr.set`, `csr.clr` (R237); and the host's
writes through BAR 0 (R458). -/
namespace Sys2Proof.Machine

/-! ## Shared write rules (R6) -/

/-- The RW fields of register `n` of a written value. -/
def rwPart (n : Nat) (v : Word) : Word := v &&& BitVec.ofNat 64 ((regOf n).elim 0 (·.rw))

/-- A selector of a core: its RW fields, and REFUSED cleared by a written 1 (R456). -/
def wrSel (c n : Nat) (v : Word) (s : State) : State :=
  let old := look 0 (s.core c).sels n
  let refused := old &&& BitVec.ofNat 64 (2 ^ 63) &&& ~~~v
  s.setCore c { s.core c with sels := put (s.core c).sels n (rwPart n v ||| refused) }

/-- A count of 32 bits at bit `l`, cleared whole by a write with any 1 in it. -/
def clearCount (l : Nat) (v old : Word) : Word :=
  if bitsAt v.toNat l 32 = 0 then old else BitVec.ofNat 64 (setBits old.toNat l 32 0)

/-- ERR_DATA of a level (R438). -/
def wrErr (k : Nat) (v : Word) (s : State) : State :=
  if k = 7 then (if bitsAt v.toNat 0 32 = 0 then s else { s with hostLog := 0 })
  else if k ≤ 8 then { s with errs := put s.errs k (clearCount 32 v (clearCount 0 v (look 0 s.errs k))) }
  else s

/-! ## Writes -/

def wrTrap (c : Nat) (l : Leader) (n : Nat) (v : Word) (s : State) : Chk State :=
  let x := s.ctlOf c l
  match n with
  | 0x100 => .ok (s.setCtlOf c l { x with tvec := rwPart n v })
  | 0x101 => .ok (s.setCtlOf c l { x with tcause := rwPart n v })
  | 0x102 => .ok (s.setCtlOf c l { x with tpc := rwPart n v })
  | 0x103 => .ok (s.setCtlOf c l { x with tinfo := v })
  | 0x104 => .ok (s.setCtlOf c l { x with tscratch := v })
  | 0x105 => .ok (s.setCtlOf c l { x with ppriv := bitAt v.toNat 1, inh := bitAt v.toNat 2, step := bitAt v.toNat 3 })
  | 0x106 => wrJflush v s
  | 0x107 => .ok (wrEngCtl c v s)
  | 0x108 => .ok (wrEngTrapPc c .me v s)
  | 0x109 => .ok (wrEngTrapPc c .ve v s)
  | 0x10A => .ok (wrEngTrapPc c .cel v s)
  | 0x10B => .ok (wrEngTrapPc c .ces v s)
  | 0x110 => .ok (s.setCore c { s.core c with qtmo := v.toNat % 2 ^ 20 })
  | 0x111 => wrPreCtl v s
  | _ => .ok s

def wrCore (c : Nat) (l : Leader) (n : Nat) (v : Word) (s : State) : Chk State :=
  match n with
  | 0x180 =>
    let s := startTable (rwPart n v) s
    .ok (s.setCore c { s.core c with ascLtb := rwPart n v })
  | 0x181 => .ok (s.setCore c { s.core c with ascRoot := rwPart n v })
  | 0x188 => .ok { s with xltArg0 := rwPart n v }
  | 0x189 => .ok { s with xltArg1 := rwPart n v }
  | 0x18A => .ok (wrXltCmd v s)
  | 0x18B => .ok { s with xltOver := s.xltOver && !bitAt v.toNat 8 }
  | 0x1A0 => wrTtCfg c v s
  | 0x1C2 => .ok (s.setStr c (leaderStream l) { s.str c (leaderStream l) with mt := v.toNat % 4096 })
  | 0x1C5 => wrDmrGlobal v s
  | 0x1C9 => .ok (wrLicCtl c v s)
  | 0x1CC => .ok (wrSel c n v s)
  | 0x1CD => .ok (wrBgData (bgSel s c % 64) (bgSel s c / 64 % 32) v s)
  | 0x1CE => .ok (wrBgStatus (bgSel s c % 64) v s)
  | _ => .ok s

def wrEngine (c n : Nat) (v : Word) (s : State) : State :=
  let k := s.core c
  let cmpf := fun (e : Eng) => s.setSeqOf c e { s.seqOf c e with cmpf := rwPart n v }
  match n with
  | 0x1D0 => s.setCore c { k with meFlags := k.meFlags &&& (31 - v.toNat % 32) }
  | 0x1D2 => s.setCore c { k with veFlags := k.veFlags &&& (63 - v.toNat % 64) }
  | 0x1D4 => s.setCore c { k with rngMe := v }
  | 0x1D5 => s.setCore c { k with rngVe := v }
  | 0x1D8 => cmpf .me
  | 0x1D9 => cmpf .ve
  | 0x1DA => cmpf .cel
  | 0x1DB => cmpf .ces
  | 0x1DD => s.setCore c { k with seamH1 := v }
  | 0x1DE => s.setCore c { k with seamH2 := v }
  | 0x1DF => s.setCore c { k with seamN := v.toNat % 2 ^ 48 }
  | _ => s

def wrSched (c n : Nat) (v : Word) (s : State) : Chk State :=
  match n with
  | 0x1E0 => .ok (wrSel c n v s)
  | 0x1E1 => .ok (wrCpq c v s)
  | 0x1E2 => .ok (wrSel c n v s)
  | 0x1E3 => .ok (wrMbs c v s)
  | 0x1E4 => wrMbsVer v s
  | 0x1E5 => wrLstart v s
  | 0x1E6 => wrBobKeep (dieOf c) v s
  | 0x1E7 => wrBobSpill (dieOf c) v s
  | 0x1E8 => wrBobThr (dieOf c) v s
  | 0x1EB => wrMbsEnq v s
  | _ => .ok s

def wrFabric (c n : Nat) (v : Word) (s : State) : Chk State :=
  match n with
  | 0x200 => wrFabRing v s
  | 0x202 => .ok (wrSel c n v s)
  | 0x205 => .ok (wrGsCtl v s)
  | 0x208 => .ok (wrSel c n v s)
  | 0x20A => .ok { s with lnkCtl := rwPart n v }
  | 0x20C => .ok (wrSel c n v s)
  | 0x20D => .ok (wrMcg c v s)
  | 0x20E => .ok (wrSel c n v s)
  | 0x20F => .ok (wrFbt (selOf s c 0x20E % 64) v s)
  | 0x210 => .ok (wrSel c n v s)
  | 0x211 => .ok (wrSlt c v s)
  | 0x212 => .ok (wrSltCtl v s)
  | 0x218 => .ok (wrHostLink v s)
  | 0x219 => .ok { s with hwinBase := rwPart n v }
  | 0x21A => .ok { s with hwinCtl := rwPart n v }
  | 0x21B => wrEgrLim v s
  | 0x21C => wrPeerCtx v s
  | 0x21D => .ok { s with hwinRoot := rwPart n v }
  | 0x21E => .ok (if bitAt v.toNat 31 then { s with hregLog := s.hregLog &&& ~~~(BitVec.ofNat 64 (2 ^ 31)) } else s)
  | _ => .ok s

def wrSystem (c n : Nat) (v : Word) (s : State) : Chk State :=
  match n with
  | 0x221 => wrPwrCap v s
  | 0x222 => .ok { s with pwrStat := s.pwrStat &&& ~~~(v &&& BitVec.ofNat 64 (fieldAt 32 2)) }
  | 0x223 => .ok (wrSel c n v s)
  | 0x224 => .ok (wrPcls (selOf s c 0x223 % 8) v s)
  | 0x226 => wrDvfs (dieOf c) v s
  | 0x227 => .ok (wrSel c n v s)
  | 0x229 => wrThCtl v s
  | 0x22A => let w := s.tower (towerOf c); .ok (s.setTower (towerOf c) { w with thStat := w.thStat &&& ~~~(v &&& 7) })
  | 0x22B => .ok (wrErr (selOf s c 0x23F % 16) v s)
  | 0x230 => .ok (wrCkptCtl v s)
  | 0x231 => .ok { s with ckptMap := rwPart n v }
  | 0x234 => .ok (wrTsync v s)
  | 0x236 => wrTrcCtl c v s
  | 0x237 => .ok { s with trcStat := clearCount 32 v s.trcStat }
  | 0x238 => .ok { s with dbgCtl := rwPart n v }
  | 0x239 => .ok (wrDbgCmd v s)
  | 0x23A => .ok { s with dbgArg0 := v }
  | 0x23B => .ok { s with dbgArg1 := v }
  | 0x23C => .ok { s with dbgOver := s.dbgOver && !bitAt v.toNat 4 }
  | 0x23E => wrReplayCtl v s
  | 0x23F => .ok (wrSel c n v s)
  | _ => .ok s

/-- The write of register `n` by the executing control core, `l` of core `c`; a register with no writable field ignores it. -/
def writeReg (c : Nat) (l : Leader) (n : Nat) (v : Word) (s : State) : Chk State :=
  if n < 0x180 then wrTrap c l n v s else if n < 0x1D0 then wrCore c l n v s else if n < 0x1E0 then .ok (wrEngine c n v s)
  else if n < 0x200 then wrSched c n v s else if n < 0x220 then wrFabric c n v s else wrSystem c n v s

/-! ## The instructions (R237) -/

/-- The register's number and the access checked: ILLEGAL, then PRIV with the number. Both follow the guard: DESIGN CHOICE, R237 checks in the
effect, and R238 has an unassigned number decode as ILLEGAL (notes/assumptions/59.md). -/
def csrCheck (i : Instr) (n : Nat) (write : Bool) (s : State) : Chk Reg :=
  match regOf n with
  | none => fault .illegal (wordsInfo (encode i))
  | some r => do
    need (s.me.priv || (if write then r.jobWr else r.jobRd)) .priv n
    return r

/-- RWmask; the status word of a queue descriptor has no RW field. -/
def rwMask (n : Nat) (r : Reg) (s : State) : Word :=
  if n = 0x1E1 ∧ selOf s s.cc 0x1E0 / 64 % 4 = 3 then 0 else BitVec.ofNat 64 r.rw

/-- How a written register ends the instruction: a write that stopped the executing stream's own job leaves its state as it set it. -/
def csrEnd (t : State) : Eff := if t.myStr.st == .halt || t.myStr.st == .idle then .ended t else .done t

def csrRead (i : Instr) (d : SReg) (n : Nat) (s : State) : Eff := Eff.ofChk s do
  let _ ← csrCheck i n false s
  let v ← readReg s.cc s.cl n s
  return .done (s.wrS d (BitVec.ofNat 64 v))

def csrWrite (i : Instr) (n : Nat) (a : SReg) (s : State) : Eff := Eff.ofChk s do
  let _ ← csrCheck i n true s
  let t ← writeReg s.cc s.cl n (s.rdS a) s
  return csrEnd t

/-- `csr.set` and `csr.clr`: `f` gives the value written from RWmask, the old value and S(A). -/
def csrModify (i : Instr) (d a : SReg) (n : Nat) (f : Word → Word → Word → Word) (s : State) : Eff := Eff.ofChk s do
  let r ← csrCheck i n true s
  let v ← readReg s.cc s.cl n s
  let old := BitVec.ofNat 64 v
  let t ← writeReg s.cc s.cl n (f (rwMask n r s) old (s.rdS a)) s
  return csrEnd (t.wrS d old)

def execCsrRd (gd : Guard) (d : SReg) (n : Fin 4096) : State → Out := control gd 8 false (csrRead (.csrRd gd d n) d n.val)
def execCsrWr (gd : Guard) (n : Fin 4096) (a : SReg) : State → Out := control gd 8 false (csrWrite (.csrWr gd n a) n.val a)
def execCsrSet (gd : Guard) (d a : SReg) (n : Fin 4096) : State → Out :=
  control gd 8 false (csrModify (.csrSet gd d a n) d a n.val fun m old x => (old &&& m) ||| (x &&& m))
def execCsrClr (gd : Guard) (d a : SReg) (n : Fin 4096) : State → Out :=
  control gd 8 false (csrModify (.csrClr gd d a n) d a n.val fun m old x => (old &&& m) &&& ~~~x)

/-! ## A plain register (R6) -/

/-- Registers whose writes do nothing but change their own fields. -/
def plainReg (n : Nat) : Bool :=
  [0x100, 0x101, 0x102, 0x103, 0x104, 0x105, 0x110, 0x180, 0x181, 0x188, 0x189, 0x18B, 0x1C2, 0x1CC, 0x1CE, 0x1D0, 0x1D2, 0x1D4, 0x1D5, 0x1D8,
   0x1D9, 0x1DA, 0x1DB, 0x1DD, 0x1DE, 0x1DF, 0x1E0, 0x1E2, 0x202, 0x208, 0x20A, 0x20C, 0x20E, 0x210, 0x218, 0x219, 0x21A, 0x21D, 0x21E, 0x222,
   0x223, 0x227, 0x22A, 0x22B, 0x231, 0x237, 0x238, 0x23A, 0x23B, 0x23C, 0x23F].contains n

/-- The write of a register that has no behaviour of its own, by the executing control core at its level. -/
def execPlainRegisterWrite (n : Fin 4096) (v : Word) : State → Out :=
  regEvent n.val (!(regOf n.val).elim false (·.jobWr)) fun s => if plainReg n.val then writeReg s.cc s.cl n.val v s else .ok s

/-! ## The host's register window (R458) -/

/-- A discarded write, counted under LEVEL 8 and recorded. -/
def hostDiscard (c n : Nat) (half : Bool) (cause : Nat) (short : Bool) (s : State) : State :=
  countErr 8 0 { s with hregLog := BitVec.ofNat 64 (c + n * 2 ^ 10 + b2n half * 2 ^ 22 + cause * 2 ^ 23 + b2n short * 2 ^ 30 + 2 ^ 31) }

/-- A host write of `width` bytes at an offset of BAR 0. -/
def hostRegWrite (off width : Nat) (v : Word) (s : State) : State :=
  let half := decide (2 ^ 25 ≤ off)
  let c := off % 2 ^ 25 / 2 ^ 15
  let n := off % 2 ^ 15 / 8
  let l : Leader := if half then .ccc else .lcc
  if !hostUp s || decide (2 ^ 26 ≤ off) then s
  else if width ≠ 8 ∨ off % 8 ≠ 0 then hostDiscard c n half 0 true s
  else match regOf n with
    | none => s
    | some _ =>
      let r := writeReg c l n v { s with cur := (c, leaderStream l) }
      match r with
      | .ok t => { t with cur := s.cur }
      | .error t => hostDiscard c n half (causeCode t.cause) false s
/-- Bytes of BAR 0 as the host reads them: a register, or the half of one that a 4-byte read addresses; unassigned numbers and reads that a
register refuses give 0 (R458; notes/assumptions/50.md). -/
def hostRegRead (off n : Nat) (s : State) : Nat :=
  let c := off % 2 ^ 25 / 2 ^ 15
  let k := off % 2 ^ 15 / 8
  let l : Leader := if 2 ^ 25 ≤ off then .ccc else .lcc
  match regOf k with
  | none => 0
  | some _ => match readReg c l k { s with cur := (c, leaderStream l) } with
    | .ok v => bitsAt v (8 * (off % 8)) (8 * n)
    | .error _ => 0

/-- A host read by the BAR it addresses (R144, R401, R458). -/
def hostBarRead (bar : HostBar) (off n : Nat) (s : State) : State :=
  match bar with
  | .window => hostIf (inBar2 off n) (.read off n) s
  | .msix => if hostUp s && decide (off + n ≤ 4096) then emit (.hostReply ((List.range n).map fun k => msixByte s (off + k))) s else s
  | .regs =>
    if !hostUp s || decide (2 ^ 26 < off + n) then s
    else if (n = 8 ∧ off % 8 = 0) ∨ (n = 4 ∧ off % 4 = 0) then emit (.hostReply (leBytes n (hostRegRead off n s))) s
    else emit .hostUnsupported s
def execHostMemoryRead (off : BarAt) (n : Nat) : State → Out := event (hostBarRead off.bar off.off n)

def execHostRegWrite (off width : Nat) (v : Word) : State → Out := event (hostRegWrite off width v)

end Sys2Proof.Machine
end

