-- ==== Sys2Proof/Machine/SysInstr.lean ====
section
/-! DEFINITION. `trap`, `tret`, `brk`, `nop` (R240, R364), and context save and load with the context image (R241, R373, R374, R135, R330).
`Machine/Image` has the image's words and bytes. -/
namespace Sys2Proof.Machine

def execTrap (gd : Guard) (n : Fin 64) : State → Out := control gd 4 false fun s => .trap s ⟨.syscall n, 0⟩
/-- `tret`: a bad target traps at the `tret`; STEP is not taken for it (R364, R365). -/
def execTret (gd : Guard) : State → Out :=
  control gd 4 true fun s => Eff.ofChk s do
    let _ ← checkTarget (.tret gd) s.me.tpc.toNat
    return .ended (tretTo s)
def execBrk (gd : Guard) (n : Fin 64) : State → Out := control gd 4 false fun s => .trap s ⟨.brk, n.val⟩
def execNop (gd : Guard) : State → Out := control gd 4 false fun s => .done s

/-! ## The image's entry (R241) -/

/-- The operand and the entry: BOUNDS on reserved bits, an entry in use, PERMISSION on its space and its race mode, FORMAT on a reserved tag, whose
elements have no size (R44; notes/assumptions/59.md), BOUNDS on its size. -/
def imageEntry (v : Word) (s : State) : Chk (Nat × Entry) := do
  let x := v.toNat
  need (bitsAt x 22 42 == 0) .bounds
  let n := bitsAt x 10 12
  let e := ltEntry s s.who n
  need (entryOk s.who.ltb e) .translation (tinfo 0 0 4)
  need (eSpace e == 2 || eSpace e == 3) .permission (tinfo 0 (eSpace e) 0)
  need (eRelaxed e) .permission (tinfo 0 (eSpace e) 0)
  need (!isReserved (eFmt e)) .format (tinfo 0 (eSpace e) 5)
  need (decide (imgBytes * 8 ≤ eExt e 0 * esizeBits (eFmt e))) .bounds (tinfo 0 (eSpace e) 0)
  return (n, e)

/-- The image cut where the entry's addresses cross a page: offset and length of each piece. -/
def imagePieces (base : Nat) : List (Nat × Nat) :=
  let h := 65536 - base % 65536
  (0, h) :: (List.range 100).filterMap fun k =>
    let o := h + 65536 * k
    if o < imgBytes then some (o, Nat.min 65536 (imgBytes - o)) else none

/-- The pieces as the entry reaches them. -/
def imageLocs (n : Nat) (e : Entry) (a : Acc) : List (Nat × Nat) → M (List (Nat × Nat × Loc))
  | [] => pure []
  | (o, len) :: t => do
    let w := (← get).who
    let p ← liftC (placeAt (← get) w n e (eFmt e) [o * 8 / esizeBits (eFmt e), 0, 0, 0] a)
    let l ← resolve w p a
    let ls ← imageLocs n e a t
    return (o, len, l) :: ls

/-- Lines of 256 bytes of a piece sent home and dropped. -/
def pieceHome (t : Nat) (s : State) (x : Nat × Nat × Loc) : State :=
  (List.range (x.2.1 / 256 + 2)).foldl (fun s k => toHome t (x.2.2.flat + 256 * k) s) s

/-- The view of the 256-byte line of address `a` of a piece. -/
def pieceView (l : Loc) (a : Nat) : Option (Nat × Nat) := l.view.map fun v => (v.1, v.2 + (a / 256 - l.flat / 256) * 256)

/-- A piece's bytes written: zeros but for the cells given. -/
def writePiece (cells : List (Nat × Byte)) (s : State) (x : Nat × Nat × Loc) : State :=
  let (o, len, l) := x
  let s := (List.range (len / 256 + 2)).foldl (fun s k => if l.flat / 256 * 256 + 256 * k < l.flat + len then snoop (l.flat / 256 + k) s else s) s
  let s := clearRels l.flat len (clearMarks s.who.agent s.who.tower l.flat len (pieceHome s.who.tower s x))
  (List.range len).foldl (fun s k => physWr s (pieceView l (l.flat + k)) (l.flat + k) (look 0 cells (o + k))) s

/-- Byte `k` of the image as it stands in memory. -/
def pieceByte (s : State) (ls : List (Nat × Nat × Loc)) (k : Nat) : Byte :=
  match ls.find? fun x => decide (x.1 ≤ k ∧ k < x.1 + x.2.1) with
  | some (o, _, l) =>
    let a := l.flat + (k - o)
    physRd s (pieceView l a) a
  | none => 0

/-! ## `ctx.sv` -/

/-- May a target be saved: every stream IDLE, TRAP, HALT, or stopped by pre-emption; the executing core is not. -/
def canSave (s : State) (c : Nat) : Bool :=
  c != s.cc && !(s.core c).busy && allStreams.all fun x =>
    let m := s.str c x
    m.pstop || m.st == .idle || m.st == .trap || m.st == .halt

/-- The flat address of a unit of the cores' memories (R72). -/
def sramUnit (m : Nat × Nat) : Option Nat :=
  match m.1 with
  | 0 => some (imBase + m.2 * 8)
  | 1 => some (spmBase + m.2 * 8)
  | 2 => some (accBase + m.2 * 8)
  | 3 => some (wssBase + m.2 * 8)
  | _ => none

/-- Is a unit or a register that the image reads marked uncorrectable (R378)? -/
def contextMarked (s : State) (c : Nat) : Bool :=
  (s.core c).marked || !(s.pair (pairOf c)).gBad.isEmpty || s.marks.any fun m => (sramUnit m).any fun a =>
    (memSections c ++ [(0, 0x40000, imAt c 0)]).any fun x => decide (x.2.2 ≤ a ∧ a < x.2.2 + x.2.1)

/-- The key under which what an image has no room for is kept: its words 0 and 3 (notes/assumptions/12.md). -/
def sideKey (w0 w3 : Nat) : Nat := w0 * 2 ^ 64 + w3

def ctxSave (v : Word) : M Unit := do
  let s ← get
  let (n, e) ← liftC (imageEntry v s)
  let c := v.toNat % 1024
  needM (canSave s c) .permission
  if coreSent s c || s.msa.any fun r => r.core == c then waitM (.own 4)
  let ls ← imageLocs n e .store (imagePieces (eBase e))
  needM (!contextMarked s c) .uncorrectable
  modify fun s =>
    let s := suspendSlots c s
    let s := { s with ctxSide := put s.ctxSide (sideKey (nth 0 ((imageWords s c).map (·.2)) 0) (s.time % 2 ^ 64)) (s.core c) }
    let s := ls.foldl (writePiece (imageCells s c)) s
    s.setCore c { s.core c with saved := true }

def execCtxSv (gd : Guard) (a : SReg) : State → Out := control gd 4 true fun s => Eff.ofM (whole (ctxSave (s.rdS a))) s

/-! ## `ctx.ld` -/

/-- May a target be loaded: every stream IDLE, or every other stopped by pre-emption and saved since. -/
def canLoad (s : State) (c : Nat) : Bool :=
  (allStreams.all fun x => (s.str c x).st == .idle) ||
  ((s.core c).saved && allStreams.all fun x => let m := s.str c x; m.st == .idle || m.pstop)

/-- The tests of R374 on an image's words. -/
def imageOk (w : Nat → Nat) : Bool :=
  w 0 % 65536 == 1 && w 0 / 2 ^ 38 == 0 && ((List.range 4).all fun k => w (32 + 8 * k) == 0) &&
  ((List.range 64).all fun k =>
    let x := w (0x800 + 8 * k)
    !bitAt x 31 && !(bitsAt x 23 8 == 255 && x % 2 ^ 23 != 0) && x / 2 ^ 33 == 0) &&
  ([0x3000, 0x3800].all fun o => (List.range 32).all fun k =>
    let h := handleFrom (readWords w (o + 576 + 32 * k) 4)
    !hValid h || !isReserved (hFmt h)) &&
  ((List.range 6).all fun n => (queueFrom w n).all fun q => !isReserved q.tag)

/-- A control core from its stream's block and its file, with what `side` keeps. -/
def ctlFrom (w : Nat → Nat) (x : Stream) (file : Nat) (side : Ctl) : Ctl :=
  let b := 0x1000 + 0x400 * streamNo x
  let o := b + 8 * 44
  let ts := w (b + 48)
  { Ctl.reset with
    s := (List.range 64).foldl (fun t n => put t n (BitVec.ofNat 64 (w (file + 8 * n)))) []
    p := (List.range 8).foldl (fun t n => put t n (bitAt (w (file + 512 + 8 * n)) 0)) []
    h := (List.range 32).foldl (fun t n => put t n (handleFrom (readWords w (file + 576 + 32 * n) 4))) []
    tvec := rwPart 0x100 (BitVec.ofNat 64 (w (b + 56))), tcause := rwPart 0x101 (BitVec.ofNat 64 (w (b + 64)))
    tpc := rwPart 0x102 (BitVec.ofNat 64 (w (b + 72))), tinfo := BitVec.ofNat 64 (w (b + 80)), tscratch := BitVec.ofNat 64 (w (b + 88))
    priv := bitAt ts 0, ppriv := bitAt ts 1, inh := bitAt ts 2, step := bitAt ts 3, inTrap := w b % 8 == 3
    araV := bitAt (w o) 0, araG := w (o + 8) % 64, araPc := w (o + 16) % 2 ^ 18
    arr := (List.range 64).foldl (fun t g => put t g (bitAt (w (o + 24)) g)) []
    ticket := (List.range 64).foldl (fun t g => put t g (bitsAt (w (o + 32 + 8 * (g / 2))) (32 * (g % 2)) 32)) []
    starter := side.starter, pendPre := side.pendPre, pendEng := side.pendEng, pendGang := side.pendGang, pendDiv := side.pendDiv
    ans := side.ans, rdvF := side.rdvF }

/-- A stream from its block, with the releases it still holds (R111): its wait, if any, is entered again. -/
def strmFrom (w : Nat → Nat) (now : Nat) (x : Stream) (side : Strm) : Strm :=
  let b := 0x1000 + 0x400 * streamNo x
  let o := b + 8 * 12
  { st := stateFrom (w b % 8), inJob := bitAt (w (b + 16)) 0, job := if bitAt (w (b + 24)) 0 then .ccc else .lcc, pc := w (b + 32) % 2 ^ 18
    mt := w (b + 40) % 4096, pstop := bitAt (w (b + 8)) 0, wait := .none, since := now, relF := side.relF, seen := side.seen
    clk :=
      { rc := w o % 2 ^ 32, fr := frFrom (readWords w (o + 8) 17)
        clr := (readWords w (o + 8 * 18) 7).map fun v => if bitAt v 32 then some (v % 2 ^ 32) else none
        views := (readWords w (o + 8 * 25) 7).map (· % 2 ^ 32) } }

/-- The sixteen words of the record at `pc` in the image's instruction memory. -/
def imageRecord (w : Nat → Nat) (pc : Nat) : Option Instr :=
  decodeRecord ((List.range 16).map fun k => bitsAt (w ((0x600000 + pc + 4 * k) / 8 * 8)) (32 * ((pc / 4 + k) % 2)) 32)

/-- A run of instruction `i` with what an image keeps of it. -/
def runOf (i : Instr) (pc : Nat) (clk : Clock) : Run where
  instr := i
  pc := pc
  phase := .head
  tc := [1, 1, 1, 1]
  n := 0
  beat := 0
  hs := []
  cmpf := 0
  bval := 0
  carry := []
  qpos := [0, 0, 0, 0]
  status := 0
  bytes := 0
  total := 0
  miss := []
  acted := 0
  held := 0
  acks := []
  noteId := 0
  views := clk.views
  clr := clk.clr
  ans := .none
  flagLoc := none
  pass := none
  undo := []

/-- The restart issue in the machine's order of issues. -/
def issueAt (tc rst : List Nat) : Nat := (tc.zip rst).foldr (fun x n => n * x.1 + x.2) 0

/-- A saved record's flag as the target core has it: SPM is the core's own, a slab the tower's, another module's stays; one in memory is located
again when the record completes, since its page may have moved (R41, R241, R305). -/
def relocate (c : Nat) (l : Loc) : Option Loc :=
  if l.p.space = 0 then some { l with flat := spmAt c (l.flat % 2 ^ 22) }
  else if l.p.space = 1 then some { l with flat := wssAt (towerOf c) (l.flat % 2 ^ 28) }
  else if l.p.space = 6 then some l else none

/-- The record at a sequencer, from its words at `o`, the restart beat `beat` and the restart issue `rst`: a record at its checks makes them again,
and one whose last issues `last` are dumped goes on behind them. A `stash.get` finds its object's image again. -/
def runFrom (s : State) (c : Nat) (w : Nat → Nat) (o mt : Nat) (i : Instr) (pc beat : Nat) (rst : List Nat) (last : List Nat) (clk : Clock) : Run :=
  let tc := (List.range 4).map fun k => bitsAt (w (o + 160)) (16 * k) 16
  let total := if engineOf i = 0 then 0 else product tc
  { runOf i pc clk with
    phase := if beat = 0xFFF then .complete else if 0xFFD ≤ beat then .check else .licence, tc := tc, total := total
    n := if beat = 0xFFF then total else (last.map (· + 1)).foldl Nat.max (issueAt tc rst), beat := if 0xFFD ≤ beat then 0 else beat
    hs := (List.range 5).map fun k => handleFrom (readWords w (o + 32 * k) 4), bval := w (o + 168), cmpf := BitVec.ofNat 64 (w (o + 176))
    carry := match i with
      | .veScan _ => [w (o + 184)]
      | .stashGet r => if 0xFFD ≤ beat then [] else
          0 :: ((find (s.die (dieOf c)).objs (objKey mt (immOf r.c % 65536))).elim [] fun x => x.image.map (·.toNat))
      | _ => [] }

/-- The record that an image describes, with what `side` keeps of the same record. -/
def Run.withSide (a : Run) (c : Nat) : Option Run → Run
  | some b =>
    if b.instr = a.instr ∧ b.pc = a.pc ∧ trapBeat b = trapBeat a ∧ indices b.n b.tc = indices a.n a.tc then
      { b with hs := a.hs, bval := a.bval, cmpf := a.cmpf, views := a.views, clr := a.clr, flagLoc := b.flagLoc.bind (relocate c)
               carry := match a.instr with | .veScan _ => a.carry | _ => b.carry }
    else a
  | none => a

/-- Does an image come from another core? -/
def fromOther (c : Nat) (w : Nat → Nat) : Bool := bitsAt (w 0) 16 10 != c % 1024

/-- A record of `fab.coll` on another core: its chunk under way is a new one at the receiver, so it begins again (R330;
notes/assumptions/27.md). -/
def Run.anew (u : Run) : Run :=
  match u.instr with
  | .fabCollReduce _ => { u with beat := 0 }
  | .fabCollPut _ => { u with beat := 0 }
  | _ => u

/-- A sequencer from its block, with what `side` keeps; `last` are the issues of its dumped results. -/
def seqFrom (s : State) (c : Nat) (w : Nat → Nat) (cmpf : Nat) (last : List Nat) (e : Eng) (side : Seq) : Seq :=
  let b := 0x2800 + 0x200 * engNo e
  let t := w (b + 128)
  let x := strmFrom w s.time (engStream e) (Strm.reset)
  let rst := (List.range 4).map fun k => bitsAt (w (b + 136)) (16 * k) 16
  let beat := w (b + 144) % 2 ^ 32
  { b := (List.range 16).foldl (fun t k => put t k (w (b + 8 * k) % 65536)) [], cmpf := rwPart 0x1D8 (BitVec.ofNat 64 cmpf)
    tCause := t % 128, tValid := bitAt t 7, tPc := bitsAt t 8 18, tBeat := bitsAt t 26 12, rst := rst, tInfo := side.tInfo
    run := if beat = 0xFFE then none else
      (imageRecord w x.pc).map fun i =>
        let u := (runFrom s c w (b + 152) x.mt i x.pc beat rst last x.clk).withSide c side.run
        if fromOther c w then u.anew else u
    defer := side.defer.map fun u => { u with flagLoc := u.flagLoc.bind (relocate c) }
    bad := [] }

/-- A dumped result's location found again: its page is held by its pin (R369). -/
def dumpLoc (s : State) (c : Nat) (ltb root : Nat) (a addr : Nat) : Loc :=
  let sp := bitsAt a 16 3
  let lt := bitsAt a 40 12
  let p : Place := ⟨sp, lt, bitsAt a 32 8, addr, addr, (match bitsAt a 20 2 with | 2 => some false | 3 => some true | _ => none), bitsAt a 24 5,
    ltFresh s ltb lt, []⟩
  if sp = 0 then ⟨p, spmAt c addr, none, ctxId root⟩
  else if sp = 1 then ⟨p, wssAt (towerOf c) addr, none, ctxId root⟩
  else match walk s root addr with
    | some l => ⟨p, physOf l.pte l.size addr, viewOf s l.pte addr, ctxId root⟩
    | none => ⟨p, 0, none, ctxId root⟩

/-- A destination from its first word `a` and its place and value from `p` on, and where they end. -/
def destFrom (s : State) (c ltb root : Nat) (w : Nat → Nat) (a p : Nat) : Dest × Nat :=
  let x := w p
  let v := w (p + 8)
  match bitsAt a 3 3 with
  | 0 =>
    let n := v % 2 ^ 19
    if bitAt v 32 then (.acc (x % 2 ^ 19) (List.replicate n 0), p + 16)
    else (.acc (x % 2 ^ 19) (((readWords w (p + 16) ((n + 7) / 8)).flatMap (leBytes 8)).take n), p + 16 + (n + 7) / 8 * 8)
  | 1 => (.tag (x % 16) (v % 256), p + 16)
  | 2 => if bitsAt a 24 5 ≤ 8 then (.mem (dumpLoc s c ltb root a x) v, p + 16) else (.mem (dumpLoc s c ltb root a x) (v + w (p + 16) * 2 ^ 64), p + 24)
  | 3 => (.amax (x % 64) (BitVec.ofNat 64 v), p + 16)
  | 4 => (.flags (x == 1) (v % 64), p + 16)
  | _ => (.rng (x == 1) (BitVec.ofNat 64 v), p + 16)

/-- The dumped results from word `p` on, and where they end. -/
def dumpFrom (s : State) (c ltb root : Nat) (w : Nat → Nat) : Nat → Nat → List Result × Nat
  | 0, p => ([], p)
  | n + 1, p =>
    let (d, q) := destFrom s c ltb root w (w p) (p + 16)
    let (l, e) := dumpFrom s c ltb root w n q
    (⟨w p % 8, d, bitsAt (w p) 8 8, (match d with | .mem l _ => some (ltKey root l.p.lt) | _ => none), w (p + 8)⟩ :: l, e)

/-- A message slot from the image, or as `side` keeps it where the two agree; a collective's chunk under way begins again on another core. -/
def slotBack (other : Bool) (a b : Slot) : Slot :=
  let x := if a.st = b.st ∧ a.len = b.len ∧ a.mods.head? = b.mods.head? ∧ a.sent = b.sent then { b with tokens := [], susp := a.susp } else a
  if other && x.coll then { x with moved := x.moved / 65536 * 65536 } else x

/-- A bank's header. The image's scale bytes are the raw codes, and how they are read is the kind that `side` keeps, 0 without one: DESIGN CHOICE,
R373's bank header has no place for it (notes/assumptions/12.md). -/
def bankBack (a b : Bank) : Bank := { a with kind := if b.k = a.k ∧ b.n = a.n ∧ b.tag = a.tag then b.kind else 0 }

/-- A selector's fields: what it selects, and REFUSED (R456). -/
def selPart (n : Nat) (v : Word) : Word := rwPart n v ||| (v &&& BitVec.ofNat 64 (2 ^ 63))

/-- The core of an image, over the target core's own counters, with what `side` keeps of the saved core. -/
def coreFrom (s : State) (c : Nat) (w : Nat → Nat) (side : Core) : Core :=
  let k := s.core c
  let (dump, p) := dumpFrom s c (w 8) (w 16) w (Nat.min (w 0x30000) 2048) 0x30008
  let last := fun e => (dump.filter fun r => r.stream == streamNo (engStream e)).map (·.iss)
  let im := w 0x48
  { k with
    strm := allStreams.foldl (fun t x => put t (streamNo x) (strmFrom w s.time x (side.str x))) []
    lcc := ctlFrom w .lcc 0x3000 side.lcc, ccc := ctlFrom w .ccc 0x3800 side.ccc
    seqs := allEng.foldl (fun t e => put t (engNo e) (seqFrom s c w (w (0x70 + 8 * engNo e)) (last e) e (side.seq e))) []
    tk := (List.range 8).foldl (fun t n => put t n ((List.range (Nat.min (w (0x4000 + 8 * n)) 8)).map fun j => passFrom (readWords w (0x4100 + 2048 * n + 256 * j) 18))) []
    sem := (List.range 32).foldl (fun t n => put t n (w (0x9000 + 256 * n) % 65536, frFrom (readWords w (0x9008 + 256 * n) 17))) []
    q := (List.range 6).foldl (fun t n => put t n (queueFrom w n)) []
    mx := (List.range 64).foldl (fun t n => put t n (BitVec.ofNat 64 (w (0x800 + 8 * n)))) []
    ttCfg := rwPart 0x1A0 (BitVec.ofNat 64 (w 0x40)), loading := im % 16, ovl := (List.range 4).foldl (fun t r => put t r (bitsAt im (8 + 12 * r) 12)) []
    undef := [], meFlags := w 0x50 % 32, veFlags := w 0x58 % 64, rngMe := BitVec.ofNat 64 (w 0x60), rngVe := BitVec.ofNat 64 (w 0x68)
    seamH1 := BitVec.ofNat 64 (w 0x90), seamH2 := BitVec.ofNat 64 (w 0x98), seamN := w 0xA0 % 2 ^ 48, collInfo := BitVec.ofNat 64 (w 0xA8 % 2 ^ 26)
    race0 := BitVec.ofNat 64 (setBits (w 0xB0) 31 1 0), race1 := BitVec.ofNat 64 (w 0xB8 % 2 ^ 59), qtmo := w 0xC0 % 2 ^ 20
    unitTag := (List.range 16).foldl (fun t u => put t u (bitsAt (w (0xC8 + 8 * (u / 8))) (8 * (u % 8)) 8)) [], lent := w 0xD8 % 65536
    sels := (selNums.zip (List.range 11)).foldl (fun t x => put t x.1 (selPart x.1 (BitVec.ofNat 64 (w (0xE8 + 8 * x.2))))) []
    tt := (List.range 1024).foldl (fun t n => put t n (BitVec.ofNat 64 (w (0xE000 + 8 * n)))) []
    rr := (List.range 1024).foldl (fun t n => put t n (bitsAt (w (0x10000 + 8 * (n / 16))) (4 * (n % 16)) 4)) []
    slots := side.slots.foldl (fun t x => if 16 ≤ x.1 then put t x.1 x.2 else t)
      ((List.range 16).foldl (fun t n => put t n (slotBack (fromOther c w) (slotFrom w n) (look Slot.reset side.slots n))) [])
    banks := (List.range 2).foldl (fun t b => let o := 0x3C000 + 0x40 * b; put t b (bankBack ⟨w o, w (o + 8), w (o + 16), 0⟩ (look ⟨0, 0, 0, 0⟩ side.banks b))) []
    ascLtb := ltbPart (BitVec.ofNat 64 (w 8)), ascRoot := rootPart (BitVec.ofNat 64 (w 16)), dump := dump, flight := [], licHeld := bitAt (w p) 0
    busy := false, stopReq := false, saved := false }

/-- The pair after a load (R135): none where the load is refused. -/
def gusLoad (p : Pair) (ctx : Nat) (w : Nat → Nat) : Option Pair :=
  if !bitAt (w 0xB000) 0 || w 0xB008 % 4096 != ctx then some p
  else if !p.ownV then
    some { p with
      ownV := true, ownCtx := ctx
      g := (List.range 16).foldl (fun t n =>
        let o := 0xB100 + 256 * n
        put t n (BitVec.ofNat 64 (w o), gusPass (frFrom (readWords w (o + 8) 17)))) [] }
  else if p.ownCtx = ctx then some p
  else none

/-- A memory section copied from the image's bytes: a write of every line, so its marks go (R101), and the releases its bytes carried. -/
def loadSection (b : Nat → Byte) (s : State) (x : Nat × Nat × Nat) : State :=
  let s := clearRels x.2.2 x.2.1 s
  { s with
    mem := (List.range x.2.1).foldl (fun m k => memWr m (x.2.2 + k) (b (x.1 + k))) s.mem
    marks := s.marks.filter fun m => !(sramUnit m).any fun a => decide (x.2.2 ≤ a ∧ a < x.2.2 + x.2.1) }

/-- The image's bytes read without an uncorrectable error, or the trap at the first that is marked, with its address and space (R361, R362, R378). -/
def piecesRead (s : State) : List (Nat × Nat × Loc) → M Unit
  | [] => pure ()
  | (_, len, l) :: t => do
    match (List.range (len / 32 + 2)).find? fun k => 32 * k < len && !rangeOk s s.who.tower (l.flat + 32 * k) (Nat.min 32 (len - 32 * k)) with
    | some k => trapM .uncorrectable (tinfo (l.p.addr + 32 * k) l.p.space 0)
    | none => piecesRead s t

def ctxLoad (v : Word) : M Unit := do
  let s ← get
  let (n, e) ← liftC (imageEntry v s)
  let c := v.toNat % 1024
  needM (c != s.cc && canLoad s c) .permission
  let ls ← imageLocs n e .load (imagePieces (eBase e))
  modify fun s => ls.foldl (pieceHome s.who.tower) s
  let s ← get
  piecesRead s ls
  let b := pieceByte s ls
  let w := fun (k : Nat) => leNat ((List.range 8).map fun j => b (k + j))
  needM (imageOk w) .format
  match gusLoad (s.pair (pairOf c)) (bitsAt (w 0) 26 12) w with
  | none => trapM .permission
  | some p =>
    set (s.setPair (pairOf c) p)
    modify fun s =>
      let k := coreFrom s c w (look Core.reset s.ctxSide (sideKey (w 0) (w 24)))
      let s := (memSections c ++ [(0x600000, 0x40000, imAt c 0)]).foldl (loadSection b) (s.setCore c k)
      let s := { s with stamps := s.stamps.filter fun x => !(decide (spmAt c 0 / 64 ≤ x.1 ∧ x.1 < spmAt (c + 1) 0 / 64)) }
      if k.strm.any fun m => m.2.pstop then s else reannounce c s

def execCtxLd (gd : Guard) (a : SReg) : State → Out := control gd 4 true fun s => Eff.ofM (whole (ctxLoad (s.rdS a))) s

end Sys2Proof.Machine
end

