-- ==== Sys2Proof/Machine/Dispatch.lean ====
section
/-! DEFINITION. The one dispatch: each instruction, record operation and event to its meaning. -/
namespace Sys2Proof.Machine

def exec (i : Instr) (s : State) : Host.Outcome State Fault Refusal :=
  match i with
  | .add gd d a b => Sys2Proof.Machine.execAdd gd d a b s
  | .sub gd d a b => Sys2Proof.Machine.execSub gd d a b s
  | .mul gd d a b => Sys2Proof.Machine.execMul gd d a b s
  | .mulh gd d a b => Sys2Proof.Machine.execMulh gd d a b s
  | .mulhu gd d a b => Sys2Proof.Machine.execMulhu gd d a b s
  | .div gd d a b => Sys2Proof.Machine.execDiv gd d a b s
  | .divu gd d a b => Sys2Proof.Machine.execDivu gd d a b s
  | .rem gd d a b => Sys2Proof.Machine.execRem gd d a b s
  | .remu gd d a b => Sys2Proof.Machine.execRemu gd d a b s
  | .min gd d a b => Sys2Proof.Machine.execMin gd d a b s
  | .max gd d a b => Sys2Proof.Machine.execMax gd d a b s
  | .minu gd d a b => Sys2Proof.Machine.execMinu gd d a b s
  | .maxu gd d a b => Sys2Proof.Machine.execMaxu gd d a b s
  | .and gd d a b => Sys2Proof.Machine.execAnd gd d a b s
  | .or gd d a b => Sys2Proof.Machine.execOr gd d a b s
  | .xor gd d a b => Sys2Proof.Machine.execXor gd d a b s
  | .andn gd d a b => Sys2Proof.Machine.execAndn gd d a b s
  | .sll gd d a b => Sys2Proof.Machine.execSll gd d a b s
  | .srl gd d a b => Sys2Proof.Machine.execSrl gd d a b s
  | .sra gd d a b => Sys2Proof.Machine.execSra gd d a b s
  | .rol gd d a b => Sys2Proof.Machine.execRol gd d a b s
  | .clz gd d a => Sys2Proof.Machine.execClz gd d a s
  | .ctz gd d a => Sys2Proof.Machine.execCtz gd d a s
  | .popc gd d a => Sys2Proof.Machine.execPopc gd d a s
  | .brev gd d a => Sys2Proof.Machine.execBrev gd d a s
  | .bswap gd d a => Sys2Proof.Machine.execBswap gd d a s
  | .cmpEq gd d a b => Sys2Proof.Machine.execCmpEq gd d a b s
  | .cmpNe gd d a b => Sys2Proof.Machine.execCmpNe gd d a b s
  | .cmpLt gd d a b => Sys2Proof.Machine.execCmpLt gd d a b s
  | .cmpGe gd d a b => Sys2Proof.Machine.execCmpGe gd d a b s
  | .cmpLtu gd d a b => Sys2Proof.Machine.execCmpLtu gd d a b s
  | .cmpGeu gd d a b => Sys2Proof.Machine.execCmpGeu gd d a b s
  | .pand gd d a b => Sys2Proof.Machine.execPand gd d a b s
  | .por gd d a b => Sys2Proof.Machine.execPor gd d a b s
  | .pxor gd d a b => Sys2Proof.Machine.execPxor gd d a b s
  | .pandn gd d a b => Sys2Proof.Machine.execPandn gd d a b s
  | .pnot gd d a => Sys2Proof.Machine.execPnot gd d a s
  | .pget gd d a => Sys2Proof.Machine.execPget gd d a s
  | .pset gd d a => Sys2Proof.Machine.execPset gd d a s
  | .sel gd f d a b => Sys2Proof.Machine.execSel gd f d a b s
  | .jr gd a => Sys2Proof.Machine.execJr gd a s
  | .jalr gd d a => Sys2Proof.Machine.execJalr gd d a s
  | .addi gd d a im => Sys2Proof.Machine.execAddi gd d a im s
  | .andi gd d a im => Sys2Proof.Machine.execAndi gd d a im s
  | .ori gd d a im => Sys2Proof.Machine.execOri gd d a im s
  | .xori gd d a im => Sys2Proof.Machine.execXori gd d a im s
  | .slli gd d a im => Sys2Proof.Machine.execSlli gd d a im s
  | .srli gd d a im => Sys2Proof.Machine.execSrli gd d a im s
  | .srai gd d a im => Sys2Proof.Machine.execSrai gd d a im s
  | .muli gd d a im => Sys2Proof.Machine.execMuli gd d a im s
  | .cmpi gd k d a im => Sys2Proof.Machine.execCmpi gd k d a im s
  | .dbnz gd d im => Sys2Proof.Machine.execDbnz gd d im s
  | .br gd o => Sys2Proof.Machine.execBr gd o s
  | .call gd o => Sys2Proof.Machine.execCall gd o s
  | .hmov gd d a => Sys2Proof.Machine.execHmov gd d a s
  | .hbind gd d a b => Sys2Proof.Machine.execHbind gd d a b s
  | .hunb gd d a => Sys2Proof.Machine.execHunb gd d a s
  | .hchk gd d a => Sys2Proof.Machine.execHchk gd d a s
  | .hld gd d a im => Sys2Proof.Machine.execHld gd d a im s
  | .hget gd d a f => Sys2Proof.Machine.execHget gd d a f s
  | .hset gd d a f => Sys2Proof.Machine.execHset gd d a f s
  | .hoff gd d a k => Sys2Proof.Machine.execHoff gd d a k s
  | .hslc gd d a k => Sys2Proof.Machine.execHslc gd d a k s
  | .ld gd d m => Sys2Proof.Machine.execLd gd d m s
  | .st gd d m => Sys2Proof.Machine.execSt gd d m s
  | .updAdd gd d m => Sys2Proof.Machine.execUpdAdd gd d m s
  | .updMin gd d m => Sys2Proof.Machine.execUpdMin gd d m s
  | .updMax gd d m => Sys2Proof.Machine.execUpdMax gd d m s
  | .msaAdd gd d m => Sys2Proof.Machine.execMsaAdd gd d m s
  | .msaMax gd d m => Sys2Proof.Machine.execMsaMax gd d m s
  | .msaMin gd d m => Sys2Proof.Machine.execMsaMin gd d m s
  | .lpin gd d m => Sys2Proof.Machine.execLpin gd d m s
  | .lunpin gd d m => Sys2Proof.Machine.execLunpin gd d m s
  | .tlk gd d m => Sys2Proof.Machine.execTlk gd d m s
  | .tlkM gd d m => Sys2Proof.Machine.execTlkM gd d m s
  | .tins gd d m => Sys2Proof.Machine.execTins gd d m s
  | .tevc gd d a => Sys2Proof.Machine.execTevc gd d a s
  | .gld gd d a => Sys2Proof.Machine.execGld gd d a s
  | .gst gd d a => Sys2Proof.Machine.execGst gd d a s
  | .gswp gd d a b => Sys2Proof.Machine.execGswp gd d a b s
  | .gadd gd d a b => Sys2Proof.Machine.execGadd gd d a b s
  | .gcas gd d a b => Sys2Proof.Machine.execGcas gd d a b s
  | .semSig gd a n => Sys2Proof.Machine.execSemSig gd a n s
  | .semWait gd a n => Sys2Proof.Machine.execSemWait gd a n s
  | .semRd gd d a => Sys2Proof.Machine.execSemRd gd d a s
  | .tkPush gd a => Sys2Proof.Machine.execTkPush gd a s
  | .tkPop gd a => Sys2Proof.Machine.execTkPop gd a s
  | .tkCnt gd d a => Sys2Proof.Machine.execTkCnt gd d a s
  | .semaphoreWaitEnd c x => Sys2Proof.Machine.execSemaphoreWaitEnd c x s
  | .tokenWaitEnd c x => Sys2Proof.Machine.execTokenWaitEnd c x s
  | .barArv gd a => Sys2Proof.Machine.execBarArv gd a s
  | .barWait gd a => Sys2Proof.Machine.execBarWait gd a s
  | .barAra gd a => Sys2Proof.Machine.execBarAra gd a s
  | .barrierWaitEnd c x => Sys2Proof.Machine.execBarrierWaitEnd c x s
  | .licAcq gd => Sys2Proof.Machine.execLicAcq gd s
  | .licRel gd => Sys2Proof.Machine.execLicRel gd s
  | .licenceDrainEnd p => Sys2Proof.Machine.execLicenceDrainEnd p s
  | .licenceHandoverEnd p => Sys2Proof.Machine.execLicenceHandoverEnd p s
  | .engStart gd a m => Sys2Proof.Machine.execEngStart gd a m s
  | .rdv gd => Sys2Proof.Machine.execRdv gd s
  | .rdvComplete c x => Sys2Proof.Machine.execRdvComplete c x s
  | .jend gd => Sys2Proof.Machine.execJend gd s
  | .bndMe gd k a => Sys2Proof.Machine.execBndMe gd k a s
  | .bndVe gd k a => Sys2Proof.Machine.execBndVe gd k a s
  | .bndCel gd k a => Sys2Proof.Machine.execBndCel gd k a s
  | .bndCes gd k a => Sys2Proof.Machine.execBndCes gd k a s
  | .fenceAcq gd e => Sys2Proof.Machine.execFenceAcq gd e s
  | .fenceRel gd e => Sys2Proof.Machine.execFenceRel gd e s
  | .fenceFull gd e => Sys2Proof.Machine.execFenceFull gd e s
  | .fenceMsa gd e => Sys2Proof.Machine.execFenceMsa gd e s
  | .releaseComplete c x => Sys2Proof.Machine.execReleaseComplete c x s
  | .mxRd gd d a => Sys2Proof.Machine.execMxRd gd d a s
  | .mxWr gd d a => Sys2Proof.Machine.execMxWr gd d a s
  | .mxClr gd d => Sys2Proof.Machine.execMxClr gd d s
  | .mxUpd gd d a => Sys2Proof.Machine.execMxUpd gd d a s
  | .timeRd gd d => Sys2Proof.Machine.execTimeRd gd d s
  | .trap gd n => Sys2Proof.Machine.execTrap gd n s
  | .tret gd => Sys2Proof.Machine.execTret gd s
  | .brk gd n => Sys2Proof.Machine.execBrk gd n s
  | .ctxSv gd a => Sys2Proof.Machine.execCtxSv gd a s
  | .ctxLd gd a => Sys2Proof.Machine.execCtxLd gd a s
  | .nop gd => Sys2Proof.Machine.execNop gd s
  | .li gd d v => Sys2Proof.Machine.execLi gd d v s
  | .lih gd d a v => Sys2Proof.Machine.execLih gd d a v s
  | .addl gd d a v => Sys2Proof.Machine.execAddl gd d a v s
  | .ext gd d a pos w1 => Sys2Proof.Machine.execExt gd d a pos w1 s
  | .extu gd d a pos w1 => Sys2Proof.Machine.execExtu gd d a pos w1 s
  | .dep gd d a pos w1 => Sys2Proof.Machine.execDep gd d a pos w1 s
  | .brl gd o => Sys2Proof.Machine.execBrl gd o s
  | .calll gd o => Sys2Proof.Machine.execCalll gd o s
  | .cmpl gd k d a v => Sys2Proof.Machine.execCmpl gd k d a v s
  | .ldOrd gd o e d m => Sys2Proof.Machine.execLdOrd gd o e d m s
  | .stOrd gd o e m a => Sys2Proof.Machine.execStOrd gd o e m a s
  | .atomAdd gd o e d m a => Sys2Proof.Machine.execAtomAdd gd o e d m a s
  | .atomAnd gd o e d m a => Sys2Proof.Machine.execAtomAnd gd o e d m a s
  | .atomOr gd o e d m a => Sys2Proof.Machine.execAtomOr gd o e d m a s
  | .atomXor gd o e d m a => Sys2Proof.Machine.execAtomXor gd o e d m a s
  | .atomMin gd o e d m a => Sys2Proof.Machine.execAtomMin gd o e d m a s
  | .atomMax gd o e d m a => Sys2Proof.Machine.execAtomMax gd o e d m a s
  | .atomMinu gd o e d m a => Sys2Proof.Machine.execAtomMinu gd o e d m a s
  | .atomMaxu gd o e d m a => Sys2Proof.Machine.execAtomMaxu gd o e d m a s
  | .atomSwp gd o e d m a => Sys2Proof.Machine.execAtomSwp gd o e d m a s
  | .atomCas gd o e d m a b => Sys2Proof.Machine.execAtomCas gd o e d m a b s
  | .waddr gd k e d m a => Sys2Proof.Machine.execWaddr gd k e d m a s
  | .waddrReevaluate c x => Sys2Proof.Machine.execWaddrReevaluate c x s
  | .qClaim gd e d m a => Sys2Proof.Machine.execQClaim gd e d m a s
  | .qRing gd e m a => Sys2Proof.Machine.execQRing gd e m a s
  | .csrRd gd d n => Sys2Proof.Machine.execCsrRd gd d n s
  | .csrWr gd n a => Sys2Proof.Machine.execCsrWr gd n a s
  | .csrSet gd d a n => Sys2Proof.Machine.execCsrSet gd d a n s
  | .csrClr gd d a n => Sys2Proof.Machine.execCsrClr gd d a n s
  | .plainRegisterWrite n v => Sys2Proof.Machine.execPlainRegisterWrite n v s
  | .recordHead c e => Sys2Proof.Machine.execRecordHead c e s
  | .recordEntry c e => Sys2Proof.Machine.execRecordEntry c e s
  | .recordOperandRead c e => Sys2Proof.Machine.execRecordOperandRead c e s
  | .recordIssue c e => Sys2Proof.Machine.execRecordIssue c e s
  | .recordCompletion c e => Sys2Proof.Machine.execRecordCompletion c e s
  | .reservationArbitrate k => Sys2Proof.Machine.execReservationArbitrate k s
  | .seqEnd r => Sys2Proof.Machine.execSeqEnd r s
  | .seqWait r => Sys2Proof.Machine.execSeqWait r s
  | .seqJmp r => Sys2Proof.Machine.execSeqJmp r s
  | .seqJz r => Sys2Proof.Machine.execSeqJz r s
  | .seqJnz r => Sys2Proof.Machine.execSeqJnz r s
  | .meMma r => Sys2Proof.Machine.execMeMma r s
  | .meCmma r => Sys2Proof.Machine.execMeCmma r s
  | .meClr r => Sys2Proof.Machine.execMeClr r s
  | .meBld r => Sys2Proof.Machine.execMeBld r s
  | .meDrn r => Sys2Proof.Machine.execMeDrn r s
  | .meDrq r => Sys2Proof.Machine.execMeDrq r s
  | .meFragLend r => Sys2Proof.Machine.execMeFragLend r s
  | .meFragReclaim r => Sys2Proof.Machine.execMeFragReclaim r s
  | .meAld r => Sys2Proof.Machine.execMeAld r s
  | .meAst r => Sys2Proof.Machine.execMeAst r s
  | .meSbw r => Sys2Proof.Machine.execMeSbw r s
  | .veAdd r => Sys2Proof.Machine.execVeAdd r s
  | .veSub r => Sys2Proof.Machine.execVeSub r s
  | .veMul r => Sys2Proof.Machine.execVeMul r s
  | .veMin r => Sys2Proof.Machine.execVeMin r s
  | .veMax r => Sys2Proof.Machine.execVeMax r s
  | .veAnd r => Sys2Proof.Machine.execVeAnd r s
  | .veOr r => Sys2Proof.Machine.execVeOr r s
  | .veXor r => Sys2Proof.Machine.execVeXor r s
  | .veShl r => Sys2Proof.Machine.execVeShl r s
  | .veShr r => Sys2Proof.Machine.execVeShr r s
  | .veAbs r => Sys2Proof.Machine.execVeAbs r s
  | .veFadd r => Sys2Proof.Machine.execVeFadd r s
  | .veFsub r => Sys2Proof.Machine.execVeFsub r s
  | .veFmul r => Sys2Proof.Machine.execVeFmul r s
  | .veFma r => Sys2Proof.Machine.execVeFma r s
  | .veFmin r => Sys2Proof.Machine.execVeFmin r s
  | .veFmax r => Sys2Proof.Machine.execVeFmax r s
  | .veFabs r => Sys2Proof.Machine.execVeFabs r s
  | .veFneg r => Sys2Proof.Machine.execVeFneg r s
  | .veExp2 r => Sys2Proof.Machine.execVeExp2 r s
  | .veLog2 r => Sys2Proof.Machine.execVeLog2 r s
  | .veRcp r => Sys2Proof.Machine.execVeRcp r s
  | .veRsqrt r => Sys2Proof.Machine.execVeRsqrt r s
  | .veSqrt r => Sys2Proof.Machine.execVeSqrt r s
  | .veTanh r => Sys2Proof.Machine.execVeTanh r s
  | .veSin r => Sys2Proof.Machine.execVeSin r s
  | .veCos r => Sys2Proof.Machine.execVeCos r s
  | .veCvt r => Sys2Proof.Machine.execVeCvt r s
  | .veQuant r => Sys2Proof.Machine.execVeQuant r s
  | .veDequant r => Sys2Proof.Machine.execVeDequant r s
  | .veAmax r => Sys2Proof.Machine.execVeAmax r s
  | .veRsum r => Sys2Proof.Machine.execVeRsum r s
  | .veRmax r => Sys2Proof.Machine.execVeRmax r s
  | .veRmin r => Sys2Proof.Machine.execVeRmin r s
  | .veScan r => Sys2Proof.Machine.execVeScan r s
  | .veRsumsq r => Sys2Proof.Machine.execVeRsumsq r s
  | .veCmp r => Sys2Proof.Machine.execVeCmp r s
  | .veSel r => Sys2Proof.Machine.execVeSel r s
  | .veAcs r => Sys2Proof.Machine.execVeAcs r s
  | .vePerm r => Sys2Proof.Machine.execVePerm r s
  | .veTrn r => Sys2Proof.Machine.execVeTrn r s
  | .veBcast r => Sys2Proof.Machine.execVeBcast r s
  | .veGath r => Sys2Proof.Machine.execVeGath r s
  | .veScat r => Sys2Proof.Machine.execVeScat r s
  | .veRng r => Sys2Proof.Machine.execVeRng r s
  | .veIota r => Sys2Proof.Machine.execVeIota r s
  | .ceCp r => Sys2Proof.Machine.execCeCp r s
  | .ceLq r => Sys2Proof.Machine.execCeLq r s
  | .ceFill r => Sys2Proof.Machine.execCeFill r s
  | .ceOvl r => Sys2Proof.Machine.execCeOvl r s
  | .ceFlag r => Sys2Proof.Machine.execCeFlag r s
  | .ceCpx r => Sys2Proof.Machine.execCeCpx r s
  | .fabPint r => Sys2Proof.Machine.execFabPint r s
  | .fabSend r => Sys2Proof.Machine.execFabSend r s
  | .fabWr r => Sys2Proof.Machine.execFabWr r s
  | .fabAtom r => Sys2Proof.Machine.execFabAtom r s
  | .fabReq r => Sys2Proof.Machine.execFabReq r s
  | .fabCollSeed r => Sys2Proof.Machine.execFabCollSeed r s
  | .fabCollReduce r => Sys2Proof.Machine.execFabCollReduce r s
  | .fabCollPut r => Sys2Proof.Machine.execFabCollPut r s
  | .fabCollCommit r => Sys2Proof.Machine.execFabCollCommit r s
  | .fabSeamAccum r => Sys2Proof.Machine.execFabSeamAccum r s
  | .fabSeamVote r => Sys2Proof.Machine.execFabSeamVote r s
  | .fabMcast r => Sys2Proof.Machine.execFabMcast r s
  | .fabPrio r => Sys2Proof.Machine.execFabPrio r s
  | .fabTkr r => Sys2Proof.Machine.execFabTkr r s
  | .stashPut r => Sys2Proof.Machine.execStashPut r s
  | .stashGet r => Sys2Proof.Machine.execStashGet r s
  | .stashDrop r => Sys2Proof.Machine.execStashDrop r s
  | .stashPf r => Sys2Proof.Machine.execStashPf r s
  | .bobbinOffload k => Sys2Proof.Machine.execBobbinOffload k s
  | .deviceReset => Sys2Proof.Machine.execDeviceReset s
  | .auxPowerLoss => Sys2Proof.Machine.execAuxPowerLoss s
  | .patrolScrub level unit r => Sys2Proof.Machine.execPatrolScrub level unit r s
  | .translationWalk c x va => Sys2Proof.Machine.execTranslationWalk c x va s
  | .unmap => Sys2Proof.Machine.execUnmap s
  | .unmapDone => Sys2Proof.Machine.execUnmapDone s
  | .migrateBegin => Sys2Proof.Machine.execMigrateBegin s
  | .migrateBeginDone => Sys2Proof.Machine.execMigrateBeginDone s
  | .migrateEnd => Sys2Proof.Machine.execMigrateEnd s
  | .migrateAbort => Sys2Proof.Machine.execMigrateAbort s
  | .flushCtx => Sys2Proof.Machine.execFlushCtx s
  | .flushCtxDone => Sys2Proof.Machine.execFlushCtxDone s
  | .ltInval => Sys2Proof.Machine.execLtInval s
  | .badcmd op => Sys2Proof.Machine.execBadcmd op s
  | .updateLineMerge t line => Sys2Proof.Machine.execUpdateLineMerge t line s
  | .msaApply n => Sys2Proof.Machine.execMsaApply n s
  | .keySlotLoad k key => Sys2Proof.Machine.execKeySlotLoad k key s
  | .keySlotUnload k => Sys2Proof.Machine.execKeySlotUnload k s
  | .ttCfgWrite v => Sys2Proof.Machine.execTtCfgWrite v s
  | .dmrGlobalWrite v => Sys2Proof.Machine.execDmrGlobalWrite v s
  | .bgDataWrite v => Sys2Proof.Machine.execBgDataWrite v s
  | .licCtlWrite v => Sys2Proof.Machine.execLicCtlWrite v s
  | .lstartWrite v => Sys2Proof.Machine.execLstartWrite v s
  | .leaderStart c x => Sys2Proof.Machine.execLeaderStart c x s
  | .cpqDataWrite v => Sys2Proof.Machine.execCpqDataWrite v s
  | .queueEnable t q => Sys2Proof.Machine.execQueueEnable t q s
  | .doorbell t q => Sys2Proof.Machine.execDoorbell t q s
  | .waitPacketPoll t q => Sys2Proof.Machine.execWaitPacketPoll t q s
  | .packetComplete t q n => Sys2Proof.Machine.execPacketComplete t q n s
  | .gangRootTimeout g id => Sys2Proof.Machine.execGangRootTimeout g id s
  | .gangMemberTimeout g id => Sys2Proof.Machine.execGangMemberTimeout g id s
  | .mbsDataWrite v => Sys2Proof.Machine.execMbsDataWrite v s
  | .mbsEnqWrite v => Sys2Proof.Machine.execMbsEnqWrite v s
  | .mbsVerWrite v => Sys2Proof.Machine.execMbsVerWrite v s
  | .mbsEvaluate => Sys2Proof.Machine.execMbsEvaluate s
  | .mbsJobEnd s0 k tag => Sys2Proof.Machine.execMbsJobEnd s0 k tag s
  | .bobKeepWrite v => Sys2Proof.Machine.execBobKeepWrite v s
  | .bobSpillWrite v => Sys2Proof.Machine.execBobSpillWrite v s
  | .bobThrWrite v => Sys2Proof.Machine.execBobThrWrite v s
  | .engineTrapDeliver c x => Sys2Proof.Machine.execEngineTrapDeliver c x s
  | .engCtlResume m => Sys2Proof.Machine.execEngCtlResume m s
  | .engTrapPcWrite e pc => Sys2Proof.Machine.execEngTrapPcWrite e pc s
  | .preemptStop c => Sys2Proof.Machine.execPreemptStop c s
  | .preemptStopDone c => Sys2Proof.Machine.execPreemptStopDone c s
  | .preemptNotify c => Sys2Proof.Machine.execPreemptNotify c s
  | .preemptResume c => Sys2Proof.Machine.execPreemptResume c s
  | .dumpReinject c => Sys2Proof.Machine.execDumpReinject c s
  | .queueTimeout c x => Sys2Proof.Machine.execQueueTimeout c x s
  | .jflushWrite v => Sys2Proof.Machine.execJflushWrite v s
  | .remoteOrphan id => Sys2Proof.Machine.execRemoteOrphan id s
  | .tokenExpiry c k src n => Sys2Proof.Machine.execTokenExpiry c k src n s
  | .remoteWrite m => Sys2Proof.Machine.execRemoteWrite m s
  | .remoteAtomic m op x y => Sys2Proof.Machine.execRemoteAtomic m op x y s
  | .ack id status => Sys2Proof.Machine.execAck id status s
  | .intent im n => Sys2Proof.Machine.execIntent im n s
  | .intentResend c k => Sys2Proof.Machine.execIntentResend c k s
  | .grant c k src ep n ex => Sys2Proof.Machine.execGrant c k src ep n ex s
  | .grantSchedule => Sys2Proof.Machine.execGrantSchedule s
  | .chunkArrive im n p => Sys2Proof.Machine.execChunkArrive im n p s
  | .tokenAbandon im n => Sys2Proof.Machine.execTokenAbandon im n s
  | .returnTok im n => Sys2Proof.Machine.execReturnTok im n s
  | .suspend im ns => Sys2Proof.Machine.execSuspend im ns s
  | .cancel im => Sys2Proof.Machine.execCancel im s
  | .messageWithdraw im => Sys2Proof.Machine.execMessageWithdraw im s
  | .withdraw c k ep => Sys2Proof.Machine.execWithdraw c k ep s
  | .arrive g src => Sys2Proof.Machine.execArrive g src s
  | .complete g gen => Sys2Proof.Machine.execComplete g gen s
  | .prepared g id src => Sys2Proof.Machine.execPrepared g id src s
  | .decision g id commit => Sys2Proof.Machine.execDecision g id commit s
  | .vote v => Sys2Proof.Machine.execVote v s
  | .voteRootTimeout => Sys2Proof.Machine.execVoteRootTimeout s
  | .result step d mask => Sys2Proof.Machine.execResult step d mask s
  | .voteResultTimeout => Sys2Proof.Machine.execVoteResultTimeout s
  | .flitCrcFail l => Sys2Proof.Machine.execFlitCrcFail l s
  | .linkRetrain l good => Sys2Proof.Machine.execLinkRetrain l good s
  | .laneSample l n cerr margin => Sys2Proof.Machine.execLaneSample l n cerr margin s
  | .lanePropose l n q => Sys2Proof.Machine.execLanePropose l n q s
  | .laneAck l n q => Sys2Proof.Machine.execLaneAck l n q s
  | .laneNak l n q => Sys2Proof.Machine.execLaneNak l n q s
  | .laneProposeTimeout l => Sys2Proof.Machine.execLaneProposeTimeout l s
  | .selvedgeSwap l => Sys2Proof.Machine.execSelvedgeSwap l s
  | .fabRingWrite v => Sys2Proof.Machine.execFabRingWrite v s
  | .gsCtlWrite v => Sys2Proof.Machine.execGsCtlWrite v s
  | .mcgDataWrite v => Sys2Proof.Machine.execMcgDataWrite v s
  | .fbtDataWrite v => Sys2Proof.Machine.execFbtDataWrite v s
  | .sltDataWrite v => Sys2Proof.Machine.execSltDataWrite v s
  | .sltSwap => Sys2Proof.Machine.execSltSwap s
  | .slotBankChange => Sys2Proof.Machine.execSlotBankChange s
  | .egrLimWrite v => Sys2Proof.Machine.execEgrLimWrite v s
  | .peerCtxWrite v => Sys2Proof.Machine.execPeerCtxWrite v s
  | .hostLinkTrain gen width cxl2 cxl3 => Sys2Proof.Machine.execHostLinkTrain gen width cxl2 cxl3 s
  | .hostPostedWrite off bs relaxed => Sys2Proof.Machine.execHostPostedWrite off bs relaxed s
  | .hostMemoryRead off n => Sys2Proof.Machine.execHostMemoryRead off n s
  | .hostAtomicop off op wide x y => Sys2Proof.Machine.execHostAtomicop off op wide x y s
  | .cxlMemWrite off bs => Sys2Proof.Machine.execCxlMemWrite off bs s
  | .cxlMemRead off n => Sys2Proof.Machine.execCxlMemRead off n s
  | .hostRegWrite off width v => Sys2Proof.Machine.execHostRegWrite off width v s
  | .hostCompletion c x r => Sys2Proof.Machine.execHostCompletion c x r s
  | .hostCompletionTimeout c x => Sys2Proof.Machine.execHostCompletionTimeout c x s
  | .dvfsCtlWrite v => Sys2Proof.Machine.execDvfsCtlWrite v s
  | .dvfsTransitionEnd k => Sys2Proof.Machine.execDvfsTransitionEnd k s
  | .governorSample p10 p1s => Sys2Proof.Machine.execGovernorSample p10 p1s s
  | .thermalSample t rd => Sys2Proof.Machine.execThermalSample t rd s
  | .pwrCapWrite v => Sys2Proof.Machine.execPwrCapWrite v s
  | .pclsDataWrite v => Sys2Proof.Machine.execPclsDataWrite v s
  | .thCtlWrite v => Sys2Proof.Machine.execThCtlWrite v s
  | .ckptStart => Sys2Proof.Machine.execCkptStart s
  | .ckptQuiesceDone => Sys2Proof.Machine.execCkptQuiesceDone s
  | .ckptWriteDone => Sys2Proof.Machine.execCkptWriteDone s
  | .ckptRestore => Sys2Proof.Machine.execCkptRestore s
  | .timeSyncSend => Sys2Proof.Machine.execTimeSyncSend s
  | .timeMessage t => Sys2Proof.Machine.execTimeMessage t s
  | .trcCtlWrite v => Sys2Proof.Machine.execTrcCtlWrite v s
  | .dbgHalt src c all => Sys2Proof.Machine.execDbgHalt src c all s
  | .dbgResume src c all => Sys2Proof.Machine.execDbgResume src c all s
  | .dbgHaltAt src t => Sys2Proof.Machine.execDbgHaltAt src t s
  | .haltAtTrigger => Sys2Proof.Machine.execHaltAtTrigger s
  | .dbgHaltSc src c n => Sys2Proof.Machine.execDbgHaltSc src c n s
  | .haltScTrigger c => Sys2Proof.Machine.execHaltScTrigger c s
  | .dbgRdCsr src c n => Sys2Proof.Machine.execDbgRdCsr src c n s
  | .dbgRdMem src pa => Sys2Proof.Machine.execDbgRdMem src pa s
  | .dbgRdStamp src c off w => Sys2Proof.Machine.execDbgRdStamp src c off w s
  | .dbgBadOp => Sys2Proof.Machine.execDbgBadOp s
  | .dbgCommandTimeout => Sys2Proof.Machine.execDbgCommandTimeout s
  | .replayCtlWrite v => Sys2Proof.Machine.execReplayCtlWrite v s
  | .replayIncrement => Sys2Proof.Machine.execReplayIncrement s
  | .powerOn => Sys2Proof.Machine.execPowerOn s
  | .hostLinkDown => Sys2Proof.Machine.execHostLinkDown s
  | .tsyncWrite v => Sys2Proof.Machine.execTsyncWrite v s

end Sys2Proof.Machine
end

