-- ==== Sys2Proof/Machine/Settle.lean ====
section
/-! DEFINITION. What closes every step of the machine (notes/assumptions/1.md): ends that wait for nothing more than a state, accesses that waited
and can now perform, armed stops, the vote, the trace ring, and the free-value counter. -/
namespace Sys2Proof.Machine

/-- The armed stops of the debug master (R433, R434). -/
def armedStops (s : State) : State := haltAtTrigger (s.cores.foldl (fun s e => haltScTrigger e.1 s) s)

/-- Messages that a link now carries (R384), key slots whose unload ends (R100), flushes and stops that end (R376, R344), accesses from
outside and credits that waited (R41, R137, R352, R404), the vote (R391), lapses of gusset owners (R135). -/
def afterStep (s : State) : State := lapseAll (voteSettle (retryHost (retryHeld (stopWaiting (retryCredits (flushEnds (armedStops (unloadSlots (releaseLinks s)))))))))

/-- The end of a step: the events go to the trace ring (R430), and the free-value counter advances (notes/assumptions/7.md). -/
def closeStep (s : State) : State :=
  let s := traceDrain (afterStep s)
  { s with freeCtr := s.freeCtr + 1 }

end Sys2Proof.Machine
end

