-- ==== Sys2Proof/Machine/Upset.lean ====
section
/-! DEFINITION. Uncorrectable errors outside the levels of R72: registers, operand-queue elements and module state (R378;
notes/assumptions/66.md). -/
namespace Sys2Proof.Machine

/-- Is a register one of a control core's files? -/
def RegName.isCtl : RegName → Bool
  | .m _ => false | .g _ => false | _ => true

/-- An error arises; s0 and p0 hold nothing (R169). -/
def upsetAt (u : Upset) (s : State) : State :=
  match u with
  | .reg c l r =>
    let x := s.ctlOf c.val l
    if r = .s 0 ∨ r = .p 0 ∨ !r.isCtl then s else s.setCtlOf c.val l { x with bad := r :: x.bad.filter (· ≠ r) }
  | .bound c e k =>
    let q := s.seqOf c.val e
    s.setSeqOf c.val e { q with bad := k.val :: q.bad.filter (· ≠ k.val) }
  | .amax c k => let x := s.core c.val; s.setCore c.val { x with mxBad := k.val :: x.mxBad.filter (· ≠ k.val) }
  | .gusset p k => let x := s.pair p.val; s.setPair p.val { x with gBad := k.val :: x.gBad.filter (· ≠ k.val) }
  | .queue c k n => setQueue c.val k.val ((queueOf s c.val k.val).mapIdx fun j q => if j = n.val then { q with bad := true } else q) s
  | .module => { s with modBad := true }

/-- The registers of a memory operand (R170). -/
def mopRegs (m : MOp) : List RegName := [.h m.h, .s m.c] ++ if m.cp then [.s (m.c + 1)] else []

/-- The guard of a control instruction, and the registers it reads when the guard holds (chapters 8 and 9). -/
def readsOf : Instr → Option (Guard × List RegName)
  | .add gd _ a b | .sub gd _ a b | .mul gd _ a b | .mulh gd _ a b | .mulhu gd _ a b | .div gd _ a b | .divu gd _ a b | .rem gd _ a b
  | .remu gd _ a b | .min gd _ a b | .max gd _ a b | .minu gd _ a b | .maxu gd _ a b | .and gd _ a b | .or gd _ a b | .xor gd _ a b
  | .andn gd _ a b | .sll gd _ a b | .srl gd _ a b | .sra gd _ a b | .rol gd _ a b | .cmpEq gd _ a b | .cmpNe gd _ a b | .cmpLt gd _ a b
  | .cmpGe gd _ a b | .cmpLtu gd _ a b | .cmpGeu gd _ a b => some (gd, [.s a, .s b])
  | .clz gd _ a | .ctz gd _ a | .popc gd _ a | .brev gd _ a | .bswap gd _ a | .pset gd _ a | .jr gd a | .jalr gd _ a | .addi gd _ a _
  | .andi gd _ a _ | .ori gd _ a _ | .xori gd _ a _ | .slli gd _ a _ | .srli gd _ a _ | .srai gd _ a _ | .muli gd _ a _
  | .cmpi gd _ _ a _ | .hld gd _ a _ | .tevc gd _ a | .gst gd _ a | .bndMe gd _ a | .bndVe gd _ a | .bndCel gd _ a | .bndCes gd _ a
  | .mxWr gd _ a | .ctxSv gd a | .ctxLd gd a | .lih gd _ a _ | .addl gd _ a _ | .ext gd _ a _ _ | .extu gd _ a _ _
  | .cmpl gd _ _ a _ | .csrWr gd _ a | .csrSet gd _ a _ | .csrClr gd _ a _ => some (gd, [.s a])
  | .pand gd _ a b | .por gd _ a b | .pxor gd _ a b | .pandn gd _ a b => some (gd, [.p a, .p b])
  | .pnot gd _ a | .pget gd _ a => some (gd, [.p a])
  | .sel gd f _ a b => some (gd, [.p f, .s a, .s b])
  | .dbnz gd d _ => some (gd, [.s d])
  | .br gd _ | .call gd _ | .semSig gd _ _ | .semWait gd _ _ | .semRd gd _ _ | .tkPush gd _ | .tkPop gd _ | .tkCnt gd _ _
  | .barArv gd _ | .barWait gd _ | .barAra gd _ | .licAcq gd | .licRel gd | .rdv gd | .jend gd | .fenceAcq gd _ | .fenceRel gd _
  | .fenceFull gd _ | .fenceMsa gd _ | .mxClr gd _ | .timeRd gd _ | .trap gd _ | .tret gd | .brk gd _ | .nop gd
  | .li gd _ _ | .brl gd _ | .calll gd _ | .csrRd gd _ _ => some (gd, [])
  | .hmov gd _ a | .hunb gd _ a | .hchk gd _ a | .hget gd _ a _ => some (gd, [.h a])
  | .hbind gd _ a b => some (gd, [.h a, .s b])
  | .hset gd d a _ | .hoff gd d a _ | .hslc gd d a _ => some (gd, [.h d, .s a])
  | .ld gd _ m | .lpin gd _ m | .lunpin gd _ m | .tlk gd _ m | .tlkM gd _ m | .ldOrd gd _ _ _ m => some (gd, mopRegs m)
  | .st gd d m | .updAdd gd d m | .updMin gd d m | .updMax gd d m | .msaAdd gd d m | .msaMax gd d m | .msaMin gd d m | .tins gd d m
    => some (gd, [.s d] ++ mopRegs m)
  | .mxRd gd _ a => some (gd, [.m a])
  | .mxUpd gd d a => some (gd, [.m d, .s a])
  | .gld gd _ a => some (gd, [.g a])
  | .gswp gd _ a b | .gadd gd _ a b => some (gd, [.g a, .s b])
  | .gcas gd d a b => some (gd, [.s d, .g a, .s b])
  | .engStart gd a m => some (gd, (maskStreams a m).map fun e => .s (Fin.ofNat 64 e.2))
  | .dep gd d a _ _ => some (gd, [.s d, .s a])
  | .stOrd gd _ _ m a | .atomAdd gd _ _ _ m a | .atomAnd gd _ _ _ m a | .atomOr gd _ _ _ m a | .atomXor gd _ _ _ m a
  | .atomMin gd _ _ _ m a | .atomMax gd _ _ _ m a | .atomMinu gd _ _ _ m a | .atomMaxu gd _ _ _ m a | .atomSwp gd _ _ _ m a
  | .waddr gd _ _ _ m a | .qClaim gd _ _ m a | .qRing gd _ m a => some (gd, [.s a] ++ mopRegs m)
  | .atomCas gd _ _ _ m a b => some (gd, [.s a, .s b] ++ mopRegs m)
  | _ => none

/-- Does a register hold an uncorrectable error? A gusset that the job does not own is not read (R135). -/
def regMarked (s : State) (r : RegName) : Bool :=
  match r with
  | .m k => s.myCore.mxBad.contains k.val
  | .g k =>
    let p := s.pair (pairOf s.cc)
    p.ownV && p.ownCtx == ctxId s.myCore.ascRoot.toNat && p.gBad.contains k.val
  | r => s.me.bad.contains r

/-- Does an instruction get as far as its registers: a supervisor-only one at job level does not (R172)? -/
def passesPriv (s : State) : Instr → Bool
  | .ctxSv _ _ => s.me.priv
  | .ctxLd _ _ => s.me.priv
  | _ => true

/-- Does a control instruction read a register that holds an uncorrectable error? A suppressed one reads its guard only (R167). -/
def readsMarked (s : State) (i : Instr) : Bool :=
  if s.me.bad.isEmpty && s.myCore.mxBad.isEmpty && (s.pair (pairOf s.cc)).gBad.isEmpty then false
  else match readsOf i with
  | some (gd, rs) => regMarked s (.p gd.gp) || (guardOk gd s && passesPriv s i && rs.any (regMarked s))
  | none => false

end Sys2Proof.Machine
end

