-- ==== Sys2Proof/Machine/Step.lean ====
section
/-! DEFINITION. One step: the agenda's next act, or one step of the current stream (notes/assumptions/1.md). -/
namespace Sys2Proof.Machine

/-- What closes a step that answers a next state. -/
def settle : Out → Out
  | .next s => .next (closeStep s)
  | o => o

/-- The instruction that the control core has issued and that waits (R82). -/
def setHeld (i : Option Instr) (s : State) : State := if s.me.held = i then s else s.setMe { s.me with held := i }

/-- An instruction executed: where it waits, it is issued and not fetched again (R82). One that reads a register with an uncorrectable
error takes the trap instead (R378). -/
def issue (i : Instr) (s : State) : Out :=
  if readsMarked s i then .next (trapHere ⟨.uncorrectable, 0⟩ 4 (setHeld none s))
  else match exec i s with
  | .next t => .next (setHeld (if t.myStr.st = .wait then some i else none) t)
  | o => o

/-- What a control core does at an instruction boundary: a pending trap, else the instruction it has issued, else the one at its PC. -/
def boundary (s : State) : Out :=
  match deliver s.cc s.cl s with
  | some t => .next (setHeld none t)
  | none =>
    match (if s.myStr.st = .wait then s.me.held else none) with
    | some i => issue i s
    | none =>
      match fetchControl s s.cc s.pc with
      | .busy => .next (waitOn .other (setHeld none s))
      | .bad t => .next (trapHere t 4 (setHeld none s))
      | .got i => issue i s

/-- The current control core's step: the records that have entered read its registers before its next instruction (R153, R205). -/
def stepControl (s : State) : Out := boundary (latchReads s.cc s)

/-- The current sequencer's step: the gate its record stands at (R127, R357). -/
def stepEngine (s : State) : Out := .next (engineStep s.cc (streamEng s.cur.2) s)

/-- The current stream's step. -/
def stepStream (s : State) : Out :=
  if !s.powered then .fault .unpowered
  else if canRun s then (if isCtl s.cur.2 then stepControl s else stepEngine s) else .next s

/-- The next act. -/
def runAct (a : Act) (s : State) : Out :=
  match a with
  | .stream c x => stepStream (focus c.val x s)
  | .event i => exec i s
  | .tick n => .next (pass n (arbitrateAll s))
  | .evict t line => .next (evictLine t.val line s)
  | .land c => .next (landFirst c.val s)
  | .upset u => .next (upsetAt u s)

/-- One step of the machine. -/
def step (s : State) : Host.Outcome State Fault Refusal :=
  match s.agenda with
  | [] => settle (stepStream s)
  | a :: t => settle (runAct a { s with agenda := t })

/-- `s` with the instruction of `nbits` bits `w` stored at a PC of core 0, whose stream runs it next: a control instruction at the lead
control core's, a record at that of a sequencer that takes it (notes/assumptions/3.md). -/
def State.withFetchWord (s : State) (nbits w : Nat) : State :=
  let x : Stream := if nbits ≤ 64 then .lcc else
    match decodeRecord ((List.range 16).map fun k => w / 2 ^ (32 * k) % 2 ^ 32) with
    | some i => engStream (seqFor { s with cur := (0, .lcc) } i)
    | none => .me
  let t : State := { s with agenda := [], cur := (0, x) }
  let m := t.myStr
  let t := { t with mem := memStore t.mem (imAt 0 m.pc) (leBytes (if nbits ≤ 64 then 8 else 64) w) }
  t.setMyStr { m with st := .run, wait := .none }

end Sys2Proof.Machine
end

