-- ==== Sys2Proof/Laws/State.lean ====
section
/-! SUPPORT. What each update of a part of the state leaves in every field, and tables: a look-up after an update. -/
namespace Sys2Proof.Machine

/-! ## Tables -/

@[simp] theorem look_put_same {α : Type} (d a : α) (t : Tbl α) (k : Nat) : look d (put t k a) k = a := by
  induction t with
  | nil => simp [put, look]
  | cons e t ih =>
    obtain ⟨j, b⟩ := e
    simp only [put]
    split
    · simp [look]
    · split
      · simp [look]
      · simp only [look]
        rw [if_neg (by omega)]
        exact ih

@[simp] theorem look_put_other {α : Type} (d a : α) (t : Tbl α) {j k : Nat} (h : k ≠ j) : look d (put t j a) k = look d t k := by
  induction t with
  | nil => simp only [put, look]; rw [if_neg (by omega)]
  | cons e t ih =>
    obtain ⟨i, b⟩ := e
    simp only [put]
    split
    · simp only [look]; rw [if_neg (by omega)]
    · split
      · simp only [look]; rw [if_neg (by omega), if_neg (by omega)]
      · simp only [look, ih]

/-! ## The parts of the state -/

@[simp] theorem setCore_agenda (s : State) (n : Nat) (k : Core) : (s.setCore n k).agenda = s.agenda := rfl
@[simp] theorem setCore_cur (s : State) (n : Nat) (k : Core) : (s.setCore n k).cur = s.cur := rfl
@[simp] theorem setCore_freeCtr (s : State) (n : Nat) (k : Core) : (s.setCore n k).freeCtr = s.freeCtr := rfl
@[simp] theorem setCore_outbox (s : State) (n : Nat) (k : Core) : (s.setCore n k).outbox = s.outbox := rfl
@[simp] theorem setCore_linkWait (s : State) (n : Nat) (k : Core) : (s.setCore n k).linkWait = s.linkWait := rfl
@[simp] theorem setCore_msgNext (s : State) (n : Nat) (k : Core) : (s.setCore n k).msgNext = s.msgNext := rfl
@[simp] theorem setCore_sent (s : State) (n : Nat) (k : Core) : (s.setCore n k).sent = s.sent := rfl
@[simp] theorem setCore_powered (s : State) (n : Nat) (k : Core) : (s.setCore n k).powered = s.powered := rfl
@[simp] theorem setCore_time (s : State) (n : Nat) (k : Core) : (s.setCore n k).time = s.time := rfl
@[simp] theorem setCore_slew (s : State) (n : Nat) (k : Core) : (s.setCore n k).slew = s.slew := rfl
@[simp] theorem setCore_mem (s : State) (n : Nat) (k : Core) : (s.setCore n k).mem = s.mem := rfl
@[simp] theorem setCore_crypt (s : State) (n : Nat) (k : Core) : (s.setCore n k).crypt = s.crypt := rfl
@[simp] theorem setCore_marks (s : State) (n : Nat) (k : Core) : (s.setCore n k).marks = s.marks := rfl
@[simp] theorem setCore_cover (s : State) (n : Nat) (k : Core) : (s.setCore n k).cover = s.cover := rfl
@[simp] theorem setCore_stamps (s : State) (n : Nat) (k : Core) : (s.setCore n k).stamps = s.stamps := rfl
@[simp] theorem setCore_claims (s : State) (n : Nat) (k : Core) : (s.setCore n k).claims = s.claims := rfl
@[simp] theorem setCore_locs (s : State) (n : Nat) (k : Core) : (s.setCore n k).locs = s.locs := rfl
@[simp] theorem setCore_dgen (s : State) (n : Nat) (k : Core) : (s.setCore n k).dgen = s.dgen := rfl
@[simp] theorem setCore_msa (s : State) (n : Nat) (k : Core) : (s.setCore n k).msa = s.msa := rfl
@[simp] theorem setCore_msaNext (s : State) (n : Nat) (k : Core) : (s.setCore n k).msaNext = s.msaNext := rfl
@[simp] theorem setCore_keys (s : State) (n : Nat) (k : Core) : (s.setCore n k).keys = s.keys := rfl
@[simp] theorem setCore_keyOut (s : State) (n : Nat) (k : Core) : (s.setCore n k).keyOut = s.keyOut := rfl
@[simp] theorem setCore_pins (s : State) (n : Nat) (k : Core) : (s.setCore n k).pins = s.pins := rfl
@[simp] theorem setCore_ctxSide (s : State) (n : Nat) (k : Core) : (s.setCore n k).ctxSide = s.ctxSide := rfl
@[simp] theorem setCore_pairs (s : State) (n : Nat) (k : Core) : (s.setCore n k).pairs = s.pairs := rfl
@[simp] theorem setCore_clusters (s : State) (n : Nat) (k : Core) : (s.setCore n k).clusters = s.clusters := rfl
@[simp] theorem setCore_dies (s : State) (n : Nat) (k : Core) : (s.setCore n k).dies = s.dies := rfl
@[simp] theorem setCore_towers (s : State) (n : Nat) (k : Core) : (s.setCore n k).towers = s.towers := rfl
@[simp] theorem setCore_groups (s : State) (n : Nat) (k : Core) : (s.setCore n k).groups = s.groups := rfl
@[simp] theorem setCore_fbt (s : State) (n : Nat) (k : Core) : (s.setCore n k).fbt = s.fbt := rfl
@[simp] theorem setCore_links (s : State) (n : Nat) (k : Core) : (s.setCore n k).links = s.links := rfl
@[simp] theorem setCore_xltArg0 (s : State) (n : Nat) (k : Core) : (s.setCore n k).xltArg0 = s.xltArg0 := rfl
@[simp] theorem setCore_xltArg1 (s : State) (n : Nat) (k : Core) : (s.setCore n k).xltArg1 = s.xltArg1 := rfl
@[simp] theorem setCore_xltBusy (s : State) (n : Nat) (k : Core) : (s.setCore n k).xltBusy = s.xltBusy := rfl
@[simp] theorem setCore_xltRes (s : State) (n : Nat) (k : Core) : (s.setCore n k).xltRes = s.xltRes := rfl
@[simp] theorem setCore_xltOver (s : State) (n : Nat) (k : Core) : (s.setCore n k).xltOver = s.xltOver := rfl
@[simp] theorem setCore_xltCmd (s : State) (n : Nat) (k : Core) : (s.setCore n k).xltCmd = s.xltCmd := rfl
@[simp] theorem setCore_closing (s : State) (n : Nat) (k : Core) : (s.setCore n k).closing = s.closing := rfl
@[simp] theorem setCore_dmr (s : State) (n : Nat) (k : Core) : (s.setCore n k).dmr = s.dmr := rfl
@[simp] theorem setCore_stages (s : State) (n : Nat) (k : Core) : (s.setCore n k).stages = s.stages := rfl
@[simp] theorem setCore_rules (s : State) (n : Nat) (k : Core) : (s.setCore n k).rules = s.rules := rfl
@[simp] theorem setCore_chans (s : State) (n : Nat) (k : Core) : (s.setCore n k).chans = s.chans := rfl
@[simp] theorem setCore_mbsClk (s : State) (n : Nat) (k : Core) : (s.setCore n k).mbsClk = s.mbsClk := rfl
@[simp] theorem setCore_mbsHeld (s : State) (n : Nat) (k : Core) : (s.setCore n k).mbsHeld = s.mbsHeld := rfl
@[simp] theorem setCore_mbsAns (s : State) (n : Nat) (k : Core) : (s.setCore n k).mbsAns = s.mbsAns := rfl
@[simp] theorem setCore_mbsSent (s : State) (n : Nat) (k : Core) : (s.setCore n k).mbsSent = s.mbsSent := rfl
@[simp] theorem setCore_starts (s : State) (n : Nat) (k : Core) : (s.setCore n k).starts = s.starts := rfl
@[simp] theorem setCore_gangs (s : State) (n : Nat) (k : Core) : (s.setCore n k).gangs = s.gangs := rfl
@[simp] theorem setCore_decided (s : State) (n : Nat) (k : Core) : (s.setCore n k).decided = s.decided := rfl
@[simp] theorem setCore_jflush (s : State) (n : Nat) (k : Core) : (s.setCore n k).jflush = s.jflush := rfl
@[simp] theorem setCore_chunks (s : State) (n : Nat) (k : Core) : (s.setCore n k).chunks = s.chunks := rfl
@[simp] theorem setCore_intents (s : State) (n : Nat) (k : Core) : (s.setCore n k).intents = s.intents := rfl
@[simp] theorem setCore_begun (s : State) (n : Nat) (k : Core) : (s.setCore n k).begun = s.begun := rfl
@[simp] theorem setCore_collIn (s : State) (n : Nat) (k : Core) : (s.setCore n k).collIn = s.collIn := rfl
@[simp] theorem setCore_peers (s : State) (n : Nat) (k : Core) : (s.setCore n k).peers = s.peers := rfl
@[simp] theorem setCore_bpri (s : State) (n : Nat) (k : Core) : (s.setCore n k).bpri = s.bpri := rfl
@[simp] theorem setCore_maxTok (s : State) (n : Nat) (k : Core) : (s.setCore n k).maxTok = s.maxTok := rfl
@[simp] theorem setCore_wdraw (s : State) (n : Nat) (k : Core) : (s.setCore n k).wdraw = s.wdraw := rfl
@[simp] theorem setCore_lastM (s : State) (n : Nat) (k : Core) : (s.setCore n k).lastM = s.lastM := rfl
@[simp] theorem setCore_mcg (s : State) (n : Nat) (k : Core) : (s.setCore n k).mcg = s.mcg := rfl
@[simp] theorem setCore_fabRing (s : State) (n : Nat) (k : Core) : (s.setCore n k).fabRing = s.fabRing := rfl
@[simp] theorem setCore_votes (s : State) (n : Nat) (k : Core) : (s.setCore n k).votes = s.votes := rfl
@[simp] theorem setCore_voting (s : State) (n : Nat) (k : Core) : (s.setCore n k).voting = s.voting := rfl
@[simp] theorem setCore_voteRes (s : State) (n : Nat) (k : Core) : (s.setCore n k).voteRes = s.voteRes := rfl
@[simp] theorem setCore_lnkCtl (s : State) (n : Nat) (k : Core) : (s.setCore n k).lnkCtl = s.lnkCtl := rfl
@[simp] theorem setCore_slt (s : State) (n : Nat) (k : Core) : (s.setCore n k).slt = s.slt := rfl
@[simp] theorem setCore_sltAct (s : State) (n : Nat) (k : Core) : (s.setCore n k).sltAct = s.sltAct := rfl
@[simp] theorem setCore_sltSwap (s : State) (n : Nat) (k : Core) : (s.setCore n k).sltSwap = s.sltSwap := rfl
@[simp] theorem setCore_egrRate (s : State) (n : Nat) (k : Core) : (s.setCore n k).egrRate = s.egrRate := rfl
@[simp] theorem setCore_peerCtx (s : State) (n : Nat) (k : Core) : (s.setCore n k).peerCtx = s.peerCtx := rfl
@[simp] theorem setCore_rmtClk (s : State) (n : Nat) (k : Core) : (s.setCore n k).rmtClk = s.rmtClk := rfl
@[simp] theorem setCore_held (s : State) (n : Nat) (k : Core) : (s.setCore n k).held = s.held := rfl
@[simp] theorem setCore_hostLink (s : State) (n : Nat) (k : Core) : (s.setCore n k).hostLink = s.hostLink := rfl
@[simp] theorem setCore_hwinBase (s : State) (n : Nat) (k : Core) : (s.setCore n k).hwinBase = s.hwinBase := rfl
@[simp] theorem setCore_hwinCtl (s : State) (n : Nat) (k : Core) : (s.setCore n k).hwinCtl = s.hwinCtl := rfl
@[simp] theorem setCore_hwinRoot (s : State) (n : Nat) (k : Core) : (s.setCore n k).hwinRoot = s.hwinRoot := rfl
@[simp] theorem setCore_hregLog (s : State) (n : Nat) (k : Core) : (s.setCore n k).hregLog = s.hregLog := rfl
@[simp] theorem setCore_hostClk (s : State) (n : Nat) (k : Core) : (s.setCore n k).hostClk = s.hostClk := rfl
@[simp] theorem setCore_ckptClk (s : State) (n : Nat) (k : Core) : (s.setCore n k).ckptClk = s.ckptClk := rfl
@[simp] theorem setCore_hostLog (s : State) (n : Nat) (k : Core) : (s.setCore n k).hostLog = s.hostLog := rfl
@[simp] theorem setCore_hostHeld (s : State) (n : Nat) (k : Core) : (s.setCore n k).hostHeld = s.hostHeld := rfl
@[simp] theorem setCore_hostHold (s : State) (n : Nat) (k : Core) : (s.setCore n k).hostHold = s.hostHold := rfl
@[simp] theorem setCore_hostDev (s : State) (n : Nat) (k : Core) : (s.setCore n k).hostDev = s.hostDev := rfl
@[simp] theorem setCore_msixTbl (s : State) (n : Nat) (k : Core) : (s.setCore n k).msixTbl = s.msixTbl := rfl
@[simp] theorem setCore_msixPend (s : State) (n : Nat) (k : Core) : (s.setCore n k).msixPend = s.msixPend := rfl
@[simp] theorem setCore_pwrFuse (s : State) (n : Nat) (k : Core) : (s.setCore n k).pwrFuse = s.pwrFuse := rfl
@[simp] theorem setCore_pwrCap (s : State) (n : Nat) (k : Core) : (s.setCore n k).pwrCap = s.pwrCap := rfl
@[simp] theorem setCore_pwrStat (s : State) (n : Nat) (k : Core) : (s.setCore n k).pwrStat = s.pwrStat := rfl
@[simp] theorem setCore_govNext (s : State) (n : Nat) (k : Core) : (s.setCore n k).govNext = s.govNext := rfl
@[simp] theorem setCore_pcls (s : State) (n : Nat) (k : Core) : (s.setCore n k).pcls = s.pcls := rfl
@[simp] theorem setCore_thCtl (s : State) (n : Nat) (k : Core) : (s.setCore n k).thCtl = s.thCtl := rfl
@[simp] theorem setCore_ckptCtl (s : State) (n : Nat) (k : Core) : (s.setCore n k).ckptCtl = s.ckptCtl := rfl
@[simp] theorem setCore_ckptMap (s : State) (n : Nat) (k : Core) : (s.setCore n k).ckptMap = s.ckptMap := rfl
@[simp] theorem setCore_ckptStat (s : State) (n : Nat) (k : Core) : (s.setCore n k).ckptStat = s.ckptStat := rfl
@[simp] theorem setCore_ckptImg (s : State) (n : Nat) (k : Core) : (s.setCore n k).ckptImg = s.ckptImg := rfl
@[simp] theorem setCore_ckptGot (s : State) (n : Nat) (k : Core) : (s.setCore n k).ckptGot = s.ckptGot := rfl
@[simp] theorem setCore_imgKey (s : State) (n : Nat) (k : Core) : (s.setCore n k).imgKey = s.imgKey := rfl
@[simp] theorem setCore_openMem (s : State) (n : Nat) (k : Core) : (s.setCore n k).openMem = s.openMem := rfl
@[simp] theorem setCore_tsync (s : State) (n : Nat) (k : Core) : (s.setCore n k).tsync = s.tsync := rfl
@[simp] theorem setCore_trcCtl (s : State) (n : Nat) (k : Core) : (s.setCore n k).trcCtl = s.trcCtl := rfl
@[simp] theorem setCore_trcWho (s : State) (n : Nat) (k : Core) : (s.setCore n k).trcWho = s.trcWho := rfl
@[simp] theorem setCore_trcStat (s : State) (n : Nat) (k : Core) : (s.setCore n k).trcStat = s.trcStat := rfl
@[simp] theorem setCore_trcSeq (s : State) (n : Nat) (k : Core) : (s.setCore n k).trcSeq = s.trcSeq := rfl
@[simp] theorem setCore_trcQ (s : State) (n : Nat) (k : Core) : (s.setCore n k).trcQ = s.trcQ := rfl
@[simp] theorem setCore_setters (s : State) (n : Nat) (k : Core) : (s.setCore n k).setters = s.setters := rfl
@[simp] theorem setCore_dbgCtl (s : State) (n : Nat) (k : Core) : (s.setCore n k).dbgCtl = s.dbgCtl := rfl
@[simp] theorem setCore_dbgArg0 (s : State) (n : Nat) (k : Core) : (s.setCore n k).dbgArg0 = s.dbgArg0 := rfl
@[simp] theorem setCore_dbgArg1 (s : State) (n : Nat) (k : Core) : (s.setCore n k).dbgArg1 = s.dbgArg1 := rfl
@[simp] theorem setCore_dbgBusy (s : State) (n : Nat) (k : Core) : (s.setCore n k).dbgBusy = s.dbgBusy := rfl
@[simp] theorem setCore_dbgRes (s : State) (n : Nat) (k : Core) : (s.setCore n k).dbgRes = s.dbgRes := rfl
@[simp] theorem setCore_dbgOver (s : State) (n : Nat) (k : Core) : (s.setCore n k).dbgOver = s.dbgOver := rfl
@[simp] theorem setCore_dbgData (s : State) (n : Nat) (k : Core) : (s.setCore n k).dbgData = s.dbgData := rfl
@[simp] theorem setCore_dbgWait (s : State) (n : Nat) (k : Core) : (s.setCore n k).dbgWait = s.dbgWait := rfl
@[simp] theorem setCore_haltAt (s : State) (n : Nat) (k : Core) : (s.setCore n k).haltAt = s.haltAt := rfl
@[simp] theorem setCore_replay (s : State) (n : Nat) (k : Core) : (s.setCore n k).replay = s.replay := rfl
@[simp] theorem setCore_repLog (s : State) (n : Nat) (k : Core) : (s.setCore n k).repLog = s.repLog := rfl
@[simp] theorem setCore_repIncs (s : State) (n : Nat) (k : Core) : (s.setCore n k).repIncs = s.repIncs := rfl
@[simp] theorem setCore_repNext (s : State) (n : Nat) (k : Core) : (s.setCore n k).repNext = s.repNext := rfl
@[simp] theorem setCore_repAt (s : State) (n : Nat) (k : Core) : (s.setCore n k).repAt = s.repAt := rfl
@[simp] theorem setCore_repBusy (s : State) (n : Nat) (k : Core) : (s.setCore n k).repBusy = s.repBusy := rfl
@[simp] theorem setCore_errs (s : State) (n : Nat) (k : Core) : (s.setCore n k).errs = s.errs := rfl
@[simp] theorem setCore_modBad (s : State) (n : Nat) (k : Core) : (s.setCore n k).modBad = s.modBad := rfl
@[simp] theorem core_setCore (s : State) (n : Nat) (k : Core) : (s.setCore n k).core n = k := look_put_same _ _ _ _
theorem core_setCore_other (s : State) {n j : Nat} (k : Core) (h : j ≠ n) : (s.setCore n k).core j = s.core j := look_put_other _ _ _ h
@[simp] theorem pair_setCore (s : State) (n j : Nat) (k : Core) : (s.setCore n k).pair j = s.pair j := rfl
@[simp] theorem die_setCore (s : State) (n j : Nat) (k : Core) : (s.setCore n k).die j = s.die j := rfl
@[simp] theorem tower_setCore (s : State) (n j : Nat) (k : Core) : (s.setCore n k).tower j = s.tower j := rfl
@[simp] theorem cluster_setCore (s : State) (n j : Nat) (k : Core) : (s.setCore n k).cluster j = s.cluster j := rfl
@[simp] theorem group_setCore (s : State) (n j : Nat) (k : Core) : (s.setCore n k).group j = s.group j := rfl

@[simp] theorem setPair_agenda (s : State) (n : Nat) (k : Pair) : (s.setPair n k).agenda = s.agenda := rfl
@[simp] theorem setPair_cur (s : State) (n : Nat) (k : Pair) : (s.setPair n k).cur = s.cur := rfl
@[simp] theorem setPair_freeCtr (s : State) (n : Nat) (k : Pair) : (s.setPair n k).freeCtr = s.freeCtr := rfl
@[simp] theorem setPair_outbox (s : State) (n : Nat) (k : Pair) : (s.setPair n k).outbox = s.outbox := rfl
@[simp] theorem setPair_powered (s : State) (n : Nat) (k : Pair) : (s.setPair n k).powered = s.powered := rfl
@[simp] theorem setPair_time (s : State) (n : Nat) (k : Pair) : (s.setPair n k).time = s.time := rfl
@[simp] theorem setPair_mem (s : State) (n : Nat) (k : Pair) : (s.setPair n k).mem = s.mem := rfl
@[simp] theorem setPair_crypt (s : State) (n : Nat) (k : Pair) : (s.setPair n k).crypt = s.crypt := rfl
@[simp] theorem setPair_cores (s : State) (n : Nat) (k : Pair) : (s.setPair n k).cores = s.cores := rfl
@[simp] theorem setPair_clusters (s : State) (n : Nat) (k : Pair) : (s.setPair n k).clusters = s.clusters := rfl
@[simp] theorem setPair_dies (s : State) (n : Nat) (k : Pair) : (s.setPair n k).dies = s.dies := rfl
@[simp] theorem setPair_towers (s : State) (n : Nat) (k : Pair) : (s.setPair n k).towers = s.towers := rfl
@[simp] theorem setPair_groups (s : State) (n : Nat) (k : Pair) : (s.setPair n k).groups = s.groups := rfl
@[simp] theorem setPair_dmr (s : State) (n : Nat) (k : Pair) : (s.setPair n k).dmr = s.dmr := rfl
@[simp] theorem setPair_ckptStat (s : State) (n : Nat) (k : Pair) : (s.setPair n k).ckptStat = s.ckptStat := rfl
@[simp] theorem setPair_trcCtl (s : State) (n : Nat) (k : Pair) : (s.setPair n k).trcCtl = s.trcCtl := rfl
@[simp] theorem setPair_trcQ (s : State) (n : Nat) (k : Pair) : (s.setPair n k).trcQ = s.trcQ := rfl
@[simp] theorem setPair_repBusy (s : State) (n : Nat) (k : Pair) : (s.setPair n k).repBusy = s.repBusy := rfl
@[simp] theorem pair_setPair (s : State) (n : Nat) (k : Pair) : (s.setPair n k).pair n = k := look_put_same _ _ _ _
theorem pair_setPair_other (s : State) {n j : Nat} (k : Pair) (h : j ≠ n) : (s.setPair n k).pair j = s.pair j := look_put_other _ _ _ h
@[simp] theorem core_setPair (s : State) (n j : Nat) (k : Pair) : (s.setPair n k).core j = s.core j := rfl
@[simp] theorem die_setPair (s : State) (n j : Nat) (k : Pair) : (s.setPair n k).die j = s.die j := rfl
@[simp] theorem tower_setPair (s : State) (n j : Nat) (k : Pair) : (s.setPair n k).tower j = s.tower j := rfl
@[simp] theorem cluster_setPair (s : State) (n j : Nat) (k : Pair) : (s.setPair n k).cluster j = s.cluster j := rfl
@[simp] theorem group_setPair (s : State) (n j : Nat) (k : Pair) : (s.setPair n k).group j = s.group j := rfl

@[simp] theorem setDie_agenda (s : State) (n : Nat) (k : Die) : (s.setDie n k).agenda = s.agenda := rfl
@[simp] theorem setDie_cur (s : State) (n : Nat) (k : Die) : (s.setDie n k).cur = s.cur := rfl
@[simp] theorem setDie_freeCtr (s : State) (n : Nat) (k : Die) : (s.setDie n k).freeCtr = s.freeCtr := rfl
@[simp] theorem setDie_outbox (s : State) (n : Nat) (k : Die) : (s.setDie n k).outbox = s.outbox := rfl
@[simp] theorem setDie_powered (s : State) (n : Nat) (k : Die) : (s.setDie n k).powered = s.powered := rfl
@[simp] theorem setDie_time (s : State) (n : Nat) (k : Die) : (s.setDie n k).time = s.time := rfl
@[simp] theorem setDie_mem (s : State) (n : Nat) (k : Die) : (s.setDie n k).mem = s.mem := rfl
@[simp] theorem setDie_crypt (s : State) (n : Nat) (k : Die) : (s.setDie n k).crypt = s.crypt := rfl
@[simp] theorem setDie_cores (s : State) (n : Nat) (k : Die) : (s.setDie n k).cores = s.cores := rfl
@[simp] theorem setDie_pairs (s : State) (n : Nat) (k : Die) : (s.setDie n k).pairs = s.pairs := rfl
@[simp] theorem setDie_clusters (s : State) (n : Nat) (k : Die) : (s.setDie n k).clusters = s.clusters := rfl
@[simp] theorem setDie_towers (s : State) (n : Nat) (k : Die) : (s.setDie n k).towers = s.towers := rfl
@[simp] theorem setDie_groups (s : State) (n : Nat) (k : Die) : (s.setDie n k).groups = s.groups := rfl
@[simp] theorem setDie_dmr (s : State) (n : Nat) (k : Die) : (s.setDie n k).dmr = s.dmr := rfl
@[simp] theorem setDie_ckptStat (s : State) (n : Nat) (k : Die) : (s.setDie n k).ckptStat = s.ckptStat := rfl
@[simp] theorem setDie_trcCtl (s : State) (n : Nat) (k : Die) : (s.setDie n k).trcCtl = s.trcCtl := rfl
@[simp] theorem setDie_trcQ (s : State) (n : Nat) (k : Die) : (s.setDie n k).trcQ = s.trcQ := rfl
@[simp] theorem setDie_repBusy (s : State) (n : Nat) (k : Die) : (s.setDie n k).repBusy = s.repBusy := rfl
@[simp] theorem die_setDie (s : State) (n : Nat) (k : Die) : (s.setDie n k).die n = k := look_put_same _ _ _ _
theorem die_setDie_other (s : State) {n j : Nat} (k : Die) (h : j ≠ n) : (s.setDie n k).die j = s.die j := look_put_other _ _ _ h
@[simp] theorem core_setDie (s : State) (n j : Nat) (k : Die) : (s.setDie n k).core j = s.core j := rfl
@[simp] theorem pair_setDie (s : State) (n j : Nat) (k : Die) : (s.setDie n k).pair j = s.pair j := rfl
@[simp] theorem tower_setDie (s : State) (n j : Nat) (k : Die) : (s.setDie n k).tower j = s.tower j := rfl
@[simp] theorem cluster_setDie (s : State) (n j : Nat) (k : Die) : (s.setDie n k).cluster j = s.cluster j := rfl
@[simp] theorem group_setDie (s : State) (n j : Nat) (k : Die) : (s.setDie n k).group j = s.group j := rfl

@[simp] theorem setTower_agenda (s : State) (n : Nat) (k : Tower) : (s.setTower n k).agenda = s.agenda := rfl
@[simp] theorem setTower_cur (s : State) (n : Nat) (k : Tower) : (s.setTower n k).cur = s.cur := rfl
@[simp] theorem setTower_freeCtr (s : State) (n : Nat) (k : Tower) : (s.setTower n k).freeCtr = s.freeCtr := rfl
@[simp] theorem setTower_outbox (s : State) (n : Nat) (k : Tower) : (s.setTower n k).outbox = s.outbox := rfl
@[simp] theorem setTower_powered (s : State) (n : Nat) (k : Tower) : (s.setTower n k).powered = s.powered := rfl
@[simp] theorem setTower_time (s : State) (n : Nat) (k : Tower) : (s.setTower n k).time = s.time := rfl
@[simp] theorem setTower_mem (s : State) (n : Nat) (k : Tower) : (s.setTower n k).mem = s.mem := rfl
@[simp] theorem setTower_crypt (s : State) (n : Nat) (k : Tower) : (s.setTower n k).crypt = s.crypt := rfl
@[simp] theorem setTower_cores (s : State) (n : Nat) (k : Tower) : (s.setTower n k).cores = s.cores := rfl
@[simp] theorem setTower_pairs (s : State) (n : Nat) (k : Tower) : (s.setTower n k).pairs = s.pairs := rfl
@[simp] theorem setTower_clusters (s : State) (n : Nat) (k : Tower) : (s.setTower n k).clusters = s.clusters := rfl
@[simp] theorem setTower_dies (s : State) (n : Nat) (k : Tower) : (s.setTower n k).dies = s.dies := rfl
@[simp] theorem setTower_groups (s : State) (n : Nat) (k : Tower) : (s.setTower n k).groups = s.groups := rfl
@[simp] theorem setTower_dmr (s : State) (n : Nat) (k : Tower) : (s.setTower n k).dmr = s.dmr := rfl
@[simp] theorem setTower_ckptStat (s : State) (n : Nat) (k : Tower) : (s.setTower n k).ckptStat = s.ckptStat := rfl
@[simp] theorem setTower_trcCtl (s : State) (n : Nat) (k : Tower) : (s.setTower n k).trcCtl = s.trcCtl := rfl
@[simp] theorem setTower_trcQ (s : State) (n : Nat) (k : Tower) : (s.setTower n k).trcQ = s.trcQ := rfl
@[simp] theorem setTower_repBusy (s : State) (n : Nat) (k : Tower) : (s.setTower n k).repBusy = s.repBusy := rfl
@[simp] theorem tower_setTower (s : State) (n : Nat) (k : Tower) : (s.setTower n k).tower n = k := look_put_same _ _ _ _
theorem tower_setTower_other (s : State) {n j : Nat} (k : Tower) (h : j ≠ n) : (s.setTower n k).tower j = s.tower j := look_put_other _ _ _ h
@[simp] theorem core_setTower (s : State) (n j : Nat) (k : Tower) : (s.setTower n k).core j = s.core j := rfl
@[simp] theorem pair_setTower (s : State) (n j : Nat) (k : Tower) : (s.setTower n k).pair j = s.pair j := rfl
@[simp] theorem die_setTower (s : State) (n j : Nat) (k : Tower) : (s.setTower n k).die j = s.die j := rfl
@[simp] theorem cluster_setTower (s : State) (n j : Nat) (k : Tower) : (s.setTower n k).cluster j = s.cluster j := rfl
@[simp] theorem group_setTower (s : State) (n j : Nat) (k : Tower) : (s.setTower n k).group j = s.group j := rfl

@[simp] theorem setCluster_agenda (s : State) (n : Nat) (k : Cluster) : (s.setCluster n k).agenda = s.agenda := rfl
@[simp] theorem setCluster_cur (s : State) (n : Nat) (k : Cluster) : (s.setCluster n k).cur = s.cur := rfl
@[simp] theorem setCluster_freeCtr (s : State) (n : Nat) (k : Cluster) : (s.setCluster n k).freeCtr = s.freeCtr := rfl
@[simp] theorem setCluster_outbox (s : State) (n : Nat) (k : Cluster) : (s.setCluster n k).outbox = s.outbox := rfl
@[simp] theorem setCluster_powered (s : State) (n : Nat) (k : Cluster) : (s.setCluster n k).powered = s.powered := rfl
@[simp] theorem setCluster_time (s : State) (n : Nat) (k : Cluster) : (s.setCluster n k).time = s.time := rfl
@[simp] theorem setCluster_mem (s : State) (n : Nat) (k : Cluster) : (s.setCluster n k).mem = s.mem := rfl
@[simp] theorem setCluster_crypt (s : State) (n : Nat) (k : Cluster) : (s.setCluster n k).crypt = s.crypt := rfl
@[simp] theorem setCluster_cores (s : State) (n : Nat) (k : Cluster) : (s.setCluster n k).cores = s.cores := rfl
@[simp] theorem setCluster_pairs (s : State) (n : Nat) (k : Cluster) : (s.setCluster n k).pairs = s.pairs := rfl
@[simp] theorem setCluster_dies (s : State) (n : Nat) (k : Cluster) : (s.setCluster n k).dies = s.dies := rfl
@[simp] theorem setCluster_towers (s : State) (n : Nat) (k : Cluster) : (s.setCluster n k).towers = s.towers := rfl
@[simp] theorem setCluster_groups (s : State) (n : Nat) (k : Cluster) : (s.setCluster n k).groups = s.groups := rfl
@[simp] theorem setCluster_dmr (s : State) (n : Nat) (k : Cluster) : (s.setCluster n k).dmr = s.dmr := rfl
@[simp] theorem setCluster_ckptStat (s : State) (n : Nat) (k : Cluster) : (s.setCluster n k).ckptStat = s.ckptStat := rfl
@[simp] theorem setCluster_trcCtl (s : State) (n : Nat) (k : Cluster) : (s.setCluster n k).trcCtl = s.trcCtl := rfl
@[simp] theorem setCluster_trcQ (s : State) (n : Nat) (k : Cluster) : (s.setCluster n k).trcQ = s.trcQ := rfl
@[simp] theorem setCluster_repBusy (s : State) (n : Nat) (k : Cluster) : (s.setCluster n k).repBusy = s.repBusy := rfl
@[simp] theorem cluster_setCluster (s : State) (n : Nat) (k : Cluster) : (s.setCluster n k).cluster n = k := look_put_same _ _ _ _
theorem cluster_setCluster_other (s : State) {n j : Nat} (k : Cluster) (h : j ≠ n) : (s.setCluster n k).cluster j = s.cluster j := look_put_other _ _ _ h
@[simp] theorem core_setCluster (s : State) (n j : Nat) (k : Cluster) : (s.setCluster n k).core j = s.core j := rfl
@[simp] theorem pair_setCluster (s : State) (n j : Nat) (k : Cluster) : (s.setCluster n k).pair j = s.pair j := rfl
@[simp] theorem die_setCluster (s : State) (n j : Nat) (k : Cluster) : (s.setCluster n k).die j = s.die j := rfl
@[simp] theorem tower_setCluster (s : State) (n j : Nat) (k : Cluster) : (s.setCluster n k).tower j = s.tower j := rfl
@[simp] theorem group_setCluster (s : State) (n j : Nat) (k : Cluster) : (s.setCluster n k).group j = s.group j := rfl

@[simp] theorem setGroup_agenda (s : State) (n : Nat) (k : Group) : (s.setGroup n k).agenda = s.agenda := rfl
@[simp] theorem setGroup_cur (s : State) (n : Nat) (k : Group) : (s.setGroup n k).cur = s.cur := rfl
@[simp] theorem setGroup_freeCtr (s : State) (n : Nat) (k : Group) : (s.setGroup n k).freeCtr = s.freeCtr := rfl
@[simp] theorem setGroup_outbox (s : State) (n : Nat) (k : Group) : (s.setGroup n k).outbox = s.outbox := rfl
@[simp] theorem setGroup_powered (s : State) (n : Nat) (k : Group) : (s.setGroup n k).powered = s.powered := rfl
@[simp] theorem setGroup_time (s : State) (n : Nat) (k : Group) : (s.setGroup n k).time = s.time := rfl
@[simp] theorem setGroup_mem (s : State) (n : Nat) (k : Group) : (s.setGroup n k).mem = s.mem := rfl
@[simp] theorem setGroup_crypt (s : State) (n : Nat) (k : Group) : (s.setGroup n k).crypt = s.crypt := rfl
@[simp] theorem setGroup_cores (s : State) (n : Nat) (k : Group) : (s.setGroup n k).cores = s.cores := rfl
@[simp] theorem setGroup_pairs (s : State) (n : Nat) (k : Group) : (s.setGroup n k).pairs = s.pairs := rfl
@[simp] theorem setGroup_clusters (s : State) (n : Nat) (k : Group) : (s.setGroup n k).clusters = s.clusters := rfl
@[simp] theorem setGroup_dies (s : State) (n : Nat) (k : Group) : (s.setGroup n k).dies = s.dies := rfl
@[simp] theorem setGroup_towers (s : State) (n : Nat) (k : Group) : (s.setGroup n k).towers = s.towers := rfl
@[simp] theorem setGroup_dmr (s : State) (n : Nat) (k : Group) : (s.setGroup n k).dmr = s.dmr := rfl
@[simp] theorem setGroup_ckptStat (s : State) (n : Nat) (k : Group) : (s.setGroup n k).ckptStat = s.ckptStat := rfl
@[simp] theorem setGroup_trcCtl (s : State) (n : Nat) (k : Group) : (s.setGroup n k).trcCtl = s.trcCtl := rfl
@[simp] theorem setGroup_trcQ (s : State) (n : Nat) (k : Group) : (s.setGroup n k).trcQ = s.trcQ := rfl
@[simp] theorem setGroup_repBusy (s : State) (n : Nat) (k : Group) : (s.setGroup n k).repBusy = s.repBusy := rfl
@[simp] theorem group_setGroup (s : State) (n : Nat) (k : Group) : (s.setGroup n k).group n = k := look_put_same _ _ _ _
theorem group_setGroup_other (s : State) {n j : Nat} (k : Group) (h : j ≠ n) : (s.setGroup n k).group j = s.group j := look_put_other _ _ _ h
@[simp] theorem core_setGroup (s : State) (n j : Nat) (k : Group) : (s.setGroup n k).core j = s.core j := rfl
@[simp] theorem pair_setGroup (s : State) (n j : Nat) (k : Group) : (s.setGroup n k).pair j = s.pair j := rfl
@[simp] theorem die_setGroup (s : State) (n j : Nat) (k : Group) : (s.setGroup n k).die j = s.die j := rfl
@[simp] theorem tower_setGroup (s : State) (n j : Nat) (k : Group) : (s.setGroup n k).tower j = s.tower j := rfl
@[simp] theorem cluster_setGroup (s : State) (n j : Nat) (k : Group) : (s.setGroup n k).cluster j = s.cluster j := rfl

/-! ## The parts of a core -/

@[simp] theorem Core.setSeq_strm (k : Core) (e : Eng) (q : Seq) : (k.setSeq e q).strm = k.strm := rfl
@[simp] theorem Core.setCtl_strm (k : Core) (l : Leader) (t : Ctl) : (k.setCtl l t).strm = k.strm := by cases l <;> rfl
@[simp] theorem Core.setStr_lcc (k : Core) (x : Stream) (m : Strm) : (k.setStr x m).lcc = k.lcc := rfl
@[simp] theorem Core.setSeq_lcc (k : Core) (e : Eng) (q : Seq) : (k.setSeq e q).lcc = k.lcc := rfl
@[simp] theorem Core.setStr_ccc (k : Core) (x : Stream) (m : Strm) : (k.setStr x m).ccc = k.ccc := rfl
@[simp] theorem Core.setSeq_ccc (k : Core) (e : Eng) (q : Seq) : (k.setSeq e q).ccc = k.ccc := rfl
@[simp] theorem Core.setStr_seqs (k : Core) (x : Stream) (m : Strm) : (k.setStr x m).seqs = k.seqs := rfl
@[simp] theorem Core.setCtl_seqs (k : Core) (l : Leader) (t : Ctl) : (k.setCtl l t).seqs = k.seqs := by cases l <;> rfl
@[simp] theorem Core.setStr_tk (k : Core) (x : Stream) (m : Strm) : (k.setStr x m).tk = k.tk := rfl
@[simp] theorem Core.setSeq_tk (k : Core) (e : Eng) (q : Seq) : (k.setSeq e q).tk = k.tk := rfl
@[simp] theorem Core.setCtl_tk (k : Core) (l : Leader) (t : Ctl) : (k.setCtl l t).tk = k.tk := by cases l <;> rfl
@[simp] theorem Core.setStr_sem (k : Core) (x : Stream) (m : Strm) : (k.setStr x m).sem = k.sem := rfl
@[simp] theorem Core.setSeq_sem (k : Core) (e : Eng) (q : Seq) : (k.setSeq e q).sem = k.sem := rfl
@[simp] theorem Core.setCtl_sem (k : Core) (l : Leader) (t : Ctl) : (k.setCtl l t).sem = k.sem := by cases l <;> rfl
@[simp] theorem Core.setStr_q (k : Core) (x : Stream) (m : Strm) : (k.setStr x m).q = k.q := rfl
@[simp] theorem Core.setSeq_q (k : Core) (e : Eng) (q : Seq) : (k.setSeq e q).q = k.q := rfl
@[simp] theorem Core.setCtl_q (k : Core) (l : Leader) (t : Ctl) : (k.setCtl l t).q = k.q := by cases l <;> rfl
@[simp] theorem Core.setStr_mx (k : Core) (x : Stream) (m : Strm) : (k.setStr x m).mx = k.mx := rfl
@[simp] theorem Core.setSeq_mx (k : Core) (e : Eng) (q : Seq) : (k.setSeq e q).mx = k.mx := rfl
@[simp] theorem Core.setCtl_mx (k : Core) (l : Leader) (t : Ctl) : (k.setCtl l t).mx = k.mx := by cases l <;> rfl
@[simp] theorem Core.setStr_mxBad (k : Core) (x : Stream) (m : Strm) : (k.setStr x m).mxBad = k.mxBad := rfl
@[simp] theorem Core.setSeq_mxBad (k : Core) (e : Eng) (q : Seq) : (k.setSeq e q).mxBad = k.mxBad := rfl
@[simp] theorem Core.setCtl_mxBad (k : Core) (l : Leader) (t : Ctl) : (k.setCtl l t).mxBad = k.mxBad := by cases l <;> rfl
@[simp] theorem Core.setStr_ttCfg (k : Core) (x : Stream) (m : Strm) : (k.setStr x m).ttCfg = k.ttCfg := rfl
@[simp] theorem Core.setSeq_ttCfg (k : Core) (e : Eng) (q : Seq) : (k.setSeq e q).ttCfg = k.ttCfg := rfl
@[simp] theorem Core.setCtl_ttCfg (k : Core) (l : Leader) (t : Ctl) : (k.setCtl l t).ttCfg = k.ttCfg := by cases l <;> rfl
@[simp] theorem Core.setStr_tt (k : Core) (x : Stream) (m : Strm) : (k.setStr x m).tt = k.tt := rfl
@[simp] theorem Core.setSeq_tt (k : Core) (e : Eng) (q : Seq) : (k.setSeq e q).tt = k.tt := rfl
@[simp] theorem Core.setCtl_tt (k : Core) (l : Leader) (t : Ctl) : (k.setCtl l t).tt = k.tt := by cases l <;> rfl
@[simp] theorem Core.setStr_rr (k : Core) (x : Stream) (m : Strm) : (k.setStr x m).rr = k.rr := rfl
@[simp] theorem Core.setSeq_rr (k : Core) (e : Eng) (q : Seq) : (k.setSeq e q).rr = k.rr := rfl
@[simp] theorem Core.setCtl_rr (k : Core) (l : Leader) (t : Ctl) : (k.setCtl l t).rr = k.rr := by cases l <;> rfl
@[simp] theorem Core.setStr_loading (k : Core) (x : Stream) (m : Strm) : (k.setStr x m).loading = k.loading := rfl
@[simp] theorem Core.setSeq_loading (k : Core) (e : Eng) (q : Seq) : (k.setSeq e q).loading = k.loading := rfl
@[simp] theorem Core.setCtl_loading (k : Core) (l : Leader) (t : Ctl) : (k.setCtl l t).loading = k.loading := by cases l <;> rfl
@[simp] theorem Core.setStr_ovl (k : Core) (x : Stream) (m : Strm) : (k.setStr x m).ovl = k.ovl := rfl
@[simp] theorem Core.setSeq_ovl (k : Core) (e : Eng) (q : Seq) : (k.setSeq e q).ovl = k.ovl := rfl
@[simp] theorem Core.setCtl_ovl (k : Core) (l : Leader) (t : Ctl) : (k.setCtl l t).ovl = k.ovl := by cases l <;> rfl
@[simp] theorem Core.setStr_undef (k : Core) (x : Stream) (m : Strm) : (k.setStr x m).undef = k.undef := rfl
@[simp] theorem Core.setSeq_undef (k : Core) (e : Eng) (q : Seq) : (k.setSeq e q).undef = k.undef := rfl
@[simp] theorem Core.setCtl_undef (k : Core) (l : Leader) (t : Ctl) : (k.setCtl l t).undef = k.undef := by cases l <;> rfl
@[simp] theorem Core.setStr_ascLtb (k : Core) (x : Stream) (m : Strm) : (k.setStr x m).ascLtb = k.ascLtb := rfl
@[simp] theorem Core.setSeq_ascLtb (k : Core) (e : Eng) (q : Seq) : (k.setSeq e q).ascLtb = k.ascLtb := rfl
@[simp] theorem Core.setCtl_ascLtb (k : Core) (l : Leader) (t : Ctl) : (k.setCtl l t).ascLtb = k.ascLtb := by cases l <;> rfl
@[simp] theorem Core.setStr_ascRoot (k : Core) (x : Stream) (m : Strm) : (k.setStr x m).ascRoot = k.ascRoot := rfl
@[simp] theorem Core.setSeq_ascRoot (k : Core) (e : Eng) (q : Seq) : (k.setSeq e q).ascRoot = k.ascRoot := rfl
@[simp] theorem Core.setCtl_ascRoot (k : Core) (l : Leader) (t : Ctl) : (k.setCtl l t).ascRoot = k.ascRoot := by cases l <;> rfl
@[simp] theorem Core.setStr_race0 (k : Core) (x : Stream) (m : Strm) : (k.setStr x m).race0 = k.race0 := rfl
@[simp] theorem Core.setSeq_race0 (k : Core) (e : Eng) (q : Seq) : (k.setSeq e q).race0 = k.race0 := rfl
@[simp] theorem Core.setCtl_race0 (k : Core) (l : Leader) (t : Ctl) : (k.setCtl l t).race0 = k.race0 := by cases l <;> rfl
@[simp] theorem Core.setStr_race1 (k : Core) (x : Stream) (m : Strm) : (k.setStr x m).race1 = k.race1 := rfl
@[simp] theorem Core.setSeq_race1 (k : Core) (e : Eng) (q : Seq) : (k.setSeq e q).race1 = k.race1 := rfl
@[simp] theorem Core.setCtl_race1 (k : Core) (l : Leader) (t : Ctl) : (k.setCtl l t).race1 = k.race1 := by cases l <;> rfl
@[simp] theorem Core.setStr_meFlags (k : Core) (x : Stream) (m : Strm) : (k.setStr x m).meFlags = k.meFlags := rfl
@[simp] theorem Core.setSeq_meFlags (k : Core) (e : Eng) (q : Seq) : (k.setSeq e q).meFlags = k.meFlags := rfl
@[simp] theorem Core.setCtl_meFlags (k : Core) (l : Leader) (t : Ctl) : (k.setCtl l t).meFlags = k.meFlags := by cases l <;> rfl
@[simp] theorem Core.setStr_lent (k : Core) (x : Stream) (m : Strm) : (k.setStr x m).lent = k.lent := rfl
@[simp] theorem Core.setSeq_lent (k : Core) (e : Eng) (q : Seq) : (k.setSeq e q).lent = k.lent := rfl
@[simp] theorem Core.setCtl_lent (k : Core) (l : Leader) (t : Ctl) : (k.setCtl l t).lent = k.lent := by cases l <;> rfl
@[simp] theorem Core.setStr_unitTag (k : Core) (x : Stream) (m : Strm) : (k.setStr x m).unitTag = k.unitTag := rfl
@[simp] theorem Core.setSeq_unitTag (k : Core) (e : Eng) (q : Seq) : (k.setSeq e q).unitTag = k.unitTag := rfl
@[simp] theorem Core.setCtl_unitTag (k : Core) (l : Leader) (t : Ctl) : (k.setCtl l t).unitTag = k.unitTag := by cases l <;> rfl
@[simp] theorem Core.setStr_banks (k : Core) (x : Stream) (m : Strm) : (k.setStr x m).banks = k.banks := rfl
@[simp] theorem Core.setSeq_banks (k : Core) (e : Eng) (q : Seq) : (k.setSeq e q).banks = k.banks := rfl
@[simp] theorem Core.setCtl_banks (k : Core) (l : Leader) (t : Ctl) : (k.setCtl l t).banks = k.banks := by cases l <;> rfl
@[simp] theorem Core.setStr_veFlags (k : Core) (x : Stream) (m : Strm) : (k.setStr x m).veFlags = k.veFlags := rfl
@[simp] theorem Core.setSeq_veFlags (k : Core) (e : Eng) (q : Seq) : (k.setSeq e q).veFlags = k.veFlags := rfl
@[simp] theorem Core.setCtl_veFlags (k : Core) (l : Leader) (t : Ctl) : (k.setCtl l t).veFlags = k.veFlags := by cases l <;> rfl
@[simp] theorem Core.setStr_rngMe (k : Core) (x : Stream) (m : Strm) : (k.setStr x m).rngMe = k.rngMe := rfl
@[simp] theorem Core.setSeq_rngMe (k : Core) (e : Eng) (q : Seq) : (k.setSeq e q).rngMe = k.rngMe := rfl
@[simp] theorem Core.setCtl_rngMe (k : Core) (l : Leader) (t : Ctl) : (k.setCtl l t).rngMe = k.rngMe := by cases l <;> rfl
@[simp] theorem Core.setStr_rngVe (k : Core) (x : Stream) (m : Strm) : (k.setStr x m).rngVe = k.rngVe := rfl
@[simp] theorem Core.setSeq_rngVe (k : Core) (e : Eng) (q : Seq) : (k.setSeq e q).rngVe = k.rngVe := rfl
@[simp] theorem Core.setCtl_rngVe (k : Core) (l : Leader) (t : Ctl) : (k.setCtl l t).rngVe = k.rngVe := by cases l <;> rfl
@[simp] theorem Core.setStr_collInfo (k : Core) (x : Stream) (m : Strm) : (k.setStr x m).collInfo = k.collInfo := rfl
@[simp] theorem Core.setSeq_collInfo (k : Core) (e : Eng) (q : Seq) : (k.setSeq e q).collInfo = k.collInfo := rfl
@[simp] theorem Core.setCtl_collInfo (k : Core) (l : Leader) (t : Ctl) : (k.setCtl l t).collInfo = k.collInfo := by cases l <;> rfl
@[simp] theorem Core.setStr_seamH1 (k : Core) (x : Stream) (m : Strm) : (k.setStr x m).seamH1 = k.seamH1 := rfl
@[simp] theorem Core.setSeq_seamH1 (k : Core) (e : Eng) (q : Seq) : (k.setSeq e q).seamH1 = k.seamH1 := rfl
@[simp] theorem Core.setCtl_seamH1 (k : Core) (l : Leader) (t : Ctl) : (k.setCtl l t).seamH1 = k.seamH1 := by cases l <;> rfl
@[simp] theorem Core.setStr_seamH2 (k : Core) (x : Stream) (m : Strm) : (k.setStr x m).seamH2 = k.seamH2 := rfl
@[simp] theorem Core.setSeq_seamH2 (k : Core) (e : Eng) (q : Seq) : (k.setSeq e q).seamH2 = k.seamH2 := rfl
@[simp] theorem Core.setCtl_seamH2 (k : Core) (l : Leader) (t : Ctl) : (k.setCtl l t).seamH2 = k.seamH2 := by cases l <;> rfl
@[simp] theorem Core.setStr_seamN (k : Core) (x : Stream) (m : Strm) : (k.setStr x m).seamN = k.seamN := rfl
@[simp] theorem Core.setSeq_seamN (k : Core) (e : Eng) (q : Seq) : (k.setSeq e q).seamN = k.seamN := rfl
@[simp] theorem Core.setCtl_seamN (k : Core) (l : Leader) (t : Ctl) : (k.setCtl l t).seamN = k.seamN := by cases l <;> rfl
@[simp] theorem Core.setStr_reqSeq (k : Core) (x : Stream) (m : Strm) : (k.setStr x m).reqSeq = k.reqSeq := rfl
@[simp] theorem Core.setSeq_reqSeq (k : Core) (e : Eng) (q : Seq) : (k.setSeq e q).reqSeq = k.reqSeq := rfl
@[simp] theorem Core.setCtl_reqSeq (k : Core) (l : Leader) (t : Ctl) : (k.setCtl l t).reqSeq = k.reqSeq := by cases l <;> rfl
@[simp] theorem Core.setStr_slots (k : Core) (x : Stream) (m : Strm) : (k.setStr x m).slots = k.slots := rfl
@[simp] theorem Core.setSeq_slots (k : Core) (e : Eng) (q : Seq) : (k.setSeq e q).slots = k.slots := rfl
@[simp] theorem Core.setCtl_slots (k : Core) (l : Leader) (t : Ctl) : (k.setCtl l t).slots = k.slots := by cases l <;> rfl
@[simp] theorem Core.setStr_qtmo (k : Core) (x : Stream) (m : Strm) : (k.setStr x m).qtmo = k.qtmo := rfl
@[simp] theorem Core.setSeq_qtmo (k : Core) (e : Eng) (q : Seq) : (k.setSeq e q).qtmo = k.qtmo := rfl
@[simp] theorem Core.setCtl_qtmo (k : Core) (l : Leader) (t : Ctl) : (k.setCtl l t).qtmo = k.qtmo := by cases l <;> rfl
@[simp] theorem Core.setStr_busy (k : Core) (x : Stream) (m : Strm) : (k.setStr x m).busy = k.busy := rfl
@[simp] theorem Core.setSeq_busy (k : Core) (e : Eng) (q : Seq) : (k.setSeq e q).busy = k.busy := rfl
@[simp] theorem Core.setCtl_busy (k : Core) (l : Leader) (t : Ctl) : (k.setCtl l t).busy = k.busy := by cases l <;> rfl
@[simp] theorem Core.setStr_stopReq (k : Core) (x : Stream) (m : Strm) : (k.setStr x m).stopReq = k.stopReq := rfl
@[simp] theorem Core.setSeq_stopReq (k : Core) (e : Eng) (q : Seq) : (k.setSeq e q).stopReq = k.stopReq := rfl
@[simp] theorem Core.setCtl_stopReq (k : Core) (l : Leader) (t : Ctl) : (k.setCtl l t).stopReq = k.stopReq := by cases l <;> rfl
@[simp] theorem Core.setStr_licHeld (k : Core) (x : Stream) (m : Strm) : (k.setStr x m).licHeld = k.licHeld := rfl
@[simp] theorem Core.setSeq_licHeld (k : Core) (e : Eng) (q : Seq) : (k.setSeq e q).licHeld = k.licHeld := rfl
@[simp] theorem Core.setCtl_licHeld (k : Core) (l : Leader) (t : Ctl) : (k.setCtl l t).licHeld = k.licHeld := by cases l <;> rfl
@[simp] theorem Core.setStr_licReq (k : Core) (x : Stream) (m : Strm) : (k.setStr x m).licReq = k.licReq := rfl
@[simp] theorem Core.setSeq_licReq (k : Core) (e : Eng) (q : Seq) : (k.setSeq e q).licReq = k.licReq := rfl
@[simp] theorem Core.setCtl_licReq (k : Core) (l : Leader) (t : Ctl) : (k.setCtl l t).licReq = k.licReq := by cases l <;> rfl
@[simp] theorem Core.setStr_saved (k : Core) (x : Stream) (m : Strm) : (k.setStr x m).saved = k.saved := rfl
@[simp] theorem Core.setSeq_saved (k : Core) (e : Eng) (q : Seq) : (k.setSeq e q).saved = k.saved := rfl
@[simp] theorem Core.setCtl_saved (k : Core) (l : Leader) (t : Ctl) : (k.setCtl l t).saved = k.saved := by cases l <;> rfl
@[simp] theorem Core.setStr_dump (k : Core) (x : Stream) (m : Strm) : (k.setStr x m).dump = k.dump := rfl
@[simp] theorem Core.setSeq_dump (k : Core) (e : Eng) (q : Seq) : (k.setSeq e q).dump = k.dump := rfl
@[simp] theorem Core.setCtl_dump (k : Core) (l : Leader) (t : Ctl) : (k.setCtl l t).dump = k.dump := by cases l <;> rfl
@[simp] theorem Core.setStr_flight (k : Core) (x : Stream) (m : Strm) : (k.setStr x m).flight = k.flight := rfl
@[simp] theorem Core.setSeq_flight (k : Core) (e : Eng) (q : Seq) : (k.setSeq e q).flight = k.flight := rfl
@[simp] theorem Core.setCtl_flight (k : Core) (l : Leader) (t : Ctl) : (k.setCtl l t).flight = k.flight := by cases l <;> rfl
@[simp] theorem Core.setStr_sels (k : Core) (x : Stream) (m : Strm) : (k.setStr x m).sels = k.sels := rfl
@[simp] theorem Core.setSeq_sels (k : Core) (e : Eng) (q : Seq) : (k.setSeq e q).sels = k.sels := rfl
@[simp] theorem Core.setCtl_sels (k : Core) (l : Leader) (t : Ctl) : (k.setCtl l t).sels = k.sels := by cases l <;> rfl
@[simp] theorem Core.setStr_scyc (k : Core) (x : Stream) (m : Strm) : (k.setStr x m).scyc = k.scyc := rfl
@[simp] theorem Core.setSeq_scyc (k : Core) (e : Eng) (q : Seq) : (k.setSeq e q).scyc = k.scyc := rfl
@[simp] theorem Core.setCtl_scyc (k : Core) (l : Leader) (t : Ctl) : (k.setCtl l t).scyc = k.scyc := by cases l <;> rfl
@[simp] theorem Core.setStr_scycFr (k : Core) (x : Stream) (m : Strm) : (k.setStr x m).scycFr = k.scycFr := rfl
@[simp] theorem Core.setSeq_scycFr (k : Core) (e : Eng) (q : Seq) : (k.setSeq e q).scycFr = k.scycFr := rfl
@[simp] theorem Core.setCtl_scycFr (k : Core) (l : Leader) (t : Ctl) : (k.setCtl l t).scycFr = k.scycFr := by cases l <;> rfl
@[simp] theorem Core.setStr_haltSc (k : Core) (x : Stream) (m : Strm) : (k.setStr x m).haltSc = k.haltSc := rfl
@[simp] theorem Core.setSeq_haltSc (k : Core) (e : Eng) (q : Seq) : (k.setSeq e q).haltSc = k.haltSc := rfl
@[simp] theorem Core.setCtl_haltSc (k : Core) (l : Leader) (t : Ctl) : (k.setCtl l t).haltSc = k.haltSc := by cases l <;> rfl

theorem streamNo_inj {x y : Stream} (h : streamNo x = streamNo y) : x = y := by cases x <;> cases y <;> first | rfl | cases h
theorem engNo_inj {x y : Eng} (h : engNo x = engNo y) : x = y := by cases x <;> cases y <;> first | rfl | cases h

@[simp] theorem Core.str_setStr (k : Core) (x : Stream) (m : Strm) : (k.setStr x m).str x = m := look_put_same _ _ _ _
theorem Core.str_setStr_other (k : Core) {x y : Stream} (m : Strm) (h : y ≠ x) : (k.setStr x m).str y = k.str y :=
  look_put_other _ _ _ fun e => h (streamNo_inj e)
@[simp] theorem Core.ctl_setStr (k : Core) (x : Stream) (m : Strm) (l : Leader) : (k.setStr x m).ctl l = k.ctl l := by cases l <;> rfl
@[simp] theorem Core.seq_setStr (k : Core) (x : Stream) (m : Strm) (e : Eng) : (k.setStr x m).seq e = k.seq e := rfl
@[simp] theorem Core.ctl_setCtl (k : Core) (l : Leader) (t : Ctl) : (k.setCtl l t).ctl l = t := by cases l <;> rfl
theorem Core.ctl_setCtl_other (k : Core) {l j : Leader} (t : Ctl) (h : j ≠ l) : (k.setCtl l t).ctl j = k.ctl j := by
  cases l <;> cases j <;> first | rfl | exact absurd rfl h
@[simp] theorem Core.str_setCtl (k : Core) (l : Leader) (t : Ctl) (x : Stream) : (k.setCtl l t).str x = k.str x := by cases l <;> rfl
@[simp] theorem Core.seq_setCtl (k : Core) (l : Leader) (t : Ctl) (e : Eng) : (k.setCtl l t).seq e = k.seq e := by cases l <;> rfl
@[simp] theorem Core.seq_setSeq (k : Core) (e : Eng) (q : Seq) : (k.setSeq e q).seq e = q := look_put_same _ _ _ _
theorem Core.seq_setSeq_other (k : Core) {e j : Eng} (q : Seq) (h : j ≠ e) : (k.setSeq e q).seq j = k.seq j :=
  look_put_other _ _ _ fun n => h (engNo_inj n)
@[simp] theorem Core.str_setSeq (k : Core) (e : Eng) (q : Seq) (x : Stream) : (k.setSeq e q).str x = k.str x := rfl
@[simp] theorem Core.ctl_setSeq (k : Core) (e : Eng) (q : Seq) (l : Leader) : (k.setSeq e q).ctl l = k.ctl l := by cases l <;> rfl

/-! ## Registers of a control core (R169, R192) -/

@[simp] theorem Ctl.rdS_zero (t : Ctl) : t.rdS 0 = 0 := rfl
@[simp] theorem Ctl.rdP_zero (t : Ctl) : t.rdP 0 = true := rfl
theorem Ctl.rdS_wrS (t : Ctl) (d n : Nat) (v : Word) : (t.wrS d v).rdS n = if n = d ∧ d ≠ 0 then v else t.rdS n := by
  unfold Ctl.wrS Ctl.rdS
  by_cases hd : d = 0
  · subst d; simp
  · by_cases hn : n = 0
    · subst n; simp [Ne.symm hd]
    · by_cases h : n = d
      · subst h; simp [hn]
      · simp [hd, hn, h]
theorem Ctl.rdP_wrP (t : Ctl) (d n : Nat) (v : Bool) : (t.wrP d v).rdP n = if n = d ∧ d ≠ 0 then v else t.rdP n := by
  unfold Ctl.wrP Ctl.rdP
  by_cases hd : d = 0
  · subst d; simp
  · by_cases hn : n = 0
    · subst n; simp [Ne.symm hd]
    · by_cases h : n = d
      · subst h; simp [hn]
      · simp [hd, hn, h]
theorem Ctl.rdH_wrH (t : Ctl) (d n : Nat) (v : Handle) : (t.wrH d v).rdH n = if n = d then v else t.rdH n := by
  unfold Ctl.wrH Ctl.rdH
  by_cases h : n = d
  · subst h; simp
  · simp [h]
@[simp] theorem Ctl.wrS_rdP (t : Ctl) (d n : Nat) (v : Word) : (t.wrS d v).rdP n = t.rdP n := by by_cases h : d = 0 <;> simp [Ctl.wrS, Ctl.rdP, h]
@[simp] theorem Ctl.wrS_rdH (t : Ctl) (d n : Nat) (v : Word) : (t.wrS d v).rdH n = t.rdH n := by unfold Ctl.wrS Ctl.rdH; split <;> rfl
@[simp] theorem Ctl.wrP_rdS (t : Ctl) (d n : Nat) (v : Bool) : (t.wrP d v).rdS n = t.rdS n := by by_cases h : d = 0 <;> simp [Ctl.wrP, Ctl.rdS, h]
@[simp] theorem Ctl.wrP_rdH (t : Ctl) (d n : Nat) (v : Bool) : (t.wrP d v).rdH n = t.rdH n := by unfold Ctl.wrP Ctl.rdH; split <;> rfl
@[simp] theorem Ctl.wrH_rdS (t : Ctl) (d n : Nat) (v : Handle) : (t.wrH d v).rdS n = t.rdS n := rfl
@[simp] theorem Ctl.wrH_rdP (t : Ctl) (d n : Nat) (v : Handle) : (t.wrH d v).rdP n = t.rdP n := rfl

/-! ## The executing control core -/

@[simp] theorem me_setMe (s : State) (t : Ctl) : (s.setMe t).me = t := by
  simp [State.setMe, State.me, State.setCtlOf, State.ctlOf, State.cc, State.cl]
@[simp] theorem setMe_cur (s : State) (t : Ctl) : (s.setMe t).cur = s.cur := rfl
@[simp] theorem setMe_mem (s : State) (t : Ctl) : (s.setMe t).mem = s.mem := rfl
@[simp] theorem setMe_powered (s : State) (t : Ctl) : (s.setMe t).powered = s.powered := rfl
@[simp] theorem setMe_myStr (s : State) (t : Ctl) : (s.setMe t).myStr = s.myStr := by
  simp [State.setMe, State.myStr, State.setCtlOf, State.str, State.cc, State.cl]
@[simp] theorem setMe_pc (s : State) (t : Ctl) : (s.setMe t).pc = s.pc := by simp [State.pc]
@[simp] theorem setMyStr_cur (s : State) (m : Strm) : (s.setMyStr m).cur = s.cur := rfl
@[simp] theorem setMyStr_mem (s : State) (m : Strm) : (s.setMyStr m).mem = s.mem := rfl
@[simp] theorem setMyStr_powered (s : State) (m : Strm) : (s.setMyStr m).powered = s.powered := rfl
@[simp] theorem myStr_setMyStr (s : State) (m : Strm) : (s.setMyStr m).myStr = m := by
  simp [State.setMyStr, State.myStr, State.setStr, State.str, State.cc]
@[simp] theorem me_setMyStr (s : State) (m : Strm) : (s.setMyStr m).me = s.me := by
  simp [State.setMyStr, State.me, State.setStr, State.ctlOf, State.cc, State.cl]
@[simp] theorem wrS_cur (s : State) (d : SReg) (v : Word) : (s.wrS d v).cur = s.cur := rfl
@[simp] theorem wrS_mem (s : State) (d : SReg) (v : Word) : (s.wrS d v).mem = s.mem := rfl
@[simp] theorem wrP_cur (s : State) (d : PReg) (v : Bool) : (s.wrP d v).cur = s.cur := rfl
@[simp] theorem wrP_mem (s : State) (d : PReg) (v : Bool) : (s.wrP d v).mem = s.mem := rfl
@[simp] theorem wrH_cur (s : State) (d : HReg) (v : Handle) : (s.wrH d v).cur = s.cur := rfl
@[simp] theorem wrH_mem (s : State) (d : HReg) (v : Handle) : (s.wrH d v).mem = s.mem := rfl
theorem rdS_wrS (s : State) (d n : SReg) (v : Word) : (s.wrS d v).rdS n = if n = d ∧ d.val ≠ 0 then v else s.rdS n := by
  simp only [State.wrS, State.rdS, me_setMe, Ctl.rdS_wrS, Fin.ext_iff]
theorem rdP_wrP (s : State) (d n : PReg) (v : Bool) : (s.wrP d v).rdP n = if n = d ∧ d.val ≠ 0 then v else s.rdP n := by
  simp only [State.wrP, State.rdP, me_setMe, Ctl.rdP_wrP, Fin.ext_iff]
theorem rdH_wrH (s : State) (d n : HReg) (v : Handle) : (s.wrH d v).rdH n = if n = d then v else s.rdH n := by
  simp only [State.wrH, State.rdH, me_setMe, Ctl.rdH_wrH, Fin.ext_iff]

end Sys2Proof.Machine
end

