-- ==== Sys2Proof/Laws/Effect.lean ====
section
/-! SUPPORT. How checked effects run: one lemma for each way of building one. -/
namespace Sys2Proof.Machine

@[simp] theorem go_pure {α : Type} (a : α) (s : State) : (pure a : M α).go s = (.ok a, s) := rfl
@[simp] theorem go_get (s : State) : (get : M State).go s = (.ok s, s) := rfl
@[simp] theorem go_set (t s : State) : (set t : M Unit).go s = (.ok (), t) := rfl
@[simp] theorem go_modify (f : State → State) (s : State) : (modify f : M Unit).go s = (.ok (), f s) := rfl
@[simp] theorem go_throw {α : Type} (x : Stop) (s : State) : (throw x : M α).go s = (.error x, s) := rfl
@[simp] theorem go_trapM {α : Type} (c : Cause) (n : Nat) (s : State) : (trapM c n : M α).go s = (.error (.trap ⟨c, n⟩), s) := rfl
@[simp] theorem go_waitM {α : Type} (w : Wait) (s : State) : (waitM w : M α).go s = (.error (.wait w), s) := rfl
@[simp] theorem go_needM_true (c : Cause) (n : Nat) (s : State) : (needM true c n).go s = (.ok (), s) := rfl
@[simp] theorem go_needM_false (c : Cause) (n : Nat) (s : State) : (needM false c n).go s = (.error (.trap ⟨c, n⟩), s) := rfl

/-- One effect after another. -/
theorem go_bind {α β : Type} (m : M α) (f : α → M β) (s : State) :
    (m >>= f).go s = match m.go s with
      | (.ok a, t) => (f a).go t
      | (.error x, t) => (.error x, t) := by
  show ExceptT.run (m >>= f) s = _
  simp only [bind, ExceptT.bind, ExceptT.bindCont, ExceptT.mk, ExceptT.run, StateT.bind, M.go]
  cases h : m s with
  | mk a t => cases a <;> rfl

/-- The second effect after a first that ends. -/
theorem go_bind_ok {α β : Type} {m : M α} {f : α → M β} {s t : State} {a : α} (h : m.go s = (.ok a, t)) :
    (m >>= f).go s = (f a).go t := by rw [go_bind, h]
/-- A first effect that stops ends both. -/
theorem go_bind_error {α β : Type} {m : M α} {f : α → M β} {s t : State} {x : Stop} (h : m.go s = (.error x, t)) :
    (m >>= f).go s = (.error x, t) := by rw [go_bind, h]
@[simp] theorem go_pure_bind {α β : Type} (a : α) (f : α → M β) (s : State) : ((pure a : M α) >>= f).go s = (f a).go s := by rw [go_bind]; rfl
@[simp] theorem go_get_bind {β : Type} (f : State → M β) (s : State) : ((get : M State) >>= f).go s = (f s).go s := by rw [go_bind]; rfl
@[simp] theorem go_set_bind {β : Type} (t : State) (f : Unit → M β) (s : State) : ((set t : M Unit) >>= f).go s = (f ()).go t := by
  rw [go_bind]; rfl
@[simp] theorem go_modify_bind {β : Type} (g : State → State) (f : Unit → M β) (s : State) :
    ((modify g : M Unit) >>= f).go s = (f ()).go (g s) := by rw [go_bind]; rfl
@[simp] theorem go_needM_bind {β : Type} (c : Cause) (n : Nat) (f : Unit → M β) (s : State) :
    (needM true c n >>= f).go s = (f ()).go s := by rw [go_bind]; rfl

end Sys2Proof.Machine
end

