-- ==== Sys2Proof/Laws/Exec.lean ====
section
/-! SUPPORT. The arm of every instruction, to rewrite with. -/
namespace Sys2Proof.Machine

theorem exec_add {gd d a b s} : exec (.add gd d a b) s = execAdd gd d a b s := rfl
theorem exec_sub {gd d a b s} : exec (.sub gd d a b) s = execSub gd d a b s := rfl
theorem exec_mul {gd d a b s} : exec (.mul gd d a b) s = execMul gd d a b s := rfl
theorem exec_mulh {gd d a b s} : exec (.mulh gd d a b) s = execMulh gd d a b s := rfl
theorem exec_mulhu {gd d a b s} : exec (.mulhu gd d a b) s = execMulhu gd d a b s := rfl
theorem exec_div {gd d a b s} : exec (.div gd d a b) s = execDiv gd d a b s := rfl
theorem exec_divu {gd d a b s} : exec (.divu gd d a b) s = execDivu gd d a b s := rfl
theorem exec_rem {gd d a b s} : exec (.rem gd d a b) s = execRem gd d a b s := rfl
theorem exec_remu {gd d a b s} : exec (.remu gd d a b) s = execRemu gd d a b s := rfl
theorem exec_min {gd d a b s} : exec (.min gd d a b) s = execMin gd d a b s := rfl
theorem exec_max {gd d a b s} : exec (.max gd d a b) s = execMax gd d a b s := rfl
theorem exec_minu {gd d a b s} : exec (.minu gd d a b) s = execMinu gd d a b s := rfl
theorem exec_maxu {gd d a b s} : exec (.maxu gd d a b) s = execMaxu gd d a b s := rfl
theorem exec_and {gd d a b s} : exec (.and gd d a b) s = execAnd gd d a b s := rfl
theorem exec_or {gd d a b s} : exec (.or gd d a b) s = execOr gd d a b s := rfl
theorem exec_xor {gd d a b s} : exec (.xor gd d a b) s = execXor gd d a b s := rfl
theorem exec_andn {gd d a b s} : exec (.andn gd d a b) s = execAndn gd d a b s := rfl
theorem exec_sll {gd d a b s} : exec (.sll gd d a b) s = execSll gd d a b s := rfl
theorem exec_srl {gd d a b s} : exec (.srl gd d a b) s = execSrl gd d a b s := rfl
theorem exec_sra {gd d a b s} : exec (.sra gd d a b) s = execSra gd d a b s := rfl
theorem exec_rol {gd d a b s} : exec (.rol gd d a b) s = execRol gd d a b s := rfl
theorem exec_clz {gd d a s} : exec (.clz gd d a) s = execClz gd d a s := rfl
theorem exec_ctz {gd d a s} : exec (.ctz gd d a) s = execCtz gd d a s := rfl
theorem exec_popc {gd d a s} : exec (.popc gd d a) s = execPopc gd d a s := rfl
theorem exec_brev {gd d a s} : exec (.brev gd d a) s = execBrev gd d a s := rfl
theorem exec_bswap {gd d a s} : exec (.bswap gd d a) s = execBswap gd d a s := rfl
theorem exec_cmpEq {gd d a b s} : exec (.cmpEq gd d a b) s = execCmpEq gd d a b s := rfl
theorem exec_cmpNe {gd d a b s} : exec (.cmpNe gd d a b) s = execCmpNe gd d a b s := rfl
theorem exec_cmpLt {gd d a b s} : exec (.cmpLt gd d a b) s = execCmpLt gd d a b s := rfl
theorem exec_cmpGe {gd d a b s} : exec (.cmpGe gd d a b) s = execCmpGe gd d a b s := rfl
theorem exec_cmpLtu {gd d a b s} : exec (.cmpLtu gd d a b) s = execCmpLtu gd d a b s := rfl
theorem exec_cmpGeu {gd d a b s} : exec (.cmpGeu gd d a b) s = execCmpGeu gd d a b s := rfl
theorem exec_pand {gd d a b s} : exec (.pand gd d a b) s = execPand gd d a b s := rfl
theorem exec_por {gd d a b s} : exec (.por gd d a b) s = execPor gd d a b s := rfl
theorem exec_pxor {gd d a b s} : exec (.pxor gd d a b) s = execPxor gd d a b s := rfl
theorem exec_pandn {gd d a b s} : exec (.pandn gd d a b) s = execPandn gd d a b s := rfl
theorem exec_pnot {gd d a s} : exec (.pnot gd d a) s = execPnot gd d a s := rfl
theorem exec_pget {gd d a s} : exec (.pget gd d a) s = execPget gd d a s := rfl
theorem exec_pset {gd d a s} : exec (.pset gd d a) s = execPset gd d a s := rfl
theorem exec_sel {gd f d a b s} : exec (.sel gd f d a b) s = execSel gd f d a b s := rfl
theorem exec_jr {gd a s} : exec (.jr gd a) s = execJr gd a s := rfl
theorem exec_jalr {gd d a s} : exec (.jalr gd d a) s = execJalr gd d a s := rfl
theorem exec_addi {gd d a im s} : exec (.addi gd d a im) s = execAddi gd d a im s := rfl
theorem exec_andi {gd d a im s} : exec (.andi gd d a im) s = execAndi gd d a im s := rfl
theorem exec_ori {gd d a im s} : exec (.ori gd d a im) s = execOri gd d a im s := rfl
theorem exec_xori {gd d a im s} : exec (.xori gd d a im) s = execXori gd d a im s := rfl
theorem exec_slli {gd d a im s} : exec (.slli gd d a im) s = execSlli gd d a im s := rfl
theorem exec_srli {gd d a im s} : exec (.srli gd d a im) s = execSrli gd d a im s := rfl
theorem exec_srai {gd d a im s} : exec (.srai gd d a im) s = execSrai gd d a im s := rfl
theorem exec_muli {gd d a im s} : exec (.muli gd d a im) s = execMuli gd d a im s := rfl
theorem exec_cmpi {gd k d a im s} : exec (.cmpi gd k d a im) s = execCmpi gd k d a im s := rfl
theorem exec_dbnz {gd d im s} : exec (.dbnz gd d im) s = execDbnz gd d im s := rfl
theorem exec_br {gd o s} : exec (.br gd o) s = execBr gd o s := rfl
theorem exec_call {gd o s} : exec (.call gd o) s = execCall gd o s := rfl
theorem exec_hmov {gd d a s} : exec (.hmov gd d a) s = execHmov gd d a s := rfl
theorem exec_hbind {gd d a b s} : exec (.hbind gd d a b) s = execHbind gd d a b s := rfl
theorem exec_hunb {gd d a s} : exec (.hunb gd d a) s = execHunb gd d a s := rfl
theorem exec_hchk {gd d a s} : exec (.hchk gd d a) s = execHchk gd d a s := rfl
theorem exec_hld {gd d a im s} : exec (.hld gd d a im) s = execHld gd d a im s := rfl
theorem exec_hget {gd d a f s} : exec (.hget gd d a f) s = execHget gd d a f s := rfl
theorem exec_hset {gd d a f s} : exec (.hset gd d a f) s = execHset gd d a f s := rfl
theorem exec_hoff {gd d a k s} : exec (.hoff gd d a k) s = execHoff gd d a k s := rfl
theorem exec_hslc {gd d a k s} : exec (.hslc gd d a k) s = execHslc gd d a k s := rfl
theorem exec_ld {gd d m s} : exec (.ld gd d m) s = execLd gd d m s := rfl
theorem exec_st {gd d m s} : exec (.st gd d m) s = execSt gd d m s := rfl
theorem exec_updAdd {gd d m s} : exec (.updAdd gd d m) s = execUpdAdd gd d m s := rfl
theorem exec_updMin {gd d m s} : exec (.updMin gd d m) s = execUpdMin gd d m s := rfl
theorem exec_updMax {gd d m s} : exec (.updMax gd d m) s = execUpdMax gd d m s := rfl
theorem exec_msaAdd {gd d m s} : exec (.msaAdd gd d m) s = execMsaAdd gd d m s := rfl
theorem exec_msaMax {gd d m s} : exec (.msaMax gd d m) s = execMsaMax gd d m s := rfl
theorem exec_msaMin {gd d m s} : exec (.msaMin gd d m) s = execMsaMin gd d m s := rfl
theorem exec_lpin {gd d m s} : exec (.lpin gd d m) s = execLpin gd d m s := rfl
theorem exec_lunpin {gd d m s} : exec (.lunpin gd d m) s = execLunpin gd d m s := rfl
theorem exec_tlk {gd d m s} : exec (.tlk gd d m) s = execTlk gd d m s := rfl
theorem exec_tlkM {gd d m s} : exec (.tlkM gd d m) s = execTlkM gd d m s := rfl
theorem exec_tins {gd d m s} : exec (.tins gd d m) s = execTins gd d m s := rfl
theorem exec_tevc {gd d a s} : exec (.tevc gd d a) s = execTevc gd d a s := rfl
theorem exec_gld {gd d a s} : exec (.gld gd d a) s = execGld gd d a s := rfl
theorem exec_gst {gd d a s} : exec (.gst gd d a) s = execGst gd d a s := rfl
theorem exec_gswp {gd d a b s} : exec (.gswp gd d a b) s = execGswp gd d a b s := rfl
theorem exec_gadd {gd d a b s} : exec (.gadd gd d a b) s = execGadd gd d a b s := rfl
theorem exec_gcas {gd d a b s} : exec (.gcas gd d a b) s = execGcas gd d a b s := rfl
theorem exec_semSig {gd a n s} : exec (.semSig gd a n) s = execSemSig gd a n s := rfl
theorem exec_semWait {gd a n s} : exec (.semWait gd a n) s = execSemWait gd a n s := rfl
theorem exec_semRd {gd d a s} : exec (.semRd gd d a) s = execSemRd gd d a s := rfl
theorem exec_tkPush {gd a s} : exec (.tkPush gd a) s = execTkPush gd a s := rfl
theorem exec_tkPop {gd a s} : exec (.tkPop gd a) s = execTkPop gd a s := rfl
theorem exec_tkCnt {gd d a s} : exec (.tkCnt gd d a) s = execTkCnt gd d a s := rfl
theorem exec_semaphoreWaitEnd {c x s} : exec (.semaphoreWaitEnd c x) s = execSemaphoreWaitEnd c x s := rfl
theorem exec_tokenWaitEnd {c x s} : exec (.tokenWaitEnd c x) s = execTokenWaitEnd c x s := rfl
theorem exec_barArv {gd a s} : exec (.barArv gd a) s = execBarArv gd a s := rfl
theorem exec_barWait {gd a s} : exec (.barWait gd a) s = execBarWait gd a s := rfl
theorem exec_barAra {gd a s} : exec (.barAra gd a) s = execBarAra gd a s := rfl
theorem exec_barrierWaitEnd {c x s} : exec (.barrierWaitEnd c x) s = execBarrierWaitEnd c x s := rfl
theorem exec_licAcq {gd s} : exec (.licAcq gd) s = execLicAcq gd s := rfl
theorem exec_licRel {gd s} : exec (.licRel gd) s = execLicRel gd s := rfl
theorem exec_licenceDrainEnd {p s} : exec (.licenceDrainEnd p) s = execLicenceDrainEnd p s := rfl
theorem exec_licenceHandoverEnd {p s} : exec (.licenceHandoverEnd p) s = execLicenceHandoverEnd p s := rfl
theorem exec_engStart {gd a m s} : exec (.engStart gd a m) s = execEngStart gd a m s := rfl
theorem exec_rdv {gd s} : exec (.rdv gd) s = execRdv gd s := rfl
theorem exec_rdvComplete {c x s} : exec (.rdvComplete c x) s = execRdvComplete c x s := rfl
theorem exec_jend {gd s} : exec (.jend gd) s = execJend gd s := rfl
theorem exec_bndMe {gd k a s} : exec (.bndMe gd k a) s = execBndMe gd k a s := rfl
theorem exec_bndVe {gd k a s} : exec (.bndVe gd k a) s = execBndVe gd k a s := rfl
theorem exec_bndCel {gd k a s} : exec (.bndCel gd k a) s = execBndCel gd k a s := rfl
theorem exec_bndCes {gd k a s} : exec (.bndCes gd k a) s = execBndCes gd k a s := rfl
theorem exec_fenceAcq {gd e s} : exec (.fenceAcq gd e) s = execFenceAcq gd e s := rfl
theorem exec_fenceRel {gd e s} : exec (.fenceRel gd e) s = execFenceRel gd e s := rfl
theorem exec_fenceFull {gd e s} : exec (.fenceFull gd e) s = execFenceFull gd e s := rfl
theorem exec_fenceMsa {gd e s} : exec (.fenceMsa gd e) s = execFenceMsa gd e s := rfl
theorem exec_releaseComplete {c x s} : exec (.releaseComplete c x) s = execReleaseComplete c x s := rfl
theorem exec_mxRd {gd d a s} : exec (.mxRd gd d a) s = execMxRd gd d a s := rfl
theorem exec_mxWr {gd d a s} : exec (.mxWr gd d a) s = execMxWr gd d a s := rfl
theorem exec_mxClr {gd d s} : exec (.mxClr gd d) s = execMxClr gd d s := rfl
theorem exec_mxUpd {gd d a s} : exec (.mxUpd gd d a) s = execMxUpd gd d a s := rfl
theorem exec_timeRd {gd d s} : exec (.timeRd gd d) s = execTimeRd gd d s := rfl
theorem exec_trap {gd n s} : exec (.trap gd n) s = execTrap gd n s := rfl
theorem exec_tret {gd s} : exec (.tret gd) s = execTret gd s := rfl
theorem exec_brk {gd n s} : exec (.brk gd n) s = execBrk gd n s := rfl
theorem exec_ctxSv {gd a s} : exec (.ctxSv gd a) s = execCtxSv gd a s := rfl
theorem exec_ctxLd {gd a s} : exec (.ctxLd gd a) s = execCtxLd gd a s := rfl
theorem exec_nop {gd s} : exec (.nop gd) s = execNop gd s := rfl
theorem exec_li {gd d v s} : exec (.li gd d v) s = execLi gd d v s := rfl
theorem exec_lih {gd d a v s} : exec (.lih gd d a v) s = execLih gd d a v s := rfl
theorem exec_addl {gd d a v s} : exec (.addl gd d a v) s = execAddl gd d a v s := rfl
theorem exec_ext {gd d a pos w1 s} : exec (.ext gd d a pos w1) s = execExt gd d a pos w1 s := rfl
theorem exec_extu {gd d a pos w1 s} : exec (.extu gd d a pos w1) s = execExtu gd d a pos w1 s := rfl
theorem exec_dep {gd d a pos w1 s} : exec (.dep gd d a pos w1) s = execDep gd d a pos w1 s := rfl
theorem exec_brl {gd o s} : exec (.brl gd o) s = execBrl gd o s := rfl
theorem exec_calll {gd o s} : exec (.calll gd o) s = execCalll gd o s := rfl
theorem exec_cmpl {gd k d a v s} : exec (.cmpl gd k d a v) s = execCmpl gd k d a v s := rfl
theorem exec_ldOrd {gd o e d m s} : exec (.ldOrd gd o e d m) s = execLdOrd gd o e d m s := rfl
theorem exec_stOrd {gd o e m a s} : exec (.stOrd gd o e m a) s = execStOrd gd o e m a s := rfl
theorem exec_atomAdd {gd o e d m a s} : exec (.atomAdd gd o e d m a) s = execAtomAdd gd o e d m a s := rfl
theorem exec_atomAnd {gd o e d m a s} : exec (.atomAnd gd o e d m a) s = execAtomAnd gd o e d m a s := rfl
theorem exec_atomOr {gd o e d m a s} : exec (.atomOr gd o e d m a) s = execAtomOr gd o e d m a s := rfl
theorem exec_atomXor {gd o e d m a s} : exec (.atomXor gd o e d m a) s = execAtomXor gd o e d m a s := rfl
theorem exec_atomMin {gd o e d m a s} : exec (.atomMin gd o e d m a) s = execAtomMin gd o e d m a s := rfl
theorem exec_atomMax {gd o e d m a s} : exec (.atomMax gd o e d m a) s = execAtomMax gd o e d m a s := rfl
theorem exec_atomMinu {gd o e d m a s} : exec (.atomMinu gd o e d m a) s = execAtomMinu gd o e d m a s := rfl
theorem exec_atomMaxu {gd o e d m a s} : exec (.atomMaxu gd o e d m a) s = execAtomMaxu gd o e d m a s := rfl
theorem exec_atomSwp {gd o e d m a s} : exec (.atomSwp gd o e d m a) s = execAtomSwp gd o e d m a s := rfl
theorem exec_atomCas {gd o e d m a b s} : exec (.atomCas gd o e d m a b) s = execAtomCas gd o e d m a b s := rfl
theorem exec_waddr {gd k e d m a s} : exec (.waddr gd k e d m a) s = execWaddr gd k e d m a s := rfl
theorem exec_waddrReevaluate {c x s} : exec (.waddrReevaluate c x) s = execWaddrReevaluate c x s := rfl
theorem exec_qClaim {gd e d m a s} : exec (.qClaim gd e d m a) s = execQClaim gd e d m a s := rfl
theorem exec_qRing {gd e m a s} : exec (.qRing gd e m a) s = execQRing gd e m a s := rfl
theorem exec_csrRd {gd d n s} : exec (.csrRd gd d n) s = execCsrRd gd d n s := rfl
theorem exec_csrWr {gd n a s} : exec (.csrWr gd n a) s = execCsrWr gd n a s := rfl
theorem exec_csrSet {gd d a n s} : exec (.csrSet gd d a n) s = execCsrSet gd d a n s := rfl
theorem exec_csrClr {gd d a n s} : exec (.csrClr gd d a n) s = execCsrClr gd d a n s := rfl
theorem exec_plainRegisterWrite {n v s} : exec (.plainRegisterWrite n v) s = execPlainRegisterWrite n v s := rfl
theorem exec_recordHead {c e s} : exec (.recordHead c e) s = execRecordHead c e s := rfl
theorem exec_recordEntry {c e s} : exec (.recordEntry c e) s = execRecordEntry c e s := rfl
theorem exec_recordOperandRead {c e s} : exec (.recordOperandRead c e) s = execRecordOperandRead c e s := rfl
theorem exec_recordIssue {c e s} : exec (.recordIssue c e) s = execRecordIssue c e s := rfl
theorem exec_recordCompletion {c e s} : exec (.recordCompletion c e) s = execRecordCompletion c e s := rfl
theorem exec_reservationArbitrate {k s} : exec (.reservationArbitrate k) s = execReservationArbitrate k s := rfl
theorem exec_seqEnd {r s} : exec (.seqEnd r) s = execSeqEnd r s := rfl
theorem exec_seqWait {r s} : exec (.seqWait r) s = execSeqWait r s := rfl
theorem exec_seqJmp {r s} : exec (.seqJmp r) s = execSeqJmp r s := rfl
theorem exec_seqJz {r s} : exec (.seqJz r) s = execSeqJz r s := rfl
theorem exec_seqJnz {r s} : exec (.seqJnz r) s = execSeqJnz r s := rfl
theorem exec_meMma {r s} : exec (.meMma r) s = execMeMma r s := rfl
theorem exec_meCmma {r s} : exec (.meCmma r) s = execMeCmma r s := rfl
theorem exec_meClr {r s} : exec (.meClr r) s = execMeClr r s := rfl
theorem exec_meBld {r s} : exec (.meBld r) s = execMeBld r s := rfl
theorem exec_meDrn {r s} : exec (.meDrn r) s = execMeDrn r s := rfl
theorem exec_meDrq {r s} : exec (.meDrq r) s = execMeDrq r s := rfl
theorem exec_meFragLend {r s} : exec (.meFragLend r) s = execMeFragLend r s := rfl
theorem exec_meFragReclaim {r s} : exec (.meFragReclaim r) s = execMeFragReclaim r s := rfl
theorem exec_meAld {r s} : exec (.meAld r) s = execMeAld r s := rfl
theorem exec_meAst {r s} : exec (.meAst r) s = execMeAst r s := rfl
theorem exec_meSbw {r s} : exec (.meSbw r) s = execMeSbw r s := rfl
theorem exec_veAdd {r s} : exec (.veAdd r) s = execVeAdd r s := rfl
theorem exec_veSub {r s} : exec (.veSub r) s = execVeSub r s := rfl
theorem exec_veMul {r s} : exec (.veMul r) s = execVeMul r s := rfl
theorem exec_veMin {r s} : exec (.veMin r) s = execVeMin r s := rfl
theorem exec_veMax {r s} : exec (.veMax r) s = execVeMax r s := rfl
theorem exec_veAnd {r s} : exec (.veAnd r) s = execVeAnd r s := rfl
theorem exec_veOr {r s} : exec (.veOr r) s = execVeOr r s := rfl
theorem exec_veXor {r s} : exec (.veXor r) s = execVeXor r s := rfl
theorem exec_veShl {r s} : exec (.veShl r) s = execVeShl r s := rfl
theorem exec_veShr {r s} : exec (.veShr r) s = execVeShr r s := rfl
theorem exec_veAbs {r s} : exec (.veAbs r) s = execVeAbs r s := rfl
theorem exec_veFadd {r s} : exec (.veFadd r) s = execVeFadd r s := rfl
theorem exec_veFsub {r s} : exec (.veFsub r) s = execVeFsub r s := rfl
theorem exec_veFmul {r s} : exec (.veFmul r) s = execVeFmul r s := rfl
theorem exec_veFma {r s} : exec (.veFma r) s = execVeFma r s := rfl
theorem exec_veFmin {r s} : exec (.veFmin r) s = execVeFmin r s := rfl
theorem exec_veFmax {r s} : exec (.veFmax r) s = execVeFmax r s := rfl
theorem exec_veFabs {r s} : exec (.veFabs r) s = execVeFabs r s := rfl
theorem exec_veFneg {r s} : exec (.veFneg r) s = execVeFneg r s := rfl
theorem exec_veExp2 {r s} : exec (.veExp2 r) s = execVeExp2 r s := rfl
theorem exec_veLog2 {r s} : exec (.veLog2 r) s = execVeLog2 r s := rfl
theorem exec_veRcp {r s} : exec (.veRcp r) s = execVeRcp r s := rfl
theorem exec_veRsqrt {r s} : exec (.veRsqrt r) s = execVeRsqrt r s := rfl
theorem exec_veSqrt {r s} : exec (.veSqrt r) s = execVeSqrt r s := rfl
theorem exec_veTanh {r s} : exec (.veTanh r) s = execVeTanh r s := rfl
theorem exec_veSin {r s} : exec (.veSin r) s = execVeSin r s := rfl
theorem exec_veCos {r s} : exec (.veCos r) s = execVeCos r s := rfl
theorem exec_veCvt {r s} : exec (.veCvt r) s = execVeCvt r s := rfl
theorem exec_veQuant {r s} : exec (.veQuant r) s = execVeQuant r s := rfl
theorem exec_veDequant {r s} : exec (.veDequant r) s = execVeDequant r s := rfl
theorem exec_veAmax {r s} : exec (.veAmax r) s = execVeAmax r s := rfl
theorem exec_veRsum {r s} : exec (.veRsum r) s = execVeRsum r s := rfl
theorem exec_veRmax {r s} : exec (.veRmax r) s = execVeRmax r s := rfl
theorem exec_veRmin {r s} : exec (.veRmin r) s = execVeRmin r s := rfl
theorem exec_veScan {r s} : exec (.veScan r) s = execVeScan r s := rfl
theorem exec_veRsumsq {r s} : exec (.veRsumsq r) s = execVeRsumsq r s := rfl
theorem exec_veCmp {r s} : exec (.veCmp r) s = execVeCmp r s := rfl
theorem exec_veSel {r s} : exec (.veSel r) s = execVeSel r s := rfl
theorem exec_veAcs {r s} : exec (.veAcs r) s = execVeAcs r s := rfl
theorem exec_vePerm {r s} : exec (.vePerm r) s = execVePerm r s := rfl
theorem exec_veTrn {r s} : exec (.veTrn r) s = execVeTrn r s := rfl
theorem exec_veBcast {r s} : exec (.veBcast r) s = execVeBcast r s := rfl
theorem exec_veGath {r s} : exec (.veGath r) s = execVeGath r s := rfl
theorem exec_veScat {r s} : exec (.veScat r) s = execVeScat r s := rfl
theorem exec_veRng {r s} : exec (.veRng r) s = execVeRng r s := rfl
theorem exec_veIota {r s} : exec (.veIota r) s = execVeIota r s := rfl
theorem exec_ceCp {r s} : exec (.ceCp r) s = execCeCp r s := rfl
theorem exec_ceLq {r s} : exec (.ceLq r) s = execCeLq r s := rfl
theorem exec_ceFill {r s} : exec (.ceFill r) s = execCeFill r s := rfl
theorem exec_ceOvl {r s} : exec (.ceOvl r) s = execCeOvl r s := rfl
theorem exec_ceFlag {r s} : exec (.ceFlag r) s = execCeFlag r s := rfl
theorem exec_ceCpx {r s} : exec (.ceCpx r) s = execCeCpx r s := rfl
theorem exec_fabPint {r s} : exec (.fabPint r) s = execFabPint r s := rfl
theorem exec_fabSend {r s} : exec (.fabSend r) s = execFabSend r s := rfl
theorem exec_fabWr {r s} : exec (.fabWr r) s = execFabWr r s := rfl
theorem exec_fabAtom {r s} : exec (.fabAtom r) s = execFabAtom r s := rfl
theorem exec_fabReq {r s} : exec (.fabReq r) s = execFabReq r s := rfl
theorem exec_fabCollSeed {r s} : exec (.fabCollSeed r) s = execFabCollSeed r s := rfl
theorem exec_fabCollReduce {r s} : exec (.fabCollReduce r) s = execFabCollReduce r s := rfl
theorem exec_fabCollPut {r s} : exec (.fabCollPut r) s = execFabCollPut r s := rfl
theorem exec_fabCollCommit {r s} : exec (.fabCollCommit r) s = execFabCollCommit r s := rfl
theorem exec_fabSeamAccum {r s} : exec (.fabSeamAccum r) s = execFabSeamAccum r s := rfl
theorem exec_fabSeamVote {r s} : exec (.fabSeamVote r) s = execFabSeamVote r s := rfl
theorem exec_fabMcast {r s} : exec (.fabMcast r) s = execFabMcast r s := rfl
theorem exec_fabPrio {r s} : exec (.fabPrio r) s = execFabPrio r s := rfl
theorem exec_fabTkr {r s} : exec (.fabTkr r) s = execFabTkr r s := rfl
theorem exec_stashPut {r s} : exec (.stashPut r) s = execStashPut r s := rfl
theorem exec_stashGet {r s} : exec (.stashGet r) s = execStashGet r s := rfl
theorem exec_stashDrop {r s} : exec (.stashDrop r) s = execStashDrop r s := rfl
theorem exec_stashPf {r s} : exec (.stashPf r) s = execStashPf r s := rfl
theorem exec_bobbinOffload {k s} : exec (.bobbinOffload k) s = execBobbinOffload k s := rfl
theorem exec_deviceReset {s} : exec .deviceReset s = execDeviceReset s := rfl
theorem exec_auxPowerLoss {s} : exec .auxPowerLoss s = execAuxPowerLoss s := rfl
theorem exec_patrolScrub {level unit r s} : exec (.patrolScrub level unit r) s = execPatrolScrub level unit r s := rfl
theorem exec_translationWalk {c x va s} : exec (.translationWalk c x va) s = execTranslationWalk c x va s := rfl
theorem exec_unmap {s} : exec .unmap s = execUnmap s := rfl
theorem exec_unmapDone {s} : exec .unmapDone s = execUnmapDone s := rfl
theorem exec_migrateBegin {s} : exec .migrateBegin s = execMigrateBegin s := rfl
theorem exec_migrateBeginDone {s} : exec .migrateBeginDone s = execMigrateBeginDone s := rfl
theorem exec_migrateEnd {s} : exec .migrateEnd s = execMigrateEnd s := rfl
theorem exec_migrateAbort {s} : exec .migrateAbort s = execMigrateAbort s := rfl
theorem exec_flushCtx {s} : exec .flushCtx s = execFlushCtx s := rfl
theorem exec_flushCtxDone {s} : exec .flushCtxDone s = execFlushCtxDone s := rfl
theorem exec_ltInval {s} : exec .ltInval s = execLtInval s := rfl
theorem exec_badcmd {op s} : exec (.badcmd op) s = execBadcmd op s := rfl
theorem exec_updateLineMerge {t line s} : exec (.updateLineMerge t line) s = execUpdateLineMerge t line s := rfl
theorem exec_msaApply {n s} : exec (.msaApply n) s = execMsaApply n s := rfl
theorem exec_keySlotLoad {k key s} : exec (.keySlotLoad k key) s = execKeySlotLoad k key s := rfl
theorem exec_keySlotUnload {k s} : exec (.keySlotUnload k) s = execKeySlotUnload k s := rfl
theorem exec_ttCfgWrite {v s} : exec (.ttCfgWrite v) s = execTtCfgWrite v s := rfl
theorem exec_dmrGlobalWrite {v s} : exec (.dmrGlobalWrite v) s = execDmrGlobalWrite v s := rfl
theorem exec_bgDataWrite {v s} : exec (.bgDataWrite v) s = execBgDataWrite v s := rfl
theorem exec_licCtlWrite {v s} : exec (.licCtlWrite v) s = execLicCtlWrite v s := rfl
theorem exec_lstartWrite {v s} : exec (.lstartWrite v) s = execLstartWrite v s := rfl
theorem exec_leaderStart {c x s} : exec (.leaderStart c x) s = execLeaderStart c x s := rfl
theorem exec_cpqDataWrite {v s} : exec (.cpqDataWrite v) s = execCpqDataWrite v s := rfl
theorem exec_queueEnable {t q s} : exec (.queueEnable t q) s = execQueueEnable t q s := rfl
theorem exec_doorbell {t q s} : exec (.doorbell t q) s = execDoorbell t q s := rfl
theorem exec_waitPacketPoll {t q s} : exec (.waitPacketPoll t q) s = execWaitPacketPoll t q s := rfl
theorem exec_packetComplete {t q n s} : exec (.packetComplete t q n) s = execPacketComplete t q n s := rfl
theorem exec_gangRootTimeout {g id s} : exec (.gangRootTimeout g id) s = execGangRootTimeout g id s := rfl
theorem exec_gangMemberTimeout {g id s} : exec (.gangMemberTimeout g id) s = execGangMemberTimeout g id s := rfl
theorem exec_mbsDataWrite {v s} : exec (.mbsDataWrite v) s = execMbsDataWrite v s := rfl
theorem exec_mbsEnqWrite {v s} : exec (.mbsEnqWrite v) s = execMbsEnqWrite v s := rfl
theorem exec_mbsVerWrite {v s} : exec (.mbsVerWrite v) s = execMbsVerWrite v s := rfl
theorem exec_mbsEvaluate {s} : exec .mbsEvaluate s = execMbsEvaluate s := rfl
theorem exec_mbsJobEnd {s0 k tag s} : exec (.mbsJobEnd s0 k tag) s = execMbsJobEnd s0 k tag s := rfl
theorem exec_bobKeepWrite {v s} : exec (.bobKeepWrite v) s = execBobKeepWrite v s := rfl
theorem exec_bobSpillWrite {v s} : exec (.bobSpillWrite v) s = execBobSpillWrite v s := rfl
theorem exec_bobThrWrite {v s} : exec (.bobThrWrite v) s = execBobThrWrite v s := rfl
theorem exec_engineTrapDeliver {c x s} : exec (.engineTrapDeliver c x) s = execEngineTrapDeliver c x s := rfl
theorem exec_engCtlResume {m s} : exec (.engCtlResume m) s = execEngCtlResume m s := rfl
theorem exec_engTrapPcWrite {e pc s} : exec (.engTrapPcWrite e pc) s = execEngTrapPcWrite e pc s := rfl
theorem exec_preemptStop {c s} : exec (.preemptStop c) s = execPreemptStop c s := rfl
theorem exec_preemptStopDone {c s} : exec (.preemptStopDone c) s = execPreemptStopDone c s := rfl
theorem exec_preemptNotify {c s} : exec (.preemptNotify c) s = execPreemptNotify c s := rfl
theorem exec_preemptResume {c s} : exec (.preemptResume c) s = execPreemptResume c s := rfl
theorem exec_dumpReinject {c s} : exec (.dumpReinject c) s = execDumpReinject c s := rfl
theorem exec_queueTimeout {c x s} : exec (.queueTimeout c x) s = execQueueTimeout c x s := rfl
theorem exec_jflushWrite {v s} : exec (.jflushWrite v) s = execJflushWrite v s := rfl
theorem exec_remoteOrphan {id s} : exec (.remoteOrphan id) s = execRemoteOrphan id s := rfl
theorem exec_tokenExpiry {c k src n s} : exec (.tokenExpiry c k src n) s = execTokenExpiry c k src n s := rfl
theorem exec_remoteWrite {m s} : exec (.remoteWrite m) s = execRemoteWrite m s := rfl
theorem exec_remoteAtomic {m op x y s} : exec (.remoteAtomic m op x y) s = execRemoteAtomic m op x y s := rfl
theorem exec_ack {id status s} : exec (.ack id status) s = execAck id status s := rfl
theorem exec_intent {im n s} : exec (.intent im n) s = execIntent im n s := rfl
theorem exec_intentResend {c k s} : exec (.intentResend c k) s = execIntentResend c k s := rfl
theorem exec_grant {c k src ep n ex s} : exec (.grant c k src ep n ex) s = execGrant c k src ep n ex s := rfl
theorem exec_grantSchedule {s} : exec .grantSchedule s = execGrantSchedule s := rfl
theorem exec_chunkArrive {im n p s} : exec (.chunkArrive im n p) s = execChunkArrive im n p s := rfl
theorem exec_tokenAbandon {im n s} : exec (.tokenAbandon im n) s = execTokenAbandon im n s := rfl
theorem exec_returnTok {im n s} : exec (.returnTok im n) s = execReturnTok im n s := rfl
theorem exec_suspend {im ns s} : exec (.suspend im ns) s = execSuspend im ns s := rfl
theorem exec_cancel {im s} : exec (.cancel im) s = execCancel im s := rfl
theorem exec_messageWithdraw {im s} : exec (.messageWithdraw im) s = execMessageWithdraw im s := rfl
theorem exec_withdraw {c k ep s} : exec (.withdraw c k ep) s = execWithdraw c k ep s := rfl
theorem exec_arrive {g src s} : exec (.arrive g src) s = execArrive g src s := rfl
theorem exec_complete {g gen s} : exec (.complete g gen) s = execComplete g gen s := rfl
theorem exec_prepared {g id src s} : exec (.prepared g id src) s = execPrepared g id src s := rfl
theorem exec_decision {g id commit s} : exec (.decision g id commit) s = execDecision g id commit s := rfl
theorem exec_vote {v s} : exec (.vote v) s = execVote v s := rfl
theorem exec_voteRootTimeout {s} : exec .voteRootTimeout s = execVoteRootTimeout s := rfl
theorem exec_result {step d mask s} : exec (.result step d mask) s = execResult step d mask s := rfl
theorem exec_voteResultTimeout {s} : exec .voteResultTimeout s = execVoteResultTimeout s := rfl
theorem exec_flitCrcFail {l s} : exec (.flitCrcFail l) s = execFlitCrcFail l s := rfl
theorem exec_linkRetrain {l good s} : exec (.linkRetrain l good) s = execLinkRetrain l good s := rfl
theorem exec_laneSample {l n cerr margin s} : exec (.laneSample l n cerr margin) s = execLaneSample l n cerr margin s := rfl
theorem exec_lanePropose {l n q s} : exec (.lanePropose l n q) s = execLanePropose l n q s := rfl
theorem exec_laneAck {l n q s} : exec (.laneAck l n q) s = execLaneAck l n q s := rfl
theorem exec_laneNak {l n q s} : exec (.laneNak l n q) s = execLaneNak l n q s := rfl
theorem exec_laneProposeTimeout {l s} : exec (.laneProposeTimeout l) s = execLaneProposeTimeout l s := rfl
theorem exec_selvedgeSwap {l s} : exec (.selvedgeSwap l) s = execSelvedgeSwap l s := rfl
theorem exec_fabRingWrite {v s} : exec (.fabRingWrite v) s = execFabRingWrite v s := rfl
theorem exec_gsCtlWrite {v s} : exec (.gsCtlWrite v) s = execGsCtlWrite v s := rfl
theorem exec_mcgDataWrite {v s} : exec (.mcgDataWrite v) s = execMcgDataWrite v s := rfl
theorem exec_fbtDataWrite {v s} : exec (.fbtDataWrite v) s = execFbtDataWrite v s := rfl
theorem exec_sltDataWrite {v s} : exec (.sltDataWrite v) s = execSltDataWrite v s := rfl
theorem exec_sltSwap {s} : exec .sltSwap s = execSltSwap s := rfl
theorem exec_slotBankChange {s} : exec .slotBankChange s = execSlotBankChange s := rfl
theorem exec_egrLimWrite {v s} : exec (.egrLimWrite v) s = execEgrLimWrite v s := rfl
theorem exec_peerCtxWrite {v s} : exec (.peerCtxWrite v) s = execPeerCtxWrite v s := rfl
theorem exec_hostLinkTrain {gen width cxl2 cxl3 s} : exec (.hostLinkTrain gen width cxl2 cxl3) s = execHostLinkTrain gen width cxl2 cxl3 s := rfl
theorem exec_hostPostedWrite {off bs relaxed s} : exec (.hostPostedWrite off bs relaxed) s = execHostPostedWrite off bs relaxed s := rfl
theorem exec_hostMemoryRead {off n s} : exec (.hostMemoryRead off n) s = execHostMemoryRead off n s := rfl
theorem exec_hostAtomicop {off op wide x y s} : exec (.hostAtomicop off op wide x y) s = execHostAtomicop off op wide x y s := rfl
theorem exec_cxlMemWrite {off bs s} : exec (.cxlMemWrite off bs) s = execCxlMemWrite off bs s := rfl
theorem exec_cxlMemRead {off n s} : exec (.cxlMemRead off n) s = execCxlMemRead off n s := rfl
theorem exec_hostRegWrite {off width v s} : exec (.hostRegWrite off width v) s = execHostRegWrite off width v s := rfl
theorem exec_hostCompletion {c x r s} : exec (.hostCompletion c x r) s = execHostCompletion c x r s := rfl
theorem exec_hostCompletionTimeout {c x s} : exec (.hostCompletionTimeout c x) s = execHostCompletionTimeout c x s := rfl
theorem exec_dvfsCtlWrite {v s} : exec (.dvfsCtlWrite v) s = execDvfsCtlWrite v s := rfl
theorem exec_dvfsTransitionEnd {k s} : exec (.dvfsTransitionEnd k) s = execDvfsTransitionEnd k s := rfl
theorem exec_governorSample {p10 p1s s} : exec (.governorSample p10 p1s) s = execGovernorSample p10 p1s s := rfl
theorem exec_thermalSample {t rd s} : exec (.thermalSample t rd) s = execThermalSample t rd s := rfl
theorem exec_pwrCapWrite {v s} : exec (.pwrCapWrite v) s = execPwrCapWrite v s := rfl
theorem exec_pclsDataWrite {v s} : exec (.pclsDataWrite v) s = execPclsDataWrite v s := rfl
theorem exec_thCtlWrite {v s} : exec (.thCtlWrite v) s = execThCtlWrite v s := rfl
theorem exec_ckptStart {s} : exec .ckptStart s = execCkptStart s := rfl
theorem exec_ckptQuiesceDone {s} : exec .ckptQuiesceDone s = execCkptQuiesceDone s := rfl
theorem exec_ckptWriteDone {s} : exec .ckptWriteDone s = execCkptWriteDone s := rfl
theorem exec_ckptRestore {s} : exec .ckptRestore s = execCkptRestore s := rfl
theorem exec_timeSyncSend {s} : exec .timeSyncSend s = execTimeSyncSend s := rfl
theorem exec_timeMessage {t s} : exec (.timeMessage t) s = execTimeMessage t s := rfl
theorem exec_trcCtlWrite {v s} : exec (.trcCtlWrite v) s = execTrcCtlWrite v s := rfl
theorem exec_dbgHalt {src c all s} : exec (.dbgHalt src c all) s = execDbgHalt src c all s := rfl
theorem exec_dbgResume {src c all s} : exec (.dbgResume src c all) s = execDbgResume src c all s := rfl
theorem exec_dbgHaltAt {src t s} : exec (.dbgHaltAt src t) s = execDbgHaltAt src t s := rfl
theorem exec_haltAtTrigger {s} : exec .haltAtTrigger s = execHaltAtTrigger s := rfl
theorem exec_dbgHaltSc {src c n s} : exec (.dbgHaltSc src c n) s = execDbgHaltSc src c n s := rfl
theorem exec_haltScTrigger {c s} : exec (.haltScTrigger c) s = execHaltScTrigger c s := rfl
theorem exec_dbgRdCsr {src c n s} : exec (.dbgRdCsr src c n) s = execDbgRdCsr src c n s := rfl
theorem exec_dbgRdMem {src pa s} : exec (.dbgRdMem src pa) s = execDbgRdMem src pa s := rfl
theorem exec_dbgRdStamp {src c off w s} : exec (.dbgRdStamp src c off w) s = execDbgRdStamp src c off w s := rfl
theorem exec_dbgBadOp {s} : exec .dbgBadOp s = execDbgBadOp s := rfl
theorem exec_dbgCommandTimeout {s} : exec .dbgCommandTimeout s = execDbgCommandTimeout s := rfl
theorem exec_replayCtlWrite {v s} : exec (.replayCtlWrite v) s = execReplayCtlWrite v s := rfl
theorem exec_replayIncrement {s} : exec .replayIncrement s = execReplayIncrement s := rfl
theorem exec_powerOn {s} : exec .powerOn s = execPowerOn s := rfl
theorem exec_hostLinkDown {s} : exec .hostLinkDown s = execHostLinkDown s := rfl
theorem exec_tsyncWrite {v s} : exec (.tsyncWrite v) s = execTsyncWrite v s := rfl

/-! ## The frame that each runs in: its length and whether it is supervisor only, or an event -/

theorem frame_add (gd : Guard) (d : SReg) (a : SReg) (b : SReg) : ∃ body, exec (.add gd d a b) = control gd 4 false body := ⟨_, rfl⟩
theorem frame_sub (gd : Guard) (d : SReg) (a : SReg) (b : SReg) : ∃ body, exec (.sub gd d a b) = control gd 4 false body := ⟨_, rfl⟩
theorem frame_mul (gd : Guard) (d : SReg) (a : SReg) (b : SReg) : ∃ body, exec (.mul gd d a b) = control gd 4 false body := ⟨_, rfl⟩
theorem frame_mulh (gd : Guard) (d : SReg) (a : SReg) (b : SReg) : ∃ body, exec (.mulh gd d a b) = control gd 4 false body := ⟨_, rfl⟩
theorem frame_mulhu (gd : Guard) (d : SReg) (a : SReg) (b : SReg) : ∃ body, exec (.mulhu gd d a b) = control gd 4 false body := ⟨_, rfl⟩
theorem frame_div (gd : Guard) (d : SReg) (a : SReg) (b : SReg) : ∃ body, exec (.div gd d a b) = control gd 4 false body := ⟨_, rfl⟩
theorem frame_divu (gd : Guard) (d : SReg) (a : SReg) (b : SReg) : ∃ body, exec (.divu gd d a b) = control gd 4 false body := ⟨_, rfl⟩
theorem frame_rem (gd : Guard) (d : SReg) (a : SReg) (b : SReg) : ∃ body, exec (.rem gd d a b) = control gd 4 false body := ⟨_, rfl⟩
theorem frame_remu (gd : Guard) (d : SReg) (a : SReg) (b : SReg) : ∃ body, exec (.remu gd d a b) = control gd 4 false body := ⟨_, rfl⟩
theorem frame_min (gd : Guard) (d : SReg) (a : SReg) (b : SReg) : ∃ body, exec (.min gd d a b) = control gd 4 false body := ⟨_, rfl⟩
theorem frame_max (gd : Guard) (d : SReg) (a : SReg) (b : SReg) : ∃ body, exec (.max gd d a b) = control gd 4 false body := ⟨_, rfl⟩
theorem frame_minu (gd : Guard) (d : SReg) (a : SReg) (b : SReg) : ∃ body, exec (.minu gd d a b) = control gd 4 false body := ⟨_, rfl⟩
theorem frame_maxu (gd : Guard) (d : SReg) (a : SReg) (b : SReg) : ∃ body, exec (.maxu gd d a b) = control gd 4 false body := ⟨_, rfl⟩
theorem frame_and (gd : Guard) (d : SReg) (a : SReg) (b : SReg) : ∃ body, exec (.and gd d a b) = control gd 4 false body := ⟨_, rfl⟩
theorem frame_or (gd : Guard) (d : SReg) (a : SReg) (b : SReg) : ∃ body, exec (.or gd d a b) = control gd 4 false body := ⟨_, rfl⟩
theorem frame_xor (gd : Guard) (d : SReg) (a : SReg) (b : SReg) : ∃ body, exec (.xor gd d a b) = control gd 4 false body := ⟨_, rfl⟩
theorem frame_andn (gd : Guard) (d : SReg) (a : SReg) (b : SReg) : ∃ body, exec (.andn gd d a b) = control gd 4 false body := ⟨_, rfl⟩
theorem frame_sll (gd : Guard) (d : SReg) (a : SReg) (b : SReg) : ∃ body, exec (.sll gd d a b) = control gd 4 false body := ⟨_, rfl⟩
theorem frame_srl (gd : Guard) (d : SReg) (a : SReg) (b : SReg) : ∃ body, exec (.srl gd d a b) = control gd 4 false body := ⟨_, rfl⟩
theorem frame_sra (gd : Guard) (d : SReg) (a : SReg) (b : SReg) : ∃ body, exec (.sra gd d a b) = control gd 4 false body := ⟨_, rfl⟩
theorem frame_rol (gd : Guard) (d : SReg) (a : SReg) (b : SReg) : ∃ body, exec (.rol gd d a b) = control gd 4 false body := ⟨_, rfl⟩
theorem frame_clz (gd : Guard) (d : SReg) (a : SReg) : ∃ body, exec (.clz gd d a) = control gd 4 false body := ⟨_, rfl⟩
theorem frame_ctz (gd : Guard) (d : SReg) (a : SReg) : ∃ body, exec (.ctz gd d a) = control gd 4 false body := ⟨_, rfl⟩
theorem frame_popc (gd : Guard) (d : SReg) (a : SReg) : ∃ body, exec (.popc gd d a) = control gd 4 false body := ⟨_, rfl⟩
theorem frame_brev (gd : Guard) (d : SReg) (a : SReg) : ∃ body, exec (.brev gd d a) = control gd 4 false body := ⟨_, rfl⟩
theorem frame_bswap (gd : Guard) (d : SReg) (a : SReg) : ∃ body, exec (.bswap gd d a) = control gd 4 false body := ⟨_, rfl⟩
theorem frame_cmpEq (gd : Guard) (d : PReg) (a : SReg) (b : SReg) : ∃ body, exec (.cmpEq gd d a b) = control gd 4 false body := ⟨_, rfl⟩
theorem frame_cmpNe (gd : Guard) (d : PReg) (a : SReg) (b : SReg) : ∃ body, exec (.cmpNe gd d a b) = control gd 4 false body := ⟨_, rfl⟩
theorem frame_cmpLt (gd : Guard) (d : PReg) (a : SReg) (b : SReg) : ∃ body, exec (.cmpLt gd d a b) = control gd 4 false body := ⟨_, rfl⟩
theorem frame_cmpGe (gd : Guard) (d : PReg) (a : SReg) (b : SReg) : ∃ body, exec (.cmpGe gd d a b) = control gd 4 false body := ⟨_, rfl⟩
theorem frame_cmpLtu (gd : Guard) (d : PReg) (a : SReg) (b : SReg) : ∃ body, exec (.cmpLtu gd d a b) = control gd 4 false body := ⟨_, rfl⟩
theorem frame_cmpGeu (gd : Guard) (d : PReg) (a : SReg) (b : SReg) : ∃ body, exec (.cmpGeu gd d a b) = control gd 4 false body := ⟨_, rfl⟩
theorem frame_pand (gd : Guard) (d : PReg) (a : PReg) (b : PReg) : ∃ body, exec (.pand gd d a b) = control gd 4 false body := ⟨_, rfl⟩
theorem frame_por (gd : Guard) (d : PReg) (a : PReg) (b : PReg) : ∃ body, exec (.por gd d a b) = control gd 4 false body := ⟨_, rfl⟩
theorem frame_pxor (gd : Guard) (d : PReg) (a : PReg) (b : PReg) : ∃ body, exec (.pxor gd d a b) = control gd 4 false body := ⟨_, rfl⟩
theorem frame_pandn (gd : Guard) (d : PReg) (a : PReg) (b : PReg) : ∃ body, exec (.pandn gd d a b) = control gd 4 false body := ⟨_, rfl⟩
theorem frame_pnot (gd : Guard) (d : PReg) (a : PReg) : ∃ body, exec (.pnot gd d a) = control gd 4 false body := ⟨_, rfl⟩
theorem frame_pget (gd : Guard) (d : SReg) (a : PReg) : ∃ body, exec (.pget gd d a) = control gd 4 false body := ⟨_, rfl⟩
theorem frame_pset (gd : Guard) (d : PReg) (a : SReg) : ∃ body, exec (.pset gd d a) = control gd 4 false body := ⟨_, rfl⟩
theorem frame_sel (gd : Guard) (f : PReg) (d : SReg) (a : SReg) (b : SReg) : ∃ body, exec (.sel gd f d a b) = control gd 4 false body := ⟨_, rfl⟩
theorem frame_jr (gd : Guard) (a : SReg) : ∃ body, exec (.jr gd a) = control gd 4 false body := ⟨_, rfl⟩
theorem frame_jalr (gd : Guard) (d : SReg) (a : SReg) : ∃ body, exec (.jalr gd d a) = control gd 4 false body := ⟨_, rfl⟩
theorem frame_addi (gd : Guard) (d : SReg) (a : SReg) (i : BitVec 9) : ∃ body, exec (.addi gd d a i) = control gd 4 false body := ⟨_, rfl⟩
theorem frame_andi (gd : Guard) (d : SReg) (a : SReg) (i : BitVec 9) : ∃ body, exec (.andi gd d a i) = control gd 4 false body := ⟨_, rfl⟩
theorem frame_ori (gd : Guard) (d : SReg) (a : SReg) (i : BitVec 9) : ∃ body, exec (.ori gd d a i) = control gd 4 false body := ⟨_, rfl⟩
theorem frame_xori (gd : Guard) (d : SReg) (a : SReg) (i : BitVec 9) : ∃ body, exec (.xori gd d a i) = control gd 4 false body := ⟨_, rfl⟩
theorem frame_slli (gd : Guard) (d : SReg) (a : SReg) (i : Fin 64) : ∃ body, exec (.slli gd d a i) = control gd 4 false body := ⟨_, rfl⟩
theorem frame_srli (gd : Guard) (d : SReg) (a : SReg) (i : Fin 64) : ∃ body, exec (.srli gd d a i) = control gd 4 false body := ⟨_, rfl⟩
theorem frame_srai (gd : Guard) (d : SReg) (a : SReg) (i : Fin 64) : ∃ body, exec (.srai gd d a i) = control gd 4 false body := ⟨_, rfl⟩
theorem frame_muli (gd : Guard) (d : SReg) (a : SReg) (i : BitVec 9) : ∃ body, exec (.muli gd d a i) = control gd 4 false body := ⟨_, rfl⟩
theorem frame_cmpi (gd : Guard) (k : Cond) (d : PReg) (a : SReg) (i : BitVec 9) : ∃ body, exec (.cmpi gd k d a i) = control gd 4 false body := ⟨_, rfl⟩
theorem frame_dbnz (gd : Guard) (d : SReg) (i : BitVec 9) : ∃ body, exec (.dbnz gd d i) = control gd 4 false body := ⟨_, rfl⟩
theorem frame_br (gd : Guard) (o : BitVec 21) : ∃ body, exec (.br gd o) = control gd 4 false body := ⟨_, rfl⟩
theorem frame_call (gd : Guard) (o : BitVec 21) : ∃ body, exec (.call gd o) = control gd 4 false body := ⟨_, rfl⟩
theorem frame_hmov (gd : Guard) (d : HReg) (a : HReg) : ∃ body, exec (.hmov gd d a) = control gd 4 false body := ⟨_, rfl⟩
theorem frame_hbind (gd : Guard) (d : HReg) (a : HReg) (b : SReg) : ∃ body, exec (.hbind gd d a b) = control gd 4 false body := ⟨_, rfl⟩
theorem frame_hunb (gd : Guard) (d : HReg) (a : HReg) : ∃ body, exec (.hunb gd d a) = control gd 4 false body := ⟨_, rfl⟩
theorem frame_hchk (gd : Guard) (d : PReg) (a : HReg) : ∃ body, exec (.hchk gd d a) = control gd 4 false body := ⟨_, rfl⟩
theorem frame_hld (gd : Guard) (d : HReg) (a : SReg) (i : BitVec 9) : ∃ body, exec (.hld gd d a i) = control gd 4 false body := ⟨_, rfl⟩
theorem frame_hget (gd : Guard) (d : SReg) (a : HReg) (f : Fin 256) : ∃ body, exec (.hget gd d a f) = control gd 4 false body := ⟨_, rfl⟩
theorem frame_hset (gd : Guard) (d : HReg) (a : SReg) (f : Fin 256) : ∃ body, exec (.hset gd d a f) = control gd 4 false body := ⟨_, rfl⟩
theorem frame_hoff (gd : Guard) (d : HReg) (a : SReg) (k : Fin 4) : ∃ body, exec (.hoff gd d a k) = control gd 4 false body := ⟨_, rfl⟩
theorem frame_hslc (gd : Guard) (d : HReg) (a : SReg) (k : Fin 4) : ∃ body, exec (.hslc gd d a k) = control gd 4 false body := ⟨_, rfl⟩
theorem frame_ld (gd : Guard) (d : SReg) (m : MOp) : ∃ body, exec (.ld gd d m) = control gd 4 false body := ⟨_, rfl⟩
theorem frame_st (gd : Guard) (d : SReg) (m : MOp) : ∃ body, exec (.st gd d m) = control gd 4 false body := ⟨_, rfl⟩
theorem frame_updAdd (gd : Guard) (d : SReg) (m : MOp) : ∃ body, exec (.updAdd gd d m) = control gd 4 false body := ⟨_, rfl⟩
theorem frame_updMin (gd : Guard) (d : SReg) (m : MOp) : ∃ body, exec (.updMin gd d m) = control gd 4 false body := ⟨_, rfl⟩
theorem frame_updMax (gd : Guard) (d : SReg) (m : MOp) : ∃ body, exec (.updMax gd d m) = control gd 4 false body := ⟨_, rfl⟩
theorem frame_msaAdd (gd : Guard) (d : SReg) (m : MOp) : ∃ body, exec (.msaAdd gd d m) = control gd 4 false body := ⟨_, rfl⟩
theorem frame_msaMax (gd : Guard) (d : SReg) (m : MOp) : ∃ body, exec (.msaMax gd d m) = control gd 4 false body := ⟨_, rfl⟩
theorem frame_msaMin (gd : Guard) (d : SReg) (m : MOp) : ∃ body, exec (.msaMin gd d m) = control gd 4 false body := ⟨_, rfl⟩
theorem frame_lpin (gd : Guard) (d : SReg) (m : MOp) : ∃ body, exec (.lpin gd d m) = control gd 4 false body := ⟨_, rfl⟩
theorem frame_lunpin (gd : Guard) (d : SReg) (m : MOp) : ∃ body, exec (.lunpin gd d m) = control gd 4 false body := ⟨_, rfl⟩
theorem frame_tlk (gd : Guard) (d : SReg) (m : MOp) : ∃ body, exec (.tlk gd d m) = control gd 4 false body := ⟨_, rfl⟩
theorem frame_tlkM (gd : Guard) (d : SReg) (m : MOp) : ∃ body, exec (.tlkM gd d m) = control gd 4 false body := ⟨_, rfl⟩
theorem frame_tins (gd : Guard) (d : SReg) (m : MOp) : ∃ body, exec (.tins gd d m) = control gd 4 false body := ⟨_, rfl⟩
theorem frame_tevc (gd : Guard) (d : SReg) (a : SReg) : ∃ body, exec (.tevc gd d a) = control gd 4 false body := ⟨_, rfl⟩
theorem frame_gld (gd : Guard) (d : SReg) (a : GReg) : ∃ body, exec (.gld gd d a) = control gd 4 false body := ⟨_, rfl⟩
theorem frame_gst (gd : Guard) (d : GReg) (a : SReg) : ∃ body, exec (.gst gd d a) = control gd 4 false body := ⟨_, rfl⟩
theorem frame_gswp (gd : Guard) (d : SReg) (a : GReg) (b : SReg) : ∃ body, exec (.gswp gd d a b) = control gd 4 false body := ⟨_, rfl⟩
theorem frame_gadd (gd : Guard) (d : SReg) (a : GReg) (b : SReg) : ∃ body, exec (.gadd gd d a b) = control gd 4 false body := ⟨_, rfl⟩
theorem frame_gcas (gd : Guard) (d : SReg) (a : GReg) (b : SReg) : ∃ body, exec (.gcas gd d a b) = control gd 4 false body := ⟨_, rfl⟩
theorem frame_semSig (gd : Guard) (a : SemIx) (n : Fin 256) : ∃ body, exec (.semSig gd a n) = control gd 4 false body := ⟨_, rfl⟩
theorem frame_semWait (gd : Guard) (a : SemIx) (n : Fin 256) : ∃ body, exec (.semWait gd a n) = control gd 4 false body := ⟨_, rfl⟩
theorem frame_semRd (gd : Guard) (d : SReg) (a : SemIx) : ∃ body, exec (.semRd gd d a) = control gd 4 false body := ⟨_, rfl⟩
theorem frame_tkPush (gd : Guard) (a : TkIx) : ∃ body, exec (.tkPush gd a) = control gd 4 false body := ⟨_, rfl⟩
theorem frame_tkPop (gd : Guard) (a : TkIx) : ∃ body, exec (.tkPop gd a) = control gd 4 false body := ⟨_, rfl⟩
theorem frame_tkCnt (gd : Guard) (d : SReg) (a : TkIx) : ∃ body, exec (.tkCnt gd d a) = control gd 4 false body := ⟨_, rfl⟩
theorem frame_semaphoreWaitEnd (c : CoreId) (x : Stream) : ∃ act, exec (.semaphoreWaitEnd c x) = event act := ⟨_, rfl⟩
theorem frame_tokenWaitEnd (c : CoreId) (x : Stream) : ∃ act, exec (.tokenWaitEnd c x) = event act := ⟨_, rfl⟩
theorem frame_barArv (gd : Guard) (a : BgIx) : ∃ body, exec (.barArv gd a) = control gd 4 false body := ⟨_, rfl⟩
theorem frame_barWait (gd : Guard) (a : BgIx) : ∃ body, exec (.barWait gd a) = control gd 4 false body := ⟨_, rfl⟩
theorem frame_barAra (gd : Guard) (a : BgIx) : ∃ body, exec (.barAra gd a) = control gd 4 false body := ⟨_, rfl⟩
theorem frame_barrierWaitEnd (c : CoreId) (x : Leader) : ∃ act, exec (.barrierWaitEnd c x) = event act := ⟨_, rfl⟩
theorem frame_licAcq (gd : Guard) : ∃ body, exec (.licAcq gd) = control gd 4 false body := ⟨_, rfl⟩
theorem frame_licRel (gd : Guard) : ∃ body, exec (.licRel gd) = control gd 4 false body := ⟨_, rfl⟩
theorem frame_licenceDrainEnd (p : PairId) : ∃ act, exec (.licenceDrainEnd p) = event act := ⟨_, rfl⟩
theorem frame_licenceHandoverEnd (p : PairId) : ∃ act, exec (.licenceHandoverEnd p) = event act := ⟨_, rfl⟩
theorem frame_engStart (gd : Guard) (a : SReg) (m : Fin 16) : ∃ body, exec (.engStart gd a m) = control gd 4 false body := ⟨_, rfl⟩
theorem frame_rdv (gd : Guard) : ∃ body, exec (.rdv gd) = control gd 4 false body := ⟨_, rfl⟩
theorem frame_rdvComplete (c : CoreId) (x : Leader) : ∃ act, exec (.rdvComplete c x) = event act := ⟨_, rfl⟩
theorem frame_jend (gd : Guard) : ∃ body, exec (.jend gd) = control gd 4 false body := ⟨_, rfl⟩
theorem frame_bndMe (gd : Guard) (k : Fin 16) (a : SReg) : ∃ body, exec (.bndMe gd k a) = control gd 4 false body := ⟨_, rfl⟩
theorem frame_bndVe (gd : Guard) (k : Fin 16) (a : SReg) : ∃ body, exec (.bndVe gd k a) = control gd 4 false body := ⟨_, rfl⟩
theorem frame_bndCel (gd : Guard) (k : Fin 16) (a : SReg) : ∃ body, exec (.bndCel gd k a) = control gd 4 false body := ⟨_, rfl⟩
theorem frame_bndCes (gd : Guard) (k : Fin 16) (a : SReg) : ∃ body, exec (.bndCes gd k a) = control gd 4 false body := ⟨_, rfl⟩
theorem frame_fenceAcq (gd : Guard) (e : Scope) : ∃ body, exec (.fenceAcq gd e) = control gd 4 false body := ⟨_, rfl⟩
theorem frame_fenceRel (gd : Guard) (e : Scope) : ∃ body, exec (.fenceRel gd e) = control gd 4 false body := ⟨_, rfl⟩
theorem frame_fenceFull (gd : Guard) (e : Scope) : ∃ body, exec (.fenceFull gd e) = control gd 4 false body := ⟨_, rfl⟩
theorem frame_fenceMsa (gd : Guard) (e : Scope) : ∃ body, exec (.fenceMsa gd e) = control gd 4 false body := ⟨_, rfl⟩
theorem frame_releaseComplete (c : CoreId) (x : Stream) : ∃ act, exec (.releaseComplete c x) = event act := ⟨_, rfl⟩
theorem frame_mxRd (gd : Guard) (d : SReg) (a : MxIx) : ∃ body, exec (.mxRd gd d a) = control gd 4 false body := ⟨_, rfl⟩
theorem frame_mxWr (gd : Guard) (d : MxIx) (a : SReg) : ∃ body, exec (.mxWr gd d a) = control gd 4 false body := ⟨_, rfl⟩
theorem frame_mxClr (gd : Guard) (d : MxIx) : ∃ body, exec (.mxClr gd d) = control gd 4 false body := ⟨_, rfl⟩
theorem frame_mxUpd (gd : Guard) (d : MxIx) (a : SReg) : ∃ body, exec (.mxUpd gd d a) = control gd 4 false body := ⟨_, rfl⟩
theorem frame_timeRd (gd : Guard) (d : SReg) : ∃ body, exec (.timeRd gd d) = control gd 4 false body := ⟨_, rfl⟩
theorem frame_trap (gd : Guard) (n : Fin 64) : ∃ body, exec (.trap gd n) = control gd 4 false body := ⟨_, rfl⟩
theorem frame_tret (gd : Guard) : ∃ body, exec (.tret gd) = control gd 4 true body := ⟨_, rfl⟩
theorem frame_brk (gd : Guard) (n : Fin 64) : ∃ body, exec (.brk gd n) = control gd 4 false body := ⟨_, rfl⟩
theorem frame_ctxSv (gd : Guard) (a : SReg) : ∃ body, exec (.ctxSv gd a) = control gd 4 true body := ⟨_, rfl⟩
theorem frame_ctxLd (gd : Guard) (a : SReg) : ∃ body, exec (.ctxLd gd a) = control gd 4 true body := ⟨_, rfl⟩
theorem frame_nop (gd : Guard) : ∃ body, exec (.nop gd) = control gd 4 false body := ⟨_, rfl⟩
theorem frame_li (gd : Guard) (d : SReg) (v : BitVec 32) : ∃ body, exec (.li gd d v) = control gd 8 false body := ⟨_, rfl⟩
theorem frame_lih (gd : Guard) (d : SReg) (a : SReg) (v : BitVec 32) : ∃ body, exec (.lih gd d a v) = control gd 8 false body := ⟨_, rfl⟩
theorem frame_addl (gd : Guard) (d : SReg) (a : SReg) (v : BitVec 32) : ∃ body, exec (.addl gd d a v) = control gd 8 false body := ⟨_, rfl⟩
theorem frame_ext (gd : Guard) (d : SReg) (a : SReg) (pos : Fin 64) (w1 : Fin 64) : ∃ body, exec (.ext gd d a pos w1) = control gd 8 false body := ⟨_, rfl⟩
theorem frame_extu (gd : Guard) (d : SReg) (a : SReg) (pos : Fin 64) (w1 : Fin 64) : ∃ body, exec (.extu gd d a pos w1) = control gd 8 false body := ⟨_, rfl⟩
theorem frame_dep (gd : Guard) (d : SReg) (a : SReg) (pos : Fin 64) (w1 : Fin 64) : ∃ body, exec (.dep gd d a pos w1) = control gd 8 false body := ⟨_, rfl⟩
theorem frame_brl (gd : Guard) (o : BitVec 32) : ∃ body, exec (.brl gd o) = control gd 8 false body := ⟨_, rfl⟩
theorem frame_calll (gd : Guard) (o : BitVec 32) : ∃ body, exec (.calll gd o) = control gd 8 false body := ⟨_, rfl⟩
theorem frame_cmpl (gd : Guard) (k : Cond) (d : PReg) (a : SReg) (v : BitVec 32) : ∃ body, exec (.cmpl gd k d a v) = control gd 8 false body := ⟨_, rfl⟩
theorem frame_ldOrd (gd : Guard) (o : Ord) (e : Scope) (d : SReg) (m : MOp) : ∃ body, exec (.ldOrd gd o e d m) = control gd 8 false body := ⟨_, rfl⟩
theorem frame_stOrd (gd : Guard) (o : Ord) (e : Scope) (m : MOp) (a : SReg) : ∃ body, exec (.stOrd gd o e m a) = control gd 8 false body := ⟨_, rfl⟩
theorem frame_atomAdd (gd : Guard) (o : Ord) (e : Scope) (d : SReg) (m : MOp) (a : SReg) : ∃ body, exec (.atomAdd gd o e d m a) = control gd 8 false body := ⟨_, rfl⟩
theorem frame_atomAnd (gd : Guard) (o : Ord) (e : Scope) (d : SReg) (m : MOp) (a : SReg) : ∃ body, exec (.atomAnd gd o e d m a) = control gd 8 false body := ⟨_, rfl⟩
theorem frame_atomOr (gd : Guard) (o : Ord) (e : Scope) (d : SReg) (m : MOp) (a : SReg) : ∃ body, exec (.atomOr gd o e d m a) = control gd 8 false body := ⟨_, rfl⟩
theorem frame_atomXor (gd : Guard) (o : Ord) (e : Scope) (d : SReg) (m : MOp) (a : SReg) : ∃ body, exec (.atomXor gd o e d m a) = control gd 8 false body := ⟨_, rfl⟩
theorem frame_atomMin (gd : Guard) (o : Ord) (e : Scope) (d : SReg) (m : MOp) (a : SReg) : ∃ body, exec (.atomMin gd o e d m a) = control gd 8 false body := ⟨_, rfl⟩
theorem frame_atomMax (gd : Guard) (o : Ord) (e : Scope) (d : SReg) (m : MOp) (a : SReg) : ∃ body, exec (.atomMax gd o e d m a) = control gd 8 false body := ⟨_, rfl⟩
theorem frame_atomMinu (gd : Guard) (o : Ord) (e : Scope) (d : SReg) (m : MOp) (a : SReg) : ∃ body, exec (.atomMinu gd o e d m a) = control gd 8 false body := ⟨_, rfl⟩
theorem frame_atomMaxu (gd : Guard) (o : Ord) (e : Scope) (d : SReg) (m : MOp) (a : SReg) : ∃ body, exec (.atomMaxu gd o e d m a) = control gd 8 false body := ⟨_, rfl⟩
theorem frame_atomSwp (gd : Guard) (o : Ord) (e : Scope) (d : SReg) (m : MOp) (a : SReg) : ∃ body, exec (.atomSwp gd o e d m a) = control gd 8 false body := ⟨_, rfl⟩
theorem frame_atomCas (gd : Guard) (o : Ord) (e : Scope) (d : SReg) (m : MOp) (a : SReg) (b : SReg) : ∃ body, exec (.atomCas gd o e d m a b) = control gd 8 false body := ⟨_, rfl⟩
theorem frame_waddr (gd : Guard) (k : Cond) (e : Scope) (d : SReg) (m : MOp) (a : SReg) : ∃ body, exec (.waddr gd k e d m a) = control gd 8 false body := ⟨_, rfl⟩
theorem frame_waddrReevaluate (c : CoreId) (x : Leader) : ∃ act, exec (.waddrReevaluate c x) = event act := ⟨_, rfl⟩
theorem frame_qClaim (gd : Guard) (e : Scope) (d : SReg) (m : MOp) (a : SReg) : ∃ body, exec (.qClaim gd e d m a) = control gd 8 false body := ⟨_, rfl⟩
theorem frame_qRing (gd : Guard) (e : Scope) (m : MOp) (a : SReg) : ∃ body, exec (.qRing gd e m a) = control gd 8 false body := ⟨_, rfl⟩
theorem frame_csrRd (gd : Guard) (d : SReg) (n : Fin 4096) : ∃ body, exec (.csrRd gd d n) = control gd 8 false body := ⟨_, rfl⟩
theorem frame_csrWr (gd : Guard) (n : Fin 4096) (a : SReg) : ∃ body, exec (.csrWr gd n a) = control gd 8 false body := ⟨_, rfl⟩
theorem frame_csrSet (gd : Guard) (d : SReg) (a : SReg) (n : Fin 4096) : ∃ body, exec (.csrSet gd d a n) = control gd 8 false body := ⟨_, rfl⟩
theorem frame_csrClr (gd : Guard) (d : SReg) (a : SReg) (n : Fin 4096) : ∃ body, exec (.csrClr gd d a n) = control gd 8 false body := ⟨_, rfl⟩
theorem frame_plainRegisterWrite (n : Fin 4096) (v : Word) : ∃ act, exec (.plainRegisterWrite n v) = event act := ⟨_, rfl⟩
theorem frame_recordHead (c : CoreId) (e : Eng) : ∃ act, exec (.recordHead c e) = event act := ⟨_, rfl⟩
theorem frame_recordEntry (c : CoreId) (e : Eng) : ∃ act, exec (.recordEntry c e) = event act := ⟨_, rfl⟩
theorem frame_recordOperandRead (c : CoreId) (e : Eng) : ∃ act, exec (.recordOperandRead c e) = event act := ⟨_, rfl⟩
theorem frame_recordIssue (c : CoreId) (e : Eng) : ∃ act, exec (.recordIssue c e) = event act := ⟨_, rfl⟩
theorem frame_recordCompletion (c : CoreId) (e : Eng) : ∃ act, exec (.recordCompletion c e) = event act := ⟨_, rfl⟩
theorem frame_reservationArbitrate (k : Fin 256) : ∃ act, exec (.reservationArbitrate k) = event act := ⟨_, rfl⟩
theorem frame_seqEnd (r : Rec) : ∃ act, exec (.seqEnd r) = event act := ⟨_, rfl⟩
theorem frame_seqWait (r : Rec) : ∃ act, exec (.seqWait r) = event act := ⟨_, rfl⟩
theorem frame_seqJmp (r : Rec) : ∃ act, exec (.seqJmp r) = event act := ⟨_, rfl⟩
theorem frame_seqJz (r : Rec) : ∃ act, exec (.seqJz r) = event act := ⟨_, rfl⟩
theorem frame_seqJnz (r : Rec) : ∃ act, exec (.seqJnz r) = event act := ⟨_, rfl⟩
theorem frame_meMma (r : Rec) : ∃ act, exec (.meMma r) = event act := ⟨_, rfl⟩
theorem frame_meCmma (r : Rec) : ∃ act, exec (.meCmma r) = event act := ⟨_, rfl⟩
theorem frame_meClr (r : Rec) : ∃ act, exec (.meClr r) = event act := ⟨_, rfl⟩
theorem frame_meBld (r : Rec) : ∃ act, exec (.meBld r) = event act := ⟨_, rfl⟩
theorem frame_meDrn (r : Rec) : ∃ act, exec (.meDrn r) = event act := ⟨_, rfl⟩
theorem frame_meDrq (r : Rec) : ∃ act, exec (.meDrq r) = event act := ⟨_, rfl⟩
theorem frame_meFragLend (r : Rec) : ∃ act, exec (.meFragLend r) = event act := ⟨_, rfl⟩
theorem frame_meFragReclaim (r : Rec) : ∃ act, exec (.meFragReclaim r) = event act := ⟨_, rfl⟩
theorem frame_meAld (r : Rec) : ∃ act, exec (.meAld r) = event act := ⟨_, rfl⟩
theorem frame_meAst (r : Rec) : ∃ act, exec (.meAst r) = event act := ⟨_, rfl⟩
theorem frame_meSbw (r : Rec) : ∃ act, exec (.meSbw r) = event act := ⟨_, rfl⟩
theorem frame_veAdd (r : Rec) : ∃ act, exec (.veAdd r) = event act := ⟨_, rfl⟩
theorem frame_veSub (r : Rec) : ∃ act, exec (.veSub r) = event act := ⟨_, rfl⟩
theorem frame_veMul (r : Rec) : ∃ act, exec (.veMul r) = event act := ⟨_, rfl⟩
theorem frame_veMin (r : Rec) : ∃ act, exec (.veMin r) = event act := ⟨_, rfl⟩
theorem frame_veMax (r : Rec) : ∃ act, exec (.veMax r) = event act := ⟨_, rfl⟩
theorem frame_veAnd (r : Rec) : ∃ act, exec (.veAnd r) = event act := ⟨_, rfl⟩
theorem frame_veOr (r : Rec) : ∃ act, exec (.veOr r) = event act := ⟨_, rfl⟩
theorem frame_veXor (r : Rec) : ∃ act, exec (.veXor r) = event act := ⟨_, rfl⟩
theorem frame_veShl (r : Rec) : ∃ act, exec (.veShl r) = event act := ⟨_, rfl⟩
theorem frame_veShr (r : Rec) : ∃ act, exec (.veShr r) = event act := ⟨_, rfl⟩
theorem frame_veAbs (r : Rec) : ∃ act, exec (.veAbs r) = event act := ⟨_, rfl⟩
theorem frame_veFadd (r : Rec) : ∃ act, exec (.veFadd r) = event act := ⟨_, rfl⟩
theorem frame_veFsub (r : Rec) : ∃ act, exec (.veFsub r) = event act := ⟨_, rfl⟩
theorem frame_veFmul (r : Rec) : ∃ act, exec (.veFmul r) = event act := ⟨_, rfl⟩
theorem frame_veFma (r : Rec) : ∃ act, exec (.veFma r) = event act := ⟨_, rfl⟩
theorem frame_veFmin (r : Rec) : ∃ act, exec (.veFmin r) = event act := ⟨_, rfl⟩
theorem frame_veFmax (r : Rec) : ∃ act, exec (.veFmax r) = event act := ⟨_, rfl⟩
theorem frame_veFabs (r : Rec) : ∃ act, exec (.veFabs r) = event act := ⟨_, rfl⟩
theorem frame_veFneg (r : Rec) : ∃ act, exec (.veFneg r) = event act := ⟨_, rfl⟩
theorem frame_veExp2 (r : Rec) : ∃ act, exec (.veExp2 r) = event act := ⟨_, rfl⟩
theorem frame_veLog2 (r : Rec) : ∃ act, exec (.veLog2 r) = event act := ⟨_, rfl⟩
theorem frame_veRcp (r : Rec) : ∃ act, exec (.veRcp r) = event act := ⟨_, rfl⟩
theorem frame_veRsqrt (r : Rec) : ∃ act, exec (.veRsqrt r) = event act := ⟨_, rfl⟩
theorem frame_veSqrt (r : Rec) : ∃ act, exec (.veSqrt r) = event act := ⟨_, rfl⟩
theorem frame_veTanh (r : Rec) : ∃ act, exec (.veTanh r) = event act := ⟨_, rfl⟩
theorem frame_veSin (r : Rec) : ∃ act, exec (.veSin r) = event act := ⟨_, rfl⟩
theorem frame_veCos (r : Rec) : ∃ act, exec (.veCos r) = event act := ⟨_, rfl⟩
theorem frame_veCvt (r : Rec) : ∃ act, exec (.veCvt r) = event act := ⟨_, rfl⟩
theorem frame_veQuant (r : Rec) : ∃ act, exec (.veQuant r) = event act := ⟨_, rfl⟩
theorem frame_veDequant (r : Rec) : ∃ act, exec (.veDequant r) = event act := ⟨_, rfl⟩
theorem frame_veAmax (r : Rec) : ∃ act, exec (.veAmax r) = event act := ⟨_, rfl⟩
theorem frame_veRsum (r : Rec) : ∃ act, exec (.veRsum r) = event act := ⟨_, rfl⟩
theorem frame_veRmax (r : Rec) : ∃ act, exec (.veRmax r) = event act := ⟨_, rfl⟩
theorem frame_veRmin (r : Rec) : ∃ act, exec (.veRmin r) = event act := ⟨_, rfl⟩
theorem frame_veScan (r : Rec) : ∃ act, exec (.veScan r) = event act := ⟨_, rfl⟩
theorem frame_veRsumsq (r : Rec) : ∃ act, exec (.veRsumsq r) = event act := ⟨_, rfl⟩
theorem frame_veCmp (r : Rec) : ∃ act, exec (.veCmp r) = event act := ⟨_, rfl⟩
theorem frame_veSel (r : Rec) : ∃ act, exec (.veSel r) = event act := ⟨_, rfl⟩
theorem frame_veAcs (r : Rec) : ∃ act, exec (.veAcs r) = event act := ⟨_, rfl⟩
theorem frame_vePerm (r : Rec) : ∃ act, exec (.vePerm r) = event act := ⟨_, rfl⟩
theorem frame_veTrn (r : Rec) : ∃ act, exec (.veTrn r) = event act := ⟨_, rfl⟩
theorem frame_veBcast (r : Rec) : ∃ act, exec (.veBcast r) = event act := ⟨_, rfl⟩
theorem frame_veGath (r : Rec) : ∃ act, exec (.veGath r) = event act := ⟨_, rfl⟩
theorem frame_veScat (r : Rec) : ∃ act, exec (.veScat r) = event act := ⟨_, rfl⟩
theorem frame_veRng (r : Rec) : ∃ act, exec (.veRng r) = event act := ⟨_, rfl⟩
theorem frame_veIota (r : Rec) : ∃ act, exec (.veIota r) = event act := ⟨_, rfl⟩
theorem frame_ceCp (r : Rec) : ∃ act, exec (.ceCp r) = event act := ⟨_, rfl⟩
theorem frame_ceLq (r : Rec) : ∃ act, exec (.ceLq r) = event act := ⟨_, rfl⟩
theorem frame_ceFill (r : Rec) : ∃ act, exec (.ceFill r) = event act := ⟨_, rfl⟩
theorem frame_ceOvl (r : Rec) : ∃ act, exec (.ceOvl r) = event act := ⟨_, rfl⟩
theorem frame_ceFlag (r : Rec) : ∃ act, exec (.ceFlag r) = event act := ⟨_, rfl⟩
theorem frame_ceCpx (r : Rec) : ∃ act, exec (.ceCpx r) = event act := ⟨_, rfl⟩
theorem frame_fabPint (r : Rec) : ∃ act, exec (.fabPint r) = event act := ⟨_, rfl⟩
theorem frame_fabSend (r : Rec) : ∃ act, exec (.fabSend r) = event act := ⟨_, rfl⟩
theorem frame_fabWr (r : Rec) : ∃ act, exec (.fabWr r) = event act := ⟨_, rfl⟩
theorem frame_fabAtom (r : Rec) : ∃ act, exec (.fabAtom r) = event act := ⟨_, rfl⟩
theorem frame_fabReq (r : Rec) : ∃ act, exec (.fabReq r) = event act := ⟨_, rfl⟩
theorem frame_fabCollSeed (r : Rec) : ∃ act, exec (.fabCollSeed r) = event act := ⟨_, rfl⟩
theorem frame_fabCollReduce (r : Rec) : ∃ act, exec (.fabCollReduce r) = event act := ⟨_, rfl⟩
theorem frame_fabCollPut (r : Rec) : ∃ act, exec (.fabCollPut r) = event act := ⟨_, rfl⟩
theorem frame_fabCollCommit (r : Rec) : ∃ act, exec (.fabCollCommit r) = event act := ⟨_, rfl⟩
theorem frame_fabSeamAccum (r : Rec) : ∃ act, exec (.fabSeamAccum r) = event act := ⟨_, rfl⟩
theorem frame_fabSeamVote (r : Rec) : ∃ act, exec (.fabSeamVote r) = event act := ⟨_, rfl⟩
theorem frame_fabMcast (r : Rec) : ∃ act, exec (.fabMcast r) = event act := ⟨_, rfl⟩
theorem frame_fabPrio (r : Rec) : ∃ act, exec (.fabPrio r) = event act := ⟨_, rfl⟩
theorem frame_fabTkr (r : Rec) : ∃ act, exec (.fabTkr r) = event act := ⟨_, rfl⟩
theorem frame_stashPut (r : Rec) : ∃ act, exec (.stashPut r) = event act := ⟨_, rfl⟩
theorem frame_stashGet (r : Rec) : ∃ act, exec (.stashGet r) = event act := ⟨_, rfl⟩
theorem frame_stashDrop (r : Rec) : ∃ act, exec (.stashDrop r) = event act := ⟨_, rfl⟩
theorem frame_stashPf (r : Rec) : ∃ act, exec (.stashPf r) = event act := ⟨_, rfl⟩
theorem frame_bobbinOffload (k : DieId) : ∃ act, exec (.bobbinOffload k) = event act := ⟨_, rfl⟩
theorem frame_deviceReset  : ∃ act, exec (.deviceReset) = event act := ⟨_, rfl⟩
theorem frame_auxPowerLoss  : ∃ act, exec (.auxPowerLoss) = event act := ⟨_, rfl⟩
theorem frame_patrolScrub (level : Fin 7) (unit : Nat) (r : ScrubResult) : ∃ act, exec (.patrolScrub level unit r) = event act := ⟨_, rfl⟩
theorem frame_translationWalk (c : CoreId) (x : Stream) (va : Nat) : ∃ act, exec (.translationWalk c x va) = event act := ⟨_, rfl⟩
theorem frame_unmap  : ∃ act, exec (.unmap) = event act := ⟨_, rfl⟩
theorem frame_unmapDone  : ∃ act, exec (.unmapDone) = event act := ⟨_, rfl⟩
theorem frame_migrateBegin  : ∃ act, exec (.migrateBegin) = event act := ⟨_, rfl⟩
theorem frame_migrateBeginDone  : ∃ act, exec (.migrateBeginDone) = event act := ⟨_, rfl⟩
theorem frame_migrateEnd  : ∃ act, exec (.migrateEnd) = event act := ⟨_, rfl⟩
theorem frame_migrateAbort  : ∃ act, exec (.migrateAbort) = event act := ⟨_, rfl⟩
theorem frame_flushCtx  : ∃ act, exec (.flushCtx) = event act := ⟨_, rfl⟩
theorem frame_flushCtxDone  : ∃ act, exec (.flushCtxDone) = event act := ⟨_, rfl⟩
theorem frame_ltInval  : ∃ act, exec (.ltInval) = event act := ⟨_, rfl⟩
theorem frame_badcmd (op : Fin 16) : ∃ act, exec (.badcmd op) = event act := ⟨_, rfl⟩
theorem frame_updateLineMerge (t : TowerId) (line : Nat) : ∃ act, exec (.updateLineMerge t line) = event act := ⟨_, rfl⟩
theorem frame_msaApply (n : Nat) : ∃ act, exec (.msaApply n) = event act := ⟨_, rfl⟩
theorem frame_keySlotLoad (k : Fin 8192) (key : Nat) : ∃ act, exec (.keySlotLoad k key) = event act := ⟨_, rfl⟩
theorem frame_keySlotUnload (k : Fin 8192) : ∃ act, exec (.keySlotUnload k) = event act := ⟨_, rfl⟩
theorem frame_ttCfgWrite (v : Word) : ∃ act, exec (.ttCfgWrite v) = event act := ⟨_, rfl⟩
theorem frame_dmrGlobalWrite (v : Word) : ∃ act, exec (.dmrGlobalWrite v) = event act := ⟨_, rfl⟩
theorem frame_bgDataWrite (v : Word) : ∃ act, exec (.bgDataWrite v) = event act := ⟨_, rfl⟩
theorem frame_licCtlWrite (v : Word) : ∃ act, exec (.licCtlWrite v) = event act := ⟨_, rfl⟩
theorem frame_lstartWrite (v : Word) : ∃ act, exec (.lstartWrite v) = event act := ⟨_, rfl⟩
theorem frame_leaderStart (c : CoreId) (x : Leader) : ∃ act, exec (.leaderStart c x) = event act := ⟨_, rfl⟩
theorem frame_cpqDataWrite (v : Word) : ∃ act, exec (.cpqDataWrite v) = event act := ⟨_, rfl⟩
theorem frame_queueEnable (t : TowerId) (q : Fin 64) : ∃ act, exec (.queueEnable t q) = event act := ⟨_, rfl⟩
theorem frame_doorbell (t : TowerId) (q : Fin 64) : ∃ act, exec (.doorbell t q) = event act := ⟨_, rfl⟩
theorem frame_waitPacketPoll (t : TowerId) (q : Fin 64) : ∃ act, exec (.waitPacketPoll t q) = event act := ⟨_, rfl⟩
theorem frame_packetComplete (t : TowerId) (q : Fin 64) (n : Nat) : ∃ act, exec (.packetComplete t q n) = event act := ⟨_, rfl⟩
theorem frame_gangRootTimeout (g : BgIx) (id : Nat) : ∃ act, exec (.gangRootTimeout g id) = event act := ⟨_, rfl⟩
theorem frame_gangMemberTimeout (g : BgIx) (id : Nat) : ∃ act, exec (.gangMemberTimeout g id) = event act := ⟨_, rfl⟩
theorem frame_mbsDataWrite (v : Word) : ∃ act, exec (.mbsDataWrite v) = event act := ⟨_, rfl⟩
theorem frame_mbsEnqWrite (v : Word) : ∃ act, exec (.mbsEnqWrite v) = event act := ⟨_, rfl⟩
theorem frame_mbsVerWrite (v : Word) : ∃ act, exec (.mbsVerWrite v) = event act := ⟨_, rfl⟩
theorem frame_mbsEvaluate  : ∃ act, exec (.mbsEvaluate) = event act := ⟨_, rfl⟩
theorem frame_mbsJobEnd (s : Fin 16) (k : Fin 3) (tag : Fin 4096) : ∃ act, exec (.mbsJobEnd s k tag) = event act := ⟨_, rfl⟩
theorem frame_bobKeepWrite (v : Word) : ∃ act, exec (.bobKeepWrite v) = event act := ⟨_, rfl⟩
theorem frame_bobSpillWrite (v : Word) : ∃ act, exec (.bobSpillWrite v) = event act := ⟨_, rfl⟩
theorem frame_bobThrWrite (v : Word) : ∃ act, exec (.bobThrWrite v) = event act := ⟨_, rfl⟩
theorem frame_engineTrapDeliver (c : CoreId) (x : Leader) : ∃ act, exec (.engineTrapDeliver c x) = event act := ⟨_, rfl⟩
theorem frame_engCtlResume (m : Fin 16) : ∃ act, exec (.engCtlResume m) = event act := ⟨_, rfl⟩
theorem frame_engTrapPcWrite (e : Eng) (pc : Fin 262144) : ∃ act, exec (.engTrapPcWrite e pc) = event act := ⟨_, rfl⟩
theorem frame_preemptStop (c : CoreId) : ∃ act, exec (.preemptStop c) = event act := ⟨_, rfl⟩
theorem frame_preemptStopDone (c : CoreId) : ∃ act, exec (.preemptStopDone c) = event act := ⟨_, rfl⟩
theorem frame_preemptNotify (c : CoreId) : ∃ act, exec (.preemptNotify c) = event act := ⟨_, rfl⟩
theorem frame_preemptResume (c : CoreId) : ∃ act, exec (.preemptResume c) = event act := ⟨_, rfl⟩
theorem frame_dumpReinject (c : CoreId) : ∃ act, exec (.dumpReinject c) = event act := ⟨_, rfl⟩
theorem frame_queueTimeout (c : CoreId) (x : Stream) : ∃ act, exec (.queueTimeout c x) = event act := ⟨_, rfl⟩
theorem frame_jflushWrite (v : Word) : ∃ act, exec (.jflushWrite v) = event act := ⟨_, rfl⟩
theorem frame_remoteOrphan (id : Nat) : ∃ act, exec (.remoteOrphan id) = event act := ⟨_, rfl⟩
theorem frame_tokenExpiry (c : CoreId) (k : Fin 18) (src : Nat) (n : Nat) : ∃ act, exec (.tokenExpiry c k src n) = event act := ⟨_, rfl⟩
theorem frame_remoteWrite (m : RemoteAcc) : ∃ act, exec (.remoteWrite m) = event act := ⟨_, rfl⟩
theorem frame_remoteAtomic (m : RemoteAcc) (op : Fin 16) (x : Word) (y : Word) : ∃ act, exec (.remoteAtomic m op x y) = event act := ⟨_, rfl⟩
theorem frame_ack (id : Nat) (status : AckInfo) : ∃ act, exec (.ack id status) = event act := ⟨_, rfl⟩
theorem frame_intent (i : MsgId) (n : IntentInfo) : ∃ act, exec (.intent i n) = event act := ⟨_, rfl⟩
theorem frame_intentResend (c : CoreId) (k : Fin 18) : ∃ act, exec (.intentResend c k) = event act := ⟨_, rfl⟩
theorem frame_grant (c : CoreId) (k : Fin 18) (src : Nat) (ep : Nat) (n : Nat) (ex : Nat) : ∃ act, exec (.grant c k src ep n ex) = event act := ⟨_, rfl⟩
theorem frame_grantSchedule  : ∃ act, exec (.grantSchedule) = event act := ⟨_, rfl⟩
theorem frame_chunkArrive (i : MsgId) (n : Nat) (p : ChunkInfo) : ∃ act, exec (.chunkArrive i n p) = event act := ⟨_, rfl⟩
theorem frame_tokenAbandon (i : MsgId) (n : Nat) : ∃ act, exec (.tokenAbandon i n) = event act := ⟨_, rfl⟩
theorem frame_returnTok (i : MsgId) (n : Nat) : ∃ act, exec (.returnTok i n) = event act := ⟨_, rfl⟩
theorem frame_suspend (i : MsgId) (ns : List Nat) : ∃ act, exec (.suspend i ns) = event act := ⟨_, rfl⟩
theorem frame_cancel (i : MsgId) : ∃ act, exec (.cancel i) = event act := ⟨_, rfl⟩
theorem frame_messageWithdraw (i : MsgId) : ∃ act, exec (.messageWithdraw i) = event act := ⟨_, rfl⟩
theorem frame_withdraw (c : CoreId) (k : Fin 18) (ep : Nat) : ∃ act, exec (.withdraw c k ep) = event act := ⟨_, rfl⟩
theorem frame_arrive (g : BgIx) (src : Nat) : ∃ act, exec (.arrive g src) = event act := ⟨_, rfl⟩
theorem frame_complete (g : BgIx) (gen : Nat) : ∃ act, exec (.complete g gen) = event act := ⟨_, rfl⟩
theorem frame_prepared (g : BgIx) (id : Nat) (src : Nat) : ∃ act, exec (.prepared g id src) = event act := ⟨_, rfl⟩
theorem frame_decision (g : BgIx) (id : Nat) (commit : Bool) : ∃ act, exec (.decision g id commit) = event act := ⟨_, rfl⟩
theorem frame_vote (v : VoteInfo) : ∃ act, exec (.vote v) = event act := ⟨_, rfl⟩
theorem frame_voteRootTimeout  : ∃ act, exec (.voteRootTimeout) = event act := ⟨_, rfl⟩
theorem frame_result (step : Nat) (d : VoteDecision) (mask : Nat) : ∃ act, exec (.result step d mask) = event act := ⟨_, rfl⟩
theorem frame_voteResultTimeout  : ∃ act, exec (.voteResultTimeout) = event act := ⟨_, rfl⟩
theorem frame_flitCrcFail (l : Fin 16) : ∃ act, exec (.flitCrcFail l) = event act := ⟨_, rfl⟩
theorem frame_linkRetrain (l : Fin 16) (good : Fin 10) : ∃ act, exec (.linkRetrain l good) = event act := ⟨_, rfl⟩
theorem frame_laneSample (l : Fin 16) (n : Fin 9) (cerr : Nat) (margin : Nat) : ∃ act, exec (.laneSample l n cerr margin) = event act := ⟨_, rfl⟩
theorem frame_lanePropose (l : Fin 16) (n : Fin 9) (q : Nat) : ∃ act, exec (.lanePropose l n q) = event act := ⟨_, rfl⟩
theorem frame_laneAck (l : Fin 16) (n : Fin 9) (q : Nat) : ∃ act, exec (.laneAck l n q) = event act := ⟨_, rfl⟩
theorem frame_laneNak (l : Fin 16) (n : Fin 9) (q : Nat) : ∃ act, exec (.laneNak l n q) = event act := ⟨_, rfl⟩
theorem frame_laneProposeTimeout (l : Fin 16) : ∃ act, exec (.laneProposeTimeout l) = event act := ⟨_, rfl⟩
theorem frame_selvedgeSwap (l : Fin 16) : ∃ act, exec (.selvedgeSwap l) = event act := ⟨_, rfl⟩
theorem frame_fabRingWrite (v : Word) : ∃ act, exec (.fabRingWrite v) = event act := ⟨_, rfl⟩
theorem frame_gsCtlWrite (v : Word) : ∃ act, exec (.gsCtlWrite v) = event act := ⟨_, rfl⟩
theorem frame_mcgDataWrite (v : Word) : ∃ act, exec (.mcgDataWrite v) = event act := ⟨_, rfl⟩
theorem frame_fbtDataWrite (v : Word) : ∃ act, exec (.fbtDataWrite v) = event act := ⟨_, rfl⟩
theorem frame_sltDataWrite (v : Word) : ∃ act, exec (.sltDataWrite v) = event act := ⟨_, rfl⟩
theorem frame_sltSwap  : ∃ act, exec (.sltSwap) = event act := ⟨_, rfl⟩
theorem frame_slotBankChange  : ∃ act, exec (.slotBankChange) = event act := ⟨_, rfl⟩
theorem frame_egrLimWrite (v : Word) : ∃ act, exec (.egrLimWrite v) = event act := ⟨_, rfl⟩
theorem frame_peerCtxWrite (v : Word) : ∃ act, exec (.peerCtxWrite v) = event act := ⟨_, rfl⟩
theorem frame_hostLinkTrain (gen : Nat) (width : Nat) (cxl2 : Bool) (cxl3 : Bool) : ∃ act, exec (.hostLinkTrain gen width cxl2 cxl3) = event act := ⟨_, rfl⟩
theorem frame_hostPostedWrite (off : BarAt) (bs : List Byte) (relaxed : Bool) : ∃ act, exec (.hostPostedWrite off bs relaxed) = event act := ⟨_, rfl⟩
theorem frame_hostMemoryRead (off : BarAt) (n : Nat) : ∃ act, exec (.hostMemoryRead off n) = event act := ⟨_, rfl⟩
theorem frame_hostAtomicop (off : Nat) (op : HostAtomic) (wide : Bool) (x : Word) (y : Word) : ∃ act, exec (.hostAtomicop off op wide x y) = event act := ⟨_, rfl⟩
theorem frame_cxlMemWrite (off : Nat) (bs : List Byte) : ∃ act, exec (.cxlMemWrite off bs) = event act := ⟨_, rfl⟩
theorem frame_cxlMemRead (off : Nat) (n : Nat) : ∃ act, exec (.cxlMemRead off n) = event act := ⟨_, rfl⟩
theorem frame_hostRegWrite (off : Nat) (width : Nat) (v : Word) : ∃ act, exec (.hostRegWrite off width v) = event act := ⟨_, rfl⟩
theorem frame_hostCompletion (c : HostAsker) (x : Stream) (r : HostReply) : ∃ act, exec (.hostCompletion c x r) = event act := ⟨_, rfl⟩
theorem frame_hostCompletionTimeout (c : HostAsker) (x : Stream) : ∃ act, exec (.hostCompletionTimeout c x) = event act := ⟨_, rfl⟩
theorem frame_dvfsCtlWrite (v : Word) : ∃ act, exec (.dvfsCtlWrite v) = event act := ⟨_, rfl⟩
theorem frame_dvfsTransitionEnd (k : DieId) : ∃ act, exec (.dvfsTransitionEnd k) = event act := ⟨_, rfl⟩
theorem frame_governorSample (p10 : Nat) (p1s : Nat) : ∃ act, exec (.governorSample p10 p1s) = event act := ⟨_, rfl⟩
theorem frame_thermalSample (t : TowerId) (rd : List (Nat × Nat)) : ∃ act, exec (.thermalSample t rd) = event act := ⟨_, rfl⟩
theorem frame_pwrCapWrite (v : Word) : ∃ act, exec (.pwrCapWrite v) = event act := ⟨_, rfl⟩
theorem frame_pclsDataWrite (v : Word) : ∃ act, exec (.pclsDataWrite v) = event act := ⟨_, rfl⟩
theorem frame_thCtlWrite (v : Word) : ∃ act, exec (.thCtlWrite v) = event act := ⟨_, rfl⟩
theorem frame_ckptStart  : ∃ act, exec (.ckptStart) = event act := ⟨_, rfl⟩
theorem frame_ckptQuiesceDone  : ∃ act, exec (.ckptQuiesceDone) = event act := ⟨_, rfl⟩
theorem frame_ckptWriteDone  : ∃ act, exec (.ckptWriteDone) = event act := ⟨_, rfl⟩
theorem frame_ckptRestore  : ∃ act, exec (.ckptRestore) = event act := ⟨_, rfl⟩
theorem frame_timeSyncSend  : ∃ act, exec (.timeSyncSend) = event act := ⟨_, rfl⟩
theorem frame_timeMessage (t : Word) : ∃ act, exec (.timeMessage t) = event act := ⟨_, rfl⟩
theorem frame_trcCtlWrite (v : Word) : ∃ act, exec (.trcCtlWrite v) = event act := ⟨_, rfl⟩
theorem frame_dbgHalt (src : Option Nat) (c : CoreId) (all : Bool) : ∃ act, exec (.dbgHalt src c all) = event act := by cases src <;> exact ⟨_, rfl⟩
theorem frame_dbgResume (src : Option Nat) (c : CoreId) (all : Bool) : ∃ act, exec (.dbgResume src c all) = event act := by cases src <;> exact ⟨_, rfl⟩
theorem frame_dbgHaltAt (src : Option Nat) (t : Word) : ∃ act, exec (.dbgHaltAt src t) = event act := by cases src <;> exact ⟨_, rfl⟩
theorem frame_haltAtTrigger  : ∃ act, exec (.haltAtTrigger) = event act := ⟨_, rfl⟩
theorem frame_dbgHaltSc (src : Option Nat) (c : CoreId) (n : Nat) : ∃ act, exec (.dbgHaltSc src c n) = event act := by cases src <;> exact ⟨_, rfl⟩
theorem frame_haltScTrigger (c : CoreId) : ∃ act, exec (.haltScTrigger c) = event act := ⟨_, rfl⟩
theorem frame_dbgRdCsr (src : Option Nat) (c : CoreId) (n : Fin 4096) : ∃ act, exec (.dbgRdCsr src c n) = event act := by cases src <;> exact ⟨_, rfl⟩
theorem frame_dbgRdMem (src : Option Nat) (pa : Nat) : ∃ act, exec (.dbgRdMem src pa) = event act := by cases src <;> exact ⟨_, rfl⟩
theorem frame_dbgRdStamp (src : Option Nat) (c : CoreId) (off : Nat) (w : Nat) : ∃ act, exec (.dbgRdStamp src c off w) = event act := by cases src <;> exact ⟨_, rfl⟩
theorem frame_dbgBadOp  : ∃ act, exec (.dbgBadOp) = event act := ⟨_, rfl⟩
theorem frame_dbgCommandTimeout  : ∃ act, exec (.dbgCommandTimeout) = event act := ⟨_, rfl⟩
theorem frame_replayCtlWrite (v : Word) : ∃ act, exec (.replayCtlWrite v) = event act := ⟨_, rfl⟩
theorem frame_replayIncrement  : ∃ act, exec (.replayIncrement) = event act := ⟨_, rfl⟩
theorem frame_hostLinkDown  : ∃ act, exec (.hostLinkDown) = event act := ⟨_, rfl⟩
theorem frame_tsyncWrite (v : Word) : ∃ act, exec (.tsyncWrite v) = event act := ⟨_, rfl⟩

end Sys2Proof.Machine
end

