-- ==== Sys2Proof/Laws/Frame.lean ====
section
/-! SUPPORT. Everything that the shared frames can do: a control instruction (R167, R172, R237, R365), an event, and the two forms of
one register written. -/
namespace Sys2Proof.Machine

/-- The three ways a control instruction can go while the module has power. -/
theorem control_cases (gd : Guard) (len : Nat) (sup : Bool) (body : State → Eff) (s : State) (hp : s.powered = true) :
    (guardOk gd s = false ∧ control gd len sup body s = .next (stepTrap s.me s.pc (resumeAt (s.pc + len) s))) ∨
    (guardOk gd s = true ∧ sup = true ∧ s.me.priv = false ∧ control gd len sup body s = .next (trapHere ⟨.priv, 0⟩ len s)) ∨
    (guardOk gd s = true ∧ (sup = false ∨ s.me.priv = true) ∧
      control gd len sup body s = .next ((body s).finish s.me s.pc len)) := by
  unfold control
  rw [hp]
  cases hg : guardOk gd s
  · exact .inl ⟨rfl, rfl⟩
  · cases sup <;> cases hv : s.me.priv
    · exact .inr (.inr ⟨rfl, .inl rfl, rfl⟩)
    · exact .inr (.inr ⟨rfl, .inl rfl, rfl⟩)
    · exact .inr (.inl ⟨rfl, rfl, rfl, rfl⟩)
    · exact .inr (.inr ⟨rfl, .inr rfl, rfl⟩)

/-- A control instruction answers a next state while the module has power, and only then. -/
theorem control_next (gd : Guard) (len : Nat) (sup : Bool) (body : State → Eff) (s : State) (hp : s.powered = true) :
    ∃ t, control gd len sup body s = .next t := by
  rcases control_cases gd len sup body s hp with h | h | h
  · exact ⟨_, h.2⟩
  · exact ⟨_, h.2.2.2⟩
  · exact ⟨_, h.2.2⟩

theorem control_unpowered (gd : Guard) (len : Nat) (sup : Bool) (body : State → Eff) (s : State) (hp : s.powered = false) :
    control gd len sup body s = .fault .unpowered := by simp [control, hp]

/-- An instruction whose guard lets it execute, at a level that may: its effect, ended as the frame ends it. -/
theorem control_runs (gd : Guard) (len : Nat) (sup : Bool) (body : State → Eff) (s : State) (hp : s.powered = true)
    (hg : guardOk gd s = true) (hv : sup = false ∨ s.me.priv = true) :
    control gd len sup body s = .next ((body s).finish s.me s.pc len) := by
  rcases control_cases gd len sup body s hp with h | h | h
  · rw [h.1] at hg; cases hg
  · rcases hv with hv | hv
    · rw [h.2.1] at hv; cases hv
    · rw [h.2.2.1] at hv; cases hv
  · exact h.2.2

/-- An event acts on the state while the module has power. -/
theorem event_runs (f : State → State) (s : State) (hp : s.powered = true) : event f s = .next (f s) := by simp [event, hp]
theorem event_unpowered (f : State → State) (s : State) (hp : s.powered = false) : event f s = .fault .unpowered := by simp [event, hp]

/-- With no job-level STEP pending, the STEP trap is not taken (R365). -/
theorem stepTrap_none (was : Ctl) (pc : Nat) (s : State) (h : was.priv = true ∨ was.step = false) : stepTrap was pc s = s := by
  unfold stepTrap
  rcases h with h | h <;> simp [h]

/-- One scalar register written: the value read before the write, and the next PC. -/
theorem setReg_runs (gd : Guard) (len : Nat) (d : SReg) (f : State → Word) (s : State) (hp : s.powered = true) (hg : guardOk gd s = true)
    (hs : s.me.priv = true ∨ s.me.step = false) : setReg gd len d f s = .next (resumeAt (s.pc + len) (s.wrS d (f s))) := by
  unfold setReg
  rw [control_runs gd len false _ s hp hg (.inl rfl)]
  simp only [Eff.finish, stepTrap_none _ _ _ hs]

/-- One predicate written. -/
theorem setPred_runs (gd : Guard) (len : Nat) (d : PReg) (f : State → Bool) (s : State) (hp : s.powered = true) (hg : guardOk gd s = true)
    (hs : s.me.priv = true ∨ s.me.step = false) : setPred gd len d f s = .next (resumeAt (s.pc + len) (s.wrP d (f s))) := by
  unfold setPred
  rw [control_runs gd len false _ s hp hg (.inl rfl)]
  simp only [Eff.finish, stepTrap_none _ _ _ hs]

end Sys2Proof.Machine
end

