-- ==== Sys2Proof/Laws/Memory.lean ====
section
/-! SUPPORT. The laws of memory: its canonical form is kept by every operation, and what a byte reads as after each
(notes/assumptions/5.md). -/
namespace Sys2Proof.Machine

/-- The canonical form of a list with a head: the head is no default, the rest lies above it and is canonical. -/
theorem wf_cons (a : Nat) (v : Byte) (m : List Host.Cell) :
    Memory.wf ((a, v) :: m) = true ↔ v ≠ memDefault a ∧ (∀ c ∈ m, a < c.1) ∧ Memory.wf m = true := by
  induction m generalizing a v with
  | nil => simp [Memory.wf]
  | cons c m ih =>
    obtain ⟨b, w⟩ := c
    simp only [Memory.wf, Bool.and_eq_true, bne_iff_ne, decide_eq_true_eq, List.mem_cons, forall_eq_or_imp]
    constructor
    · rintro ⟨⟨h1, h2⟩, h3⟩
      exact ⟨h1, ⟨h2, fun c hc => Nat.lt_trans h2 (((ih b w).mp h3).2.1 c hc)⟩, h3⟩
    · rintro ⟨h1, ⟨h2, _⟩, h3⟩
      exact ⟨⟨h1, h2⟩, h3⟩

theorem wf_tail {c : Host.Cell} {m : List Host.Cell} (h : Memory.wf (c :: m) = true) : Memory.wf m = true :=
  ((wf_cons c.1 c.2 m).mp h).2.2

/-- A write lists no address below both the written one and those listed. -/
theorem memWr_above (lo a : Nat) (v : Byte) (m : List Host.Cell) (h : ∀ c ∈ m, lo < c.1) (ha : lo < a) :
    ∀ c ∈ memWr m a v, lo < c.1 := by
  induction m with
  | nil =>
    intro c hc
    simp only [memWr] at hc
    split at hc
    · cases hc
    · rw [List.mem_singleton.mp hc]; exact ha
  | cons d m ih =>
    obtain ⟨b, w⟩ := d
    have hb : lo < b := h (b, w) List.mem_cons_self
    have hm : ∀ c ∈ m, lo < c.1 := fun c hc => h c (List.mem_cons_of_mem _ hc)
    intro c hc
    simp only [memWr] at hc
    split at hc
    · rcases List.mem_cons.mp hc with rfl | hc
      · exact hb
      · exact ih hm c hc
    · split at hc
      · split at hc
        · exact hm c hc
        · rcases List.mem_cons.mp hc with rfl | hc
          · exact ha
          · exact hm c hc
      · split at hc
        · exact h c hc
        · rcases List.mem_cons.mp hc with rfl | hc
          · exact ha
          · exact h c hc

/-- A write keeps the canonical form. -/
theorem memWr_wf (a : Nat) (v : Byte) (m : List Host.Cell) (h : Memory.wf m = true) : Memory.wf (memWr m a v) = true := by
  induction m with
  | nil =>
    simp only [memWr]
    split
    · rfl
    · simpa [Memory.wf] using ‹_›
  | cons d m ih =>
    obtain ⟨b, w⟩ := d
    obtain ⟨h1, h2, h3⟩ := (wf_cons b w m).mp h
    simp only [memWr]
    split
    · exact (wf_cons b w _).mpr ⟨h1, memWr_above b a v m h2 ‹_›, ih h3⟩
    · split
      · subst b
        split
        · exact h3
        · exact (wf_cons a v m).mpr ⟨‹_›, h2, h3⟩
      · split
        · exact h
        · refine (wf_cons a v _).mpr ⟨‹_›, fun c hc => ?_, h⟩
          rcases List.mem_cons.mp hc with rfl | hc
          · show a < b
            omega
          · have := h2 c hc
            omega

/-- A stored byte string keeps the canonical form. -/
theorem memStore_wf (bs : List Byte) (m : List Host.Cell) (a : Nat) (h : Memory.wf m = true) : Memory.wf (memStore m a bs) = true := by
  induction bs generalizing m a with
  | nil => exact h
  | cons b bs ih => exact ih _ _ (memWr_wf a b m h)

/-- Cells left out of a canonical memory leave it canonical. -/
theorem filter_wf (p : Host.Cell → Bool) (m : List Host.Cell) (h : Memory.wf m = true) : Memory.wf (m.filter p) = true := by
  induction m with
  | nil => rfl
  | cons d m ih =>
    obtain ⟨b, w⟩ := d
    obtain ⟨h1, h2, h3⟩ := (wf_cons b w m).mp h
    simp only [List.filter]
    split
    · exact (wf_cons b w _).mpr ⟨h1, fun c hc => h2 c (List.mem_filter.mp hc).1, ih h3⟩
    · exact ih h3

/-- Clearing a range keeps the canonical form. -/
theorem memClear_wf (m : List Host.Cell) (lo hi : Nat) (h : Memory.wf m = true) : Memory.wf (memClear m lo hi) = true :=
  filter_wf _ m h

/-- Writes one after the other keep the canonical form. -/
theorem foldl_memWr_wf {α : Type} (f : α → Nat) (g : α → Byte) (l : List α) (m : List Host.Cell) (h : Memory.wf m = true) :
    Memory.wf (l.foldl (fun m x => memWr m (f x) (g x)) m) = true := by
  induction l generalizing m with
  | nil => exact h
  | cons x l ih => exact ih _ (memWr_wf _ _ m h)

/-- A byte below every listed address reads as unlisted. -/
theorem memRd_below (m : List Host.Cell) (a : Nat) (h : ∀ c ∈ m, a < c.1) : memRd m a = memDefault a := by
  cases m with
  | nil => rfl
  | cons d m =>
    obtain ⟨b, w⟩ := d
    have : a < b := h (b, w) List.mem_cons_self
    simp only [memRd]
    rw [if_neg (by omega), if_neg (by omega)]

/-- A read after a write: the value written at that address, what was there at every other. -/
theorem memRd_memWr (m : List Host.Cell) (a : Nat) (v : Byte) (b : Nat) (h : Memory.wf m = true) :
    memRd (memWr m a v) b = if b = a then v else memRd m b := by
  induction m with
  | nil =>
    simp only [memWr]
    split
    · subst v
      simp only [memRd]
      split
      · subst b; rfl
      · rfl
    · simp only [memRd]
      split
      · rw [if_neg (by omega)]
      · split
        · rw [if_pos (by omega)]
        · rw [if_neg (by omega)]
  | cons d m ih =>
    obtain ⟨c, w⟩ := d
    obtain ⟨h1, h2, h3⟩ := (wf_cons c w m).mp h
    have ih := ih h3
    simp only [memWr]
    split
    · simp only [memRd, ih]
      split
      · rfl
      · split
        · rw [if_neg (by omega)]
        · rw [if_neg (by omega)]
    · split
      · subst c
        split
        · subst v
          by_cases hb : b = a
          · subst b; rw [if_pos rfl]; exact memRd_below m a h2
          · rw [if_neg hb]
            simp only [memRd]
            split
            · rfl
            · rw [if_neg (by omega)]
              exact memRd_below m b fun c hc => by have := h2 c hc; omega
        · simp only [memRd]
          split
          · rw [if_neg (by omega)]
          · split
            · rw [if_pos (by omega)]
            · rw [if_neg (by omega)]
      · split
        · subst v
          by_cases hb : b = a
          · subst b; rw [if_pos rfl]; simp only [memRd]; rw [if_neg (by omega), if_neg (by omega)]
          · rw [if_neg hb]
        · simp only [memRd]
          split
          · rw [if_neg (by omega : ¬b = a)]
          · split
            · rw [if_pos (by omega)]
            · rw [if_neg (by omega : ¬c < b), if_neg (by omega : ¬c = b), if_neg (by omega : ¬b = a)]

/-- A read outside a stored byte string gives what it gave before. -/
theorem memRd_memStore_outside (bs : List Byte) (m : List Host.Cell) (a b : Nat) (h : Memory.wf m = true) (hb : b < a ∨ a + bs.length ≤ b) :
    memRd (memStore m a bs) b = memRd m b := by
  induction bs generalizing m a with
  | nil => rfl
  | cons x bs ih =>
    simp only [List.length_cons] at hb
    simp only [memStore]
    rw [ih _ _ (memWr_wf a x m h) (by omega), memRd_memWr m a x b h, if_neg (by omega)]

/-- A stored byte string reads back. -/
theorem memBytes_memStore (bs : List Byte) (m : List Host.Cell) (a : Nat) (h : Memory.wf m = true) :
    memBytes (memStore m a bs) a bs.length = bs := by
  induction bs generalizing m a with
  | nil => rfl
  | cons x bs ih =>
    simp only [memStore, List.length_cons, memBytes]
    rw [ih _ _ (memWr_wf a x m h), memRd_memStore_outside bs _ (a + 1) a (memWr_wf a x m h) (by omega), memRd_memWr m a x a h,
      if_pos rfl]

end Sys2Proof.Machine
end

