-- ==== Sys2Proof/Safety.lean ====
section
/-! DEFINITION. What counts as a safe run: a step answers a next state, never a fault or a refusal, while the module has power; and
the invariant that every step keeps. -/
namespace Sys2Proof.Machine

/-- A state from which the machine can move. -/
def Safe (s : State) : Prop := ∃ t, step s = .next t

/-- The memory keeps its canonical form. -/
def Inv (s : State) : Prop := Memory.wf s.mem = true

end Sys2Proof.Machine
end

