-- ==== Sys2Proof/Certificates/Slice0/Obligations.lean ====
section
/-! DEFINITION. The statements for the provers, and the words they are written in. -/
namespace Sys2Proof.Claims
open Sys2Proof.Machine

/-- A control instruction with this guard executes and no STEP trap follows it (R167, R365). -/
abbrev Ready (gd : Guard) (s : State) : Prop := s.powered = true ∧ guardOk gd s = true ∧ (s.me.priv = true ∨ s.me.step = false)

/-- Instruction `i` of `len` bytes completes: `u` stands, and the stream goes on at the next PC. -/
abbrev Completes (i : Instr) (len : Nat) (s u : State) : Prop := exec i s = .next (resumeAt (s.pc + len) u)

/-- It completes with one scalar register written. -/
abbrev Sets (i : Instr) (len : Nat) (s : State) (d : SReg) (v : Word) : Prop := Completes i len s (s.wrS d v)

/-- It completes with one predicate written. -/
abbrev SetsP (i : Instr) (len : Nat) (s : State) (d : PReg) (v : Bool) : Prop := Completes i len s (s.wrP d v)

/-- It completes with one handle register written. -/
abbrev SetsH (i : Instr) (len : Nat) (s : State) (d : HReg) (v : Handle) : Prop := Completes i len s (s.wrH d v)

/-- It takes the trap at its own PC. -/
abbrev TrapsHere (i : Instr) (len : Nat) (s : State) (c : Cause) (info : Nat) : Prop := exec i s = .next (trapHere ⟨c, info⟩ len s)

end Sys2Proof.Claims

open Sys2Proof Sys2Proof.Machine Sys2Proof.Claims

/-! ## Integer forms (R193-R201) -/

/-- R194: the four division forms, on every pair of operands. R194: quotient times divisor plus remainder is the dividend modulo 2^64,
whatever the operands; and a remainder that the divisor bounds has the sign of the dividend. -/
def Obligations.DivisionFormResults : Prop :=
  (
    ∀ (gd : Guard) (d a b : SReg) (s : State), Ready gd s →
      let x := s.rdS a
      let y := s.rdS b
      let q : Int := if y.toInt = 0 then -1 else if x.toInt = -2 ^ 63 ∧ y.toInt = -1 then -2 ^ 63
        else x.toInt.sign * y.toInt.sign * ((x.toInt.natAbs / y.toInt.natAbs : Nat) : Int)
      let r : Int := if y.toInt = 0 then x.toInt else if x.toInt = -2 ^ 63 ∧ y.toInt = -1 then 0 else x.toInt - q * y.toInt
      Sets (.div gd d a b) 4 s d (BitVec.ofInt 64 q) ∧ Sets (.rem gd d a b) 4 s d (BitVec.ofInt 64 r) ∧
      Sets (.divu gd d a b) 4 s d (if y = 0 then BitVec.ofNat 64 (2 ^ 64 - 1) else BitVec.ofNat 64 (x.toNat / y.toNat)) ∧
      Sets (.remu gd d a b) 4 s d (if y = 0 then x else BitVec.ofNat 64 (x.toNat % y.toNat))) ∧
  (
    ∀ x y : Word, divResult x y * y + remResult x y = x ∧ divuResult x y * y + remuResult x y = x ∧
      (y ≠ 0 → (remResult x y).toInt.natAbs < y.toInt.natAbs ∧ 0 ≤ (remResult x y).toInt * x.toInt ∧ (remuResult x y).toNat < y.toNat))

/-- R193: the sums, products, extremes, bitwise forms and logical shifts of two registers. R193, R195: the arithmetic shift, the rotate, the
counts and the reversals, bit by bit. R196, R197: each immediate form is its register form with the constant, and the long constants. -/
def Obligations.IntegerResults : Prop :=
  (
    ∀ (gd : Guard) (d a b : SReg) (s : State), Ready gd s →
      let x := s.rdS a
      let y := s.rdS b
      Sets (.add gd d a b) 4 s d (BitVec.ofNat 64 (x.toNat + y.toNat)) ∧
      Sets (.sub gd d a b) 4 s d (BitVec.ofInt 64 ((x.toNat : Int) - y.toNat)) ∧
      Sets (.mul gd d a b) 4 s d (BitVec.ofNat 64 (x.toNat * y.toNat)) ∧
      Sets (.mulh gd d a b) 4 s d (BitVec.ofInt 64 (x.toInt * y.toInt / 2 ^ 64)) ∧
      Sets (.mulhu gd d a b) 4 s d (BitVec.ofNat 64 (x.toNat * y.toNat / 2 ^ 64)) ∧
      Sets (.min gd d a b) 4 s d (BitVec.ofInt 64 (Min.min x.toInt y.toInt)) ∧
      Sets (.max gd d a b) 4 s d (BitVec.ofInt 64 (Max.max x.toInt y.toInt)) ∧
      Sets (.minu gd d a b) 4 s d (BitVec.ofNat 64 (Min.min x.toNat y.toNat)) ∧
      Sets (.maxu gd d a b) 4 s d (BitVec.ofNat 64 (Max.max x.toNat y.toNat)) ∧
      Sets (.and gd d a b) 4 s d (x &&& y) ∧ Sets (.or gd d a b) 4 s d (x ||| y) ∧
      Sets (.xor gd d a b) 4 s d (x ^^^ y) ∧ Sets (.andn gd d a b) 4 s d (x &&& ~~~y) ∧
      Sets (.sll gd d a b) 4 s d (x <<< (y.toNat % 64)) ∧ Sets (.srl gd d a b) 4 s d (x >>> (y.toNat % 64))) ∧
  (
    ∀ (gd : Guard) (d a b : SReg) (s : State), Ready gd s →
      let x := s.rdS a
      let n := (s.rdS b).toNat % 64
      Sets (.sra gd d a b) 4 s d (x.sshiftRight n) ∧ Sets (.rol gd d a b) 4 s d (x.rotateLeft n) ∧
      (∃ k, k ≤ 64 ∧ Sets (.clz gd d a) 4 s d (BitVec.ofNat 64 k) ∧ (∀ j < k, x.getLsbD (63 - j) = false) ∧
        (k < 64 → x.getLsbD (63 - k) = true)) ∧
      (∃ k, k ≤ 64 ∧ Sets (.ctz gd d a) 4 s d (BitVec.ofNat 64 k) ∧ (∀ j < k, x.getLsbD j = false) ∧ (k < 64 → x.getLsbD k = true)) ∧
      Sets (.popc gd d a) 4 s d (BitVec.ofNat 64 ((List.range 64).countP fun j => x.getLsbD j)) ∧
      (∃ v : Word, Sets (.brev gd d a) 4 s d v ∧ ∀ j < 64, v.getLsbD j = x.getLsbD (63 - j)) ∧
      (∃ v : Word, Sets (.bswap gd d a) 4 s d v ∧ ∀ k < 8, v.extractLsb' (8 * k) 8 = x.extractLsb' (8 * (7 - k)) 8)) ∧
  (
    ∀ (gd : Guard) (d a : SReg) (i : BitVec 9) (k : Fin 64) (v : BitVec 32) (s : State), Ready gd s →
      let x := s.rdS a
      let y : Word := BitVec.ofInt 64 i.toInt
      let w : Word := BitVec.ofInt 64 v.toInt
      Sets (.addi gd d a i) 4 s d (x + y) ∧ Sets (.andi gd d a i) 4 s d (x &&& y) ∧ Sets (.ori gd d a i) 4 s d (x ||| y) ∧
      Sets (.xori gd d a i) 4 s d (x ^^^ y) ∧ Sets (.muli gd d a i) 4 s d (x * y) ∧
      Sets (.slli gd d a k) 4 s d (x <<< k.val) ∧ Sets (.srli gd d a k) 4 s d (x >>> k.val) ∧
      Sets (.srai gd d a k) 4 s d (x.sshiftRight k.val) ∧
      Sets (.li gd d v) 8 s d w ∧ Sets (.addl gd d a v) 8 s d (x + w) ∧
      Sets (.lih gd d a v) 8 s d (v ++ x.extractLsb' 0 32))

/-- R198: the bit fields, for every field that lies inside the register; the words of any other field decode as ILLEGAL. -/
def Obligations.BitFieldResults : Prop :=
  (∀ (gd : Guard) (d a : SReg) (pos w1 : Fin 64) (s : State), Ready gd s → pos.val + (w1.val + 1) ≤ 64 →
      let f := (s.rdS a).extractLsb' pos.val (w1.val + 1)
      Sets (.ext gd d a pos w1) 8 s d (f.signExtend 64) ∧ Sets (.extu gd d a pos w1) 8 s d (f.zeroExtend 64) ∧
      ∃ v : Word, Sets (.dep gd d a pos w1) 8 s d v ∧ ∀ j < 64, v.getLsbD j =
        if pos.val ≤ j ∧ j ≤ pos.val + w1.val then (s.rdS a).getLsbD (j - pos.val) else (s.rdS d).getLsbD j) ∧
  ∀ w0 w1 : Nat, w1 < 2 ^ 32 → fMaj w0 = 0x78 → fImm9 w0 ∈ [3, 4, 5] →
    (w1 % 64 + (w1 / 2 ^ 8 % 64 + 1) > 64 ∨ w1 / 2 ^ 6 % 4 ≠ 0 ∨ w1 / 2 ^ 14 ≠ 0) → decodeControl w0 w1 = none

/-- R199: every comparison writes the predicate that the condition gives. R200, R201: the predicate forms and select. -/
def Obligations.ComparisonPredicateAndSelectResults : Prop :=
  (
    ∀ (gd : Guard) (d : PReg) (a b : SReg) (i : BitVec 9) (v : BitVec 32) (s : State), Ready gd s →
      let x := s.rdS a
      let holds := fun (k : Cond) (y : Word) => match k with
        | .eq => decide (x = y) | .ne => decide (x ≠ y) | .lt => decide (x.toInt < y.toInt) | .ge => decide (x.toInt ≥ y.toInt)
        | .ltu => decide (x.toNat < y.toNat) | .geu => decide (x.toNat ≥ y.toNat)
      SetsP (.cmpEq gd d a b) 4 s d (holds .eq (s.rdS b)) ∧ SetsP (.cmpNe gd d a b) 4 s d (holds .ne (s.rdS b)) ∧
      SetsP (.cmpLt gd d a b) 4 s d (holds .lt (s.rdS b)) ∧ SetsP (.cmpGe gd d a b) 4 s d (holds .ge (s.rdS b)) ∧
      SetsP (.cmpLtu gd d a b) 4 s d (holds .ltu (s.rdS b)) ∧ SetsP (.cmpGeu gd d a b) 4 s d (holds .geu (s.rdS b)) ∧
      ∀ k : Cond, SetsP (.cmpi gd k d a i) 4 s d (holds k (BitVec.ofInt 64 i.toInt)) ∧
        SetsP (.cmpl gd k d a v) 8 s d (holds k (BitVec.ofInt 64 v.toInt))) ∧
  (
    ∀ (gd : Guard) (d a b f : PReg) (r x y : SReg) (s : State), Ready gd s →
      SetsP (.pand gd d a b) 4 s d (s.rdP a && s.rdP b) ∧ SetsP (.por gd d a b) 4 s d (s.rdP a || s.rdP b) ∧
      SetsP (.pxor gd d a b) 4 s d (s.rdP a != s.rdP b) ∧ SetsP (.pandn gd d a b) 4 s d (s.rdP a && !s.rdP b) ∧
      SetsP (.pnot gd d a) 4 s d (!s.rdP a) ∧ Sets (.pget gd r a) 4 s r (if s.rdP a then 1 else 0) ∧
      SetsP (.pset gd d x) 4 s d (decide (s.rdS x ≠ 0)) ∧ Sets (.sel gd f r x y) 4 s r (if s.rdP f then s.rdS x else s.rdS y))

/-- R169: s0 reads as 0 and p0 as 1 whatever was written, and a write changes no other register. -/
def Obligations.RegisterWritesReadBack : Prop :=
  ∀ (s : State) (n m : SReg) (p q : PReg) (h k : HReg) (v : Word) (x : Bool) (y : Handle),
    (s.wrS n v).rdS m = (if m.val = 0 then 0 else if m = n then v else s.rdS m) ∧
    (s.wrP p x).rdP q = (if q.val = 0 then true else if q = p then x else s.rdP q) ∧
    (s.wrH h y).rdH k = (if k = h then y else s.rdH k) ∧
    (n.val = 0 → (s.wrS n v).me = s.me) ∧ (p.val = 0 → (s.wrP p x).me = s.me)

/-- R202-R204: the branches whose target is a word of instruction memory are taken, and `dbnz` falls through when the count ends. R202: a
target outside instruction memory raises ILLEGAL and one that is no word raises ALIGN, before anything is written; for `dbnz` also where
the branch would not be taken. -/
def Obligations.BranchesTakenAndChecked : Prop :=
  (
    ∀ (gd : Guard) (d a : SReg) (i : BitVec 9) (o : BitVec 21) (v : BitVec 32) (s : State), Ready gd s →
      let inside := fun (t : Int) => 0 ≤ t ∧ t < 262144 ∧ t % 4 = 0
      let goes := fun (n : Instr) (u : State) (t : Int) => exec n s = .next (resumeAt t.toNat u)
      (let t : Int := s.pc + 4 * o.toInt
       inside t → goes (.br gd o) s t ∧ goes (.call gd o) (s.wrS 63 (BitVec.ofNat 64 (s.pc + 4))) t) ∧
      (let t : Int := s.pc + 4 * v.toInt
       inside t → goes (.brl gd v) s t ∧ goes (.calll gd v) (s.wrS 63 (BitVec.ofNat 64 (s.pc + 8))) t) ∧
      (let t : Int := (s.rdS a).toNat
       inside t → goes (.jr gd a) s t ∧ goes (.jalr gd d a) (s.wrS d (BitVec.ofNat 64 (s.pc + 4))) t) ∧
      (let t : Int := s.pc + 4 * i.toInt
       inside t → let c := s.rdS d - 1
         goes (.dbnz gd d i) (s.wrS d c) (if c ≠ 0 then t else s.pc + 4))) ∧
  (
    ∀ (gd : Guard) (d a : SReg) (i : BitVec 9) (o : BitVec 21) (v : BitVec 32) (s : State), Ready gd s →
      let checked := fun (n : Instr) (t : Int) (len : Nat) =>
        ((t < 0 ∨ t ≥ 262144) → TrapsHere n len s .illegal (wordsInfo (encode n))) ∧
        ((0 ≤ t ∧ t < 262144 ∧ t % 4 ≠ 0) → TrapsHere n len s .align 0)
      checked (.br gd o) (s.pc + 4 * o.toInt) 4 ∧ checked (.call gd o) (s.pc + 4 * o.toInt) 4 ∧
      checked (.brl gd v) (s.pc + 4 * v.toInt) 8 ∧ checked (.calll gd v) (s.pc + 4 * v.toInt) 8 ∧
      checked (.jr gd a) (s.rdS a).toNat 4 ∧ checked (.jalr gd d a) (s.rdS a).toNat 4 ∧
      checked (.dbnz gd d i) (s.pc + 4 * i.toInt) 4)

/-! ## Handles (R206-R212) -/

namespace Sys2Proof.Claims

/-- Lowest bit and width of the field that IMM9 names, in the handle's 256 bits (R207, R26). -/
def fieldBits (f : Nat) : Option (Nat × Nat) :=
  if f ≤ 10 then [(0, 12), (12, 1), (13, 1), (14, 2), (16, 8), (24, 8), (32, 12), (44, 2), (46, 2), (48, 2), (50, 12)][f]?
  else if f ≤ 14 then some (64 + 32 * (f - 11), 32)
  else if f ≤ 18 then some (192 + 16 * (f - 15), 16)
  else if 32 ≤ f ∧ f ≤ 39 then some (32 * (f - 32), 32) else none

/-- `n` bits of a handle from bit `l`. -/
def hpart (h : Handle) (l n : Nat) : Nat := h.toNat / 2 ^ l % 2 ^ n

/-- Handles that agree on every bit outside the `n` bits from bit `l`. -/
def sameBut (h g : Handle) (l n : Nat) : Prop := ∀ j < 256, (j < l ∨ l + n ≤ j) → g.getLsbD j = h.getLsbD j

end Sys2Proof.Claims

/-- R207, R208: `hget` reads the named field, and `hset` writes it and no other bit, or raises BOUNDS where the value does not fit. R207,
R208: TAGMODE is bits [31:24] and [15:13] of w0, each in its place. -/
def Obligations.HandleFieldsReadWrittenAndFrame : Prop :=
  (
    ∀ (gd : Guard) (d : SReg) (h : HReg) (a : SReg) (f : Fin 256) (s : State) (l n : Nat), Ready gd s → fieldBits f.val = some (l, n) →
      Sets (.hget gd d h f) 4 s d (BitVec.ofNat 64 (hpart (s.rdH h) l n)) ∧
      ((s.rdS a).toNat < 2 ^ n → ∃ g, SetsH (.hset gd h a f) 4 s h g ∧ hpart g l n = (s.rdS a).toNat ∧ sameBut (s.rdH h) g l n) ∧
      (2 ^ n ≤ (s.rdS a).toNat → TrapsHere (.hset gd h a f) 4 s .bounds 0)) ∧
  (
    ∀ (gd : Guard) (d : SReg) (h : HReg) (a : SReg) (s : State), Ready gd s →
      Sets (.hget gd d h 19) 4 s d (BitVec.ofNat 64 (hpart (s.rdH h) 13 3 * 2 ^ 13 + hpart (s.rdH h) 24 8 * 2 ^ 24)) ∧
      (s.rdS a &&& ~~~(0xFF00E000 : Word) = 0 → ∃ g, SetsH (.hset gd h a 19) 4 s h g ∧
        hpart g 13 3 = (s.rdS a).toNat / 2 ^ 13 % 8 ∧ hpart g 24 8 = (s.rdS a).toNat / 2 ^ 24 ∧
        hpart g 0 13 = hpart (s.rdH h) 0 13 ∧ hpart g 16 8 = hpart (s.rdH h) 16 8 ∧ hpart g 32 224 = hpart (s.rdH h) 32 224) ∧
      (s.rdS a &&& ~~~(0xFF00E000 : Word) ≠ 0 → TrapsHere (.hset gd h a 19) 4 s .bounds 0))

/-- R209-R212: copies, bindings, offsets and slices where they are legal, and BOUNDS where they are not; `hchk` writes whether the checks of
R35 that need no coordinate pass, an opaque handle's among them (the model's reading, notes/assumptions/22.md), and keeps no layout entry in the
cache (the model's choice, notes/assumptions/59.md). R206: `hld` makes an absolute handle over the whole entry, and raises BOUNDS, TRANSLATION and
FORMAT in that order; one that faults keeps none either (notes/assumptions/59.md). -/
def Obligations.HandleFormAndLoadResults : Prop :=
  (
    ∀ (gd : Guard) (p : PReg) (d h : HReg) (a : SReg) (k : Fin 4) (s : State), Ready gd s →
      let x := s.rdH d
      let v := s.rdS a
      let o : Int := hpart x (64 + 32 * k.val) 32 + v.toInt
      let off := v.toNat % 2 ^ 32
      let len := v.toNat / 2 ^ 32
      let wext := hpart x (192 + 16 * k.val) 16
      let slot := hpart x 13 1 = 1 ∧ hpart x 14 2 = k.val
      SetsH (.hmov gd d h) 4 s d (s.rdH h) ∧
      (v.toNat ≤ 4094 → ∃ g, SetsH (.hbind gd d h a) 4 s d g ∧ hpart g 50 12 = v.toNat ∧ sameBut (s.rdH h) g 50 12) ∧
      (4094 < v.toNat → TrapsHere (.hbind gd d h a) 4 s .bounds 0) ∧
      (∃ g, SetsH (.hunb gd d h) 4 s d g ∧ hpart g 50 12 = 0xFFF ∧ hpart g 13 3 = 0 ∧ hpart g 24 8 = 0 ∧
        hpart g 0 13 = hpart (s.rdH h) 0 13 ∧ hpart g 16 8 = hpart (s.rdH h) 16 8 ∧ hpart g 32 18 = hpart (s.rdH h) 32 18 ∧
        hpart g 62 194 = hpart (s.rdH h) 62 194) ∧
      (0 ≤ o ∧ o < 2 ^ 32 → ∃ g, SetsH (.hoff gd d a k) 4 s d g ∧ (hpart g (64 + 32 * k.val) 32 : Int) = o ∧
        sameBut x g (64 + 32 * k.val) 32) ∧
      (o < 0 ∨ 2 ^ 32 ≤ o → TrapsHere (.hoff gd d a k) 4 s .bounds 0) ∧
      (¬slot ∧ len ≠ 0 ∧ off + len ≤ wext + 1 ∧ hpart x (64 + 32 * k.val) 32 + off < 2 ^ 32 → ∃ g, SetsH (.hslc gd d a k) 4 s d g ∧
        hpart g (64 + 32 * k.val) 32 = hpart x (64 + 32 * k.val) 32 + off ∧ hpart g (192 + 16 * k.val) 16 = len - 1 ∧
        ∃ y, sameBut x y (64 + 32 * k.val) 32 ∧ sameBut y g (192 + 16 * k.val) 16) ∧
      (slot ∨ len = 0 ∨ wext + 1 < off + len ∨ 2 ^ 32 ≤ hpart x (64 + 32 * k.val) 32 + off → TrapsHere (.hslc gd d a k) 4 s .bounds 0) ∧
      SetsP (.hchk gd p h) 4 s p (let e := ltEntry s s.who (hLt (s.rdH h))
        !hMalformed (s.rdH h) && hTagOk (s.rdH h) s.who.mt && entryOk s.who.ltb e && formatOk (s.rdH h) e true (fun _ => true) &&
          (eSpace e != 6 || decide (5 ≤ eDomLevel e)) && inDomain s s.who (eDomLevel e) (eDomInst e))) ∧
  (
    ∀ (gd : Guard) (d : HReg) (a : SReg) (i : BitVec 9) (s : State), Ready gd s →
      let n : Int := (s.rdS a).toInt + i.toInt
      let e := ltEntry s s.who n.toNat
      let table := bitAt (s.myCore.ascLtb.toNat) 63 = true
      let sound := eValid e = true ∧ eMalformed e = false
      (0 ≤ n ∧ n ≤ 4095 → table → sound → isReserved (eFmt e) = false →
        ∃ g : Handle, exec (.hld gd d a i) s = .next (resumeAt (s.pc + 4) ((cacheLt s s.who n.toNat e).wrH d g)) ∧
          hpart g 0 12 = n.toNat ∧ hpart g 12 1 = 1 ∧ hpart g 13 3 = 0 ∧ hpart g 16 8 = eFmt e ∧ hpart g 24 26 = 0 ∧ hpart g 50 12 = 0xFFF ∧
          hpart g 62 130 = 0 ∧ ∀ k < 4, hpart g (192 + 16 * k) 16 = Nat.min (eExt e k) 65536 - 1) ∧
      (n < 0 ∨ 4095 < n → TrapsHere (.hld gd d a i) 4 s .bounds 0) ∧
      (0 ≤ n ∧ n ≤ 4095 → ¬(table ∧ sound) → TrapsHere (.hld gd d a i) 4 s .translation 0) ∧
      (0 ≤ n ∧ n ≤ 4095 → table → sound → isReserved (eFmt e) = true → TrapsHere (.hld gd d a i) 4 s .format 0))

/-! ## The frame of every control instruction; traps (R167-R173, R363-R366) -/

namespace Sys2Proof.Claims

/-- The guard of a control instruction. -/
def guardOf : Instr → Option Guard
  | .add gd _ _ _ => some gd | .sub gd _ _ _ => some gd | .mul gd _ _ _ => some gd | .mulh gd _ _ _ => some gd | .mulhu gd _ _ _ => some gd
  | .div gd _ _ _ => some gd | .divu gd _ _ _ => some gd | .rem gd _ _ _ => some gd | .remu gd _ _ _ => some gd | .min gd _ _ _ => some gd
  | .max gd _ _ _ => some gd | .minu gd _ _ _ => some gd | .maxu gd _ _ _ => some gd | .and gd _ _ _ => some gd | .or gd _ _ _ => some gd
  | .xor gd _ _ _ => some gd | .andn gd _ _ _ => some gd | .sll gd _ _ _ => some gd | .srl gd _ _ _ => some gd | .sra gd _ _ _ => some gd
  | .rol gd _ _ _ => some gd | .clz gd _ _ => some gd | .ctz gd _ _ => some gd | .popc gd _ _ => some gd | .brev gd _ _ => some gd
  | .bswap gd _ _ => some gd | .cmpEq gd _ _ _ => some gd | .cmpNe gd _ _ _ => some gd | .cmpLt gd _ _ _ => some gd | .cmpGe gd _ _ _ => some gd
  | .cmpLtu gd _ _ _ => some gd | .cmpGeu gd _ _ _ => some gd | .pand gd _ _ _ => some gd | .por gd _ _ _ => some gd | .pxor gd _ _ _ => some gd
  | .pandn gd _ _ _ => some gd | .pnot gd _ _ => some gd | .pget gd _ _ => some gd | .pset gd _ _ => some gd | .sel gd _ _ _ _ => some gd
  | .jr gd _ => some gd | .jalr gd _ _ => some gd | .addi gd _ _ _ => some gd | .andi gd _ _ _ => some gd | .ori gd _ _ _ => some gd
  | .xori gd _ _ _ => some gd | .slli gd _ _ _ => some gd | .srli gd _ _ _ => some gd | .srai gd _ _ _ => some gd | .muli gd _ _ _ => some gd
  | .cmpi gd _ _ _ _ => some gd | .dbnz gd _ _ => some gd | .br gd _ => some gd | .call gd _ => some gd | .hmov gd _ _ => some gd
  | .hbind gd _ _ _ => some gd | .hunb gd _ _ => some gd | .hchk gd _ _ => some gd | .hld gd _ _ _ => some gd | .hget gd _ _ _ => some gd
  | .hset gd _ _ _ => some gd | .hoff gd _ _ _ => some gd | .hslc gd _ _ _ => some gd | .ld gd _ _ => some gd | .st gd _ _ => some gd
  | .updAdd gd _ _ => some gd | .updMin gd _ _ => some gd | .updMax gd _ _ => some gd | .msaAdd gd _ _ => some gd | .msaMax gd _ _ => some gd
  | .msaMin gd _ _ => some gd | .lpin gd _ _ => some gd | .lunpin gd _ _ => some gd | .tlk gd _ _ => some gd | .tlkM gd _ _ => some gd
  | .tins gd _ _ => some gd | .tevc gd _ _ => some gd | .gld gd _ _ => some gd | .gst gd _ _ => some gd | .gswp gd _ _ _ => some gd
  | .gadd gd _ _ _ => some gd | .gcas gd _ _ _ => some gd | .semSig gd _ _ => some gd | .semWait gd _ _ => some gd | .semRd gd _ _ => some gd
  | .tkPush gd _ => some gd | .tkPop gd _ => some gd | .tkCnt gd _ _ => some gd | .barArv gd _ => some gd | .barWait gd _ => some gd
  | .barAra gd _ => some gd | .licAcq gd => some gd | .licRel gd => some gd | .engStart gd _ _ => some gd | .rdv gd => some gd | .jend gd => some gd
  | .bndMe gd _ _ => some gd | .bndVe gd _ _ => some gd | .bndCel gd _ _ => some gd | .bndCes gd _ _ => some gd | .fenceAcq gd _ => some gd
  | .fenceRel gd _ => some gd | .fenceFull gd _ => some gd | .fenceMsa gd _ => some gd | .mxRd gd _ _ => some gd | .mxWr gd _ _ => some gd
  | .mxClr gd _ => some gd | .mxUpd gd _ _ => some gd | .timeRd gd _ => some gd | .trap gd _ => some gd | .tret gd => some gd | .brk gd _ => some gd
  | .ctxSv gd _ => some gd | .ctxLd gd _ => some gd | .nop gd => some gd | .li gd _ _ => some gd | .lih gd _ _ _ => some gd
  | .addl gd _ _ _ => some gd | .ext gd _ _ _ _ => some gd | .extu gd _ _ _ _ => some gd | .dep gd _ _ _ _ => some gd | .brl gd _ => some gd
  | .calll gd _ => some gd | .cmpl gd _ _ _ _ => some gd | .ldOrd gd _ _ _ _ => some gd | .stOrd gd _ _ _ _ => some gd
  | .atomAdd gd _ _ _ _ _ => some gd | .atomAnd gd _ _ _ _ _ => some gd | .atomOr gd _ _ _ _ _ => some gd | .atomXor gd _ _ _ _ _ => some gd
  | .atomMin gd _ _ _ _ _ => some gd | .atomMax gd _ _ _ _ _ => some gd | .atomMinu gd _ _ _ _ _ => some gd | .atomMaxu gd _ _ _ _ _ => some gd
  | .atomSwp gd _ _ _ _ _ => some gd | .atomCas gd _ _ _ _ _ _ => some gd | .waddr gd _ _ _ _ _ => some gd | .qClaim gd _ _ _ _ => some gd
  | .qRing gd _ _ _ => some gd | .csrRd gd _ _ => some gd | .csrWr gd _ _ => some gd | .csrSet gd _ _ _ => some gd | .csrClr gd _ _ _ => some gd
  | _ => none

/-- The general registers, the trap registers that only software writes, the barrier state and all memory are as before. -/
structure KeepsRegisters (s t : State) : Prop where
  scalars  : ∀ n, t.rdS n = s.rdS n
  preds    : ∀ n, t.rdP n = s.rdP n
  handles  : ∀ n, t.rdH n = s.rdH n
  tvec     : t.me.tvec = s.me.tvec
  tscratch : t.me.tscratch = s.me.tscratch
  step     : t.me.step = s.me.step
  arrived  : t.me.arr = s.me.arr ∧ t.me.ticket = s.me.ticket
  memory   : ∀ a, memRd t.mem a = memRd s.mem a

/-- Control core entry into its handler: what the trap registers, the level and the PC become (R364). -/
structure Entered (s t : State) (cause info ret : Nat) : Prop extends KeepsRegisters s t where
  tpc    : t.me.tpc = BitVec.ofNat 64 (ret % 2 ^ 18)
  tcause : t.me.tcause = BitVec.ofNat 64 (cause + streamNo (leaderStream s.cl) * 2 ^ 7)
  tinfo  : t.me.tinfo = BitVec.ofNat 64 info
  ppriv  : t.me.ppriv = s.me.priv
  priv   : t.me.priv = true
  inh    : t.me.inh = true
  state  : t.myStr.st = .trap
  handler : t.pc = s.me.tvec.toNat / 4 % 2 ^ 16 * 4

/-- A further trap while INH is set: the stream halts and every trap register keeps the first trap (R364). -/
structure Halted (s t : State) : Prop extends KeepsRegisters s t where
  kept  : t.me.tpc = s.me.tpc ∧ t.me.tcause = s.me.tcause ∧ t.me.tinfo = s.me.tinfo ∧ t.me.priv = s.me.priv ∧ t.me.ppriv = s.me.ppriv
  state : t.myStr.st = .halt

end Sys2Proof.Claims

/-- R167, R172, R173: a control instruction that its guard suppresses has no effect but the advance of the PC by its length, whatever the
level; at job level with STEP it is followed by the STEP trap (R365). -/
def Obligations.SuppressedInstructionOnlyAdvances : Prop :=
  ∀ (i : Instr) (gd : Guard) (s : State), guardOf i = some gd → s.powered = true → s.rdP gd.gp = gd.gs →
    let u := resumeAt (s.pc + 4 * (encode i).length) s
    ((s.me.priv = true ∨ s.me.step = false) → exec i s = .next u) ∧
    (isCtl s.cur.2 = true → s.me.priv = false → s.me.step = true → s.me.inh = false → ∃ t, exec i s = .next t ∧ Entered u t 0x13 s.pc (s.pc + 4 * (encode i).length))

/-- What the end of an instruction leaves: the next PC, the stream in RUN (or in TRAP while in its handler), and all else as before. R364:
trap entry writes TPC, TCAUSE, TINFO and TSTATUS and goes to the handler, or halts under INH; memory stays. -/
def Obligations.CompletionAndTrapEntryState : Prop :=
  (
    ∀ (p : Nat) (s : State), let t := resumeAt p s
      t.pc = p ∧ t.myStr.wait = .none ∧ t.myStr.st = (if s.me.inTrap then .trap else .run) ∧ KeepsRegisters s t ∧
      (∀ c, c ≠ s.cc → t.core c = s.core c) ∧ t.pairs = s.pairs ∧ t.dies = s.dies ∧ t.towers = s.towers ∧
      t.me.priv = s.me.priv ∧ t.me.tpc = s.me.tpc ∧ t.me.tcause = s.me.tcause ∧ t.me.tinfo = s.me.tinfo) ∧
  (
    ∀ (c : Cause) (info pc next : Nat) (s : State), isCtl s.cur.2 = true →
      let t := takeTrap s.cc s.cl ⟨c, info⟩ (streamNo (leaderStream s.cl)) false pc next s
      (s.me.inh = false → Entered s t (causeCode c) info (if c = .step ∨ ∃ n, c = .syscall n then next else pc)) ∧ (s.me.inh = true → Halted s t))

/-- R240, R364: `trap` and `brk` take their traps: the system call returns to the next instruction, the breakpoint to itself. R240, R364,
R365: `tret` restores the level and the PC, clears INH, takes no STEP trap; a bad TPC traps at the `tret`. `nop` does nothing. -/
def Obligations.TrapInstructionsAndReturn : Prop :=
  (
    ∀ (gd : Guard) (n : Fin 64) (s : State), s.powered = true → guardOk gd s = true → isCtl s.cur.2 = true →
      (s.me.inh = false → (∃ t, exec (.trap gd n) s = .next t ∧ Entered s t (0x40 + n.val) 0 (s.pc + 4)) ∧
        ∃ t, exec (.brk gd n) s = .next t ∧ Entered s t 0x12 n.val s.pc) ∧
      (s.me.inh = true → (∃ t, exec (.trap gd n) s = .next t ∧ Halted s t) ∧ ∃ t, exec (.brk gd n) s = .next t ∧ Halted s t)) ∧
  (
    ∀ (gd : Guard) (s : State), s.powered = true → guardOk gd s = true →
      (s.me.priv = true → s.me.tpc.toNat < 262144 → s.me.tpc.toNat % 4 = 0 → ∃ t, exec (.tret gd) s = .next t ∧
        KeepsRegisters s t ∧ t.pc = s.me.tpc.toNat ∧ t.me.priv = s.me.ppriv ∧ t.me.inh = false ∧ t.me.ppriv = s.me.ppriv ∧
        t.me.tpc = s.me.tpc ∧ t.me.tcause = s.me.tcause ∧ t.me.tinfo = s.me.tinfo ∧ t.myStr.st = .run) ∧
      (s.me.priv = true → s.me.tpc.toNat ≥ 262144 → TrapsHere (.tret gd) 4 s .illegal (wordsInfo (encode (.tret gd)))) ∧
      (s.me.priv = true → s.me.tpc.toNat < 262144 → s.me.tpc.toNat % 4 ≠ 0 → TrapsHere (.tret gd) 4 s .align 0) ∧
      ((s.me.priv = true ∨ s.me.step = false) → Completes (.nop gd) 4 s s))

/-- R365: with STEP set, an instruction that completes at job level, or that its guard suppresses there, is followed by the STEP trap, with
TPC at the instruction that comes next; one that runs at supervisor level is not, and so not the `tret` that returns to job level. It is stated of
what every control instruction is an instance of, for each way in which a body goes on; `jend`, which ends the stream's job, takes no STEP: the
model's reading (notes/assumptions/37.md). -/
def Obligations.StepTrapFollowsEachInstruction : Prop :=
  ∀ (gd : Guard) (len : Nat) (sup : Bool) (body : State → Eff) (s : State), s.powered = true → isCtl s.cur.2 = true → s.me.step = true →
    (∀ (u : State) (p : Nat), guardOk gd s = true → u.cur = s.cur → u.me.inh = false →
      (body s = .done u ∧ p = s.pc + len ∨ body s = .jump u p) →
      (s.me.priv = false → ∃ t, control gd len false body s = .next t ∧ Entered u t 0x13 s.pc p) ∧
      (s.me.priv = true → control gd len sup body s = .next (resumeAt p u))) ∧
    (guardOk gd s = false →
      (s.me.priv = false → s.me.inh = false → ∃ t, control gd len sup body s = .next t ∧ Entered s t 0x13 s.pc (s.pc + len)) ∧
      (s.me.priv = true → control gd len sup body s = .next (resumeAt (s.pc + len) s))) ∧
    (guardOk gd s = true → s.me.priv = true → s.me.ppriv = false → s.me.tpc.toNat < 262144 → s.me.tpc.toNat % 4 = 0 →
      ∃ t, exec (.tret gd) s = .next t ∧ t.pc = s.me.tpc.toNat ∧ t.me.priv = false ∧ t.me.tcause = s.me.tcause ∧ t.myStr.st = .run)

/-- R172, R241, R364: at job level `tret`, `ctx.sv` and `ctx.ld` raise PRIV and do nothing else. -/
def Obligations.SupervisorFormsTrapAtJobLevel : Prop :=
  ∀ (gd : Guard) (a : SReg) (s : State), s.powered = true → guardOk gd s = true → isCtl s.cur.2 = true → s.me.priv = false →
    s.me.inh = false → ∀ i ∈ [Instr.tret gd, .ctxSv gd a, .ctxLd gd a], ∃ t, exec i s = .next t ∧ Entered s t 0x02 0 s.pc

/-- R95, R429: while the module has power every instruction and every event answers a next state; without power nothing but power-on does. -/
def Obligations.EveryInstructionAnswers : Prop :=
  ∀ (i : Instr) (s : State), (s.powered = true → ∃ t, exec i s = .next t) ∧
    (s.powered = false → i ≠ .powerOn → exec i s = .fault .unpowered)

/-- The step of a control core runs exactly the instruction that the words at its PC decode to, or the one it has issued and waits in (R82),
between the delivery of pending traps and the closing of the step; the records that entered have read their registers before it (R205), and
the agenda's acts come first (R172; notes/assumptions/1.md). One that reads a register with an uncorrectable error takes UNCORRECTABLE
(R378). -/
def Obligations.StepRunsDecodedInstruction : Prop :=
  ∀ (s : State) (i : Instr),
    (s.agenda = [] → s.powered = true → canRun s = true → isCtl s.cur.2 = true →
      let u := latchReads s.cc s
      deliver u.cc u.cl u = none →
      let runs :=
        (readsMarked u i = false →
          ∀ t, exec i u = .next t → step s = .next (closeStep (setHeld (if t.myStr.st = .wait then some i else none) t))) ∧
        (readsMarked u i = true → step s = .next (closeStep (trapHere ⟨.uncorrectable, 0⟩ 4 (setHeld none u))))
      (u.myStr.st = .wait → u.me.held = some i → runs) ∧
      (u.myStr.st ≠ .wait ∨ u.me.held = none → u.pc < 262144 → loadingAt u u.cc u.pc = false → imMarked u u.cc u.pc = false →
        let w0 := imWord u u.cc u.pc
        let w1 := imWord u u.cc (u.pc + 4)
        (isLong w0 = false → decodeControl w0 0 = some i → runs) ∧
        (isLong w0 = true → u.pc + 4 < 262144 → loadingAt u u.cc (u.pc + 4) = false → imMarked u u.cc (u.pc + 4) = false →
          decodeControl w0 w1 = some i → runs))) ∧
    (∀ l, s.agenda = .event i :: l → ∀ t, exec i { s with agenda := l } = .next t → step s = .next (closeStep t)) ∧
    (∀ l c x, s.agenda = .stream c x :: l → step s = settle (stepStream { s with agenda := l, cur := (c.val, x) }))

/-- R172: a fetch beyond instruction memory and an unassigned word raise ILLEGAL whatever the guard says, a marked unit raises
UNCORRECTABLE (R378), and a region being loaded holds the stream (R82): for the word at the PC, and for the second word of a long form. -/
def Obligations.FetchRefusals : Prop :=
  ∀ s : State, s.agenda = [] → s.powered = true → canRun s = true → isCtl s.cur.2 = true →
    let u := latchReads s.cc s
    deliver u.cc u.cl u = none → (u.myStr.st ≠ .wait ∨ u.me.held = none) →
    let w0 := imWord u u.cc u.pc
    let idle := setHeld none u
    (u.pc ≥ 262144 → step s = .next (closeStep (trapHere ⟨.illegal, 0⟩ 4 idle))) ∧
    (u.pc < 262144 → loadingAt u u.cc u.pc = true → step s = .next (closeStep (waitOn .other idle))) ∧
    (u.pc < 262144 → loadingAt u u.cc u.pc = false → imMarked u u.cc u.pc = true → step s = .next (closeStep (trapHere ⟨.uncorrectable, 0⟩ 4 idle))) ∧
    (u.pc < 262144 → loadingAt u u.cc u.pc = false → imMarked u u.cc u.pc = false → isLong w0 = false → decodeControl w0 0 = none →
      step s = .next (closeStep (trapHere ⟨.illegal, w0⟩ 4 idle))) ∧
    (u.pc < 262144 → loadingAt u u.cc u.pc = false → imMarked u u.cc u.pc = false → isLong w0 = true →
      let w1 := imWord u u.cc (u.pc + 4)
      (262144 ≤ u.pc + 4 → step s = .next (closeStep (trapHere ⟨.illegal, 0⟩ 4 idle))) ∧
      (u.pc + 4 < 262144 → loadingAt u u.cc (u.pc + 4) = true → step s = .next (closeStep (waitOn .other idle))) ∧
      (u.pc + 4 < 262144 → loadingAt u u.cc (u.pc + 4) = false → imMarked u u.cc (u.pc + 4) = true →
        step s = .next (closeStep (trapHere ⟨.uncorrectable, 0⟩ 4 idle))) ∧
      (u.pc + 4 < 262144 → loadingAt u u.cc (u.pc + 4) = false → imMarked u u.cc (u.pc + 4) = false → decodeControl w0 w1 = none →
        step s = .next (closeStep (trapHere ⟨.illegal, wordsInfo [w0, w1]⟩ 4 idle))))

/-! ## Memory (R35, R86-R97, R105, R215-R226) -/

namespace Sys2Proof.Claims

/-- A checked effect that ends with `x` and leaves `t`. -/
abbrev Runs {α : Type} (m : M α) (s : State) (x : α) (t : State) : Prop := m.go s = (.ok x, t)

/-- An atomic's new element as R219 gives it, from the width, the old element and the operand; codes 2 to 10 of R220. -/
def rmw (op n x a : Nat) : Nat :=
  let sgn := fun v : Nat => (BitVec.ofNat n v).toInt
  match op with
  | 2 => (x + a) % 2 ^ n | 3 => Nat.land x a | 4 => Nat.lor x a | 5 => Nat.xor x a
  | 6 => if sgn x ≤ sgn a then x else a | 7 => if sgn x ≤ sgn a then a else x
  | 8 => Nat.min x a | 9 => Nat.max x a | _ => a

/-- The two-operand atomics with their codes. -/
def twoOperandAtomics (gd : Guard) (o : Ord) (e : Scope) (d : SReg) (m : MOp) (a : SReg) : List (Nat × Instr) :=
  [(2, .atomAdd gd o e d m a), (3, .atomAnd gd o e d m a), (4, .atomOr gd o e d m a), (5, .atomXor gd o e d m a), (6, .atomMin gd o e d m a),
   (7, .atomMax gd o e d m a), (8, .atomMinu gd o e d m a), (9, .atomMaxu gd o e d m a), (10, .atomSwp gd o e d m a)]

/-- No record or replay of order, and no uncorrectable mark anywhere. -/
abbrev Plain (s : State) : Prop := repMode s = 0 ∧ s.marks = []

end Sys2Proof.Claims

/-- R5, R216, R217: a load from SPM or WSS gives the little-endian element at the location and changes no byte of memory. R5, R216, R217: a
store to SPM or WSS writes the element's bytes at the location that the operand gives, and no other byte of memory and no register but
the PC. -/
def Obligations.ScratchpadLoadAndStoreResults : Prop :=
  (
    ∀ (gd : Guard) (d : SReg) (m : MOp) (s s1 s2 : State) (l : Loc), Ready gd s → isCtl s.cur.2 = true → Plain s1 →
      Runs (myLoc s m .load scalarTag) s l s1 → l.p.space ≤ 1 → l.p.nib = none → Runs (raceCheck s.who l.p l.flat l.view false) s1 () s2 →
      ∃ t, exec (.ld gd d m) s = .next t ∧ t.pc = s.pc + 4 ∧
        t.rdS d = (if d.val = 0 then 0 else loadBits l.p.tag (leNat (memBytes s.mem l.flat l.p.bytes))) ∧
        (∀ n, n ≠ d → t.rdS n = s.rdS n) ∧ (∀ n, t.rdP n = s.rdP n) ∧ (∀ n, t.rdH n = s.rdH n) ∧ ∀ a, memRd t.mem a = memRd s.mem a) ∧
  (
    ∀ (gd : Guard) (d : SReg) (m : MOp) (s s1 s2 : State) (l : Loc), Ready gd s → isCtl s.cur.2 = true → Inv s →
      Runs (myLoc s m .store scalarTag) s l s1 → l.p.space ≤ 1 → l.p.nib = none → Runs (raceCheck s.who l.p l.flat l.view true) s1 () s2 →
      ∃ t, exec (.st gd d m) s = .next t ∧ t.pc = s.pc + 4 ∧
        memBytes t.mem l.flat l.p.bytes = leBytes l.p.bytes (storeBits l.p.tag (s.rdS d).toNat) ∧
        (∀ a, a < l.flat ∨ l.flat + l.p.bytes ≤ a → memRd t.mem a = memRd s.mem a) ∧
        (∀ n, t.rdS n = s.rdS n) ∧ (∀ n, t.rdP n = s.rdP n) ∧ (∀ n, t.rdH n = s.rdH n))

/-- R35: the thirteen steps in order, the first that fails being reported with its step: 1 to 9 for the operand, 10 to 12 for the page it lies in,
13 for the race check. That TINFO has space 0 for steps 1 to 4 is the model's reading (notes/assumptions/33.md). R10, R24: what a place that
passes is. -/
def Obligations.OperandChecksInOrder : Prop :=
  (∀ (s : State) (w : Who) (h : Handle) (c : Coord) (a : Acc),
    let e := ltEntry s w (hLt h)
    let abs := absCoord h w.mt c
    let inside := ∀ d < 4, nth 0 abs d < eExt e d
    let byte := (elemByte e (hFmt h) abs).1
    (hMalformed h = true → place s w h c a = .error ⟨.bounds, tinfo 0 0 1⟩) ∧
    (hMalformed h = false → hTagOk h w.mt = false → place s w h c a = .error ⟨.permission, tinfo 0 0 2⟩) ∧
    (hMalformed h = false → hTagOk h w.mt = true → inWindow h c = false → place s w h c a = .error ⟨.bounds, tinfo 0 0 3⟩) ∧
    (hMalformed h = false → hTagOk h w.mt = true → inWindow h c = true → entryOk w.ltb e = false →
      place s w h c a = .error ⟨.translation, tinfo 0 0 4⟩) ∧
    (hMalformed h = false → hTagOk h w.mt = true → inWindow h c = true → entryOk w.ltb e = true → formatOk h e false (fun _ => true) = false →
      place s w h c a = .error ⟨.format, tinfo 0 (eSpace e) 5⟩) ∧
    (hMalformed h = false → hTagOk h w.mt = true → inWindow h c = true → entryOk w.ltb e = true → formatOk h e false (fun _ => true) = true →
      (¬inside → place s w h c a = .error ⟨.bounds, tinfo 0 (eSpace e) 6⟩) ∧
      (inside → (eSpace e = 6 ∧ eDomLevel e < 5 ∨ inDomain s w (eDomLevel e) (eDomInst e) = false) →
        place s w h c a = .error ⟨.permission, tinfo 0 (eSpace e) 7⟩) ∧
      (inside → (eSpace e = 6 → 5 ≤ eDomLevel e) → inDomain s w (eDomLevel e) (eDomInst e) = true →
        (kindOk e a = false → place s w h c a = .error ⟨.permission, tinfo 0 (eSpace e) 8⟩) ∧
        (kindOk e a = true → eSpace e ≤ 1 → (byte < 0 ∨ (if eSpace e = 0 then 2 ^ 22 else 2 ^ 28) ≤ byte) →
          ∃ n, place s w h c a = .error ⟨.bounds, tinfo n (eSpace e) 9⟩) ∧
        (kindOk e a = true → 2 ≤ eSpace e → (byte < 0 ∨ 2 ^ 56 ≤ byte) → ∃ n, place s w h c a = .error ⟨.translation, tinfo n (eSpace e) 9⟩))) ∧
    ∀ p, place s w h c a = .ok p → hMalformed h = false ∧ hTagOk h w.mt = true ∧ inWindow h c = true ∧ entryOk w.ltb e = true ∧
      formatOk h e false (fun _ => true) = true ∧ inDomain s w (eDomLevel e) (eDomInst e) = true ∧ (eSpace e = 6 → 5 ≤ eDomLevel e) ∧
      kindOk e a = true ∧
      p.space = eSpace e ∧ p.lt = hLt h ∧ p.entry = e ∧ (p.space = 0 → p.raw < 2 ^ 22) ∧ (p.space = 1 → p.raw < 2 ^ 28) ∧ p.raw < 2 ^ 56) ∧
  (∀ (s : State) (w : Who) (p : Place) (a : Acc), 2 ≤ p.space → p.space ≠ 6 → hostSpot s w p = none → repMode s ≠ 2 →
    frozenAt s (ctxId w.root) p.addr = false →
    let fails := fun (c : Cause) (step : Nat) (t : State) => (resolve w p a).go s = (.error (.trap ⟨c, tinfo p.addr p.space step⟩), t)
    (translate s w.tower w.root p.addr = none → fails .translation 10 s) ∧
    ∀ pte size, translate s w.tower w.root p.addr = some (pte, size) →
      let t := cacheTr s w.tower w.root p.addr (pte, size)
      (pageOk pte p.addr p.space a w.sup = false → fails .permission 11 t) ∧
      (pageOk pte p.addr p.space a w.sup = true → keyOk s pte (eKey p.entry) (eKeyReq p.entry) = false → fails .key 12 t) ∧
      (pageOk pte p.addr p.space a w.sup = true → keyOk s pte (eKey p.entry) (eKeyReq p.entry) = true →
        w.core = none → (resolve w p a).go s = (.ok ⟨p, physOf pte size p.addr, viewOf s pte p.addr, ctxId w.root⟩, t))) ∧
  ∀ (s : State) (w : Who) (p : Place) (flat : Nat) (view : Option (Nat × Nat)) (write : Bool),
    (eRelaxed p.entry = true → (raceCheck w p flat view write).go s = (.ok (), s)) ∧
    ∀ x t, (raceCheck w p flat view write).go s = (.error x, t) → x = .trap ⟨.race, tinfo p.addr p.space 13⟩

/-- R35, R217, R218, R220: a load or store whose operand passes the checks of R35 and whose access performs completes; a load writes the
element to its register, a store to PEER goes as a remote write, one behind a release fence as a release (R111). R219, R220: an atomic whose access
performs completes with the old element in its register, its new element being the one R219 gives; a remote one that its target acknowledges
completes with 0, and one at a scope narrower than domain, a relaxed one too, is refused; whether a remote `atom.cas` released is open (the model's
readings, notes/assumptions/34.md). In DEV, CAP and HOST, too, bytes stored at a location are the bytes that a read of it then gives (R86, R99). -/
def Obligations.LoadsStoresAndAtomicsComplete : Prop :=
  (
    ∀ (gd : Guard) (o : Ord) (e : Scope) (d : SReg) (m : MOp) (s s1 s2 : State) (l : Loc) (x : Nat), Ready gd s →
      let code := storeBits l.p.tag (s.rdS d).toNat
      (Runs (myLoc s m .load scalarTag) s l s1 →
        (Runs (plainLoad s.who l) s1 x s2 → Completes (.ld gd d m) 4 s (s2.wrS d (loadBits l.p.tag x))) ∧
        (Runs (loadOrd s.who l o e) s1 x s2 → Completes (.ldOrd gd o e d m) 8 s (s2.wrS d (loadBits l.p.tag x)))) ∧
      (Runs (myLoc s m .store scalarTag) s l s1 →
        (l.p.space ≠ 6 → Runs (plainStore s.who l code) s1 () s2 → Completes (.st gd d m) 4 s s2) ∧
        (l.p.space ≠ 6 → Runs (storeOrd s.who l o e code) s1 () s2 → Completes (.stOrd gd o e m d) 8 s s2) ∧
        (l.p.space = 6 → Runs (remoteStore s.who l.p false false .module code) s1 () s2 → Completes (.st gd d m) 4 s s2) ∧
        (l.p.space = 6 → (isRel o = true → 4 ≤ scopeNo e) → let sc := (relScope s1 s.who.agent o e).filter fun e => decide (4 ≤ scopeNo e)
          Runs (remoteStore s.who l.p true sc.isSome (sc.getD e) code) s1 () s2 → Completes (.stOrd gd o e m d) 8 s s2) ∧
        (l.p.space = 6 → isRel o = true → scopeNo e < 4 → exec (.stOrd gd o e m d) s = .next (trapHere ⟨.permission, tinfo l.p.addr 6 0⟩ 8 s1)))) ∧
  (
    ∀ (gd : Guard) (o : Ord) (e : Scope) (d : SReg) (m : MOp) (a b : SReg) (s s1 s2 s3 : State) (l : Loc) (old : Nat), Ready gd s →
      Runs (myLoc s m .atomic atomTag) s l s1 →
      let sc := (relScope s1 s.who.agent o e).filter fun e => decide (4 ≤ scopeNo e)
      let sent := fun (t : State) => if sc.isSome then (releasePass s.who.agent t).1 else t
      let sentCas := fun (t : State) => if Config.freeBit t.freeCtr 219 then t else sent t
      let n := esizeBits l.p.tag
      let x := (s.rdS a).toNat % 2 ^ n
      (l.p.space ≠ 6 → (l.p.space = 5 → hostMode s1 ≠ 0) →
        (∀ p ∈ twoOperandAtomics gd o e d m a, Runs (atomicAt s.who l o e fun y => some (rmw p.1 n y x)) s1 old s2 →
          Completes p.2 8 s (s2.wrS d (loadBits l.p.tag old))) ∧
        (Runs (atomicAt s.who l o e fun y => if y = x then some ((s.rdS b).toNat % 2 ^ n) else none) s1 old s2 →
          Completes (.atomCas gd o e d m a b) 8 s (s2.wrS d (loadBits l.p.tag old)))) ∧
      (l.p.space = 6 → isAcq o = false → 4 ≤ scopeNo e → (ansOf s1 s.who.agent = .none → Runs (performIf s.who sc) s1 () s2) →
        (ansOf s1 s.who.agent ≠ .none → s2 = s1) →
        (∀ p ∈ twoOperandAtomics gd o e d m a,
          Runs (remoteDo s.who l.p sc.isSome (fun r => .remoteAtomic (ePeer l.p.entry) r p.1 (s.rdS a) 0) []) s2 () s3 →
          Completes p.2 8 s ((sent s3).wrS d 0)) ∧
        (Runs (remoteDo s.who l.p sc.isSome (fun r => .remoteAtomic (ePeer l.p.entry) r 11 (s.rdS a) (s.rdS b)) []) s2 () s3 →
          Completes (.atomCas gd o e d m a b) 8 s ((sentCas s3).wrS d 0))) ∧
      (l.p.space = 6 → isAcq o = true ∨ scopeNo e < 4 → ∀ i ∈ (twoOperandAtomics gd o e d m a).map Prod.snd ++ [.atomCas gd o e d m a b],
        exec i s = .next (trapHere ⟨.permission, tinfo l.p.addr 6 0⟩ 8 s1))) ∧
  (
    ∀ (w : Who) (l : Loc) (bs : List Byte) (s : State), Inv s → Plain s → 2 ≤ l.p.space → l.flat % 256 + bs.length ≤ 256 →
      (s.imgKey.isSome = true → ∀ k, l.flat / 64 ≤ k → k ≤ (l.flat + bs.length) / 64 → imageLine k = false) →
      (∀ g, find (s.tower w.tower).guest (l.flat / 256) = some g → g.bytes.length = 256) →
      ∃ t u, Runs (writeLoc w l bs) s () t ∧ Runs (readLoc w l bs.length) t bs u)

/-- R105, R219: a relaxed atomic on SPM or WSS reads the old element, writes the new one that R219 gives at the same location, and changes no
other byte; a compare that fails writes nothing. -/
def Obligations.ScratchpadAtomicResults : Prop :=
  ∀ (gd : Guard) (e : Scope) (d : SReg) (m : MOp) (a b : SReg) (s s1 : State) (l : Loc), Ready gd s → isCtl s.cur.2 = true → Inv s → Plain s1 →
    Runs (myLoc s m .atomic atomTag) s l s1 → l.p.space ≤ 1 → relScope s1 s.who.agent .rlx e = none →
    let n := esizeBits l.p.tag
    let old := leNat (memBytes s.mem l.flat l.p.bytes)
    let x := (s.rdS a).toNat % 2 ^ n
    let ends := fun (i : Instr) (new : Nat) => ∃ t, exec i s = .next t ∧ t.pc = s.pc + 8 ∧
      t.rdS d = (if d.val = 0 then 0 else loadBits l.p.tag old) ∧ (∀ k, k ≠ d → t.rdS k = s.rdS k) ∧ (∀ k, t.rdP k = s.rdP k) ∧
      (∀ k, t.rdH k = s.rdH k) ∧ memBytes t.mem l.flat l.p.bytes = leBytes l.p.bytes new ∧
      ∀ y, y < l.flat ∨ l.flat + l.p.bytes ≤ y → memRd t.mem y = memRd s.mem y
    (∀ p ∈ twoOperandAtomics gd .rlx e d m a, ends p.2 (rmw p.1 n old x)) ∧
    ends (.atomCas gd .rlx e d m a b) (if old = x then (s.rdS b).toNat % 2 ^ n else old)

/-- R89, R96, R221: an update joins the tower's update-only line of its line, alone, in a way that is made free for it (R72), or combined with what
the element holds, and a memory-side request joins those in flight. R37, R88, R222: a pin of a line at its home and its unpin, with
every status they return: 0 DONE, 2 CLOSING, 6 OVERFLOW, 7 NOWAY, 10 EMPTY. -/
def Obligations.UpdatesMemorySideRequestsAndPinsComplete : Prop :=
  (
    ∀ (gd : Guard) (d : SReg) (m : MOp) (s s1 : State) (l : Loc), Ready gd s →
      let t := s.who.tower
      let w := s1.tower t
      let line := l.flat / 256
      let k := l.flat % 256
      let x := (s.rdS d).toNat % 2 ^ esizeBits l.p.tag
      let upds := [(UOp.add, Instr.updAdd gd d m), (.min, .updMin gd d m), (.max, .updMax gd d m)]
      let msas := [(UOp.add, Instr.msaAdd gd d m), (.min, .msaMin gd d m), (.max, .msaMax gd d m)]
      (Runs (myLoc s m .update updTag) s l s1 → isGuest t l.flat = false → (l.p.space = 5 → hostMode s1 ≠ 0) → ∀ p ∈ upds,
        (find w.upd line = none → let s2 := makeRoom t line false s1
          Completes p.2 4 s (s2.setTower t { s2.tower t with upd := put (s2.tower t).upd line ⟨p.1, l.p.tag, l.view, [(k, x)]⟩ })) ∧
        (∀ u, find w.upd line = some u → u.op = p.1 → u.tag = l.p.tag → u.view = l.view → ∀ y, find u.vals k = some y →
          Completes p.2 4 s (s1.setTower t { w with upd := put w.upd line { u with vals := put u.vals k (opHelper p.1 l.p.tag y x) } }))) ∧
      (Runs (myLoc s m .update updTag) s l s1 → isGuest t l.flat = false → l.p.space = 5 → hostMode s1 = 0 → find w.upd line = none → ∀ p ∈ upds,
        let s2 := makeRoom t line false s1
        Completes p.2 4 s (mergeLine t line (s2.setTower t { s2.tower t with upd := put (s2.tower t).upd line ⟨p.1, l.p.tag, l.view, [(k, x)]⟩ }))) ∧
      (Runs (myLoc s m .msa msaTag) s l s1 → holders s1 line = [] → (∀ r ∈ s1.msa, r.issue ≠ s1.freeCtr) → ∀ p ∈ msas,
        Completes p.2 4 s { s1 with
          msa := s1.msa ++ [⟨s1.msaNext, s1.freeCtr, s.cc, line, p.1, l.p.tag, [(k, x)], l.view, (l.ctx, l.p.addr)⟩], msaNext := s1.msaNext + 1 })) ∧
  (
    ∀ (gd : Guard) (d : SReg) (m : MOp) (s s0 : State) (p : Place), Ready gd s → Runs (cachePlace s.who (s.rdH m.h) (coordM s m)) s p s0 →
      frozenAt s0 (ctxId s.who.root) p.addr = true → Completes (.lpin gd d m) 4 s (s0.wrS d 2)) ∧
  (
    ∀ (gd : Guard) (d : SReg) (m : MOp) (s s0 s1 : State) (p : Place) (l : Loc), Ready gd s →
      Runs (cachePlace s.who (s.rdH m.h) (coordM s m)) s p s0 → frozenAt s0 (ctxId s.who.root) p.addr = false →
      Runs (resolve s.who p .load) s0 l s1 →
      let t := s.who.tower
      let w := s1.tower t
      let line := l.flat / 256
      let k := linePins s1 t line
      let key := ltKey s.who.root l.p.lt
      let closing := s1.closing.any fun p => p.ctx == ctxId s.who.root && overlaps l.p.entry p
      let n := look 0 s1.pins key
      (isGuest t (line * 256) = false → isGuest t l.flat = false → find w.upd line = none → closing = false → n < 65535 → k < 255 →
        k ≠ 0 ∨ pinnedWays s1 t line < 8 →
        let s2 := makeRoom t line (decide (0 < k)) { s1 with pins := put s1.pins key (n + 1) }
        Completes (.lpin gd d m) 4 s ((s2.setTower t { s2.tower t with homePin := put (s2.tower t).homePin line (k + 1) }).wrS d 0)) ∧
      (closing = true → Completes (.lpin gd d m) 4 s (s1.wrS d 2)) ∧
      (closing = false → 65535 ≤ n → Completes (.lpin gd d m) 4 s (s1.wrS d 6)) ∧
      (closing = false → n < 65535 → 255 ≤ k → Completes (.lpin gd d m) 4 s (s1.wrS d 6)) ∧
      (closing = false → n < 65535 → k = 0 → 8 ≤ pinnedWays s1 t line → Completes (.lpin gd d m) 4 s (s1.wrS d 7)) ∧
      (k = 0 → Completes (.lunpin gd d m) 4 s (s1.wrS d 10)) ∧
      (isGuest t (line * 256) = false → k ≠ 0 → Completes (.lunpin gd d m) 4 s
        (({ s1.setTower t { w with homePin := if k = 1 then del w.homePin line else put w.homePin line (k - 1) } with
          pins := put s1.pins key (n - 1) }).wrS d 0)))

/-- R74-R78, R223: the tag table's lookup, marking lookup, insert and evict, with every status they return: 0 DONE, 8 OCCUPIED, 9 DUPLICATE,
10 EMPTY. `tins` raises PERMISSION with TT_EN = 0 and BOUNDS for a slot number of 1,024 or more before the checks of its key: the model's reading,
DEDUCED (notes/assumptions/26.md). -/
def Obligations.TagTableFormsComplete : Prop :=
  ∀ (gd : Guard) (d a : SReg) (m : MOp) (s s1 : State) (p : Place), Ready gd s →
    let c := s.myCore.ttCfg
    let slot := (s.rdS d).toNat
    let evict := (s.rdS a).toNat
    let ways := 2 ^ (c.toNat / 16 % 8)
    let slots := c.toNat / 2 ^ 8 % 2 ^ 10 + 1
    let block := p.addr / 2 ^ (c.toNat % 16 + 10)
    let set := block % (slots / ways)
    let entry := fun j => (look 0 s.myCore.tt j).toNat
    let image := p.lt * 2 ^ 2 + block * 2 ^ 16
    let hit := fun j => entry j % 2 = 1 ∧ entry j / 2 ^ 2 % 2 ^ 12 = p.lt ∧ entry j / 2 ^ 16 % 2 ^ 46 = block
    let mine := fun j => j / ways = set ∧ j < slots
    (Runs (cachePlace s.who (s.rdH m.h) (coordM s m)) s p s1 → s1.myCore = s.myCore → repMode s1 = 0 →
      (c.toNat < 2 ^ 63 → Completes (.tlk gd d m) 4 s (s1.wrS d (BitVec.ofNat 64 (2 ^ 64 - 1))) ∧
        Completes (.tlkM gd d m) 4 s (s1.wrS d (BitVec.ofNat 64 (2 ^ 64 - 1)))) ∧
      (2 ^ 63 ≤ c.toNat → slots % ways = 0 → ∀ j, mine j → hit j → (∀ i < j, mine i → ¬hit i) →
        Completes (.tlk gd d m) 4 s (s1.wrS d (BitVec.ofNat 64 (j + entry j / 2 % 2 * 2 ^ 62))) ∧
        ∃ e : Word, e.getLsbD 1 = true ∧ (∀ k < 64, k ≠ 1 → e.getLsbD k = (look 0 s.myCore.tt j).getLsbD k) ∧
          Completes (.tlkM gd d m) 4 s ((s1.setMyCore { s1.myCore with tt := put s1.myCore.tt j e }).wrS d
            (BitVec.ofNat 64 (j + entry j / 2 % 2 * 2 ^ 62)))) ∧
      (2 ^ 63 ≤ c.toNat → slots % ways = 0 → (∀ j, mine j → ¬hit j) →
        ∃ v, mine v ∧ (∀ j, mine j → entry j % 2 = 0 → v ≤ j ∧ entry v % 2 = 0) ∧
          ((∀ j, mine j → entry j % 2 = 1) → v = set * ways + look 0 s.myCore.rr set % ways) ∧
          ∀ i ∈ [Instr.tlk gd d m, .tlkM gd d m],
            Completes i 4 s (s1.wrS d (BitVec.ofNat 64 (v + entry v / 2 % 2 * 2 ^ 61 + entry v % 2 * 2 ^ 62 + 2 ^ 63)))) ∧
      (2 ^ 63 ≤ c.toNat → slots % ways = 0 → mine slot →
        let closing := s1.closing.any fun q => q.ctx == ctxId s.who.root && overlaps p.entry q
        let n := look 0 s1.pins (ltKey s.who.root p.lt)
        (entry slot % 2 = 1 → Completes (.tins gd d m) 4 s (s1.wrS d 8)) ∧
        (entry slot % 2 = 0 → (∃ j, mine j ∧ hit j) → Completes (.tins gd d m) 4 s (s1.wrS d 9)) ∧
        (entry slot % 2 = 0 → (∀ j, mine j → ¬hit j) → closing = true → Completes (.tins gd d m) 4 s (s1.wrS d 2)) ∧
        (entry slot % 2 = 0 → (∀ j, mine j → ¬hit j) → closing = false → 65535 ≤ n → Completes (.tins gd d m) 4 s (s1.wrS d 6)) ∧
        (entry slot % 2 = 0 → (∀ j, mine j → ¬hit j) → closing = false → n < 65535 → Completes (.tins gd d m) 4 s
          ((({ s1 with pins := put s1.pins (ltKey s.who.root p.lt) (n + 1) }).setMyCore { s1.myCore with
            tt := put s1.myCore.tt slot (BitVec.ofNat 64 (1 + image))
            rr := put s1.myCore.rr set ((slot % ways + 1) % ways) }).wrS d 0)))) ∧
    (2 ^ 63 ≤ c.toNat → evict < slots →
      (entry evict % 2 = 0 → Completes (.tevc gd d a) 4 s (s.wrS d 10)) ∧
      (entry evict % 2 = 1 → entry evict < 2 ^ 62 → ∃ u : State, Completes (.tevc gd d a) 4 s (u.wrS d (BitVec.ofNat 64 (entry evict + 2 ^ 63))) ∧
        (look 0 u.myCore.tt evict).toNat = entry evict / 4 * 4 ∧ (∀ j, j ≠ evict → look 0 u.myCore.tt j = look 0 s.myCore.tt j) ∧
        look 0 u.pins (ltKey s.who.root (entry evict / 2 ^ 2 % 2 ^ 12)) = look 0 s.pins (ltKey s.who.root (entry evict / 2 ^ 2 % 2 ^ 12)) - 1)) ∧
    (2 ^ 63 ≤ c.toNat → slots ≤ evict → TrapsHere (.tevc gd d a) 4 s .bounds 0) ∧
    (2 ^ 63 ≤ c.toNat → 1024 ≤ slot → TrapsHere (.tins gd d m) 4 s .bounds 0) ∧
    (c.toNat < 2 ^ 63 → TrapsHere (.tevc gd d a) 4 s .permission 0 ∧ TrapsHere (.tins gd d m) 4 s .permission 0)

/-! ## Synchronisation, jobs, time, registers, queues, contexts (R128-R136, R150-R164, R224-R241) -/

namespace Sys2Proof.Claims

/-- The instruction waits, its PC unchanged (R155, R215). -/
abbrev WaitsHere (i : Instr) (s : State) (w : Wait) : Prop := exec i s = .next (waitOn w s)

/-- The value of a gusset register of the executing core's pair. -/
def gussetAt (s : State) (j : Nat) : Word := (look ((0 : Word), none) (s.pair (pairOf s.cc)).g j).1

/-- It completes with `d` (if any) set to `v`, and the gussets are `f` of what they were. -/
def GussetEnds (i : Instr) (s : State) (d : Option (SReg × Word)) (f : Nat → Word) : Prop :=
  ∃ u : State, u.cur = s.cur ∧ (∀ j, gussetAt u j = f j) ∧ (∀ a, memRd u.mem a = memRd s.mem a) ∧
    Completes i 4 s (match d with
      | some (r, v) => u.wrS r v
      | none => u)

end Sys2Proof.Claims

/-- R134, R135, R228: the gusset forms read and write the pair's register for the context that owns it or claims it, clearing what an
unowned file held, and raise PERMISSION for another context. -/
def Obligations.GussetFormsComplete : Prop :=
  ∀ (gd : Guard) (d : SReg) (g : GReg) (b : SReg) (s : State), Ready gd s → repMode s = 0 →
    let p := s.pair (pairOf s.cc)
    let mine := p.ownCtx = ctxId s.myCore.ascRoot.toNat
    let old := fun j => if p.ownV then gussetAt s j else 0
    let set := fun (v : Word) (j : Nat) => if j = g.val then v else old j
    (p.ownV = false ∨ mine →
      GussetEnds (.gld gd d g) s (some (d, old g.val)) old ∧
      GussetEnds (.gst gd g b) s none (set (s.rdS b)) ∧
      GussetEnds (.gswp gd d g b) s (some (d, old g.val)) (set (s.rdS b)) ∧
      GussetEnds (.gadd gd d g b) s (some (d, old g.val)) (set (old g.val + s.rdS b)) ∧
      GussetEnds (.gcas gd d g b) s (some (d, old g.val)) (if old g.val = s.rdS d then set (s.rdS b) else old)) ∧
    (p.ownV = true → ¬mine → ∀ i ∈ [Instr.gld gd d g, .gst gd g b, .gswp gd d g b, .gadd gd d g b, .gcas gd d g b],
      TrapsHere i 4 s .permission 0)

/-- R128, R129, R229, R230: semaphore counts and token FIFOs: signal and push wait while there is no room, wait and pop while there is
nothing to take; each changes its own object only. R161, R164, R231: an arrival at a group inside the module counts, and completes the
generation when it is the last; a wait ends once the generation has passed the ticket; `bar.ara` resumes after its arrival; a core that
is no member traps. -/
def Obligations.SemaphoreTokenAndBarrierFormsComplete : Prop :=
  (
    ∀ (gd : Guard) (d : SReg) (a : SemIx) (n : Fin 256) (k : TkIx) (s : State), Ready gd s → repMode s = 0 → s.cc < 1024 →
      let v := (semOf s s.cc a.val).1
      let others := fun (u : State) => ∀ j, j ≠ a.val → semOf u s.cc j = semOf s s.cc j
      let queues := fun (u : State) => ∀ j, j ≠ k.val → tokens u s.cc j = tokens s s.cc j
      (v + n.val ≤ 65535 → ∃ u, Completes (.semSig gd a n) 4 s u ∧ (semOf u s.cc a.val).1 = v + n.val ∧ others u ∧ u.mem = s.mem) ∧
      (65535 < v + n.val → WaitsHere (.semSig gd a n) s (.sem a n true)) ∧
      (n.val ≤ v → ∃ u, Completes (.semWait gd a n) 4 s u ∧ (semOf u s.cc a.val).1 = v - n.val ∧ others u ∧ u.mem = s.mem) ∧
      (v < n.val → WaitsHere (.semWait gd a n) s (.sem a n false)) ∧
      Sets (.semRd gd d a) 4 s d (BitVec.ofNat 64 v) ∧
      ((tokens s s.cc k.val).length < 8 → ∃ u p, Completes (.tkPush gd k) 4 s u ∧ tokens u s.cc k.val = tokens s s.cc k.val ++ [p] ∧
        p.agent = s.myAgent ∧ queues u ∧ u.mem = s.mem) ∧
      (8 ≤ (tokens s s.cc k.val).length → WaitsHere (.tkPush gd k) s (.token k true)) ∧
      (∀ p t, tokens s s.cc k.val = p :: t → ∃ u, Completes (.tkPop gd k) 4 s u ∧ tokens u s.cc k.val = t ∧ queues u ∧ u.mem = s.mem) ∧
      (tokens s s.cc k.val = [] → WaitsHere (.tkPop gd k) s (.token k false)) ∧
      Sets (.tkCnt gd d k) 4 s d (BitVec.ofNat 64 (tokens s s.cc k.val).length)) ∧
  (
    ∀ (gd : Guard) (a : BgIx) (s : State), Ready gd s → repMode s = 0 → s.cc < 1024 →
      let g := s.group a.val
      let member := gEnable g = true ∧ gMember g s.cc s.cl = true
      let arrived := look false s.me.arr a.val
      let ticket := look 0 s.me.ticket a.val
      (member → gLevel g ≤ 4 → (arrived = false ∨ g.gen ≠ ticket) → ∃ u : State, Completes (.barArv gd a) 4 s u ∧
        look false u.me.arr a.val = true ∧ look 0 u.me.ticket a.val = g.gen ∧
        (g.count + 1 = gMembers g → (u.group a.val).gen = (g.gen + 1) % 2 ^ 32 ∧ (u.group a.val).count = 0) ∧
        (g.count + 1 ≠ gMembers g → (u.group a.val).gen = g.gen ∧ (u.group a.val).count = g.count + 1)) ∧
      (member → arrived = true → g.gen = ticket → WaitsHere (.barArv gd a) s (.barrier a.val 0 0)) ∧
      (member → s.myStr.wait = .none → arrived = true → g.gen ≠ ticket → ∃ u : State, Completes (.barWait gd a) 4 s u ∧
        look false u.me.arr a.val = false ∧ u.groups = s.groups) ∧
      (member → s.myStr.wait = .none → arrived = true → g.gen = ticket → WaitsHere (.barWait gd a) s (.barrier a.val 1 ticket)) ∧
      (member → s.myStr.wait = .none → s.me.araV = true → s.me.araG = a.val → s.me.araPc = s.pc → arrived = true → g.gen ≠ ticket →
        ∃ u : State, Completes (.barAra gd a) 4 s u ∧ look false u.me.arr a.val = false ∧ u.me.araV = false ∧ u.groups = s.groups) ∧
      (¬member → s.myStr.st ≠ .wait → s.me.araV = false → ∀ i ∈ [Instr.barArv gd a, .barWait gd a, .barAra gd a], TrapsHere i 4 s .permission 0) ∧
      (∀ t, s.myStr.st = .wait → s.myStr.wait = .barrier a.val 1 t →
        (g.gen = t → WaitsHere (.barWait gd a) s (.barrier a.val 1 t)) ∧
        (g.gen ≠ t → ∃ u : State, Completes (.barWait gd a) 4 s u ∧ look false u.me.arr a.val = false ∧ u.groups = s.groups)))

/-- R150-R153, R233, R234: engine starts, the rendezvous, the end of the job, and bound registers. -/
def Obligations.JobFormsComplete : Prop :=
  ∀ (gd : Guard) (a : SReg) (m k : Fin 16) (s : State), Ready gd s → isCtl s.cur.2 = true → s.cc < 1024 →
    let xs := maskStreams a.val m.val
    let pcOf := fun (n : Nat) => (s.me.rdS n).toNat
    let bound := fun (i : Instr) (e : Eng) =>
      ((s.rdS a).toNat ≤ 65535 → Completes i 4 s (s.setSeqOf s.cc e { s.seqOf s.cc e with
        b := put (s.seqOf s.cc e).b k.val (s.rdS a).toNat, bad := (s.seqOf s.cc e).bad.filter fun n => n != k.val })) ∧
      (65535 < (s.rdS a).toNat → TrapsHere i 4 s .bounds 0)
    (s.myStr.inJob = true → m.val ≠ 0 → (∀ e ∈ xs, pcOf e.2 % 64 = 0 ∧ pcOf e.2 < 262144 ∧ (s.str s.cc (engStream e.1)).st = .idle) →
      ∃ u : State, Completes (.engStart gd a m) 4 s u ∧ (∀ e ∈ xs, let x := u.str s.cc (engStream e.1)
          x.st = .run ∧ x.pc = pcOf e.2 ∧ x.inJob = true ∧ x.job = s.cl ∧ x.mt = s.myStr.mt ∧ x.wait = .none ∧
          (u.seqOf s.cc e.1).run = none) ∧ (∀ n, u.rdS n = s.rdS n) ∧ u.mem = s.mem) ∧
    (s.myStr.inJob = false → TrapsHere (.engStart gd a m) 4 s .permission 0) ∧
    (jobBusy s s.cc s.cl = false → ∃ u : State, Completes (.rdv gd) 4 s u ∧ u.me.rdvF = .empty ∧ u.mem = s.mem) ∧
    (jobBusy s s.cc s.cl = true → WaitsHere (.rdv gd) s .rdv) ∧
    (s.myStr.inJob = true → jobBusy s s.cc s.cl = false → acked s s.myAgent = true → ∃ t, exec (.jend gd) s = .next t ∧ t.pc = s.pc + 4 ∧
      t.myStr.st = .idle ∧ t.myStr.inJob = false ∧ t.myStr.mt = 0xFFF ∧ t.myStr.wait = .none ∧ t.me.starter = .none) ∧
    (s.myStr.inJob = true → jobBusy s s.cc s.cl = true → TrapsHere (.jend gd) 4 s .permission 0) ∧
    bound (.bndMe gd k a) .me ∧ bound (.bndVe gd k a) .ve ∧ bound (.bndCel gd k a) .cel ∧ bound (.bndCes gd k a) .ces

/-- R156, R157, R232: the holder's `lic.acq` and anyone's `lic.rel` that finds nothing to release complete; a disabled licence traps; else
the request is entered, or the drain begun, and the core waits. R111, R136, R142, R227: the fences complete once the agent's remote
accesses are acknowledged (at scope domain and wider) and, for `fence.msa`, once no memory-side request that the core issued before it is
in flight; they change no register; the widest release scope stands for the stream's later relaxed atomics. -/
def Obligations.LicenceFormsAndFencesComplete : Prop :=
  (
    ∀ (gd : Guard) (s : State), Ready gd s →
      let k := s.pair (pairOf s.cc)
      let holds := k.lic = .held ∧ k.who = levelOf s.cc
      (s.myStr.wait ≠ .denied → holds → Completes (.licAcq gd) 4 s s) ∧
      (k.lic = .disabled ∨ s.myStr.wait = .denied →
        TrapsHere (.licAcq gd) 4 s .licenceDisabled 0) ∧
      (k.lic ≠ .disabled → s.myStr.wait ≠ .denied → ¬holds → exec (.licAcq gd) s = .next (waitOn (.licence true) (wantLic s.cc s))) ∧
      (s.myStr.wait ≠ .licence false → ¬holds → Completes (.licRel gd) 4 s s) ∧
      (s.myStr.wait = .licence false → ¬(k.lic = .releasing ∧ k.who = levelOf s.cc) → Completes (.licRel gd) 4 s s) ∧
      (s.myStr.wait ≠ .licence false → holds → ∃ u : State, exec (.licRel gd) s = .next (waitOn (.licence false) u) ∧ u.pair (pairOf s.cc) = { k with lic := .releasing } ∧
          u = releaseLic s.cc (s.actBy (ObjKind.lic.key (pairOf s.cc)) s.myAgent))) ∧
  (
    ∀ (gd : Guard) (e : Scope) (s : State), Ready gd s → s.cc < 1024 → isCtl s.cur.2 = true →
      let ready := scopeNo e < 4 ∨ acked s s.myAgent = true
      let ends := fun (i : Instr) (lends : Bool) => ∃ u : State, Completes i 4 s u ∧
        (∀ n, u.rdS n = s.rdS n) ∧ (∀ n, u.rdP n = s.rdP n) ∧ (∀ n, u.rdH n = s.rdH n) ∧
        (lends = true → u.myStr.relF.map scopeNo = some (Nat.max (scopeNo e) (s.myStr.relF.elim 0 scopeNo))) ∧
        (lends = false → u.myStr.relF = s.myStr.relF)
      ends (.fenceAcq gd e) false ∧
      (ready → ends (.fenceRel gd e) true ∧ ends (.fenceFull gd e) true) ∧
      (¬ready → WaitsHere (.fenceRel gd e) s (.own 0) ∧ ∃ u, exec (.fenceFull gd e) s = .next (waitOn (.own 0) u)) ∧
      ∀ m, (s.myStr.st ≠ .wait ∧ m = s.msaNext) ∨ (s.myStr.st = .wait ∧ s.myStr.wait = .own (16 + m)) ∨
          (s.myStr.st = .wait ∧ s.myStr.wait = .own 0 ∧ m = 0) →
        (ready → (∀ r ∈ s.msa, r.core = s.cc → m ≤ r.id) → ends (.fenceMsa gd e) true) ∧
        (∀ r ∈ s.msa, r.core = s.cc → r.id < m → WaitsHere (.fenceMsa gd e) s (.own (16 + m))))

/-- R65-R70, R235, R236: amax registers and the time counter. R237: a register's value is read, written, and modified in its writable bits;
an unassigned number raises ILLEGAL, one above the level's rights PRIV with its number, and a write that the register's own rules refuse
takes that trap. -/
def Obligations.AmaxTimeAndControlRegisterFormsComplete : Prop :=
  (
    ∀ (gd : Guard) (d a : SReg) (x : MxIx) (s : State), Ready gd s →
      let old := look 0 s.myCore.mx x.val
      let keeps := fun (v : Word) => s.setMyCore { s.myCore with
        mx := put s.myCore.mx x.val v, mxBad := s.myCore.mxBad.filter fun n => n != x.val }
      Sets (.mxRd gd d x) 4 s d old ∧
      (amaxBad (s.rdS a) = false → Completes (.mxWr gd x a) 4 s (keeps (s.rdS a))) ∧
      (amaxBad (s.rdS a) = true → TrapsHere (.mxWr gd x a) 4 s .format 0) ∧
      Completes (.mxClr gd x) 4 s (keeps 0) ∧
      Completes (.mxUpd gd x a) 4 s (keeps (amaxUpdate old (fp32.value ((s.rdS a).toNat % 2 ^ 32)))) ∧
      (repMode s = 0 → Sets (.timeRd gd d) 4 s d (BitVec.ofNat 64 s.time))) ∧
  (
    ∀ (gd : Guard) (d a : SReg) (n : Fin 4096) (s : State), Ready gd s →
      let forms := [(Instr.csrRd gd d n, false), (.csrWr gd n a, true), (.csrSet gd d a n, true), (.csrClr gd d a n, true)]
      let goesOn := fun (t : State) => t.myStr.st ≠ .halt ∧ t.myStr.st ≠ .idle
      (regOf n.val = none → ∀ f ∈ forms, TrapsHere f.1 8 s .illegal (wordsInfo (encode f.1))) ∧
      ∀ r, regOf n.val = some r →
        (∀ f ∈ forms, s.me.priv = false → (if f.2 then r.jobWr else r.jobRd) = false → TrapsHere f.1 8 s .priv n.val) ∧
        ((s.me.priv = true ∨ r.jobRd = true) → ∀ v, readReg s.cc s.cl n.val s = .ok v → Sets (.csrRd gd d n) 8 s d (BitVec.ofNat 64 v)) ∧
        (s.me.priv = true ∨ r.jobWr = true →
          (∀ t, writeReg s.cc s.cl n.val (s.rdS a) s = .ok t → goesOn t → Completes (.csrWr gd n a) 8 s t) ∧
          (∀ x, writeReg s.cc s.cl n.val (s.rdS a) s = .error x → TrapsHere (.csrWr gd n a) 8 s x.cause x.info) ∧
          ∀ v t, readReg s.cc s.cl n.val s = .ok v → goesOn t → t.cur = s.cur →
            let old := BitVec.ofNat 64 v
            let rw := rwMask n.val r s
            (writeReg s.cc s.cl n.val ((old &&& rw) ||| (s.rdS a &&& rw)) s = .ok t → Completes (.csrSet gd d a n) 8 s (t.wrS d old)) ∧
            (writeReg s.cc s.cl n.val ((old &&& rw) &&& ~~~(s.rdS a)) s = .ok t → Completes (.csrClr gd d a n) 8 s (t.wrS d old))))

/-- R133, R224-R226, R243: a monitor that finds its condition true completes with the value, one that does not is armed; a queue's claim and its
doorbell complete where the header and the scope admit them. The doorbell waits while the notice buffer is full, its store made, and does not store
again when it is tried again; the buffer's size is the model's (notes/assumptions/61.md). -/
def Obligations.MonitorsAndQueueFormsComplete : Prop :=
  ∀ (gd : Guard) (k : Cond) (e : Scope) (d a : SReg) (m : MOp) (s s1 s2 s3 s4 s5 : State) (l : Loc) (x : Nat), Ready gd s →
    let w := s.who
    let i64 := fun t => t == 0x45 || t == 0x83 || t == 0xC0
    let n := (s.rdS a).toNat
    let wix : Nat := x % 2 ^ 64
    let rix : Nat := x / 2 ^ 64 % 2 ^ 64
    let cap : Nat := x / 2 ^ 128 % 2 ^ 64
    let header := (∃ j, j ≤ 16 ∧ cap = 2 ^ j) ∧ x / 2 ^ 192 % 2 ^ 64 = 0 ∧ 0 < n ∧ n ≤ cap
    (s.myStr.wait = .none → Runs (myLoc s m .load i64) s l s1 → s1.me = s.me →
      Runs (loadOrd w l .acq e) s1 x s2 →
      (Machine.cond k (BitVec.ofNat 64 x) (s.rdS a) = true → Completes (.waddr gd k e d m a) 8 s (s2.wrS d (BitVec.ofNat 64 x))) ∧
      (Machine.cond k (BitVec.ofNat 64 x) (s.rdS a) = false → exec (.waddr gd k e d m a) s =
        .next (waitOn (.addr (hLt (s.rdH m.h)) d a k e l) (dropAns s2)))) ∧
    (Runs (locate w (s.rdH m.h) (coordM s m) .atomic false (fun t => !isReserved t) (fun q => q == 2 || q == 3 || q == 5)) s l s1 →
      l.p.addr % 32 = 0 → l.p.tag = 0x45 → Runs (hostGate w l true true) s1 () s2 → Runs (performRelease w e) s2 () s3 →
      Runs (performAcquire w e) s3 () s4 → Runs (homeRead w l 32) s4 x s5 → header →
      ((wix : Int) - rix + n ≤ cap → ∃ u : State, Completes (.qClaim gd e d m a) 8 s (u.wrS d (BitVec.ofNat 64 wix)) ∧
        ∃ s6 s7, Runs (takeRels w.agent .acq e (look [] s5.locs l.flat)) s5 () s6 ∧ Runs (homeWrite l 8 ((wix + n) % 2 ^ 64)) s6 () s7 ∧ u.mem = s7.mem) ∧
      ((cap : Int) < wix - rix + n → ∃ u : State, Completes (.qClaim gd e d m a) 8 s (u.wrS d (BitVec.ofNat 64 (2 ^ 64 - 1))) ∧
        u.mem = s5.mem)) ∧
    (Runs (myLoc s m .store (fun t => t == 0x45)) s l s1 → l.p.space ≠ 6 → 2 ≤ l.p.space → inScope w.agent e (8192 + 1024 + homeOf l.flat) = true →
      let again := s.myStr.st = .wait ∧ s.myStr.wait = .own 6
      (again → s2 = s1) → (¬again → Runs (storeOrd w l .rel e n) s1 () s2) →
      let t := homeOf l.flat
      let v := writeBack w.tower (l.flat / 256) s2
      ((v.tower t).notices.length < Config.noticeMax →
        Completes (.qRing gd e m a) 8 s (ringBells l.flat (v.setTower t { v.tower t with notices := (v.tower t).notices ++ [l.flat] }))) ∧
      (Config.noticeMax ≤ (v.tower t).notices.length → exec (.qRing gd e m a) s = .next (waitOn (.own 6) (dropAns v))))

/-- R241, R373, R374, R378: at supervisor level a context is saved to and loaded from the image that the operand names, when the target stands
still and the image passes its tests; one whose unit or register holds an uncorrectable error is neither saved nor loaded. -/
def Obligations.ContextFormsComplete : Prop :=
  ∀ (gd : Guard) (a : SReg) (s s1 : State) (n : Nat) (e : Entry) (ls : List (Nat × Nat × Loc)), Ready gd s → s.me.priv = true →
    let c := (s.rdS a).toNat % 1024
    let trapsClean := fun (i : Instr) (x : Cause) => ∃ u : State, u.mem = s.mem ∧ exec i s = .next (trapHere ⟨x, 0⟩ 4 u)
    imageEntry (s.rdS a) s = .ok (n, e) →
    (canSave s c = true → coreSent s c = false → s.msa.any (fun r => r.core == c) = false → contextMarked s c = false →
      Runs (imageLocs n e .store (imagePieces (eBase e))) s ls s1 →
      ∃ u : State, Completes (.ctxSv gd a) 4 s u ∧ (u.core c).saved = true ∧
        u = (let t := suspendSlots c s1
          let t := { t with ctxSide := put t.ctxSide (sideKey (nth 0 ((imageWords t c).map Prod.snd) 0) (t.time % 2 ^ 64)) (t.core c) }
          let t := ls.foldl (writePiece (imageCells t c)) t
          t.setCore c { t.core c with saved := true })) ∧
    (canSave s c = true → coreSent s c = true ∨ s.msa.any (fun r => r.core == c) = true → WaitsHere (.ctxSv gd a) s (.own 4)) ∧
    (canSave s c = true → coreSent s c = false → s.msa.any (fun r => r.core == c) = false → contextMarked s c = true →
      Runs (imageLocs n e .store (imagePieces (eBase e))) s ls s1 → trapsClean (.ctxSv gd a) .uncorrectable) ∧
    (canSave s c = false → trapsClean (.ctxSv gd a) .permission) ∧
    (c ≠ s.cc → canLoad s c = true → Runs (imageLocs n e .load (imagePieces (eBase e))) s ls s1 →
      let t := ls.foldl (pieceHome s1.who.tower) s1
      let b := pieceByte t ls
      let w := fun k => leNat ((List.range 8).map fun j => b (k + j))
      let good := fun (x : Nat × Nat × Loc) k => rangeOk t t.who.tower (x.2.2.flat + 32 * k) (Nat.min 32 (x.2.1 - 32 * k)) = true
      let owner := gusLoad (t.pair (pairOf c)) (w 0 / 2 ^ 26 % 2 ^ 12) w
      let clean := ∀ x ∈ ls, ∀ k, 32 * k < x.2.1 → good x k
      (¬clean → ∃ x ∈ ls, ∃ (k : Nat) (u : State), 32 * k < x.2.1 ∧ ¬good x k ∧ u.mem = s.mem ∧
        exec (.ctxLd gd a) s = .next (trapHere ⟨.uncorrectable, tinfo (x.2.2.p.addr + 32 * k) x.2.2.p.space 0⟩ 4 u)) ∧
      (clean → imageOk w = true → owner = none → trapsClean (.ctxLd gd a) .permission) ∧
      (clean → imageOk w = true → ∀ p, owner = some p →
        ∃ u : State, Completes (.ctxLd gd a) 4 s u ∧ u.pair (pairOf c) = p ∧ (∀ n, (u.ctlOf c .lcc).rdS n = (ctlFrom w .lcc 0x3000 Ctl.reset).rdS n) ∧
          (∀ n, (u.ctlOf c .ccc).rdS n = (ctlFrom w .ccc 0x3800 Ctl.reset).rdS n)) ∧
      (clean → imageOk w = false → trapsClean (.ctxLd gd a) .format)) ∧
    (c = s.cc ∨ canLoad s c = false → trapsClean (.ctxLd gd a) .permission)

/-! ## Records at their sequencer: the vector engine (R271-R299) -/

namespace Sys2Proof.Claims

/-- The issue before has left its engine (R268). -/
def landed (e : Eng) (s : State) : State := landEng s.cc (streamNo (engStream e)) s

/-- The record `i` stands at its next issue at the executing core's sequencer `e`. -/
structure AtIssue (i : Instr) (e : Eng) (u : Run) (s : State) : Prop where
  power : s.powered = true
  eng   : seqFor s i = e
  run   : ((landed e s).seqOf s.cc e).run = some u
  instr : u.instr = i
  more  : u.n < u.total

/-- The issue answers a next state: the effect `t`, the record moved on to `v`, the stream running. -/
abbrev Issued (i : Instr) (e : Eng) (v : Run) (s t : State) : Prop := exec i s = .next (engRun s.cc e (setRun s.cc e (some v) t))

/-- What one issue of a record does: from its fields, the core, the sequencer, the record and the state to the record and the state after. -/
abbrev IssueRule := Rec → Nat → Eng → Run → State → Run → State → Prop

/-- Every record of an operation that stands at an issue for which the rule gives an effect has that effect. -/
abbrev Follows (mk : Rec → Instr) (rule : IssueRule) : Prop :=
  ∀ (r : Rec) (e : Eng) (u v : Run) (s t : State), AtIssue (mk r) e u s → rule r s.cc e u (landed e s) v t → Issued (mk r) e v s t

/-- The second source of a lane operation is B, or C where the record names no B; the third is C beside B (R271). -/
def secondSrc (b c : Src) : Src :=
  match b with
  | .none => c
  | x => x
def thirdSrc (b c : Src) : Src :=
  match b with
  | .none => .none
  | _ => c

/-- The code, the scale and the place that a lane's operand `k` gives. -/
abbrev codeAt (g : List Got) (k : Nat) : Nat := (nth default g k).x
abbrev scaleAt (g : List Got) (k : Nat) : Val := (nth default g k).v
abbrev putOf (g : List Got) (k : Nat) : Put := (nth default g k).p

/-- R272-R275: every active lane reads its sources and finds its place, computes, and writes; queue elements are popped as the issue
completes. -/
def laneRule (adm : Rec → Nat → Bool) (scalarB : Rec → Bool) (f : Rec → Nat → Nat → Nat → Nat → Nat → M Nat) : IssueRule := fun r c e u s v t =>
  ∃ a b k d ins outs s1 s2 s3 s4 s5,
    Runs (srcOf c u 1 r.a 0) s a s ∧ Runs (srcOf c u 2 r.b (if scalarB r then 1 else 0)) s b s ∧ Runs (srcOf c u 3 r.c 0) s k s ∧
    Runs (dstOf c u r.d) s d s ∧
    let w := engWho s c e
    let tag := a.tag 0
    let ok := fun g => g == tag && adm r g
    let y := secondSrc b k
    let z := thirdSrc b k
    let l := laneCount tag
    let n := Nat.min l (Nat.min (Nat.min (a.limit l) (y.limit l)) (Nat.min (z.limit l) d.limit))
    Runs (needBeats c a n) s () s ∧ Runs (needBeats c y n) s () s ∧ Runs (needBeats c z n) s () s ∧
    Runs (lanesOf n fun j => [gotCode c w (plainTag ok) a tag j, gotCode c w (plainTag ok) y tag j, gotCode c w (plainTag ok) z tag j,
      gotDest w (wop r) (plainTag ok) d j]) s ins s1 ∧
    Runs (mapList (fun g => do
      let v ← f r c tag (codeAt g 0) (codeAt g 1) (codeAt g 2)
      return (putOf g 3, v)) ins) s1 outs s2 ∧
    Runs (forList (putCode c w (wop r)) outs) s2 () s3 ∧
    Runs (popSrc c w a n) s3 () s4 ∧ Runs (popSrc c w y n) s4 () s5 ∧ Runs (popSrc c w z n) s5 () t ∧ v = u.next

/-- An integer lane operation: the value of A and B, encoded once (R280, R62). -/
def intSum (g : Int → Int → Int) (r : Rec) (c t x y _z : Nat) : M Nat := intResult c t r.sat (g (intVal t x) (intVal t y))

/-- A floating lane operation: terms per part, summed exactly and encoded once (R281). -/
def floatSum (third : Bool) (terms : List Val → List Val → List Val → List (List Val)) (r : Rec) (c t x y z : Nat) : M Nat := do
  let a := if r.conj then conjOf (valuesOf t x) else valuesOf t x
  let b := valuesOf t y
  let k := valuesOf t z
  let nan := a.any (·.isNan) || b.any (·.isNan) || (third && k.any (·.isNan))
  let cs ← mapList (fun ts => encodeVe c (partTag t) r nan ⟨xsum ts, false⟩) (terms a b k)
  return joinParts t cs

/-- The lesser or the greater of two values, encoded once; a NaN raises NAN_IN (R281). -/
def floatPick (pick : Val → Val → Val) (r : Rec) (c t x y _z : Nat) : M Nat := do
  let v := pick (nth .nan (if r.conj then conjOf (valuesOf t x) else valuesOf t x) 0) (nth .nan (valuesOf t y) 0)
  let d ← drawIf c (rndOf r.rnd.val)
  if v.isNan then setVeFlags c { nanIn := true }
  return (fencode t ⟨v, false⟩ (rndOf r.rnd.val) r.sat d).1

/-- Sign bits cleared or inverted (R281). -/
def floatSign (clear : Bool) (r : Rec) (c t x _y _z : Nat) : M Nat := do
  if (if r.conj then conjOf (valuesOf t x) else valuesOf t x).any (·.isNan) then setVeFlags c { nanIn := true }
  return signOp t x clear

end Sys2Proof.Claims

namespace Sys2Proof.Claims

/-- The real floating formats, which admit no CONJ (R281). -/
def realTag := fun (r : Rec) t => decide (0x80 ≤ t ∧ t ≤ 0x83) && !r.conj

/-- Those and the complex formats (R281). -/
def realOrComplexTag := fun (r : Rec) t => realTag r t || isCplx t

end Sys2Proof.Claims

/-- R271-R275, R280: the integer lane operations, on every operand form. R271-R275, R281: the floating lane operations, on every operand
form. -/
def Obligations.VectorArithmeticOperationsComplete : Prop :=
  (
    let scalarB := fun r : Rec => bitAt r.opx.val 0
    let does := fun (mk : Rec → Instr) (f : Rec → Nat → Nat → Nat → Nat → Nat → M Nat) => Follows mk (laneRule (fun _ t => decide (0x40 ≤ t ∧ t ≤ 0x45)) scalarB f)
    does .veAdd (intSum fun a b => a + b) ∧ does .veSub (intSum fun a b => a - b) ∧ does .veMul (intSum fun a b => a * b) ∧
    does .veMin (fun _ _ t x y _ => pure (if intVal t x ≤ intVal t y then x else y)) ∧
    does .veMax (fun _ _ t x y _ => pure (if intVal t x ≤ intVal t y then y else x)) ∧
    does .veAnd (fun _ _ _ x y _ => pure (Nat.land x y)) ∧ does .veOr (fun _ _ _ x y _ => pure (Nat.lor x y)) ∧
    does .veXor (fun _ _ _ x y _ => pure (Nat.xor x y)) ∧
    does .veShl (fun _ _ t x y _ => pure (x * 2 ^ (y % esizeBits t) % 2 ^ esizeBits t)) ∧
    does .veShr (fun _ _ t x y _ => pure
      (if intSigned t then (intVal t x / 2 ^ (y % esizeBits t) % 2 ^ esizeBits t).toNat else x / 2 ^ (y % esizeBits t))) ∧
    does .veAbs (intSum fun a _ => if a < 0 then -a else a)) ∧
  (
    let does := fun (mk : Rec → Instr) (adm : Rec → Nat → Bool) (f : Rec → Nat → Nat → Nat → Nat → Nat → M Nat) =>
      Follows mk (laneRule adm (fun r => bitAt r.opx.val 0) f)
    does .veFadd realOrComplexTag (floatSum false fun a b _ => (a.zip b).map fun e => [e.1, e.2]) ∧
    does .veFsub realOrComplexTag (floatSum false fun a b _ => (a.zip b).map fun e => [e.1, e.2.neg]) ∧
    does .veFmul realOrComplexTag (floatSum false fun a b _ => mulTerms a b) ∧
    does .veFma realOrComplexTag (floatSum true fun a b z => ((mulTerms a b).zip z).map fun e => e.1 ++ [e.2]) ∧
    does .veFmin realTag (floatPick minVal) ∧ does .veFmax realTag (floatPick maxVal) ∧ does .veFabs realTag (floatSign true) ∧ does .veFneg realOrComplexTag (floatSign false))

namespace Sys2Proof.Claims

/-- A transcendental lane: the value, encoded once (R282). -/
def transCode := fun (op : Nat) (r : Rec) (c t x _y _z : Nat) => (do
  let (v, ev) := transOf op (fvalue t x)
  let d ← drawIf c (rndOf r.rnd.val)
  let (code, e2) := fencode t v (rndOf r.rnd.val) r.sat d
  setVeFlags c (if v.v.isNan then ev else ev.or e2)
  return code : M Nat)

end Sys2Proof.Claims

namespace Sys2Proof.Claims

/-- Conversions, with scales applied in dequantisation (R284). -/
def convertRule : Bool → IssueRule := fun deq r c e u s v t =>
  ∃ a d ins outs s1 s2 s3, Runs (srcOf c u 1 r.a 0) s a s ∧ Runs (dstOf c u r.d) s d s ∧
    let w := engWho s c e
    let ta := a.tag 0
    let td := d.tag
    let pair := isCplx ta == isCplx td
    let mem := match a with
      | .run _ _ => true
      | _ => false
    let okA := fun h t => t != 0xF0 && pair && (if deq then mem && hScaleKind h != 0 else hScaleKind h == 0)
    let okD := fun h t => hScaleKind h == 0 && pair && (if deq then isIeee t else encodable t)
    let g := widthsOf ta td (bitAt r.spare.val 3)
    let n := Nat.min g.l (Nat.min (if g.aLim then a.limit g.l else g.l) (if g.dLim then d.limit else g.l))
    let m := if opnd r.c = .imm then fvalue 0x82 (bitsAt (immOf r.c) 0 32) else .fin false 1 0
    let beats := if g.aLim then n else g.l
    Runs (needBeats c a beats) s () s ∧
    Runs (lanesOf n fun i => [gotCode c w okA a ta (g.pa i), if deq then gotScale w a (g.pa i) else pure (.scale (.fin false 1 0)),
      gotDest w (wop r) okD d (g.pd i), (do needM (opnd r.c != .imm || g.l != laneCount 0xC1) .format; return .code 0)]) s ins s1 ∧
    Runs (mapList (fun i => do
      let sc := scaleAt i 1
      let raw := valuesOf ta (codeAt i 0)
      let ys := raw.map fun y => if deq then y.mul sc else y
      let vs := ys.map (·.mul m)
      forList (fun z => if bitAt r.opx.val 6 then veAmax c r.opx.val (if bitAt r.opx.val 7 then z.2 else z.1) else pure ()) (ys.zip vs)
      let cs ← mapList (fun z => encodeVe c (partTag td) r (z.1.isNan || sc.isNan || m.isNan) ⟨z.2, false⟩) (raw.zip vs)
      return (putOf i 2, joinParts td cs)) ins) s1 outs s2 ∧
    Runs (forList (putCode c w (wop r)) outs) s2 () s3 ∧ Runs (popSrc c w a beats) s3 () t ∧ v = u.next

/-- The amax record (R286). -/
def amaxRule : IssueRule := fun r c e u s v t =>
  ∃ a ins s1 s2, Runs (srcOf c u 1 r.a 0) s a s ∧
    let w := engWho s c e
    let ta := a.tag 0
    let n := Nat.min (laneCount ta) (a.limit (laneCount ta))
    Runs (needBeats c a n) s () s ∧
    Runs (lanesOf n fun j => [gotCode c w (fun _ g => g != 0xF0) a ta j, gotScale w a j]) s ins s1 ∧
    Runs (forList (fun g => forList (fun v => veAmax c r.opx.val (v.mul (scaleAt g 1))) (valuesOf ta (codeAt g 0))) ins) s1 () s2 ∧
    Runs (popSrc c w a n) s2 () t ∧ v = u.next

/-- Reductions: the old value or the start value folded with the lanes (R287). D is read and located with lane 0's operands, which is the model's
choice (notes/assumptions/59.md). -/
def reduceRule : Nat → Val → (Bool → Val → List Val → Val) → IssueRule := fun op start fold r c e u s v t =>
  ∃ a ins cs s1 s2 s3, Runs (srcOf c u 1 r.a 0) s a s ∧
    let w := engWho s c e
    let ta := a.tag 0
    let h := u.h 0
    let td := hFmt h
    let adm := plainTag fun _ => reduceTags op ta td
    let n := Nat.min (laneCount ta) (a.limit (laneCount ta))
    let fresh := r.clr && nth 0 (indices u.n u.tc) 0 == 0
    Runs (needBeats c a n) s () s ∧
    Runs (lanesOf n fun j => [gotCode c w adm a ta j,
      if j = 0 ∧ fresh = false then gotCode c w adm (.scalar h (u.at r.d)) td 0 else pure (.code 0),
      if j = 0 then gotPut w 0 adm h (u.at r.d) else pure (.code 0)]) s ins s1 ∧
    let xs := ins.map fun g => valuesOf ta (codeAt g 0)
    let old := if fresh then [start, start] else valuesOf td (codeAt (nth [] ins 0) 1)
    Runs (mapList (fun k => do
      let vs := xs.map fun v => nth .nan v k
      let o := nth .nan old k
      encodeVe c (partTag td) r (o.isNan || vs.any (·.isNan)) ⟨fold (bitAt r.opx.val 0) o vs, false⟩) (if isCplx ta then [0, 1] else [0])) s1 cs s2 ∧
    Runs (putCode c w 0 (putOf (nth [] ins 0) 2, joinParts td cs)) s2 () s3 ∧ Runs (popSrc c w a n) s3 () t ∧ v = u.next

/-- Quantisation by rows: B and the scale belong to lane 0 (R285). -/
def quantRule : IssueRule := fun r c e u s v t =>
  ∃ a ins outs s1 s2 s3 s4, Runs (srcOf c u 1 r.a 0) s a s ∧
    let w := engWho s c e
    let ta := a.tag 0
    let h := u.h 0
    let td := hFmt h
    let g := widthsOf ta td (bitAt r.spare.val 3)
    let n := Nat.min g.l (Nat.min (if g.aLim then a.limit g.l else g.l) (if g.dLim then runLimit h (u.at r.d) else g.l))
    let beats := if g.aLim then n else g.l
    Runs (needBeats c a beats) s () s ∧
    Runs (lanesOf n fun i => [gotCode c w (plainTag isIeee) a ta (g.pa i),
      if i = 0 then gotCode c w (plainTag fun t => t == 0x82) (.scalar (u.h 2) (u.at r.b)) 0x82 0 else pure (.code 0),
      gotPut w 0 (fun k t => hScaleKind k == 2 && is8bit t) h (along (u.at r.d) (g.pd i)),
      if i = 0 then (do let l ← scaleLoc w h (absCoord h w.mt (u.at r.d)); return .dest (.store l)) else pure (.code 0)]) s ins s1 ∧
    let ar := (fvalue 0x82 (codeAt (nth [] ins 0) 1)).abs
    let sc := if ar.isNan || ar.isInf || ar.isZero then 0x3F800000 else (fencode 0x82 (ar.div (maxOf td)) .rup true 0).1
    Runs (mapList (fun i => do
      let v := fvalue ta (codeAt i 0)
      if bitAt r.opx.val 6 then veAmax c r.opx.val v
      let code ← encodeVe c td r v.isNan (v.div (fvalue 0x82 sc))
      return (putOf i 2, code)) ins) s1 outs s2 ∧
    Runs (forList (putCode c w 0) outs) s2 () s3 ∧ Runs (putCode c w 0 (putOf (nth [] ins 0) 3, sc)) s3 () s4 ∧
    Runs (popSrc c w a beats) s4 () t ∧ v = u.next

/-- The running sum (R288). -/
def scanRule : IssueRule := fun r c e u s v t =>
  ∃ a d ins outs s1 s2 s3, Runs (srcOf c u 1 r.a 0) s a s ∧ Runs (dstOf c u r.d) s d s ∧
    let w := engWho s c e
    let ta := a.tag 0
    let ok := fun g => g == ta && (isIntOp g || isIeee g)
    let n := Nat.min (laneCount ta) (Nat.min (a.limit (laneCount ta)) d.limit)
    let carry := if u.carry.isEmpty || (r.clr && nth 0 (indices u.n u.tc) 0 == 0) then Val.zero else fvalue ta (nth 0 u.carry 0)
    Runs (needBeats c a n) s () s ∧
    Runs (lanesOf n fun j => [gotCode c w (plainTag ok) a ta j, gotDest w 0 (plainTag ok) d j]) s ins s1 ∧
    let lanes := ins.map fun g => (putOf g 1, fvalue ta (codeAt g 0))
    Runs (mapList (fun j => do
      let pre := carry :: (lanes.map (·.2)).take (j + 1)
      let code ← encodeVe c ta r (pre.any (·.isNan)) ⟨xsum pre, false⟩
      return ((nth default lanes j).1, code)) (List.range n)) s1 outs s2 ∧
    Runs (forList (putCode c w 0) outs) s2 () s3 ∧ Runs (popSrc c w a n) s3 () t ∧ v = { u.next with carry := [(nth default outs (n - 1)).2] }

end Sys2Proof.Claims

/-- R282: the transcendentals: the value, encoded once. R274, R284-R288: conversions, quantisation, amax, reductions and scan. -/
def Obligations.VectorTranscendentalsConversionsAndReductionsComplete : Prop :=
  (
    let does := fun (mk : Rec → Instr) (op : Nat) => Follows mk (laneRule (fun _ t => t == 0x80 || t == 0x81 || t == 0x82) (fun _ => false) (transCode op))
    does .veExp2 0x20 ∧ does .veLog2 0x21 ∧ does .veRcp 0x22 ∧ does .veRsqrt 0x23 ∧ does .veSqrt 0x24 ∧ does .veTanh 0x25 ∧ does .veSin 0x26 ∧
    does .veCos 0x27) ∧
  (
    Follows .veCvt (convertRule false) ∧ Follows .veDequant (convertRule true) ∧ Follows .veQuant quantRule ∧ Follows .veAmax amaxRule ∧ Follows .veScan scanRule ∧
    Follows .veRsum (reduceRule 0x38 .zero fun _ o l => xsum (o :: l)) ∧
    Follows .veRsumsq (reduceRule 0x3C .zero fun _ o l => xsum (o :: l.map fun v => v.mul v)) ∧
    Follows .veRmax (reduceRule 0x39 (.inf true) fun b o l => (l.map fun v => if b then v.abs else v).foldl maxVal o) ∧
    Follows .veRmin (reduceRule 0x3A (.inf false) fun b o l => (l.map fun v => if b then v.abs else v).foldl minVal o))

namespace Sys2Proof.Claims

/-- Comparison into a bit mask (R289). -/
def cmpRule : IssueRule := fun r c e u s v t =>
  ∃ a b k ins bits s1 s2 s3 s4, Runs (srcOf c u 1 r.a 0) s a s ∧ Runs (srcOf c u 2 r.b (if bitAt r.opx.val 3 then 1 else 0)) s b s ∧
    Runs (srcOf c u 3 r.c 0) s k s ∧
    let w := engWho s c e
    let y := secondSrc b k
    let ta := a.tag 0
    let ok := fun g => g == ta && g != 0xF0
    let h := u.h 0
    let l := laneCount ta
    let n := Nat.min l (Nat.min (Nat.min (a.limit l) (y.limit l)) (8 * runLimit h (u.at r.d)))
    Runs (needBeats c a n) s () s ∧ Runs (needBeats c y n) s () s ∧
    Runs (lanesOf n fun j => [gotCode c w (plainTag ok) a ta j, gotCode c w (plainTag ok) y ta j,
      if j % 8 = 0 then gotPut w 0 (plainTag fun t => t == 0x43) h (along (u.at r.d) (j / 8)) else pure (.code 0)]) s ins s1 ∧
    Runs (mapList (fun g => do
      let va := valuesOf ta (codeAt g 0)
      let vb := valuesOf ta (codeAt g 1)
      if va.any (·.isNan) || vb.any (·.isNan) then setVeFlags c { nanIn := true }
      return cmpHolds (r.opx.val % 8) va vb) ins) s1 bits s2 ∧
    Runs (forList (fun k => putCode c w 0 (putOf (nth [] ins (8 * k)) 2, maskByte bits k)) (List.range ((n + 7) / 8))) s2 () s3 ∧
    Runs (popSrc c w a n) s3 () s4 ∧ Runs (popSrc c w y n) s4 () t ∧ v = u.next

/-- Selection by a bit mask (R290). -/
def selRule : IssueRule := fun r c e u s v t =>
  ∃ a b d ins s1 s2 s3, Runs (srcOf c u 1 r.a 0) s a s ∧ Runs (srcOf c u 2 r.b 0) s b s ∧ Runs (dstOf c u r.d) s d s ∧
    let w := engWho s c e
    let ta := a.tag 0
    let ok := fun g => g == ta && g != 0xF0
    let l := laneCount ta
    let n := Nat.min l (Nat.min (Nat.min (a.limit l) (b.limit l)) (Nat.min d.limit (8 * runLimit (u.h 3) (u.at r.c))))
    Runs (needBeats c a n) s () s ∧ Runs (needBeats c b n) s () s ∧
    Runs (lanesOf n fun j => [gotCode c w (plainTag ok) a ta j, gotCode c w (plainTag ok) b ta j,
      gotCode c w (plainTag fun g => g == 0x43) (.run (u.h 3) (u.at r.c)) 0x43 (j / 8), gotDest w 0 (plainTag ok) d j]) s ins s1 ∧
    Runs (forList (putCode c w 0) ((List.range n).map fun j =>
      let g := nth [] ins j
      (putOf g 3, if bitAt (codeAt g 2) (j % 8) then codeAt g 0 else codeAt g 1))) s1 () s2 ∧
    Runs (popSrc c w a n) s2 () s3 ∧ Runs (popSrc c w b n) s3 () t ∧ v = u.next

/-- A lane of add, compare, select (R290). -/
def acsCode := fun (r : Rec) (c t x y z : Nat) => (do
  let sum ← if isIntOp t then (do
      let _ ← drawIf c (rndOf r.rnd.val)
      intResult c t r.sat (intVal t x + intVal t y))
    else encodeVe c t r ((fvalue t x).isNan || (fvalue t y).isNan) ⟨xsum [fvalue t x, fvalue t y], false⟩
  let p := fvalue t sum
  let k := fvalue t z
  if k.isNan then setVeFlags c { nanIn := true }
  if p.isNan || k.isNan then return (fencode t ⟨.nan, false⟩ .rne false 0).1
  else
    let keep := if bitAt r.opx.val 0 then !k.lt p else !p.lt k
    return if keep then sum else z : M Nat)

/-- The beats that an index run is counted for: a queue supplies the indices of all lanes (R273). -/
def indexCount (b : Src) (l n : Nat) : Nat :=
  match b with
  | .queue _ _ => l
  | _ => n

/-- Permutation within the beat (R291). -/
def permRule : IssueRule := fun r c e u s v t =>
  ∃ a b d ins s1 s2 s3, Runs (srcOf c u 1 r.a 0) s a s ∧ Runs (srcOf c u 2 r.b 0) s b s ∧ Runs (dstOf c u r.d) s d s ∧
    let w := engWho s c e
    let ta := a.tag 0
    let ok := fun g => g == ta && g != 0xF0
    let l := laneCount ta
    let n := Nat.min l (Nat.min (Nat.min (a.limit l) (b.limit l)) d.limit)
    Runs (needBeats c a n) s () s ∧ Runs (needBeats c b (indexCount b l n)) s () s ∧
    Runs (lanesOf n fun j => [gotCode c w (plainTag ok) a ta j,
      (do let i ← gotIndex c w b j; needM (decide (0 ≤ i.index ∧ i.index < n)) .bounds; return i), gotDest w 0 (plainTag ok) d j]) s ins s1 ∧
    Runs (forList (fun g => putCode c w 0 (putOf g 2, codeAt (nth [] ins (nth default g 1).index.toNat) 0)) ins) s1 () s2 ∧
    Runs (popSrc c w a n) s2 () s3 ∧ Runs (popSrc c w b (indexCount b l n)) s3 () t ∧ v = u.next

/-- Broadcast of one element (R293). -/
def bcastRule : IssueRule := fun r c e u s v t =>
  ∃ a d ins s1, Runs (srcOf c u 1 r.a 1) s a s ∧ Runs (dstOf c u r.d) s d s ∧
    let w := engWho s c e
    let src := secondSrc a (.imm (immOf r.c))
    let tag := match src with
      | .imm _ => d.tag
      | x => x.tag 0
    let ok := fun g => g == tag && g != 0xF0
    Runs (lanesOf (Nat.min (laneCount tag) d.limit) fun j =>
      [if j = 0 then gotCode c w (plainTag ok) src tag 0 else pure (.code 0), gotDest w (wop r) (plainTag ok) d j]) s ins s1 ∧
    Runs (forList (fun g => putCode c w (wop r) (putOf g 1, codeAt (nth [] ins 0) 0)) ins) s1 () t ∧ v = u.next

/-- Gather by indices (R292). -/
def gathRule : IssueRule := fun r c e u s v t =>
  ∃ b d ins s1 s2, Runs (srcOf c u 2 r.b 0) s b s ∧ Runs (dstOf c u r.d) s d s ∧
    let w := engWho s c e
    let tag := hFmt (u.h 1)
    let ok := fun g => g == tag && g != 0xF0
    let l := laneCount tag
    let n := Nat.min l (Nat.min (b.limit l) d.limit)
    Runs (needBeats c b (indexCount b l n)) s () s ∧
    Runs (lanesOf n fun j =>
      [(do let i ← gotIndex c w b j; gotCode c w (plainTag ok) (.run (u.h 1) (addTo (u.at r.a) 0 i.index)) tag 0),
       gotDest w 0 (plainTag ok) d j]) s ins s1 ∧
    Runs (forList (fun g => putCode c w 0 (putOf g 1, codeAt g 0)) ins) s1 () s2 ∧ Runs (popSrc c w b (indexCount b l n)) s2 () t ∧ v = u.next

/-- Scatter by indices (R292). -/
def scatRule : IssueRule := fun r c e u s v t =>
  ∃ a b ins s1 s2 s3, Runs (srcOf c u 1 r.a 0) s a s ∧ Runs (srcOf c u 2 r.b 0) s b s ∧
    let w := engWho s c e
    let ta := a.tag 0
    let ok := fun g => g == ta && g != 0xF0
    let l := laneCount ta
    let n := Nat.min l (Nat.min (a.limit l) (b.limit l))
    Runs (needBeats c a n) s () s ∧ Runs (needBeats c b (indexCount b l n)) s () s ∧
    Runs (lanesOf n fun j => [gotCode c w (plainTag ok) a ta j,
      (do let i ← gotIndex c w b j; gotPut w (wop r) (plainTag ok) (u.h 0) (addTo (u.at r.d) 0 i.index))]) s ins s1 ∧
    Runs (forList (fun g => putCode c w (wop r) (putOf g 1, codeAt g 0)) ins) s1 () s2 ∧ Runs (popSrc c w a n) s2 () s3 ∧
    Runs (popSrc c w b (indexCount b l n)) s3 () t ∧ v = u.next

/-- Transposition of a square of 32 by 32 (R293). -/
def trnRule : IssueRule := fun r c e u s v t =>
  ∃ outs s1,
    let w := engWho s c e
    let tag := hFmt (u.h 1)
    let ok := fun g => g == tag && g != 0xF0 && (!r.conj || isCplx g)
    Runs (mapList (fun q => do
      let i : Int := (q / 32 : Nat)
      let j : Int := (q % 32 : Nat)
      let g ← laneSet [gotCode c w (plainTag ok) (.run (u.h 1) (addTo (addTo (u.at r.a) 0 j) 1 i)) tag 0,
        gotPut w 0 (plainTag ok) (u.h 0) (addTo (addTo (u.at r.d) 0 i) 1 j)]
      return (putOf g 1, if r.conj then conjCode tag (codeAt g 0) else codeAt g 0)) (List.range 1024)) s outs s1 ∧
    Runs (forList (putCode c w 0) outs) s1 () t ∧ v = u.next

/-- Random lanes: integers, fractions, or bits of a mask (R294). -/
def rngRule : IssueRule := fun r c e u s v t =>
  let w := engWho s c e
  let mode := r.opx.val % 4
  (mode = 2 → ∃ h k ps bits s1 s2, Runs (dstOf c u r.d) s (.run h k) s ∧
    let n := Nat.min 4096 (8 * runLimit (u.h 0) (u.at r.d))
    Runs (maskPuts w (u.h 0) (u.at r.d) n) s ps s1 ∧
    Runs (mapList (fun _ => do
      let d ← drawVe c
      return decide (d < bitsAt (immOf r.c) 0 32)) (List.range n)) s1 bits s2 ∧
    Runs (forList (fun k => putCode c w 0 (nth default ps k, maskByte bits k)) (List.range ps.length)) s2 () t ∧ v = u.next) ∧
  (mode ≠ 2 → ∃ d ps s1, Runs (dstOf c u r.d) s d s ∧
    let ok := fun g => if mode = 0 then g == 0x44 else isIeee g
    Runs (mapList (putLane w 0 (plainTag ok) d) (List.range (Nat.min (laneCount d.tag) d.limit))) s ps s1 ∧
    Runs (forList (fun p => do
      let x ← drawVe c
      if mode = 0 then putCode c w 0 (p, x)
      else
        let (code, ev) := fencode d.tag ⟨.fin false x (-32), false⟩ .rtz false 0
        setVeFlags c ev
        putCode c w 0 (p, code)) ps) s1 () t ∧ v = u.next)

/-- A ramp of coordinates (R295). -/
def iotaRule : IssueRule := fun r c e u s v t =>
  ∃ d ps outs s1 s2, Runs (dstOf c u r.d) s d s ∧
    let w := engWho s c e
    let ok := fun g => isIntOp g || isIeee g
    let n := Nat.min (laneCount d.tag) d.limit
    let base := sx (bitsAt (immOf r.c) 0 32) 32
    let step := sx (bitsAt (immOf r.c) 32 32) 32
    Runs (mapList (putLane w 0 (plainTag ok) d) (List.range n)) s ps s1 ∧
    Runs (mapList (fun j : Nat => do
      let code ← encodeVe c d.tag r false ⟨Val.ofInt (base + step * (nth 0 (u.at r.d) 0 + (j : Int))), false⟩
      return (nth default ps j, code)) (List.range n)) s1 outs s2 ∧
    Runs (forList (putCode c w 0) outs) s2 () t ∧ v = u.next

end Sys2Proof.Claims

/-- R289-R295: comparison, select, add-compare-select, and the operations that move or generate lanes. -/
def Obligations.VectorMovesComplete : Prop :=
  Follows .veCmp cmpRule ∧ Follows .veSel selRule ∧ Follows .veAcs (laneRule (fun _ t => isIntOp t || isIeee t) (fun r => bitAt r.opx.val 1) acsCode) ∧
  Follows .vePerm permRule ∧ Follows .veTrn trnRule ∧ Follows .veBcast bcastRule ∧ Follows .veGath gathRule ∧ Follows .veScat scatRule ∧ Follows .veRng rngRule ∧
  Follows .veIota iotaRule

/-! ## Records at their sequencer: the matrix engine, copies and stash, the fabric (R244-R329) -/

namespace Sys2Proof.Claims

/-- R303, R304: a beat of a run of `w` elements: what is left of the run is checked before anything moves, then the beat's elements move;
the issue is over with the run's last beat. -/
def beatRule (u : Run) (w : Int) (bits : Nat) (check : Nat → M Unit) (move : List Nat → State → State → Prop) (s : State) (v : Run) (t : State) : Prop :=
  let a := u.beat * beatLen bits
  let b := a + beatLen bits
  0 ≤ w ∧ ((a : Int) < w → (∃ x, Runs (forList check (span a w.toNat)) s () x) ∧ move (span a (Nat.min b w.toNat)) s t) ∧
  (w ≤ (a : Int) → t = s) ∧
  v = if w ≤ (b : Int) then { u.next with bytes := u.bytes + runBytes w.toNat bits } else { u with beat := u.beat + 1, ans := .none, undo := [] }

/-- An accumulator row written: it enters the pipeline and its units take the format. -/
def rowWritten (c : Nat) (p : TilePos) (codes : List Nat) (s : State) : State := tagUnits c p.t p.f (accWrite c p codes s)

/-- The row of a queue ends with this issue and leaves a started element behind. -/
def leavesRest (r : Rec) (u : Run) : Bool := opnd r.a == .queue && decide (u.total ≤ u.n + 1) && nth 0 u.qpos 0 != 0

end Sys2Proof.Claims

namespace Sys2Proof.Claims

/-- One row multiplied by the bank and accumulated (R253-R255); a marked accumulator or bank unit is no row's (R378). -/
def mulRule : Bool → IssueRule := fun cplx r c e u s v t =>
  let w := engWho s c e
  let b := r.spare.val % 2
  let bk := bankOf s c b
  let f := mulFormat cplx r.accf.val
  let rest := Runs (if leavesRest r u then queuePop c r.a.hnd.val w.agent 1 else pure ()) s () t ∧ v = u.next
  let fits := fun tag => (inputClass tag == inputClass bk.tag && accFormat (inputClass bk.tag) r.accf.val == f && isCplx bk.tag == cplx) = true
  let sound := fun (p : TilePos) (x : State) => (r.clr = false → Runs (accRead c p 1 bk.n) x () x) ∧
    Runs (forList (fun n => unmarked (bankAt c b (bankElem 0 n)) (bk.k * 16)) (List.range bk.n)) x () x ∧
    (bk.kind ≠ 0 → Runs (forList (fun n => unmarked (bankAt c b (bankScale 0 n)) (bk.k * 4)) (List.range bk.n)) x () x)
  let added := fun (p : TilePos) (as : List Factor) (x : State) =>
    let cols := (List.range bk.n).map fun n => macColumn f r.sat (if r.clr then (if isCplx f then [0, 0] else [0]) else partsOf f (accCode x c 2 p p.row n))
      ((List.range bk.k).map fun k => (nth default as k, bankFactor x c b k n))
    setMeFlags c (cols.foldl (fun e x => e.or x.2) {}) (tagUnits c p.t f (accWrite c p (cols.map fun x => joinParts f x.1) x))
  Runs (needLicence c) s () s ∧ (bk.n = 0 → rest) ∧
  (bk.n ≠ 0 → ∃ p, tileWrite s c r.d.org.val f (u.at r.d) true = .ok p ∧
    (opnd r.a ≠ .queue → fits (hFmt (u.h 1)) ∧
      ((bk.k = 0 ∧ r.clr = false) → t = s ∧ v = u.next) ∧
      (¬(bk.k = 0 ∧ r.clr = false) → ∃ as s1, Runs (memRow w r (u.h 1) (u.at r.a) bk.k) s as s1 ∧ sound p s1 ∧ t = added p as s1 ∧ v = u.next)) ∧
    (opnd r.a = .queue → ∃ x, Runs (queueRow c r.a.hnd.val (nth 0 u.qpos 0)) s x s ∧ fits x.2.1 ∧
      ((bk.k = 0 ∧ r.clr = false) → rest) ∧
      (¬(bk.k = 0 ∧ r.clr = false) →
        let as := (List.range bk.k).map fun k => mkFactor x.2.1 (packed x.1 (esizeBits x.2.1) k) r.conj (.fin false 1 0)
        let n := if decide (u.total ≤ u.n + 1) && x.2.2.2 != 0 then x.2.2.1 + 1 else x.2.2.1
        sound p s ∧ Runs (queuePop c r.a.hnd.val w.agent n) (added p as s) () t ∧ v = { u.next with qpos := setNth u.qpos 0 x.2.2.2 })))

/-- The load of a bank (R251, R252). -/
def bldRule : IssueRule := fun r c e u s v t =>
  let w := engWho s c e
  let b := r.spare.val % 2
  let nn := bitsAt (immOf r.c) 0 9
  ∃ s1, Runs (needLicence c) s () s ∧
    Runs (forList (fun n => forList (fun k => bldElem c w (u.h 2) r.conj b k n (u.at r.b)) (List.range r.opx.val)) (List.range nn)) s () s1 ∧
    (inputClass (hFmt (u.h 2)) != 0 && (!r.conj || isCplx (hFmt (u.h 2)))) = true ∧
    t = s1.setCore c { s1.core c with banks := put (s1.core c).banks b ⟨r.opx.val, nn, hFmt (u.h 2), hScaleKind (u.h 2)⟩ } ∧ v = u.next

end Sys2Proof.Claims

namespace Sys2Proof.Claims

/-- A tile cleared (R261). -/
def clrRule : IssueRule := fun r c _ u s v t =>
  let f := mulFormat (r.opx.val % 2 == 1) r.accf.val
  ∃ p, Runs (needLicence c) s () s ∧ tileWrite s c r.d.org.val f (u.at r.d) false = .ok p ∧
    t = tagUnits c p.t f ((List.range (unitsOf f)).foldl (fun s k => pend c 2 (.acc ((p.t + k) * 32768) (List.replicate 32768 0)) s) s) ∧ v = u.next

/-- A row loaded into the accumulators (R262). -/
def aldRule : IssueRule := fun r c e u s v t =>
  let w := engWho s c e
  let f := hFmt (u.h 1)
  ∃ p xs s1, Runs (needLicence c) s () s ∧ unitsOf f ≠ 0 ∧ hScaleKind (u.h 1) = 0 ∧ tileWrite s c r.d.org.val f (u.at r.d) true = .ok p ∧
    Runs (mapList (fun n => do
      let (x, _) ← engRead w (u.h 1) (along (u.at r.a) n) false tileSpace
      return storeBits f x) (List.range 256)) s xs s1 ∧
    t = tagUnits c p.t f (accWrite c p xs s1) ∧ v = u.next

/-- A row stored from them (R262). -/
def astRule : IssueRule := fun r c e u s v t =>
  let w := engWho s c e
  ∃ p, Runs (needLicence c) s () s ∧ tileRead s c r.a.org.val (u.at r.a) true = .ok p ∧ hFmt (u.h 0) = p.f ∧ hScaleKind (u.h 0) = 0 ∧
    Runs (accRead c p 1 256) s () s ∧
    Runs (forList (fun n => engWrite w (u.h 0) (along (u.at r.d) n) (accCode s c 2 p p.row n) tileSpace) (List.range 256)) s () t ∧ v = u.next

/-- A row drained through the format (R263). -/
def drnRule : IssueRule := fun r c e u s v t =>
  let w := engWho s c e
  let h := u.h 0
  let m := drainMul r
  let n := if opnd r.c = .imm then bitsAt (immOf r.c) 32 9 else 256
  ∃ p, Runs (needLicence c) s () s ∧ tileRead s c r.a.org.val (u.at r.a) false = .ok p ∧ p.col + n ≤ 256 ∧
    (n == 0 || (isCplx p.f == isCplx (hFmt h) && hScaleKind h == 0 && encodable (hFmt h))) = true ∧ Runs (accRead c p 1 n) s () s ∧
    Runs (forList (fun j => do
      let ys := valuesOf p.f (accCode s c 2 p p.row (p.col + j))
      let vs := ys.map (·.mul m)
      forList (fun z => drainAmax c r.opx.val z.1 z.2) (ys.zip vs)
      let cs ← mapList (fun z => drainPart c (partTag (hFmt h)) (rndOf r.rnd.val) r.sat (z.1.isNan || m.isNan) z.2) (ys.zip vs)
      engWrite w h (along (u.at r.d) j) (joinParts (hFmt h) cs) tileSpace) (List.range n)) s () t ∧ v = u.next

/-- A block of 32 by 32 drained and quantised (R264). -/
def drqRule : IssueRule := fun r c e u s v t =>
  let w := engWho s c e
  let h := u.h 0
  let m := drainMul r
  let cD := u.at r.d
  let i0 := absCoord h w.mt cD
  ∃ p s1, Runs (needLicence c) s () s ∧ tileRead s c r.a.org.val (u.at r.a) false = .ok p ∧ p.row % 32 = 0 ∧ p.col % 32 = 0 ∧
    (is8bit (hFmt h) && hScaleKind h == 1 && !isCplx p.f) = true ∧ (!inWindow h cD || (nth 0 i0 0 % 32 == 0 && nth 0 i0 1 % 32 == 0)) = true ∧
    Runs (accRead c p 32 32) s () s ∧
    let cells := (List.range 32).flatMap fun i => (List.range 32).map fun j => (i, j, fvalue p.f (accCode s c 2 p (p.row + i) (p.col + j)))
    let k := blockScale (hFmt h) (maxAbs (cells.map fun x => x.2.2.mul m))
    Runs (forList (fun x => do
      let v := x.2.2.mul m
      drainAmax c r.opx.val x.2.2 v
      let code ← drainPart c (hFmt h) (rndOf r.rnd.val) r.sat (x.2.2.isNan || m.isNan) (v.mul (.fin false 1 (127 - (k : Int))))
      engWrite w h (addTo (along cD x.2.1) 1 x.1) code tileSpace) cells) s () s1 ∧
    Runs (writeScale w h i0 k) s1 () t ∧ v = u.next

/-- The units that the immediate of `me.frag` names (R266). -/
def unitMask := fun r : Rec => bitsAt (immOf r.c) 0 16

/-- Units lent to the VE (R266). -/
def lendRule : IssueRule := fun r c _ u s v t =>
  let x := landEng c 2 s
  Runs (needLicence c) s () s ∧ t = x.setCore c { x.core c with lent := (x.core c).lent ||| unitMask r } ∧ v = u.next

/-- Units reclaimed from it: no VE record that has entered names them, or the one that does has begun its last issue and has nothing dumped, and
what it has in flight is written first (R266, R269). -/
def reclaimRule : IssueRule := fun r c _ u s v t =>
  let names := fun (x : Run) => x.phase ≠ .head ∧ x.phase ≠ .entry ∧ (fragUnits s c x.instr).any (bitAt (unitMask r)) = true
  let taken := fun (x : State) => x.setCore c { x.core c with lent := (x.core c).lent &&& (65535 - unitMask r) }
  Runs (needLicence c) s () s ∧ u.carry = [] ∧
  ((∀ x, (s.seqOf c .ve).run = some x → ¬names x) ∧ t = taken s ∨
    ∃ x, (s.seqOf c .ve).run = some x ∧ names x ∧ x.phase = .complete ∧ ((s.core c).dump.any fun d => d.stream == 3) = false ∧
      t = taken (landEng c 3 s)) ∧
  v = { u.next with carry := [] }

end Sys2Proof.Claims

/-- R251-R255: the bank load, and the multiply-accumulate of one row, from memory or from an operand queue. R261-R267: tiles cleared,
loaded, stored and drained, units lent and reclaimed, and the scoreboard wait. -/
def Obligations.MatrixRecordsComplete : Prop :=
  (
    Follows .meMma (mulRule false) ∧ Follows .meCmma (mulRule true) ∧ Follows .meBld bldRule) ∧
  (
    Follows .meClr clrRule ∧ Follows .meAld aldRule ∧ Follows .meAst astRule ∧ Follows .meDrn drnRule ∧ Follows .meDrq drqRule ∧ Follows .meFragLend lendRule ∧
    Follows .meFragReclaim reclaimRule ∧ Follows .meSbw fun _ c _ u s v t => Runs (needLicence c) s () s ∧ t = s ∧ v = u.next)

namespace Sys2Proof.Claims

/-- A beat of a copy, with its accessors (R306, R307). -/
def copyRule : (Rec → Nat → Eng → State → Who × Who) → IssueRule := fun who r c e u s v t =>
  let wd := (who r c e s).1
  let wa := (who r c e s).2
  let hd := u.h 0
  let ha := u.h 1
  let halo := r.opx.val % 2 == 1
  let src := fun j : Nat => viewCoord r.trn (along (u.at r.a) j)
  (!r.conj || isCplx (hFmt ha)) = true ∧
  beatRule u (runLen r 17 hd (u.at r.d)) (esizeBits (hFmt hd))
    (fun j => do
      checkRead wa ha (src j) (hFmt hd) halo copySpace
      checkWrite wd hd (along (u.at r.d) j) (hFmt ha) copySpace)
    (fun js s t => ∃ xs s1, Runs (mapList (fun j => copyRead wa ha (src j) (hFmt hd) halo r.conj copySpace) js) s xs s1 ∧
      Runs (forList (fun x : Nat × Nat => engWrite wd hd (along (u.at r.d) x.1) x.2 copySpace) (js.zip xs)) s1 () t) s v t

/-- A queue element loaded (R308). -/
def lqRule : IssueRule := fun r c e u s v t =>
  let w := engWho s c e
  let h := u.h 1
  let tag := hFmt h
  let n := if opnd r.c = .imm then bitsAt (immOf r.c) 0 13 else beatLen (esizeBits tag)
  let src := fun j : Nat => viewCoord r.trn (along (u.at r.a) j)
  let halo := r.opx.val % 2 == 1
  ∃ xs s1, (!r.conj || isCplx tag) = true ∧ n ≤ beatLen (esizeBits tag) ∧
    (∃ x, Runs (forList (fun j => checkRead w h (src j) tag halo copySpace) (List.range n)) s () x) ∧
    (queueOf s c r.d.hnd.val).length < 16 ∧
    Runs (mapList (fun j => copyRead w h (src j) tag halo r.conj copySpace) (List.range n)) s xs s1 ∧
    let q := releasePass w.agent s1
    t = setQueue c r.d.hnd.val (queueOf q.1 c r.d.hnd.val ++ [⟨leBytes 512 (packCodes (esizeBits tag) (xs.map (storeBits tag))), tag, q.2, false⟩]) q.1 ∧ v = u.next

/-- A beat of a fill (R309). -/
def fillRule : IssueRule := fun r c e u s v t =>
  let w := engWho s c e
  let h := u.h 0
  let bits := esizeBits (hFmt h)
  beatRule u (windowRun h (u.at r.d)) bits (fun j => checkWrite w h (along (u.at r.d) j) (hFmt h) copySpace)
    (fun js s t => Runs (forList (fun j => engWrite w h (along (u.at r.d) j) ((if opnd r.c = .imm then immOf r.c else 0) % 2 ^ bits) copySpace) js) s () t) s v t

/-- A beat of an overlay load: LOADING stands from its first issue on (R82, R310). -/
def ovlRule : IssueRule := fun r c e u s v t =>
  let w := engWho s c e
  let h := u.h 1
  let k := r.spare.val % 4
  let begun : Run := { u with carry := [1] }
  (u.carry = [] → bitAt (s.core c).loading k = false) ∧
  beatRule begun (windowRun h (u.at r.a)) 8 (fun j => checkRead w h (along (u.at r.a) j) 0x43 false copySpace)
    (fun js s t => ∃ xs s1, Runs (mapList (fun j => copyRead w h (along (u.at r.a) j) 0x43 false false copySpace) js) s xs s1 ∧
      let a := imAt c (k * 65536 + u.beat * 512)
      let bs := xs.map fun x => BitVec.ofNat 8 x
      t = { clearMarks w.agent w.tower a bs.length s1 with mem := memStore s1.mem a bs })
    (setRun c e (some begun) (s.setCore c { s.core c with loading := (s.core c).loading ||| 2 ^ k })) v t

/-- A flag write (R311). -/
def flagRule : IssueRule := fun r c e u s v t =>
  ∃ l s1, Runs (locate (engWho s c e) (u.h 0) (u.at r.d) .atomic false int64Tag notPeer) s l s1 ∧
    Runs (flagAdd (engWho s c e) l (if opnd r.c = .imm then immOf r.c else 1)) s1 () t ∧ v = u.next

/-- A beat of a stash put (R313). -/
def sputRule : IssueRule := fun r c e u s v t =>
  let w := engWho s c e
  let h := u.h 1
  let bits := esizeBits (hFmt h)
  w.mt ≠ 0xFFF ∧
  beatRule u (windowRun h (u.at r.a)) bits (fun j => do let _ ← stashLoc w h (along (u.at r.a) j) .load)
    (fun js s t => ∃ xs s1, Runs (mapList (fun j => do
        let l ← stashLoc w h (along (u.at r.a) j) .load
        let bs ← readLoc w l l.p.bytes
        return elemCode l.p bs) js) s xs s1 ∧
      let k := objKey w.mt (immOf r.c % 65536)
      (∀ o, find (s1.die (dieOf c)).objs k = some o → t = setObj (dieOf c) k { o with image := o.image ++ leBytes (runBytes js.length bits) (packCodes bits xs) } s1) ∧
      (find (s1.die (dieOf c)).objs k = none → t = s1)) s v t

/-- A beat of a stash get (R314). -/
def sgetRule : IssueRule := fun r c e u s v t =>
  let w := engWho s c e
  let h := u.h 0
  let bits := esizeBits (hFmt h)
  beatRule u (windowRun h (u.at r.d)) bits (fun j => do let _ ← stashLoc w h (along (u.at r.d) j) .store)
    (fun js s t => Runs (forList (fun j => do
      let l ← stashLoc w h (along (u.at r.d) j) .store
      pendElem w l (bitsAt (packCodes 8 (((u.carry.drop 1).drop (u.bytes + u.beat * 512)).take 512)) ((j - u.beat * beatLen bits) * bits) bits)) js) s () t) s v t

/-- The key of the object that a stash record names (R312). -/
def stashKey := fun (r : Rec) c e s => objKey (engWho s c e).mt (immOf r.c % 65536)

end Sys2Proof.Claims

/-- R306-R315: a beat of each copy and stash record. -/
def Obligations.CopyAndStashRecordsComplete : Prop :=
  Follows .ceCp (copyRule fun _ c e s => (engWho s c e, engWho s c e)) ∧
  Follows .ceCpx (copyRule fun r c e s => (cpxWho (engWho s c e) r false, cpxWho (engWho s c e) r true)) ∧
  Follows .ceLq lqRule ∧ Follows .ceFill fillRule ∧ Follows .ceOvl ovlRule ∧ Follows .ceFlag flagRule ∧ Follows .stashPut sputRule ∧ Follows .stashGet sgetRule ∧
  (Follows .stashDrop fun r c e u s v t => 
    let now := keyCode (s.die (dieOf c)) (stashKey r c e s)
    let code := nth now u.carry 0
    (engWho s c e).mt ≠ 0xFFF ∧ t = (if code ≤ 2 ∧ now ≠ 4 then freeObj (dieOf c) (stashKey r c e s) s else s) ∧ v = { u.next with carry := [code] }) ∧
  (Follows .stashPf fun r c e u s v t =>
    let g := bitsAt (immOf r.c) 16 12
    let g := if g = 0xFFF then (engWho s c e).mt else g
    t = (if g = 0xFFF then s else prefetchKey (dieOf c) (objKey g (immOf r.c % 65536)) s) ∧ v = u.next)

namespace Sys2Proof.Claims

/-- The move of an acknowledged beat of remote writes (R316, R323). -/
def wroteMove := fun (w : Who) (ha hd : Handle) (ca cd : Coord) js s t => ∃ bs l s1, Runs (beatBytes w ha ca (hFmt hd) js) s bs s1 ∧
  Runs (locate w hd (along cd (nth 0 js 0)) .store false (fun _ => true) isPeer) s1 l t ∧ ansOf t w.agent = .remote 0

/-- The move of a beat of a message whose parts before the last have been acknowledged, and whose last one's answer stands (R318, R319). -/
def partMove := fun (c : Nat) (e : Eng) (u : Run) (w : Who) (hd : Handle) (cd : Coord) (parts : List Nat → List (Option Nat × List Nat)) js (s t : State) =>
  ∃ l s1, (parts js).length = u.sending.part + 1 ∧ u.ans = .remote 0 ∧
    Runs (locate w hd (along cd (nth 0 (nth (none, []) (parts js) u.sending.part).2 0)) .store false (fun _ => true) isPeer) s l s1 ∧
    ansOf s1 w.agent = .remote 0 ∧ ((s1.seqOf c e).run.map (·.ans)) = some (.remote 0) ∧
    t = mapRun c e (fun v => { v.withSending { v.sending with part := u.sending.part + 1 } with ans := .none, acks := [] }) s1

/-- What a record keeps of its message, as the state has it. -/
def keptSending (c : Nat) (e : Eng) (u : Run) (s : State) : Sending := ((s.seqOf c e).run.map (·.sending)).getD u.sending

/-- An intent announced from a FREE slot; a slot that already holds this very message stays, DEDUCED from R318 (notes/assumptions/44.md). -/
def pintRule : IssueRule := fun r c e u s v t =>
  let k := r.spare.val % 16
  ∃ l s1, Runs (locate (engWho s c e) (u.h 0) (u.at r.d) .store false (fun _ => true) isPeer) s l s1 ∧ v = u.next ∧
    ((slotOf s1 c k).st ≠ .free → samePint (slotOf s1 c k) r (ePeer l.p.entry) = true ∧ t = s1) ∧
    ((slotOf s1 c k).st = .free → t = announce c k { Slot.reset with
      st := .announced, stream := streamNo (engStream e), mods := [ePeer l.p.entry], len := immOf r.c % 2 ^ 32
      prio := immPrio r, bucket := immBucket r } s1)

/-- A beat of a message (R318, R319). -/
def sendRule : IssueRule := fun r c e u s v t =>
  let w := engWho s c e
  let k := r.spare.val % 16
  let bits := esizeBits (hFmt (u.h 0))
  let org := orgOf (slotOf s c k) u e
  ∃ v0 t0, beatRule u (windowRun (u.h 0) (u.at r.d)) bits (checkSend w (u.h 1) (u.h 0) (u.at r.a) (u.at r.d))
      (partMove c e u w (u.h 0) (u.at r.d) (beatParts fun j => chunkOfElem org (u.bytes + j * bits / 8) (Nat.max 1 (bits / 8))))
      (mapRun c e (fun v => v.withSending { v.sending with org := org }) s) v0 t0 ∧
    t = (if slotMine (slotOf t0 c k) u e then setSlot c k { slotOf t0 c k with moved := v0.bytes + v0.beat * 512 } t0 else t0) ∧
    v = (v0.withSending (keptSending c e u t0)).unparted

/-- A beat of a multicast (R322). -/
def mcastRule : IssueRule := fun r c e u s v t =>
  let w := engWho s c e
  let k := mcSlot e
  let bits := esizeBits (hFmt (u.h 0))
  let x := slotOf s c k
  ∃ t0 v0, ¬(x.st = .free ∧ x.mods ≠ []) ∧ u.ans = .remote 0 ∧
    beatRule u (windowRun (u.h 0) (u.at r.d)) bits (checkSend w (u.h 1) (u.h 0) (u.at r.a) (u.at r.d))
      (partMove c e u w (u.h 0) (u.at r.d) (beatParts fun j => chunkOfElem x.prefixN (u.bytes + j * bits / 8) (Nat.max 1 (bits / 8)))) s v0 t0 ∧
    t = setSlot c k { slotOf t0 c k with moved := v0.bytes + v0.beat * 512 } t0 ∧ v = { v0.unparted with acks := [] }

/-- A beat of a remote write (R323). -/
def wrRule : IssueRule := fun r c e u s v t =>
  let w := engWho s c e
  let bits := esizeBits (hFmt (u.h 0))
  u.bytes + runBytes (windowRun (u.h 0) (u.at r.d)).toNat bits ≤ 8192 ∧
  beatRule u (windowRun (u.h 0) (u.at r.d)) bits (checkSend w (u.h 1) (u.h 0) (u.at r.a) (u.at r.d)) (wroteMove w (u.h 1) (u.h 0) (u.at r.a) (u.at r.d)) s v t

/-- A remote atomic (R323). A release is numbered; a compare-and-swap, which writes or not at its target, by a free bit, the model's choice
(notes/assumptions/34.md). -/
def atomRule : IssueRule := fun r c e u s v t =>
  let w := engWho s c e
  ∃ l s1, Runs (locate w (u.h 0) (u.at r.d) .atomic false (fun t => t == 0x44 || t == 0x45) isPeer) s l s1 ∧ unsent u.ans = false ∧
    ansOf s1 w.agent = .remote 0 ∧ v = u.next ∧
    t = (if bitAt r.opx.val 4 && (r.opx.val % 16 != 9 || Config.freeBit s1.freeCtr 219) then (releasePass w.agent s1).1 else s1)

/-- The two parts of a request record (R324). -/
def reqRule : IssueRule := fun r c e u s v t =>
  let w := engWho s c e
  ∃ l s1, Runs (locate w (u.h 0) (u.at r.d) .store false int64Tag isPeer) s l s1 ∧ l.p.addr % 64 = 0 ∧ unsent u.ans = false ∧
    ansOf s1 w.agent = .remote 0 ∧ u.carry ≠ [] ∧
    (nth 0 u.carry 0 = 0 → t = s1 ∧
      v = { u with carry := [1, nth 0 (((s1.seqOf c e).run.map (·.carry)).getD u.carry) 1], ans := .none }) ∧
    (nth 0 u.carry 0 ≠ 0 → t = (releasePass w.agent s1).1 ∧ v = { u.next with carry := [] })

/-! ### What the first visit of a beat sends (R319, R322-R325) -/

/-- What a record sends from a state: the message, the module it goes to, and the state it leaves. -/
abbrev SendRule := Rec → Nat → Eng → Run → State → Msg → Nat → State → Prop

/-- Every record of an operation that stands at a beat for which nothing has come back sends the message that the rule gives, and waits for its
acknowledgement. -/
abbrev Sends (mk : Rec → Instr) (rule : SendRule) : Prop :=
  ∀ (r : Rec) (e : Eng) (u : Run) (s t : State) (q : Msg) (n : Nat), AtIssue (mk r) e u s → unsent u.ans = true →
    rule r s.cc e u (landed e s) q n t → exec (mk r) s = .next (engWait s.cc e (.own 1) (askRun s.cc e (some q) (some n) Spot.none [] t))

/-- The elements of the beat a record stands at, whose run, from here on, passes its checks. -/
def beatAt (u : Run) (w : Int) (bits : Nat) (check : Nat → M Unit) (s : State) : List Nat → Prop := fun js =>
  (u.beat * beatLen bits : Nat) < w ∧ (∃ x, Runs (forList check (span (u.beat * beatLen bits) w.toNat)) s () x) ∧
  js = span (u.beat * beatLen bits) (Nat.min (u.beat * beatLen bits + beatLen bits) w.toNat)

/-- The place of an element in another module. -/
def peerPlace (w : Who) (h : Handle) (k : Coord) (s : State) (l : Loc) (t : State) : Prop :=
  Runs (locate w h k .store false (fun _ => true) isPeer) s l t

/-- `fab.wr` sends the beat's bytes as one WRITE. -/
def wrSends : SendRule := fun r c e u s q n t =>
  let w := engWho s c e
  let h := u.h 0
  let bits := esizeBits (hFmt h)
  u.bytes + runBytes (windowRun h (u.at r.d)).toNat bits ≤ 8192 ∧
  ∃ js bs l s1 s2, beatAt u (windowRun h (u.at r.d)) bits (checkSend w (u.h 1) h (u.at r.a) (u.at r.d)) s js ∧
    Runs (beatBytes w (u.h 1) (u.at r.a) (hFmt h) js) s bs s1 ∧ peerPlace w h (along (u.at r.d) (nth 0 js 0)) s1 l s2 ∧
    unsent (ansOf s2 w.agent) = true ∧ n = ePeer l.p.entry ∧ q = .remoteWrite n (remoteAcc s2 w l.p bs false) ∧ t = s

/-- `fab.atom` sends the operation with its operands, at the element's width; a release goes after the agent's earlier accesses. -/
def atomSends : SendRule := fun r c e u s q n t =>
  let w := engWho s c e
  let rel := bitAt r.opx.val 4
  ∃ l x s1 s2 s3, Runs (locate w (u.h 0) (u.at r.d) .atomic false (fun t => t == 0x44 || t == 0x45) isPeer) s l s1 ∧
    Runs (atomOperand w r u) s1 x s2 ∧ (rel = false → s3 = s2) ∧
    (rel = true → Runs (performRelease w (if bitAt r.opx.val 5 then .system else .domain)) s2 () s3 ∧
      ∀ y ∈ s3.sent, agentOf y.core (streamOf y.stream) = w.agent → y.module ≠ ePeer l.p.entry) ∧
    let bits := esizeBits l.p.tag
    unsent (ansOf s3 w.agent) = true ∧ n = ePeer l.p.entry ∧ t = s ∧
    q = .remoteAtomic n (remoteAcc s3 w l.p [] rel) (r.opx.val % 16 + 2) (BitVec.ofNat 64 (x % 2 ^ bits)) (BitVec.ofNat 64 (immOf r.c % 2 ^ bits))

/-- `fab.req` sends words 1 to 7 under a number of its own, and, once they are acknowledged, word 0 as a release. -/
def reqSends : SendRule := fun r c e u s q n t =>
  let w := engWho s c e
  ∃ l s1, Runs (locate w (u.h 0) (u.at r.d) .store false int64Tag isPeer) s l s1 ∧ l.p.addr % 64 = 0 ∧ n = ePeer l.p.entry ∧
    (nth 0 u.carry 0 = 0 → ∃ bs s2, (∃ x, Runs (forList (fun j => checkRead w (u.h 1) (along (u.at r.a) j) 0x45 false copySpace) (List.range 7)) s1 () x) ∧
      Runs (beatBytes w (u.h 1) (u.at r.a) 0x45 (List.range 7)) s1 bs s2 ∧ t = (if u.carry = [] then takeSeq c e s2 else s2) ∧
      unsent (ansOf t w.agent) = true ∧ q = .remoteWrite n (remoteAcc t w { l.p with addr := l.p.addr + 8 } bs false)) ∧
    (nth 0 u.carry 0 ≠ 0 → Runs (performRelease w .domain) s1 () t ∧
      (∀ y ∈ t.sent, agentOf y.core (streamOf y.stream) = w.agent → y.module ≠ n) ∧ unsent (ansOf t w.agent) = true ∧
      q = .remoteWrite n (remoteAcc t w l.p (leBytes 8 (1 + immOf r.c % 256 * 2 ^ 8 + bitsAt t.dmr.toNat 0 10 * 2 ^ 16 + c * 2 ^ 26 +
        streamNo (engStream e) * 2 ^ 36 + nth 0 u.carry 1 * 2 ^ 39)) true))

/-- The part of a beat that is next, of a message whose chunk 0 begins at `org`. -/
def partAt (org : Nat) (u : Run) (bits : Nat) (js : List Nat) : Option (Option Nat × List Nat) :=
  (beatParts (fun j => chunkOfElem org (u.bytes + j * bits / 8) (Nat.max 1 (bits / 8))) js)[u.sending.part]?

/-- May the bytes of a chunk go: its header has, or every destination's token is there? -/
def mayMove (x : Slot) (q : Option Nat) (now : Nat) : Prop := ∀ n, q = some n → x.sent.contains n = true ∨ hasTokens x n now = true

/-- Does the beat's part end its chunk? -/
def partEnds (org len : Nat) (u : Run) (bits n : Nat) (js : List Nat) : Bool :=
  endsChunk org len n (u.bytes + runBytes (nth 0 js (js.length - 1) + 1) bits) (Nat.max 1 (bits / 8))

/-- `fab.send` sends the next part of its beat: bytes before chunk 0 as a WRITE of the message, others as part of their chunk, whose header takes
the token and carries its expiry. -/
def sendSends : SendRule := fun r c e u s q n t =>
  let w := engWho s c e
  let k := r.spare.val % 16
  let h := u.h 0
  let bits := esizeBits (hFmt h)
  let org := orgOf (slotOf s c k) u e
  let b := mapRun c e (fun v => v.withSending { v.sending with org := org }) s
  let g := { u.sending with org := org }
  ∃ js p l s1 bs s2, beatAt u (windowRun h (u.at r.d)) bits (checkSend w (u.h 1) h (u.at r.a) (u.at r.d)) b js ∧
    partAt org u bits js = some p ∧ peerPlace w h (along (u.at r.d) (nth 0 p.2 0)) b l s1 ∧
    slotMine (slotOf s1 c k) u e = true ∧ mayMove (slotOf s1 c k) p.1 s1.time ∧
    Runs (beatRead c e (beatBytes w (u.h 1) (u.at r.a) (hFmt h) p.2)) s1 bs s2 ∧ n = ePeer l.p.entry ∧ unsent (ansOf t w.agent) = true ∧
    (p.1 = none → t = s2 ∧ q = .remoteWrite n { remoteAcc t w l.p bs false with msg := some (k, g.epoch) }) ∧
    ∀ j, p.1 = some j → ∃ s3, Runs (useToken c k j) s2 () s3 ∧ t = mapRun c e (fun v => v.withSending { g with cur := j + 1 }) s3 ∧
      q = .chunk n c k g.epoch j ⟨expiryOf (slotOf s1 c k) j, [remoteAcc t w l.p bs false], none, partEnds org u.sending.len u bits j p.2⟩

/-- REDUCE and PUT send a beat as part of the issue's chunk, with the map and CONFLICT read as its header leaves (R325). -/
def collSends : SendRule := fun r c e u s q n t =>
  let w := engWho s c e
  let k := r.spare.val % 16
  let h := u.h 0
  let bits := esizeBits (hFmt h)
  let run := windowRun h (u.at r.d)
  let ck := collChunk r + u.n
  let j := collRank u h r.d u.n
  (u.n ≠ 0 ∨ collMember r < collG r) ∧ ck ≤ 4095 ∧ runBytes run.toNat bits ≤ 65536 ∧
  ∃ js bs s1 s2 s3 l, beatAt u run bits (fun j => do
        let _ ← locate w (u.h 1) (along (u.at r.a) j) .load false collTag copySpace
        checkSend w (u.h 1) h (u.at r.a) (u.at r.d) j) s js ∧
    slotMine (slotOf s c k) u e = true ∧ mayMove (slotOf s c k) (some j) s.time ∧
    Runs (beatRead c e (beatBytes w (u.h 1) (u.at r.a) (hFmt h) js)) s bs s1 ∧
    let v := ((s1.seqOf c e).run).getD u
    let x := chunkOf s1 ck
    let g := if v.sending.map ≠ 0 then v.sending else { v.sending with map := x.map + 1, conf := x.conflict }
    (v.sending.map = 0 → bitAt x.map (collMember r) = true) ∧
    s2 = (if v.sending.map ≠ 0 then s1 else mapRun c e (fun v => v.withSending g) s1) ∧
    Runs (useToken c k j) s2 () s3 ∧
    peerPlace w h (along (u.at r.d) (nth 0 js 0)) (mapRun c e (fun v => v.withSending { v.sending with cur := j + 1 }) s3) l t ∧
    unsent (ansOf t w.agent) = true ∧ n = ePeer l.p.entry ∧
    q = .chunk n c k g.epoch j ⟨expiryOf (slotOf s c k) j, [remoteAcc t w l.p bs false], some ⟨collMode r == 2, bitsAt r.opx.val 2 2, ck, g.map - 1, g.conf⟩,
      decide (run.toNat ≤ nth 0 js (js.length - 1) + 1)⟩

/-- `fab.mcast` sends the next part of its beat to every member at once, and waits for all their acknowledgements (R322). -/
def mcastSends : Rec → Nat → Eng → Run → State → Out → Prop := fun r c e u s o =>
  let w := engWho s c e
  let k := mcSlot e
  let h := u.h 0
  let bits := esizeBits (hFmt h)
  let x := slotOf s c k
  let org := x.prefixN
  x.st ≠ .withdrawn ∧ ¬(x.st = .free ∧ x.mods ≠ []) ∧
  ∃ js p l s1 bs s2 s3, beatAt u (windowRun h (u.at r.d)) bits (checkSend w (u.h 1) h (u.at r.a) (u.at r.d)) s js ∧
    partAt org u bits js = some p ∧ peerPlace w h (along (u.at r.d) (nth 0 p.2 0)) s l s1 ∧ slotOf s1 c k = x ∧
    let j := p.1.getD 0
    mayMove x (some j) s1.time ∧ Runs (beatRead c e (beatBytes w (u.h 1) (u.at r.a) (hFmt h) p.2)) s1 bs s2 ∧ Runs (useToken c k j) s2 () s3 ∧
    o = .next (engWait c e (.own 1) (sendAll c e x.mods (fun ms => .mcast ms c k x.epoch j
      ⟨expiryOf x j, [remoteAcc s3 w l.p bs false], none, p.1.any fun n => partEnds org x.len u bits n p.2⟩) s3))

end Sys2Proof.Claims

/-- R317-R324: the message records, multicast, priorities, returned tokens and the small remote operations: what each sends when it first visits a
beat, and how it goes on with the acknowledgement. A `fab.pint` whose slot already holds its message changes nothing, DEDUCED from R318
(notes/assumptions/44.md); how a multicast keeps its identity and how an element cut by a chunk boundary goes is the model's
(notes/assumptions/27.md). -/
def Obligations.FabricMessageRecordsComplete : Prop :=
  Sends .fabWr wrSends ∧ Sends .fabAtom atomSends ∧ Sends .fabReq reqSends ∧ Sends .fabSend sendSends ∧
  (∀ (r : Rec) (e : Eng) (u : Run) (s : State) (o : Out), AtIssue (.fabMcast r) e u s → unsent u.ans = true → mcastSends r s.cc e u (landed e s) o →
    exec (.fabMcast r) s = o) ∧
  Follows .fabPint pintRule ∧ Follows .fabSend sendRule ∧ Follows .fabMcast mcastRule ∧ Follows .fabWr wrRule ∧ Follows .fabAtom atomRule ∧ Follows .fabReq reqRule ∧
  (Follows .fabPrio fun r _ _ u s v t =>
    let b := bitsAt (immOf r.c) 0 8
    let n := bitsAt (immOf r.c) 8 8
    b + n ≤ 255 ∧ t = { s with bpri := (span b (b + n + 1)).foldl (fun t k => put t k (bitsAt (immOf r.c) 16 3)) s.bpri } ∧ v = u.next) ∧
  (Follows .fabTkr fun r c _ u s v t =>
    t = (if (slotOf s c (r.spare.val % 16)).st = .free then s else takeBack c (r.spare.val % 16) s) ∧ v = u.next)

namespace Sys2Proof.Claims

/-- The copy of a chunk (R325). -/
def copiedRule : (r : Rec) → Nat → Eng → Run → State → Run → State → Prop := fun r c e u s v t =>
  let w := engWho s c e
  let hd := u.h 0
  let ha := u.h 1
  beatRule u (windowRun hd (u.at r.d)) (esizeBits (hFmt hd))
    (fun j => do
      let _ ← locate w ha (along (u.at r.a) j) .load false collTag copySpace
      checkRead w ha (along (u.at r.a) j) (hFmt hd) false copySpace
      checkWrite w hd (along (u.at r.d) j) (hFmt ha) copySpace)
    (fun js s t => ∃ xs s1, Runs (mapList (fun j => copyRead w ha (along (u.at r.a) j) (hFmt hd) false false copySpace) js) s xs s1 ∧
      Runs (forList (fun x : Nat × Nat => engWrite w hd (along (u.at r.d) x.1) x.2 copySpace) (js.zip xs)) s1 () t) s v t

/-- The checks of a collective record (R325). -/
def collChecked := fun (r : Rec) (u : Run) => (u.n ≠ 0 ∨ collMember r < collG r) ∧ collChunk r + u.n ≤ 4095 ∧
  runBytes (windowRun (u.h 0) (u.at r.d)).toNat (esizeBits (hFmt (u.h 0))) ≤ 65536

/-- SEED; an empty run does nothing (R304, R325). -/
def seedRule : IssueRule := fun r c e u s v t => collChecked r u ∧
  (windowRun (u.h 0) (u.at r.d) = 0 → t = s ∧ v = u.next) ∧
  (windowRun (u.h 0) (u.at r.d) ≠ 0 → ∃ t0, copiedRule r c e u s v t0 ∧
    t = if v.n ≠ u.n then setChunk (collChunk r + u.n) ⟨2 ^ collMember r, false⟩ t0 else t0)

/-- REDUCE and PUT: an acknowledged beat of a chunk (R325). -/
def collSendRule : IssueRule := fun r c e u s v t =>
  let w := engWho s c e
  let k := r.spare.val % 16
  let bits := esizeBits (hFmt (u.h 0))
  ∃ v0 t0, collChecked r u ∧
    beatRule u (windowRun (u.h 0) (u.at r.d)) bits (fun j => do
        let _ ← locate w (u.h 1) (along (u.at r.a) j) .load false collTag copySpace
        checkSend w (u.h 1) (u.h 0) (u.at r.a) (u.at r.d) j)
      (fun js s t => ∃ l, u.ans = .remote 0 ∧ u.sending.map ≠ 0 ∧
        Runs (locate w (u.h 0) (along (u.at r.d) (nth 0 js 0)) .store false (fun _ => true) isPeer) s l t ∧ ansOf t w.agent = .remote 0) s v0 t0 ∧
    t = (if slotMine (slotOf t0 c k) u e then setSlot c k { slotOf t0 c k with
      moved := if v0.n = u.n then collRank u (u.h 0) r.d u.n * 65536 + v0.beat * 512 else collRank u (u.h 0) r.d v0.n * 65536 } t0 else t0) ∧
    v = v0.withSending (if v0.n = u.n then keptSending c e u t0 else { keptSending c e u t0 with map := 0, conf := false })

/-- COMMIT; an empty run does nothing (R304, R325). -/
def commitRule : IssueRule := fun r c e u s v t =>
  let x := chunkOf s (collChunk r + u.n)
  let full := 0 < u.beat ∨ (x.map = 2 ^ collG r - 1 ∧ x.conflict = false)
  let empty := windowRun (u.h 0) (u.at r.d) = 0
  collChecked r u ∧ (empty → t = s ∧ v = u.next) ∧ (¬empty → full → copiedRule r c e u s v t) ∧
  (¬empty → ¬full → t = s ∧ v = { u.next with miss := u.miss ++ [collChunk r + u.n + b2n x.conflict * 4096] })

/-- A run folded into the seam digest (R327). -/
def accumRule : IssueRule := fun r c e u s v t =>
  let w := engWho s c e
  let tag := hFmt (u.h 1)
  let n := windowRun (u.h 1) (u.at r.a)
  ∃ xs s1, 0 ≤ n ∧ (∃ x, Runs (forList (fun j => checkRead w (u.h 1) (along (u.at r.a) j) tag false copySpace) (List.range n.toNat)) s () x) ∧
    Runs (mapList (fun j => copyRead w (u.h 1) (along (u.at r.a) j) tag false false copySpace) (List.range n.toNat)) s xs s1 ∧ v = u.next ∧
    t = setSeam c ((List.range ((runBytes n.toNat (esizeBits tag) + 7) / 8)).foldl (fun a k => seamFold a (packCodes (esizeBits tag) xs / 2 ^ (64 * k) % 2 ^ 64))
      (if r.clr && u.n == 0 then ⟨0, 0, 0⟩ else seamOf s1 c)) s1

/-- The end of a vote at the seam record (R328): the result of its own step. -/
def voteRule : IssueRule := fun r c e u s v t => u.carry ≠ [] ∧ ∃ d mask,
  find s.voteRes (engWho s c e).agent = some (immOf r.c % 2 ^ 32, d, mask) ∧ t = { s with voteRes := del s.voteRes (engWho s c e).agent } ∧
  v = { u.next with miss := match d with
    | .missing => [1]
    | .noMajority => [2]
    | .allAgree => if bitAt mask (ringPos s) then [2] else [] }

end Sys2Proof.Claims

/-- R325-R328: the collective modes: what REDUCE and PUT send when they first visit a beat, and how each mode goes on; and the seam check's fold and
vote. A vote that finds its digest missing or in the minority keeps that for its completion step, which is the model's, DEDUCED
(notes/assumptions/25.md). -/
def Obligations.CollectiveAndSeamRecordsComplete : Prop :=
  Sends .fabCollReduce collSends ∧ Sends .fabCollPut collSends ∧
  Follows .fabCollSeed seedRule ∧ Follows .fabCollReduce collSendRule ∧ Follows .fabCollPut collSendRule ∧ Follows .fabCollCommit commitRule ∧
  Follows .fabSeamAccum accumRule ∧ Follows .fabSeamVote voteRule

/-- R151, R182-R184: a sequencer record at its completion: `seq.end` arrives at the rendezvous, the others go on at the PC their branch gives. -/
def Obligations.SequencerRecordsComplete : Prop :=
  let closed := fun (e : Eng) (w : Run) (s : State) => engRun s.cc e (setRun s.cc e (some w) (dropResv s.cc (engStream e)
    (landEng s.cc (streamNo (engStream e)) (reinject s.cc (streamNo (engStream e)) s))))
  let stands := fun (i : Instr) (e : Eng) (u w : Run) (s : State) => s.powered = true ∧ seqFor s i = e ∧ (s.seqOf s.cc e).run = some u ∧ u.instr = i ∧
    u.phase = .complete ∧ u.status = 0 ∧ w = { u with status := 1, held := 0, ans := .none } ∧ ((closed e w s).seqOf s.cc e).defer = []
  let goesOn := fun (mk : Rec → Instr) (pc : Rec → Run → Nat) => ∀ r e u w s t x, stands (mk r) e u w s →
    afterPc w = pc r u ∧ (actLoop s.cc e 3 w (closed e w s) = (t, x, none) → exec (mk r) s = .next (leave s.cc e w t)) ∧
    (r.ssig.val < 32 → r.tpush.val < 8 → r.flag = false → u.flagLoc = none → exec (mk r) s = .next (leave s.cc e w (closed e w s)))
  let target := fun (r : Rec) (u : Run) => (seqTarget u.pc r).toNat
  (∀ r e u w s, stands (.seqEnd r) e u w s → exec (.seqEnd r) s = .next (arrive s.cc e w (closed e w s))) ∧
  goesOn .seqWait (fun _ u => u.pc + 64) ∧ goesOn .seqJmp target ∧
  goesOn .seqJz (fun r u => if u.bval = 0 then target r u else u.pc + 64) ∧ goesOn .seqJnz (fun r u => if u.bval = 0 then u.pc + 64 else target r u)

/-! ## Events: ends of waits, the licence, the gates of a record, reservations (R127-R136, R155-R157, R182-R185, R215, R409-R411) -/

namespace Sys2Proof.Claims

/-- The event happens, and leaves the state `t`. -/
abbrev Happens (i : Instr) (s t : State) : Prop := exec i s = .next t

/-- The event re-executes the instruction `i` that control core `l` of core `c` waits in, whatever that answers. -/
def Redoes (ev : Instr) (c : Nat) (l : Leader) (s : State) (i : Instr) : Prop :=
  issued s c l = some i → ∀ t, exec i (focus c (leaderStream l) s) = .next t → Happens ev s { t with cur := s.cur }

/-- Stream `x` of core `c` is in this wait, and can move. -/
def InWait (s : State) (c : Nat) (x : Stream) (w : Wait) : Prop := (s.str c x).st = .wait ∧ canRun (focus c x s) = true ∧ (s.str c x).wait = w

/-- The record `u` stands at sequencer `e` of core `c`, whose stream can move. -/
def Stands (s : State) (c : Nat) (e : Eng) (u : Run) : Prop :=
  s.powered = true ∧ canRun (focus c (engStream e) s) = true ∧ (s.seqOf c e).run = some u

end Sys2Proof.Claims

/-- R128, R129, R133, R136, R155, R164, R215: the event that ends a wait has a control core re-execute the instruction it waits in, and a
sequencer take the gate it stands at; a barrier wait whose generation has passed and a rendezvous whose engines
are done complete; an armed monitor whose condition holds writes the value read and goes on, another waits on. R156,
R157, R268: a drain that ends makes the holder's accumulator writes and hands the licence on, or frees or disables it; a hand-over that
ends gives it. -/
def Obligations.WaitAndLicenceEventsHappen : Prop :=
  (
    ∀ (c : CoreId) (l : Leader) (e : Eng) (gd : Guard) (s : State), s.powered = true →
      let x := leaderStream l
      (∀ k n b, InWait s c x (.sem k n b) → ∀ a j, (∀ i ∈ [Instr.semSig gd a j, .semWait gd a j], Redoes (.semaphoreWaitEnd c x) c l s i)) ∧
      (∀ k b, InWait s c x (.token k b) → ∀ a, (∀ i ∈ [Instr.tkPush gd a, .tkPop gd a], Redoes (.tokenWaitEnd c x) c l s i)) ∧
      (∀ g h n, InWait s c x (.barrier g h n) → ∀ a, (∀ i ∈ [Instr.barArv gd a, .barWait gd a, .barAra gd a], Redoes (.barrierWaitEnd c l) c l s i)) ∧
      (∀ (a : BgIx) n, InWait s c x (.barrier a.val 1 n) → issued s c l = some (.barWait gd a) → Ready gd (focus c x s) → (s.group a.val).gen ≠ n →
        ∃ u, Happens (.barrierWaitEnd c l) s u ∧ (u.str c x).pc = (s.str c x).pc + 4 ∧ (u.str c x).wait = .none ∧
          look false (u.ctlOf c l).arr a.val = false ∧ u.groups = s.groups) ∧
      (InWait s c x .rdv → Redoes (.rdvComplete c l) c l s (.rdv gd)) ∧
      (InWait s c x .rdv → issued s c l = some (.rdv gd) → Ready gd (focus c x s) → jobBusy s c l = false →
        ∃ u, Happens (.rdvComplete c l) s u ∧ (u.str c x).pc = (s.str c x).pc + 4 ∧ (u.str c x).wait = .none ∧
          (u.ctlOf c l).rdvF = .empty ∧ u.mem = s.mem) ∧
      (∀ k, InWait s c x (.own k) → ∀ o z m a g,
        (∀ i ∈ [Instr.stOrd gd o z m a, .fenceRel gd z, .fenceFull gd z, .fenceMsa gd z, .barArv gd g, .barAra gd g, .jend gd],
          Redoes (.releaseComplete c x) c l s i)) ∧
      (∀ k n b, InWait s c (engStream e) (.sem k n b) → Happens (.semaphoreWaitEnd c (engStream e)) s (engineStep c e s)) ∧
      (∀ k b, InWait s c (engStream e) (.token k b) → Happens (.tokenWaitEnd c (engStream e)) s (engineStep c e s)) ∧
      (∀ k, InWait s c (engStream e) (.own k) → Happens (.releaseComplete c (engStream e)) s (engineStep c e s)) ∧
      (∀ h d a k z loc, InWait s c x (.addr h d a k z loc) →
        let f := focus c x s
        ∀ v u, Runs (loadOrd f.who loc .acq z) f v u →
          (cond k (BitVec.ofNat 64 v) (u.me.rdS a) = false →
            Happens (.waddrReevaluate c l) s { waitOn (.addr h d a k z loc) (dropAns u) with cur := s.cur }) ∧
          (cond k (BitVec.ofNat 64 v) (u.me.rdS a) = true → (f.me.priv = true ∨ f.me.step = false) →
            Happens (.waddrReevaluate c l) s { resumeAt (f.pc + 8) (u.setMe (u.me.wrS d (BitVec.ofNat 64 v))) with cur := s.cur }))) ∧
  (
    ∀ (p : PairId) (s : State), s.powered = true →
      let k := s.pair p
      let holder := pairCore p k.who
      let s1 := unlicensed holder (landEng holder 2 s)
      (k.lic = .releasing → k.want.contains (1 - k.who) = true →
        Happens (.licenceDrainEnd p) s (s1.setPair p { k with last := k.who, lic := .handover, who := 1 - k.who })) ∧
      (k.lic = .releasing → k.want.contains (1 - k.who) = false → ∃ t, Happens (.licenceDrainEnd p) s t ∧ t.mem = s1.mem ∧
        t.pair p = { k with
          last := k.who, lic := if k.disable then .disabled else if k.want.contains k.who then .handover else .free
          want := if k.disable then (k.want.erase 1).erase 0 else k.want }) ∧
      (k.lic ≠ .releasing → Happens (.licenceDrainEnd p) s s) ∧
      (k.lic = .handover → Happens (.licenceHandoverEnd p) s
        ((s.setCore holder { s.core holder with licReq := false }).setPair p { k with lic := .held, want := k.want.erase k.who })) ∧
      (k.lic ≠ .handover → Happens (.licenceHandoverEnd p) s s))

/-- R127, R157, R182-R185, R409-R411, R419: the gates of a record one after another: head check, entry, reads, licence, reservation, issue,
completion; and the arbitration of a cluster that has one request. A reservation is requested once and waited for. An error in module state or in a
register that the record reads stops it with UNCORRECTABLE (R378). Whether the results of earlier issues have left the engine before the next one is
a free bit, the model's choice (notes/assumptions/18.md). -/
def Obligations.RecordGatesPass : Prop :=
  ∀ (c : CoreId) (e : Eng) (k : Fin 256) (s : State),
    let x := engStream e
    let m := s.str c x
    let a := agentOf c x
    let words := recordWords s c m.pc
    let free := s.powered = true ∧ canRun (focus c x s) = true ∧ (s.seqOf c e).run = none ∧ m.st ≠ .trap ∧ m.pc + 63 < 262144 ∧
      loadingAt s c m.pc = false ∧ (List.range 8).any (fun j => imMarked s c (m.pc + 8 * j)) = false
    (∀ i, free → decodeRecord words = some i → recordLegal e m.pc i = true →
      Happens (.recordHead c e) s (engRun c e (setRun c e (some (Run.fresh s c e i m.pc .entry)) s))) ∧
    (free → (∀ i, decodeRecord words = some i → recordLegal e m.pc i = false) →
      Happens (.recordHead c e) s (runTrap c e ⟨.recordIllegal, 0⟩ s)) ∧
    ∀ u, Stands s c e u →
      let r := recOf' u.instr
      let at' := fun (q : Phase) (s : State) => engRun c e (setRun c e (some { u with phase := q }) s)
      (u.phase = .entry → s.modBad = false → (engineOf u.instr = 0 ∨ voteHolds s c = false) → ∀ s1 s2,
        (r.tpop.val < 8 → s1 = engRun c e s) → (8 ≤ r.tpop.val → tokens s c (r.tpop.val % 8) ≠ [] ∧ tokenPop c a (r.tpop.val % 8) (engRun c e s) = some s1) →
        (r.swait.val < 32 → s2 = s1) → (32 ≤ r.swait.val → (semOf s c (r.swait.val % 32)).1 ≠ 0 ∧ semTake c a (r.swait.val % 32) 1 s1 = some s2) →
        ∃ v, Happens (.recordEntry c e) s ((setRun c e (some v) s2).noteOpen a 1) ∧ v.phase = .read ∧ v.instr = u.instr ∧ v.pc = u.pc ∧ v.n = u.n) ∧
      (u.phase = .entry → s.modBad = false → (engineOf u.instr = 0 ∨ voteHolds s c = false) → repMode s = 0 → (8 ≤ r.tpop.val → tokens s c (r.tpop.val % 8) ≠ []) →
        (32 ≤ r.swait.val → (semOf s c (r.swait.val % 32)).1 ≠ 0) → ∃ t v, Happens (.recordEntry c e) s t ∧ (t.seqOf c e).run = some v ∧
          v.phase = .read ∧ v.instr = u.instr ∧ v.pc = u.pc ∧ v.n = u.n ∧
          v.views = (s.str c (leaderStream m.job)).clk.views ∧ v.clr = (s.str c (leaderStream m.job)).clk.clr ∧ t.mem = s.mem ∧
          (8 ≤ r.tpop.val → tokens t c (r.tpop.val % 8) = (tokens s c (r.tpop.val % 8)).tail) ∧
          (32 ≤ r.swait.val → (semOf t c (r.swait.val % 32)).1 = (semOf s c (r.swait.val % 32)).1 - 1)) ∧
      (u.phase = .entry → s.modBad = false → (engineOf u.instr = 0 ∨ voteHolds s c = false) → 8 ≤ r.tpop.val → tokens s c (r.tpop.val % 8) = [] →
        Happens (.recordEntry c e) s (engWait c e (.token (r.tpop.val % 8) false) s)) ∧
      (u.phase = .entry → s.modBad = true → Happens (.recordEntry c e) s (runTrap c e ⟨.uncorrectable, 0⟩ s)) ∧
      (u.phase = .read → operandMarked s c e u.instr = true → Happens (.recordOperandRead c e) s (runTrap c e ⟨.uncorrectable, 0⟩ s)) ∧
      (u.phase = .read → operandMarked s c e u.instr = false → ∃ v, Happens (.recordOperandRead c e) s (setRun c e (some v) s) ∧ v.hs = (Run.fresh s c e u.instr u.pc .check).hs ∧
        v.total = (if engineOf u.instr = 0 then 0 else product ((List.range 4).map (tripCount (s.seqOf c e).b r))) ∧ v.cmpf = (s.seqOf c e).cmpf ∧
        v.views = u.views ∧ v.clr = u.clr ∧ v.phase = if engineOf u.instr = 0 then .complete else .check) ∧
      (u.phase = .licence → (engineOf u.instr ≠ 1 ∨ holdsLic s c = true) → Happens (.recordIssue c e) s (at' .reserve s)) ∧
      (u.phase = .licence → engineOf u.instr = 1 → holdsLic s c = false → (s.pair (pairOf c)).lic = .disabled →
        Happens (.recordIssue c e) s (runTrap c e ⟨.licenceDisabled, 0⟩ s)) ∧
      (let n := classUnits s r.pcls.val (engineOf u.instr)
        let enabled := classEn s r.pcls.val = true ∧ n ≤ Config.clMax
        u.phase = .reserve →
        (engineOf u.instr = 1 → holdsLic s c = false →
          Happens (.recordIssue c e) s (engRun c e (setRun c e (some { u with phase := .licence }) (dropResv c x s)))) ∧
        ((engineOf u.instr = 1 → holdsLic s c = true) →
        (holdsResv s c x = true →
          Happens (.recordIssue c e) s (engRun c e (setRun c e (some { u with phase := .issue, held := resvUnits s c x }) s))) ∧
        (holdsResv s c x = false → wantsResv s c x = true → Happens (.recordIssue c e) s (engWait c e .reservation s)) ∧
        (holdsResv s c x = false → wantsResv s c x = false →
        (enabled → n = 0 → Happens (.recordIssue c e) s (at' .issue s)) ∧
        (enabled → n ≠ 0 → Happens (.recordIssue c e) s (engWait c e .reservation (reserve c x n s))) ∧
        (¬enabled → Happens (.recordIssue c e) s (runTrap c e ⟨.powerDenied, r.pcls.val⟩ s))))) ∧
      (u.phase = .issue → u.n < u.total →
        let y := reinject c (streamNo x) s
        ∀ v t, Runs (issueFn u.instr c e u) (if Config.freeBit y.freeCtr 453 then landEng c (streamNo x) y else y) v t →
        Happens (.recordIssue c e) s (engRun c e (setRun c e (some v) t))) ∧
      (u.phase = .complete → u.status = 0 → ∀ v s1 t z, Runs (closeOp c e u) s v s1 →
        let s2 := engRun c e (setRun c e (some v) s1)
        (s2.seqOf c e).defer = [] → (∀ q, v.instr ≠ .seqEnd q) → actLoop c e 3 v s2 = (t, z, none) →
        Happens (.recordCompletion c e) s (leave c e v t)) ∧
      (u.phase = .complete → u.status = 0 → (∀ k f w, doneFn u.instr k f w = pure w) → (∀ q, u.instr ≠ .seqEnd q) →
        r.ssig.val < 32 → r.tpush.val < 8 → r.flag = false → u.flagLoc = none →
        let v := { u with status := 1, held := 0, ans := .none }
        let s2 := engRun c e (setRun c e (some v) (dropResv c x (landEng c (streamNo x) (reinject c (streamNo x) s))))
        (s2.seqOf c e).defer = [] → Happens (.recordCompletion c e) s (leave c e v s2)) ∧
      ∀ q, s.powered = true → (s.cluster k).wants = [q] →
        let fits := heldUnits (s.cluster k) + q.units ≤ (s.cluster k).budget ∧ (s.die (dieOf q.core)).hold = false
        (fits → Happens (.reservationArbitrate k) s (s.setCluster k { s.cluster k with held := (s.cluster k).held ++ [q], wants := [] })) ∧
        (¬fits → Happens (.reservationArbitrate k) s (s.setCluster k (s.cluster k)))

/-! ## Events: the translation unit, lines and memory-side requests, keys, scrubs, reset and power (R6, R15, R38-R42, R91, R95, R96, R100, R101, R429) -/

/-- R38-R42: the commands of the translation unit: a command while one runs is only marked; a malformed one, one whose page is not mapped at its
size, and one whose page is already closing answer their codes; UNMAP clears the leaf's V, MIGRATE_BEGIN and FLUSH_CTX end, once no pin is left
and no access in flight; MIGRATE freezes and releases. Where the unit finds the tables of a context is DEDUCED (notes/assumptions/58.md), and the
model's is that SIZE and VA do not make LT_INVAL or FLUSH_CTX malformed (notes/assumptions/59.md). -/
def Obligations.TranslationCommandsComplete : Prop :=
  ∀ (c : CoreId) (x : Stream) (va : Nat) (op : Fin 16) (s : State), s.powered = true →
    let priv := s.me.priv = true
    let begins := [Instr.unmap, .migrateBegin, .migrateEnd, .migrateAbort, .flushCtx, .ltInval]
    let page := xVa s % 2 ^ sizeBits (xSize s) = 0 ∧ xSize s ≠ 3
    let none' := (closingAt s (xCtx s) (xVa s)).isSome = false
    let there := closingAt s (xCtx s) (xVa s)
    let table := ((ctxRegs s (xCtx s)).map (·.1)).getD 0
    (priv → s.xltBusy = true → ∀ i ∈ begins, Happens i s { s with xltOver := true }) ∧
    (priv → s.xltBusy = true → badOp op.val = true → Happens (.badcmd op) s { s with xltOver := true }) ∧
    (priv → s.xltBusy = false →
      (badOp op.val = true → Happens (.badcmd op) s { s with xltCmd := none, xltBusy := false, xltRes := 4 }) ∧
      (¬page → ∀ i ∈ [Instr.unmap, .migrateBegin, .migrateEnd, .migrateAbort], Happens i s { s with xltCmd := none, xltBusy := false, xltRes := 4 }) ∧
      (page → xLeaf s = none → ∀ i ∈ [Instr.unmap, .migrateBegin], Happens i s { s with xltCmd := none, xltBusy := false, xltRes := 3 }) ∧
      (∀ l, page → xLeaf s = some l → there.isSome = true → ∀ i ∈ [Instr.unmap, .migrateBegin],
        Happens i s { s with xltCmd := none, xltBusy := false, xltRes := 2 }) ∧
      (∀ l, page → xLeaf s = some l → none' →
        Happens .unmap s { s with closing := s.closing ++ [⟨xCtx s, xVa s, xSize s, l.at', false, table⟩], xltBusy := true, xltCmd := some (1, xCtx s) } ∧
        (let p : Closing := ⟨xCtx s, xVa s, xSize s, l.at', true, table⟩;
          (pinnedOver s p = true → Happens .migrateBegin s { s with xltCmd := none, xltBusy := false, xltRes := 1 }) ∧
          (pinnedOver s p = false → Happens .migrateBegin s
            { dropPage p { s with closing := s.closing ++ [p] } with xltBusy := true, xltCmd := some (2, xCtx s) }))) ∧
      (page → (∀ p, there = some p → p.frozen = false ∨ p.size ≠ xSize s) → Happens .migrateAbort s { s with xltCmd := none, xltBusy := false, xltRes := 5 }) ∧
      (∀ p, page → there = some p → p.frozen = true → p.size = xSize s →
        let s1 := { s with closing := s.closing.erase p }
        Happens .migrateAbort s { s1 with xltCmd := none, xltBusy := false, xltRes := 0 } ∧
        (xFrame s % 2 ^ (sizeBits (xSize s) - 16) = 0 → Happens .migrateEnd s
          { storePte p.leaf (setBits (devNat s1 p.leaf 8) 24 40 (xFrame s)) s1 with xltCmd := none, xltBusy := false, xltRes := 0 })) ∧
      (∃ t, Happens .flushCtx s t ∧ t.xltBusy = true ∧ t.xltCmd = some (5, xCtx s) ∧ t.mem = s.mem ∧
        ∀ n, look Tower.reset t.towers n = { s.tower n with
          tcache := (s.tower n).tcache.filter fun e => e.1 / 2 ^ 40 != xCtx s, lcache := (s.tower n).lcache.filter fun e => e.1 / 4096 != xCtx s }) ∧
      (let k := xCtx s * 4096 + xVa s % 4096;
        (look 0 s.pins k ≠ 0 → Happens .ltInval s { s with xltCmd := none, xltBusy := false, xltRes := 1 }) ∧
        (look 0 s.pins k = 0 → ∃ t, Happens .ltInval s t ∧ t.xltRes = 0 ∧ t.mem = s.mem ∧
          ∀ n, look Tower.reset t.towers n = { s.tower n with lcache := del (s.tower n).lcache k }))) ∧
    (∀ p n, s.xltCmd = some (1, n) → s.closing.find? (fun p => !p.frozen) = some p →
      (pinnedOver s p = true → Happens .unmapDone s s) ∧
      (pinnedOver s p = false →
        let s1 := dropPage p (recallPage p s)
        (pageFlying s1 p = true → Happens .unmapDone s s1) ∧
        (pageFlying s1 p = false → Happens .unmapDone s { storePte p.leaf (devNat s1 p.leaf 8 / 2 * 2) { s1 with closing := s1.closing.erase p } with
          xltCmd := none, xltBusy := false, xltRes := 0 }))) ∧
    (∀ p n, s.xltCmd = some (2, n) → beganPage s = some p →
      let s1 := recallPage p s
      (pageFlying s1 p = true → Happens .migrateBeginDone s s1) ∧
      (pageFlying s1 p = false → Happens .migrateBeginDone s { s1 with xltCmd := none, xltBusy := false, xltRes := 0 })) ∧
    (∀ n, s.xltCmd = some (5, n) →
      let busy := (inFlight s).any fun f => f.ctx == n
      (busy = true → Happens .flushCtxDone s s) ∧
      (busy = false → Happens .flushCtxDone s { s with xltCmd := none, xltBusy := false, xltRes := 0 })) ∧
    (let w := whoStream s c x;
      (walk s w.root (va % 2 ^ 56) = none → Happens (.translationWalk c x va) s s) ∧
      (∀ l, walk s w.root (va % 2 ^ 56) = some l → frozenAt s (ctxId w.root) (va % 2 ^ 56) = false →
        Happens (.translationWalk c x va) s (cacheTr s w.tower w.root (va % 2 ^ 56) (l.pte, l.size))))

/-- R15, R91, R96, R100, R101: a line's merge, a memory-side request at its home, a scrub's visit, and a key slot loaded and emptied. R6,
R95, R429: device reset returns every register to its reset value, those of the translation unit, the links and the fabric, the host port, the power
caps, the trace, the debug unit and the replay unit among them, and keeps the safe tier, the checkpoint and the time; losing all power
keeps nothing of the module's, and only power-on ends it, with the time counter at 0. A table with nothing listed stands for the reset value of each
entry; what a byte reads as where nothing is listed is the model's where the spec gives no contents (notes/assumptions/5.md). -/
def Obligations.MemoryUnitResetAndPowerEvents : Prop :=
  (
    ∀ (t : TowerId) (line n unit key : Nat) (level : Fin 7) (k : Fin 8192) (s : State), s.powered = true →
      (repMode s = 0 → Happens (.updateLineMerge t line) s (mergeLine t line s)) ∧
      (s.msa[n]? = none → Happens (.msaApply n) s s) ∧
      (∀ r, s.msa[n]? = some r → repMode s = 0 →
        Happens (.msaApply n) s (r.vals.foldl (mergeElem ⟨r.op, r.tag, r.view, r.vals⟩ r.line) { s with msa := s.msa.eraseIdx n })) ∧
      (let count := fun (l : Nat) (u : State) =>
          let v := (look 0 s.errs level).toNat
          u.errs = put s.errs level (BitVec.ofNat 64 (setBits v l 32 (Nat.min (bitsAt v l 32 + 1) 0xFFFFFFFF)));
        Happens (.patrolScrub level unit .clean) s s ∧
        (∃ u, Happens (.patrolScrub level unit .corrected) s u ∧ count 0 u ∧ u.marks = s.marks ∧ u.mem = s.mem) ∧
        (s.marks.contains (level.val, unit) = false →
          ∃ u, Happens (.patrolScrub level unit .uncorrectable) s u ∧ count 32 u ∧ (level.val, unit) ∈ u.marks ∧ u.mem = s.mem) ∧
        (s.marks.contains (level.val, unit) = true → Happens (.patrolScrub level unit .uncorrectable) s s)) ∧
      (s.keyOut.contains k.val = false → Happens (.keySlotLoad k key) s { s with keys := put s.keys k.val key }) ∧
      (s.keyOut.contains k.val = true → Happens (.keySlotLoad k key) s s) ∧
      (find s.keys k.val = none ∨ s.keyOut.contains k.val = true → Happens (.keySlotUnload k) s s) ∧
      (∀ h, find s.keys k.val = some h → s.keyOut.contains k.val = false →
        let held := (inFlight s).any fun f => f.view.any fun v => some v.1 == some h
        (held = false → Happens (.keySlotUnload k) s { s with keys := del s.keys k.val }) ∧
        (held = true → Happens (.keySlotUnload k) s { s with keyOut := s.keyOut ++ [k.val] }))) ∧
  (
    ∀ s : State, Inv s →
      let kept : State := { State.reset with
        agenda := s.agenda, cur := s.cur, freeCtr := s.freeCtr, outbox := s.outbox, msgNext := s.msgNext }
      (s.powered = true → ∃ t, Happens .deviceReset s t ∧ t = { kept with
          time := s.time, ctxSide := s.ctxSide, ckptImg := s.ckptImg, imgKey := s.imgKey
          mem := t.mem, crypt := t.crypt, marks := t.marks, openMem := t.openMem, ckptStat := t.ckptStat } ∧
        t.powered = true ∧ t.cores = [] ∧ t.pairs = [] ∧ t.towers = [] ∧ t.dies = [] ∧ t.groups = [] ∧ t.keys = [] ∧ t.dmr = 0 ∧
        t.xltArg0 = 0 ∧ t.xltArg1 = 0 ∧ t.xltBusy = false ∧ t.xltRes = 0 ∧ t.xltOver = false ∧ t.xltCmd = none ∧ t.closing = [] ∧
        t.links = [] ∧ t.fbt = [] ∧ t.fabRing = BitVec.ofNat 64 (100 * 2 ^ 36) ∧ t.maxTok = 256 ∧ t.mcg = [] ∧ t.peerCtx = 0 ∧
        t.egrRate = Config.egrRateMax ∧ t.hwinCtl = 0 ∧ t.hostLink = State.reset.hostLink ∧
        t.pwrCap = BitVec.ofNat 64 (Config.avgMax + Config.pkMax * 2 ^ 16) ∧ t.pwrStat = 0 ∧ t.thCtl = BitVec.ofNat 64 (95 + 10 * 2 ^ 8) ∧
        t.trcCtl = 0 ∧ t.dbgCtl = 0 ∧ t.dbgBusy = false ∧ t.dbgRes = 0 ∧ t.dbgData = 0 ∧ t.haltAt = none ∧ t.replay = 0 ∧ t.tsync = 0 ∧ t.errs = [] ∧
        t.ckptStat.toNat % 4 = 0 ∧ ∀ a, memRd t.mem a = if keptAt a then memRd s.mem a else memRd [] a) ∧
      (s.powered = true → ∃ t, Happens .auxPowerLoss s t ∧ t = { kept with mem := t.mem, powered := false } ∧
        ∀ a, memRd t.mem a = if hostBase ≤ a ∧ a < spmBase then memRd s.mem a else memRd [] a) ∧
      (s.powered = false → ∃ t, Happens .powerOn s t ∧ t = { kept with mem := t.mem } ∧ t.powered = true ∧ t.time = 0) ∧
      (s.powered = true → Happens .powerOn s s))

/-! ## Events: the writes of control/status registers (R6, R74, R156, R159, R163, R237, R353, R389-R391, R397, R399, R408, R415, R418, R419, R429, R431, R435, R457) -/

namespace Sys2Proof.Claims

/-- A write that its register's rule takes or refuses with a trap at the writing instruction. -/
def TakenIf (i : Instr) (s : State) (ok : Prop) (t : State) (cause : Cause) : Prop :=
  (ok → Happens i s t) ∧ (¬ok → Happens i s (trapHere ⟨cause, 0⟩ 8 s))

end Sys2Proof.Claims

/-- Registers with rules of their own at supervisor level: what each takes, what it refuses and how; at job level PRIV with the number. That an
event of the table is the write by the executing control core is the model's (notes/assumptions/50.md); that the trace ring's entry is read in the
context of the core that writes TRC_CTL (notes/assumptions/32.md), that REPLAY_CTL tests T in every MODE and a new recording starts with an empty
region, and that TSYNC's LOCKED starts at 0 for a new follower (notes/assumptions/53.md) are DEDUCED. -/
def Obligations.RuledRegisterWritesComplete : Prop :=
  ∀ (v : Word) (s : State), s.powered = true →
    let x := v.toNat
    let d := dieOf s.cc
    let k := s.die d
    let sel := fun n => (look 0 (s.core s.cc).sels n).toNat
    let supervisor := [(Instr.dmrGlobalWrite v, 0x1C5), (.bgDataWrite v, 0x1CD), (.licCtlWrite v, 0x1C9), (.bobKeepWrite v, 0x1E6), (.bobSpillWrite v, 0x1E7),
      (.bobThrWrite v, 0x1E8), (.fabRingWrite v, 0x200), (.gsCtlWrite v, 0x205), (.mcgDataWrite v, 0x20D), (.fbtDataWrite v, 0x20F), (.sltDataWrite v, 0x211),
      (.sltSwap, 0x212), (.egrLimWrite v, 0x21B), (.peerCtxWrite v, 0x21C), (.dvfsCtlWrite v, 0x226), (.pwrCapWrite v, 0x221), (.pclsDataWrite v, 0x224),
      (.thCtlWrite v, 0x229), (.trcCtlWrite v, 0x236), (.replayCtlWrite v, 0x23E), (.tsyncWrite v, 0x234), (.lstartWrite v, 0x1E5), (.cpqDataWrite v, 0x1E1),
      (.mbsDataWrite v, 0x1E3), (.jflushWrite v, 0x106), (.unmap, 0x18A), (.migrateBegin, 0x18A), (.flushCtx, 0x18A), (.ckptStart, 0x230), (.ckptRestore, 0x230)]
    (s.me.priv = false → ∀ e ∈ supervisor, Happens e.1 s (trapHere ⟨.priv, e.2⟩ 8 s)) ∧
    (let slots := bitsAt x 8 10 + 1;
      let bounds := x % 16 ≤ 6 ∧ bitsAt x 4 3 ≤ 4 ∧ bitAt x 7 = false ∧ bitsAt x 18 2 = 0 ∧ bitsAt x 32 31 = 0 ∧ 2 ^ Nat.log2 slots = slots ∧
        2 ^ bitsAt x 4 3 ≤ slots ∧ bitsAt x 20 12 * 1024 % 2 ^ (x % 16 + 10) = 0 ∧ bitsAt x 20 12 * 1024 + slots * 2 ^ (x % 16 + 10) ≤ 2 ^ 22;
      let kept := x % 2 ^ 63 = s.myCore.ttCfg.toNat % 2 ^ 63 ∨ ∀ e ∈ s.myCore.tt, bitAt e.2.toNat 0 = false;
      (bounds → kept → Happens (.ttCfgWrite v) s (s.setMyCore { s.myCore with ttCfg := v })) ∧
      (¬bounds → Happens (.ttCfgWrite v) s (trapHere ⟨.bounds, 0⟩ 8 s)) ∧ (bounds → ¬kept → Happens (.ttCfgWrite v) s (trapHere ⟨.permission, 0⟩ 8 s))) ∧
    (s.me.priv = true →
      (let ok := anyJob s = false ∧ ¬(bitAt x 31 = true ∧ bitAt x 32 = false) ∧ bitsAt x 33 31 = 0;
        (ok → ∃ t, Happens (.dmrGlobalWrite v) s t ∧ t.dmr = v ∧ t.cores = s.cores ∧ t.mem = s.mem ∧ t.groups = s.groups) ∧
        (¬ok → Happens (.dmrGlobalWrite v) s (trapHere ⟨.permission, 0⟩ 8 s))) ∧
      (let n := sel 0x1CC % 64;
        let w := sel 0x1CC / 64 % 32;
        let g := s.group n;
        let g' : Group := if w = 0 then { g with cfg := v } else { g with mask := put g.mask (w - 1) v };
        Happens (.bgDataWrite v) s (s.setGroup n (if g.count = 0 ∧ w ≤ 16 ∧ bitsAt g'.cfg.toNat 17 47 = 0 ∧ gLevel g' ≠ 7 ∧ maskOutside s g' = false ∧
          superBad s g' = false ∧ superTwice s n g' = false then g' else { g with refused := true }))) ∧
      (∃ t, Happens (.licCtlWrite v) s t ∧ (t.pair (pairOf s.cc)).disable = bitAt x 0 ∧ t.mem = s.mem ∧
        (bitAt x 0 = false → t.cores = s.cores) ∧ ∀ c y, (t.str c y).pc = (s.str c y).pc ∧
          (y ≠ .me ∨ (s.core c).licReq = false → (t.str c y).st = (s.str c y).st)) ∧
      (let b := bitsAt x 0 19;
        let n := bitsAt x 19 19;
        TakenIf (.bobKeepWrite v) s (b + n ≤ 2 ^ 19 ∧ (∀ e ∈ s.dies, e.1 = d ∨ rangesMeet b n e.2.keepBase e.2.keepSize = false) ∧
          (b = k.keepBase ∧ n = k.keepSize ∨ ∀ e ∈ k.objs, e.2.goal ≠ .kept)) (s.setDie d { k with keepBase := b, keepSize := n }) .permission) ∧
      (let b := bitsAt x 0 20;
        let n := bitsAt x 20 20;
        TakenIf (.bobSpillWrite v) s (b + n ≤ 2 ^ 20 ∧ (∀ e ∈ s.dies, e.1 = d ∨ rangesMeet b n e.2.spillBase e.2.spillSize = false) ∧
          (b = k.spillBase ∧ n = k.spillSize ∨ ∀ e ∈ k.objs, e.2.goal ≠ .offloaded)) (s.setDie d { k with spillBase := b, spillSize := n }) .permission) ∧
      TakenIf (.bobThrWrite v) s (bitsAt x 0 8 ≤ bitsAt x 8 8 ∧ bitsAt x 8 8 ≤ bitsAt x 16 8) (s.setDie d { k with thr := BitVec.ofNat 64 (bitsAt x 0 24) }) .permission ∧
      TakenIf (.fabRingWrite v) s (anyJob s = false ∧ ¬(bitsAt x 8 8 = 0 ∧ bitAt x 52 = true) ∧ bitsAt x 36 16 ≠ 0 ∧ bitsAt x 53 11 = 0)
        { s with fabRing := v } .permission ∧
      Happens (.gsCtlWrite v) s (if 1 ≤ x % 1024 ∧ x % 1024 ≤ 512 then { s with maxTok := x % 1024 } else s) ∧
      (mcBusy s (sel 0x20C % 64) = false → Happens (.mcgDataWrite v) s { s with mcg := put s.mcg (sel 0x20C % 64 * 16 + sel 0x20C / 64 % 16) v }) ∧
      (mcBusy s (sel 0x20C % 64) = true → Happens (.mcgDataWrite v) s (setRefused s.cc 0x20C s)) ∧
      (let n := sel 0x20E % 64;
        ((s.group n).count = 0 → Happens (.fbtDataWrite v) s
          ((look [] s.gangs n).foldl (fun s y => tryGang n y.id s) { s with fbt := put s.fbt n { fbtOf s n with cfg := v &&& 0x7FFF } })) ∧
        ((s.group n).count ≠ 0 → Happens (.fbtDataWrite v) s (s.setGroup n { s.group n with refused := true }))) ∧
      (let n := sel 0x210;
        Happens (.sltDataWrite v) s (if n / 32 % 2 = s.sltAct ∨ slotBad x = true then s
          else { s with slt := put s.slt (n / 32 % 2 * 8192 + n % 32 * 256 + n / 64 % 256) v })) ∧
      Happens .sltSwap s { s with sltSwap := true } ∧
      TakenIf (.egrLimWrite v) s (1 ≤ x % 32 ∧ x % 32 ≤ Config.egrRateMax) { s with egrRate := x % 32 } .permission ∧
      TakenIf (.peerCtxWrite v) s (bitsAt x 0 11 = 0 ∧ bitsAt x 52 11 = 0) { s with peerCtx := v } .bounds ∧
      TakenIf (.dvfsCtlWrite v) s (x % 16 ≤ 12) (changePoint d (s.setDie d { k with req := x % 16 })) .permission ∧
      TakenIf (.pwrCapWrite v) s (bitsAt x 32 32 = 0 ∧ bitsAt x 0 16 ≤ Config.avgMax ∧ bitsAt x 16 16 ≤ Config.pkMax ∧ bitsAt x 0 16 ≤ bitsAt x 16 16 ∧
        50 ≤ bitsAt x 0 16 ∧ 50 ≤ bitsAt x 16 16) { s with pwrCap := v } .permission ∧
      Happens (.pclsDataWrite v) s { s with pcls := put s.pcls (sel 0x223 % 8) (BitVec.ofNat 64 (x % 2 ^ 25)) } ∧
      TakenIf (.thCtlWrite v) s (bitsAt x 19 45 = 0 ∧ bitsAt x 0 8 < Config.tjMax ∧ bitsAt x 8 4 < Config.dtMax) { s with thCtl := v } .permission ∧
      (let w := whoStream s s.cc .lcc;
        TakenIf (.trcCtlWrite v) s (bitAt (x % 2 ^ 40) 0 = false ∨ ringOk w.ltb (ltEntry s w (bitsAt (x % 2 ^ 40) 12 12)) = true)
          { s with trcCtl := BitVec.ofNat 64 (x % 2 ^ 40), trcWho := (s.cc, s.myCore.ascLtb, s.myCore.ascRoot) } .permission) ∧
      (let y := x % 2 ^ 52;
        let set := { s with replay := BitVec.ofNat 64 y };
        TakenIf (.replayCtlWrite v) s (y % 4 ≠ 3 ∧ 1 ≤ bitsAt y 2 10 ∧ bitsAt y 2 10 ≤ 1000 ∧
          ∀ e ∈ s.dies, rangesMeet (repBase y) (repSize y) e.2.spillBase e.2.spillSize = false)
          (if y % 4 = 1 ∧ repMode s ≠ 1 then { set with repLog := [], repIncs := [], repNext := 0, repAt := s.time } else set) .permission) ∧
      Happens (.tsyncWrite v) s { s with
        tsync := setLocked (tsMaster v || (tsFollower v && tsFollower s.tsync && bitAt s.tsync.toNat 2)) v
        slew := if tsFollower v then s.slew else 0 })

/-- R6, R237: the write of a register without behaviour of its own takes effect at the level that may write it, and raises PRIV with the
number at another; read back, its writable fields hold what was written. R366, R459: ENG_CTL runs the named engines that stand in TRAP
from their restart points; a PC written while VALID discards the restart point, DEDUCED (notes/assumptions/49.md). The events are the writes by the executing
control core (notes/assumptions/50.md). -/
def Obligations.RegisterWriteEventsComplete : Prop :=
  (
    ∀ (n : Fin 4096) (v : Word) (r : Reg) (s : State), s.powered = true → plainReg n.val = true → regOf n.val = some r →
      (s.me.priv = true ∨ r.jobWr = true → ∃ t, writeReg s.cc s.cl n.val v s = .ok t ∧ Happens (.plainRegisterWrite n v) s t ∧ t.mem = s.mem ∧
        (n.val ∈ [0x100, 0x101, 0x102, 0x103, 0x104, 0x110, 0x180, 0x181, 0x188, 0x189, 0x1C2, 0x1D4, 0x1D5, 0x1D8, 0x1D9, 0x1DA, 0x1DB, 0x1DD, 0x1DE,
            0x1DF, 0x20A, 0x219, 0x21A, 0x21D, 0x231, 0x238, 0x23A, 0x23B] →
          readReg s.cc s.cl n.val t = .ok (v &&& BitVec.ofNat 64 r.rw).toNat)) ∧
      (s.me.priv = false → r.jobWr = false → Happens (.plainRegisterWrite n v) s (trapHere ⟨.priv, n.val⟩ 8 s))) ∧
  (
    ∀ (m : Fin 16) (e : Eng) (pc : Fin 262144) (s : State), s.powered = true →
      (s.me.priv = false → Happens (.engCtlResume m) s (trapHere ⟨.priv, 0x107⟩ 8 s) ∧ Happens (.engTrapPcWrite e pc) s (trapHere ⟨.priv, 0x108 + engNo e⟩ 8 s)) ∧
      (s.me.priv = true →
        (∃ t, Happens (.engCtlResume m) s t ∧ t.mem = s.mem ∧ ∀ f ∈ allEng, let x := s.str s.cc (engStream f)
          (bitAt m.val (engNo f) = true → x.st = .trap → x.pstop = false →
            (t.str s.cc (engStream f)).st = .run ∧ (t.str s.cc (engStream f)).pc = x.pc ∧ (t.seqOf s.cc f).tValid = false ∧
            (t.seqOf s.cc f).run = (s.seqOf s.cc f).run) ∧
          (bitAt m.val (engNo f) = false ∨ x.st ≠ .trap ∨ x.pstop = true → t.str s.cc (engStream f) = x ∧ t.seqOf s.cc f = s.seqOf s.cc f)) ∧
        let q := s.seqOf s.cc e
        (q.tValid = false → Happens (.engTrapPcWrite e pc) s (s.setSeqOf s.cc e { q with tPc := pc })) ∧
        (q.tValid = true → ∃ t, Happens (.engTrapPcWrite e pc) s t ∧ t.mem = s.mem ∧ (t.str s.cc (engStream e)).pc = pc ∧
          (t.seqOf s.cc e).tPc = pc ∧ (t.seqOf s.cc e).tBeat = 0xFFE ∧ (t.seqOf s.cc e).run = none ∧ (t.seqOf s.cc e).tValid = true)))

/-! ## Events: starts, command queues, gangs, the microbatch scheduler and the stash policy (R333-R352, R356) -/

namespace Sys2Proof.Claims

/-- An event turns the command processor of tower `t` to queue `q`, from the state `s0`: notices leave the buffer, deferred completions
apply, and where a doorbell stands or the service was held, the packets are served in order (R226, R336, R340-R342); the answers that the command
processor held for its own accesses are then used up. -/
def Serves (ev : Instr) (t q : Nat) (s s0 : State) : Prop :=
  let s1 := takeNotices t q s0
  let spent := fun (u : State) => setQ t q { getQ u t q with ans := .none } u
  (qEnable (getQ s1 t q) = false → Happens ev s s1) ∧
  (qEnable (getQ s1 t q) = true → (getQ s1 t q).hold ≠ .enabling → ∀ s2, Runs (settleQueue t q) s1 () s2 →
    let d := getQ s2 t q
    (d.bell = false → d.hold ≠ .serving → Happens ev s (spent s2)) ∧
    (d.bell = true ∨ d.hold = .serving → ∀ x s3, Runs (serveLoop t q 65536) (setQ t q { d with bell := false, hold := .idle } s2) x s3 →
      Happens ev s (spent (setQ t q { getQ s3 t q with hold := if x = .held then .serving else .idle } s3))))

end Sys2Proof.Claims

/-- R333, R335-R342: LSTART and waiting starts; queue descriptors and their enabling; doorbells and polls serve the queue; a packet whose
leaders have all ended takes its status. R344: a gang's arrivals, its decision passed down and applied, and its two time-outs: a root whose timer has
expired decides ABORT. The order of LSTART's checks is DEDUCED (notes/assumptions/38.md), and so is that the root of a gang is that of its group's
tree (notes/assumptions/65.md). -/
def Obligations.LaunchQueueAndGangEventsComplete : Prop :=
  (
    ∀ (c : CoreId) (l : Leader) (t : TowerId) (q : Fin 64) (n : Nat) (v : Word) (s : State), s.powered = true → s.cc < 1024 →
      let x := v.toNat
      let started := fun (a : Start) (u : State) => let m := u.str a.core (leaderStream a.lead)
        m.st = (if a.gang then .wait else .run) ∧ m.inJob = true ∧ m.job = a.lead ∧ m.pc = a.pc ∧ m.mt = a.mt % 4096 ∧
        (u.ctlOf a.core a.lead).priv = false ∧ (u.ctlOf a.core a.lead).starter = a.starter
      (let lead : Leader := if bitAt x 10 then .ccc else .lcc;
        let busy := (s.str (bitsAt x 0 10) (leaderStream lead)).inJob;
        s.me.priv = true →
        (busy = true → Happens (.lstartWrite v) s (trapHere ⟨.permission, 0⟩ 8 s)) ∧
        (busy = false → bitsAt x 11 18 % 4 ≠ 0 → Happens (.lstartWrite v) s (trapHere ⟨.align, 0⟩ 8 s)) ∧
        (busy = false → bitsAt x 11 18 % 4 = 0 → bitsAt x 41 23 ≠ 0 → Happens (.lstartWrite v) s (trapHere ⟨.bounds, 0⟩ 8 s)) ∧
        (busy = false → bitsAt x 11 18 % 4 = 0 → bitsAt x 41 23 = 0 → ∃ u, Happens (.lstartWrite v) s u ∧
          started ⟨bitsAt x 0 10, lead, bitsAt x 11 18, bitsAt x 29 12, [], none, .none, false, ⟨0, 0, .empty⟩⟩ u ∧
          u.mem = (dropAll (towerOf (bitsAt x 0 10)) (writeBackAll (towerOf s.cc) s)).mem)) ∧
      ((∀ a ∈ s.starts, a.core ≠ c ∨ a.lead ≠ l) → Happens (.leaderStart c l) s s) ∧
      (∀ a, s.starts = [a] → a.core = c → a.lead = l →
        (canStart a s = false → Happens (.leaderStart c l) s s) ∧
        (canStart a s = true → ((∀ j k i, a.starter ≠ .cp j k i) → ∃ u, Happens (.leaderStart c l) s u ∧ started a u ∧ u.starts = [] ∧
            u.mem = (dropAll (towerOf c) s).mem) ∧
          (∀ j k i, a.starter = .cp j k i → (∀ p ∈ (getQ s j k).fly, p.slot = i → p.gang ≠ 4) → ∃ u, Happens (.leaderStart c l) s u ∧
            started a u ∧ u.starts = [] ∧ u.mem = (dropAll (towerOf c) (writeBackAll j s)).mem))) ∧
      (let w := towerOf s.cc;
        let sel := (look 0 (s.core s.cc).sels 0x1E0).toNat;
        let i := sel % 64;
        let k := sel / 64 % 4;
        let d := getQ s w i;
        let on := qEnable d = true;
        let clears := k = 0 ∧ v = d.w0 &&& ~~~1;
        let reserved := k = 0 ∧ (bitsAt x 1 11 ≠ 0 ∨ bitsAt x 54 10 ≠ 0) ∨ k = 3 ∧ bitsAt x 25 39 ≠ 0;
        s.me.priv = true →
        (reserved ∨ (k ≠ 3 ∧ on ∧ ¬clears) → Happens (.cpqDataWrite v) s (setRefused s.cc 0x1E0 s)) ∧
        (¬reserved → k = 0 → ¬on ∨ clears → bitAt x 0 = false →
          Happens (.cpqDataWrite v) s (setQ w i { d with w0 := v, bell := false, hold := .idle } s)) ∧
        (¬reserved → k = 0 → ¬on → bitAt x 0 = true → Happens (.cpqDataWrite v) s (enableQueue w i (setQ w i { d with w0 := v &&& ~~~1 } s))) ∧
        (k = 1 → ¬on → Happens (.cpqDataWrite v) s (setQ w i { d with ltb := v } s)) ∧
        (k = 2 → ¬on → Happens (.cpqDataWrite v) s (setQ w i { d with root := v } s)) ∧
        (¬reserved → k = 3 → Happens (.cpqDataWrite v) s (setQ w i { d with perr := d.perr && !bitAt x 18 } s))) ∧
      let d := getQ s t q
      (qEnable d = true → d.hold ≠ .enabling → Happens (.queueEnable t q) s s) ∧
      (qEnable d = true → d.hold = .enabling → Happens (.queueEnable t q) s (cpAct t q (openQueue t q) s)) ∧
      (qEnable d = false → let s0 := setQ t q { d with w0 := d.w0 ||| 1, hold := .enabling } s
        let d1 := getQ s0 t q
        let w := cpWho t q d1
        (∀ g s1 s2 rix s3, Runs (wordLoc w (qNotify d1) 0 .load) s0 g s1 → homeOf g.flat = t →
          Runs (settleQueue t q) (setQ t q { getQ s1 t q with notify := g.flat } s1) () s2 → Runs (acqWord w (qHdr d1) 1) s2 rix s3 →
          let y := setQ t q { getQ s3 t q with cix := (rix + inFly (getQ s3 t q)) % 2 ^ 64, bell := true, hold := .idle } s3
          Happens (.queueEnable t q) s (setQ t q { getQ y t q with ans := .none } y)) ∧
        (∀ z s1, (wordLoc w (qNotify d1) 0 .load).go s0 = (.error (.trap z), s1) → ∃ u, Happens (.queueEnable t q) s u ∧
          qEnable (getQ u t q) = false ∧ (getQ u t q).perr = true ∧ (getQ u t q).cause = causeCode z.cause % 64)) ∧
      Serves (.doorbell t q) t q s s ∧ Serves (.waitPacketPoll t q) t q s s ∧
      (let ends := fun (p : Pkt) => if p.status = none ∧ p.waiting = [] ∧ p.gang ≠ 1 ∧ p.gang ≠ 4 then
          { p with status := some (if p.gang = 3 then 1 else if p.faulted then 3 else 0) } else p;
        Serves (.packetComplete t q n) t q s (mapPkt t q n ends s))) ∧
  (
    ∀ (g : BgIx) (id src : Nat) (commit : Bool) (s : State), s.powered = true →
      let x := gangOf s g id
      let decided := fun (b : Bool) (u : State) => (look [] u.decided g).getLast? = some (id, b) ∧ u.mem = s.mem ∧
        (look [] u.gangs g).any (fun y => y.id == id) = false
      let f := fbtOf s g
      (fbtV f = true → ∃ u, Happens (.decision g id commit) s u ∧ decided commit u) ∧
      (fbtV f = false → Happens (.decision g id commit) s s) ∧
      (∀ t n, x.start = some t → gangTmo s g id = some n → fbtV f = true → fbtRoot f = true → t + n * 1000 ≤ s.time →
        ∃ u, Happens (.gangRootTimeout g id) s u ∧ decided false u) ∧
      (fbtV f = false ∨ fbtRoot f = false ∨ (∀ t n, x.start = some t → gangTmo s g id = some n → s.time < t + n * 1000) →
        Happens (.gangRootTimeout g id) s s) ∧
      (let late := s.towers.any fun t => t.2.cpq.any fun q => q.2.fly.any fun k =>
          k.gang == 1 && pKindOf k.words == 3 && pGroup k.words == g && pGangId k.words == id && decide (k.sent + (2 * pTmo k.words + 100) * 1000 ≤ s.time);
        (late = false → Happens (.gangMemberTimeout g id) s s) ∧ (late = true → Happens (.gangMemberTimeout g id) s (applyDecision g id false s))) ∧
      (decidedOf s g id = some false → src ≠ moduleInst s → Happens (.prepared g id src) s (emit (.decision src g id false) s)) ∧
      (decidedOf s g id = some false → src = moduleInst s → Happens (.prepared g id src) s (applyDecision g id false s)) ∧
      (decidedOf s g id ≠ some false →
        let y := { x with from' := if x.from'.contains src then x.from' else x.from' ++ [src], start := x.start <|> some s.time }
        let s1 := setGang g y s
        let all := fbtV f = true ∧ y.from'.contains (moduleInst s) = true ∧ fbtChildren f + 1 ≤ y.from'.length
        (¬all → Happens (.prepared g id src) s s1) ∧
        (all → fbtRoot f = false → Happens (.prepared g id src) s (emit (.prepared (fbtParent f) g id) s1)) ∧
        (all → fbtRoot f = true → ∃ u, Happens (.prepared g id src) s u ∧ decided (!gangExpired s1 g id) u)))

/-- R345-R352, R356: the scheduler's registers and its evaluations, the end of a stage's job, and one move of the stash policy. -/
def Obligations.SchedulerEventsComplete : Prop :=
  ∀ (v : Word) (st : Fin 16) (cls : Fin 3) (tag : Fin 4096) (dd : DieId) (s : State), s.powered = true →
    let x := v.toNat
    let sel := (look 0 (s.core s.cc).sels 0x1E2).toNat
    let ix := sel / 4 % 64
    let w := sel / 256 % 8
    let refused := Happens (.mbsDataWrite v) s (setRefused s.cc 0x1E2 s)
    (s.me.priv = true →
      (sel % 4 = 3 → refused) ∧
      (sel % 4 = 1 → (w ≠ 0 ∨ ruleBad x = true → refused) ∧ (w = 0 → ruleBad x = false → Happens (.mbsDataWrite v) s { s with rules := put s.rules ix v })) ∧
      (sel % 4 = 0 → let g := stageOf s ix
        (16 ≤ ix ∨ 5 < w ∨ stReserved w x = true → refused) ∧
        (ix < 16 → w = 5 → stReserved 5 x = false → Happens (.mbsDataWrite v) s s) ∧
        (ix < 16 → 1 ≤ w → w ≤ 4 → stReserved w x = false → stEnable g = false → Happens (.mbsDataWrite v) s (setStage ix { g with w := put g.w w v } s)) ∧
        (ix < 16 → w ≤ 4 → stReserved w x = false → stEnable g = true → ¬(w = 0 ∧ v = look 0 g.w 0 &&& ~~~1) → refused) ∧
        (ix < 16 → w = 0 → stReserved 0 x = false → stEnable g = false → bitAt x 0 = true →
          let g' : Stage := { g with w := put g.w 0 v }
          (stBadEnable g' = true → refused) ∧ (stBadEnable g' = false → Happens (.mbsDataWrite v) s (setStage ix { g' with lastF := none } s)))) ∧
      (sel % 4 = 2 → ix < 32 → w = 1 → bitsAt x 44 20 = 0 → chEnable (chanOf s ix) = false →
        Happens (.mbsDataWrite v) s (setChan ix { chanOf s ix with w1 := v } s))) ∧
    (let k := bitsAt x 14 4;
      let g := stageOf s k;
      let ok := (stQueue g (bitsAt x 12 2)).length < 256 ∧ bitsAt x 0 12 ≠ 0xFFF ∧ bitsAt x 12 2 ≠ 3 ∧ stEnable g = true ∧ bitsAt x 18 46 = 0;
      (ok → ∃ u p, Happens (.mbsEnqWrite v) s u ∧ u.mem = (writeBackAll (towerOf s.cc) s).mem ∧
        stQueue (stageOf u k) (bitsAt x 12 2) = stQueue g (bitsAt x 12 2) ++ [⟨bitsAt x 0 12, s.time, none, p⟩]) ∧
      (¬ok → Happens (.mbsEnqWrite v) s (trapHere ⟨.permission, 0⟩ 8 s))) ∧
    (stageOfCtl s.me = none → Happens (.mbsVerWrite v) s (trapHere ⟨.permission, 0⟩ 8 s)) ∧
    (∀ k, stageOfCtl s.me = some k → let g := stageOf s k
      let ready := bitsAt x 0 8
      let newest := bitsAt x 16 3
      TakenIf (.mbsVerWrite v) s ((∀ j < 8, bitAt g.ready j = true → bitAt ready j = false → bitAt (stInuse g) j = false) ∧
        bitAt ready newest = true ∧ ready < 2 ^ stNver g ∧ newest < stNver g) (setStage k { g with ready := ready, newest := newest } s) .permission) ∧
    (agedHeads s = [] → (∀ n < 64, bitAt (look 0 s.rules n).toNat 0 = false) → Happens .mbsEvaluate s s) ∧
    (∀ n k c, agedHeads s = [] → n < 64 → let r := (look 0 s.rules n).toNat
      bitAt r 0 = true → bitsAt r 1 4 = k → bitsAt r 5 2 = c → c ≠ 3 → (∀ j < 64, j ≠ n → bitAt (look 0 s.rules j).toNat 0 = false) →
      (ruleHolds s r k = true → slotFree s k c = true → Happens .mbsEvaluate s (mbsStart k c s)) ∧
      (ruleHolds s r k = false ∨ slotFree s k c = false → Happens .mbsEvaluate s s)) ∧
    (let g := stageOf s st;
      let job := g.jobs.find? fun j => j.cls == cls.val && j.tag == tag.val && j.left.isEmpty;
      (job = none → Happens (.mbsJobEnd st cls tag) s s) ∧
      (∀ j, job = some j → j.chan = none → (stAutoW g = false ∨ cls ≠ 1) → Happens (.mbsJobEnd st cls tag) s (setStage st { g with
        jobs := g.jobs.erase j, binds := if (cls = 2 ∧ stAutoW g = true) ∨ (cls = 1 ∧ stAutoW g = false) then del g.binds tag else g.binds } s))) ∧
    (bobLevel (s.die dd) ≠ 3 → Happens (.bobbinOffload dd) s s) ∧
    (bobLevel (s.die dd) = 3 → firstMover (s.die dd).objs = none → Happens (.bobbinOffload dd) s s) ∧
    (∀ k o, bobLevel (s.die dd) = 3 → firstMover (s.die dd).objs = some (k, o) →
      (spillRoom (s.die dd) o.len = true → Happens (.bobbinOffload dd) s (offload dd k s)) ∧
      (spillRoom (s.die dd) o.len = false → Happens (.bobbinOffload dd) s s))

/-! ## Events: engine traps, pre-emption, time-outs, flushes (R366-R376) -/

/-- R361, R366, R375, R376, R408: of the engine traps that pend, the one of the lowest stream number reaches its leader at a boundary, and none
does in a clock transition; a wait that has lasted its limit traps unless what it awaits is there; a flush ends the job of a leader. R367-R372: a
stop ends every wait at an instruction or issue boundary and keeps every PC, but for the `lic.acq` or `lic.rel` that the licence's change under way
completes; it is over once what was sent has performed and been answered, and then it releases the reservations and suspends the message slots
(R410, R330); a notice marks the leaders in a job; a resume lets the streams go on where they stood and asks for the licence that was held; dumped
results return when the engine may issue. What becomes of the licence at a stop and of a resume's standing request, and when a
flush ends, is DEDUCED (notes/assumptions/52.md), and so is that PSTOP stands from the stop edge and a stream stopped in WAIT goes on in RUN
(notes/assumptions/48.md). -/
def Obligations.TrapDeliveryAndPreemptionEventsComplete : Prop :=
  (
    ∀ (c : CoreId) (l : Leader) (x : Stream) (v : Word) (s : State), s.powered = true →
      let k := s.ctlOf c l
      let m := s.str c (leaderStream l)
      let open' := k.inTrap = false ∧ m.st ≠ .idle ∧ m.st ≠ .halt ∧ m.pstop = false ∧ (s.die (dieOf c)).busy = false
      (k.pendEng = [] ∨ (¬open' ∧ k.pendDiv = none) → Happens (.engineTrapDeliver c l) s s) ∧
      (∀ n, k.pendEng ≠ [] → k.inTrap = true → k.pendDiv = some n → m.st ≠ .idle → m.st ≠ .halt → m.pstop = false →
        (s.die (dieOf c)).busy = false → k.inh = true →
        ∃ t, Happens (.engineTrapDeliver c l) s t ∧ t.mem = s.mem ∧ (t.ctlOf c l).pendDiv = none ∧ (t.str c (leaderStream l)).st = .halt) ∧
      (∀ n, open' → k.pendGang = none → k.pendDiv = none → least k.pendEng = some n → k.inh = false →
        let q := s.seqOf c (streamEng (streamOf n))
        ∃ t, Happens (.engineTrapDeliver c l) s t ∧ t.mem = s.mem ∧ (t.ctlOf c l).tpc = BitVec.ofNat 64 (m.pc % 2 ^ 18) ∧
          (t.ctlOf c l).tcause = BitVec.ofNat 64 (causeCode (causeOf q.tCause) + n * 2 ^ 7 + 2 ^ 10) ∧ (t.ctlOf c l).tinfo = q.tInfo ∧
          (t.ctlOf c l).ppriv = k.priv ∧ (t.ctlOf c l).priv = true ∧ (t.ctlOf c l).inh = true ∧ (t.ctlOf c l).pendEng = k.pendEng.erase n ∧
          (t.str c (leaderStream l)).st = .trap ∧ (t.str c (leaderStream l)).pc = k.tvec.toNat / 4 % 2 ^ 16 * 4) ∧
      (let y := s.str c x
        let lim := (s.core c).qtmo
        let due := y.st = .wait ∧ canRun (focus c x s) = true ∧ lim ≠ 0 ∧ y.since + lim * 1000 ≤ s.time
        (timeoutInfo y.wait = none ∨ ¬due → Happens (.queueTimeout c x) s s) ∧
        ∀ n, timeoutInfo y.wait = some n → due →
          let t := redoStr c x (fun _ => true) redoTimed s
          let w := t.str c x
          let still := w.st = .wait ∧ w.wait = y.wait ∧ w.since = y.since
          (¬still → Happens (.queueTimeout c x) s t) ∧
          (still → isCtl x = true → Happens (.queueTimeout c x) s { trapHere ⟨.queueTimeout, n⟩ 4 { s with cur := (c.val, x) } with cur := s.cur }) ∧
          (still → isCtl x = false → Happens (.queueTimeout c x) s (runTrap c (streamEng x) ⟨.queueTimeout, n⟩ s))) ∧
      (let w := v.toNat
        let j := bitsAt w 0 10
        let lead : Leader := if bitAt w 10 then .ccc else .lcc
        let inJob := (s.str j (leaderStream lead)).inJob = true
        s.me.priv = true →
        (bitsAt w 11 53 ≠ 0 → Happens (.jflushWrite v) s (trapHere ⟨.bounds, 0⟩ 8 s)) ∧
        (bitsAt w 11 53 = 0 → ¬inJob → Happens (.jflushWrite v) s (trapHere ⟨.permission, 0⟩ 8 s)) ∧
        (bitsAt w 11 53 = 0 → inJob → s.jflush = [] → s.sent = [] → s.msa = [] → ∃ t, Happens (.jflushWrite v) s t ∧
          (t.str j (leaderStream lead)).st = .idle ∧ (t.str j (leaderStream lead)).inJob = false ∧ (t.str j (leaderStream lead)).mt = 0xFFF ∧ t.jflush = []))) ∧
  (
    ∀ (c : CoreId) (s : State), s.powered = true →
      let k := s.core c
      let stops := fun (x : Stream) => let m := s.str c x; m.st ≠ .idle ∧ m.st ≠ .halt ∧ m.pstop = false
      let me := (s.pair (pairOf c)).who = levelOf c
      (ckptOwns s c = true → Happens (.preemptStop c) s s ∧ Happens (.preemptResume c) s s) ∧
      (ckptOwns s c = false → (k.busy = true ∨ (∀ x, ¬stops x)) → Happens (.preemptStop c) s s) ∧
      (∀ y, ckptOwns s c = false → k.busy = false → stops y → stopWaits s c = true → Happens (.preemptStop c) s (s.setCore c { k with stopReq := true })) ∧
      (∀ y, ckptOwns s c = false → k.busy = false → stops y → stopWaits s c = false → (me → (s.pair (pairOf c)).lic ≠ .handover ∧ (s.pair (pairOf c)).lic ≠ .releasing) →
        ∃ t, Happens (.preemptStop c) s t ∧ (t.core c).busy = true ∧ (t.core c).saved = false ∧
          (∀ r ∈ (t.core c).flight, r.stream < 2 ∨ 5 < r.stream) ∧
          ((t.core c).licHeld = true ↔ (me ∧ (s.pair (pairOf c)).lic = .held) ∨ k.licReq = true) ∧
          ∀ x, (t.str c x).pc = (s.str c x).pc ∧ (stops x → (t.str c x).pstop = true ∧ (t.str c x).wait = .none ∧ (t.str c x).st ≠ .wait) ∧
            (¬stops x → (s.str c x).st ≠ .wait → k.licReq = false →
              (isCtl x = true ∨ ∀ u, (s.seqOf c (streamEng x)).run = some u → u.phase ≠ .read) → t.str c x = s.str c x)) ∧
      (∀ y, ckptOwns s c = false → k.busy = false → stops y → stopWaits s c = false → me →
        (s.pair (pairOf c)).lic = .handover ∨ (s.pair (pairOf c)).lic = .releasing →
        ∃ t, Happens (.preemptStop c) s t ∧ (t.core c).busy = true ∧ (t.core c).saved = false ∧
          ((t.core c).licHeld = true ↔ (s.pair (pairOf c)).lic = .handover) ∧ ∀ x, stops x → (t.str c x).wait = .none) ∧
      (let sent := coreSent s c = true ∨ ∃ r ∈ s.msa, r.core = c.val;
        let mine := fun (t : State) (r : Resv) => (r ∈ (t.cluster (clusterOf c)).held ∨ r ∈ (t.cluster (clusterOf c)).wants) ∧ r.core = c ∧
          ∃ e ∈ allEng, r.stream = streamNo (engStream e)
        let used := fun (x : Slot) => (x.st = .announced ∨ x.st = .sending) ∧ x.susp = false
        (k.busy = true → ¬sent → (∀ e, (s.seqOf c e).run = none) → (∀ e ∈ k.slots, ¬used e.2) → (∀ r, ¬mine s r) →
          Happens (.preemptStopDone c) s (s.setCore c { k with busy := false })) ∧
        (k.busy = true → ¬sent → (∀ e u, (s.seqOf c e).run = some u → u.drains = false) →
          ∃ t, Happens (.preemptStopDone c) s t ∧ t.mem = s.mem ∧ (t.core c).busy = false ∧ (∀ x, t.str c x = s.str c x) ∧ (∀ r, ¬mine t r) ∧
            ∀ n, used (slotOf s c n) → (slotOf t c n).susp = true ∧ (slotOf t c n).tokens = []) ∧
        (k.busy = false ∨ sent → Happens (.preemptStopDone c) s s)) ∧
      (∃ t, Happens (.preemptNotify c) s t ∧ t.mem = s.mem ∧ ∀ l, t.ctlOf c l = if (s.str c (leaderStream l)).inJob then { s.ctlOf c l with pendPre := true } else s.ctlOf c l) ∧
      (k.busy = true → Happens (.preemptResume c) s s) ∧
      (ckptOwns s c = false → k.busy = false → (∃ e ∈ k.strm, e.2.pstop = true) → ∃ t, Happens (.preemptResume c) s t ∧ t.mem = s.mem ∧
        (t.core c).licHeld = false ∧ (t.core c).saved = false ∧
        let p := s.pair (pairOf c)
        (k.licHeld = true → p.lic ≠ .disabled → (p.lic ≠ .free ∨ p.disable = false) →
          (t.core c).licReq = true ∧ levelOf c ∈ (t.pair (pairOf c)).want) ∧
        ∀ x, (t.str c x).pstop = false ∧ (t.str c x).pc = (s.str c x).pc ∧
          (k.licHeld = false ∨ p.lic ≠ .free ∨ p.disable = false → (t.str c x).st = (s.str c x).st)) ∧
      (let may := fun (e : Eng) => ∃ u, (s.seqOf c e).run = some u ∧ u.phase = .issue ∧ canRun (focus c (engStream e) s) = true;
        ((s.seqOf c .ve).run = none → may .me → holdsLic s c = true → Happens (.dumpReinject c) s (reinject c 2 s)) ∧
        ((s.seqOf c .me).run = none → may .ve → Happens (.dumpReinject c) s (reinject c 3 s)) ∧
        ((s.seqOf c .me).run = none → (s.seqOf c .ve).run = none → Happens (.dumpReinject c) s s)))

/-! ## Events: what comes from other modules (R137, R316-R325, R385-R388) -/

namespace Sys2Proof.Claims

/-- What becomes of an arrival `h`, tried at `s`: it performs and is acknowledged, or is acknowledged with the cause of the check that fails,
or waits. `quiet`: nobody awaits an acknowledgement. -/
def Arrives (i : Instr) (m : RemoteAcc) (h : Held) (quiet : Bool) (f : M Unit) (s s0 : State) : Prop :=
  let tells := fun (st : Nat) (t : State) => if quiet then t else emit (.ack m.sender m.id st false) t
  (∀ t, Runs f s0 () t → Happens i s (tells 0 t)) ∧
  (∀ z t, f.go s0 = (.error (.trap z), t) → Happens i s (tells (causeCode z.cause) t)) ∧
  (∀ w t, f.go s0 = (.error (.wait w), t) → Happens i s { s0 with held := s0.held ++ [(s0.peerCtx, h)] })

/-- What becomes of a plain write `m` of module `sender` that arrives in `h`, tried at `s0`: all of it is checked first; its first element then
performs apart from the others (R105), and with the last the write is acknowledged. -/
def WriteLands (i : Instr) (m : RemoteAcc) (sender : Nat) (h : Held) (s s0 : State) : Prop :=
  (∀ els t, Runs (writeChecks m) s0 els t →
    (els = [] → Happens i s (emit (.ack sender m.id 0 false) t)) ∧
    (∀ l x rest u, els = (l, x) :: rest → Runs (landElem sender l x) t () u →
      (rest = [] → Happens i s (emit (.ack sender m.id 0 false) u)) ∧
      (rest ≠ [] → Happens i s { u with held := u.held ++ [(u.peerCtx, .landing sender rest [(m.id, 0)])] }))) ∧
  (∀ z t, (writeChecks m).go s0 = (.error (.trap z), t) → Happens i s (emit (.ack m.sender m.id (causeCode z.cause) false) t)) ∧
  (∀ w t, (writeChecks m).go s0 = (.error (.wait w), t) → Happens i s { s0 with held := s0.held ++ [(s0.peerCtx, h)] })

end Sys2Proof.Claims

/-- R137, R316, R318, R385: remote accesses are performed and acknowledged, in the order of their channel; a plain write lands element by
element (R105); acknowledgements answer the access that waits, a busy announcement is due again in 2 us, and an access or an announcement not
answered within 100 us is orphaned. R318-R320, R325, R385-R388: the sender's slots and tokens, the receiver's intents, grants and chunks; a
chunk's header is noted as it arrives, and with its last flit its token is outstanding no more. What the messages carry is a DESIGN CHOICE
(notes/assumptions/15.md, notes/assumptions/27.md). -/
def Obligations.RemoteAndBulkMessageEventsComplete : Prop :=
  (
    ∀ (m : RemoteAcc) (op : Fin 16) (x y : Word) (id : Nat) (a : AckInfo) (st : Nat) (s : State), s.powered = true →
      let clear := ∀ h ∈ s.held, h.2.sender ≠ m.sender
      let s0 := prefixFlit m s
      (repMode s = 0 → ¬clear → Happens (.remoteWrite m) s { s0 with held := s0.held ++ [(s0.peerCtx, .write m)] } ∧
        Happens (.remoteAtomic m op x y) s { s with held := s.held ++ [(s.peerCtx, .atomic m op x y)] }) ∧
      (repMode s = 0 → clear → m.release = true → Arrives (.remoteWrite m) m (.write m) false (performRelWrite m) s s0) ∧
      (repMode s = 0 → clear → m.release = false → WriteLands (.remoteWrite m) m m.sender (.write m) s s0) ∧
      (repMode s = 0 → clear → m.space ≠ 8 →
        Arrives (.remoteAtomic m op x y) m (.atomic m op x y) m.msg.isSome (performAtomic m op x y) s s) ∧
      (repMode s = 0 → clear → m.space = 8 → s.mbsHeld = [] →
        ∀ t, Runs (addCredit (m.va % 32) m.sender) { s with mbsHeld := [.credit (m.va % 32) m.sender m.id] } () t →
          Happens (.remoteAtomic m op x y) s { emit (.ack m.sender m.id 0 false) t with mbsAns := .none, mbsHeld := [] }) ∧
      (s.dbgWait = none → a.code ≠ 0x7F → Happens (.ack id a) s (settle' id a.code (noted id s))) ∧
      (s.dbgWait = none → a.code = 0x7F → ∃ t, Happens (.ack id a) s t ∧ t.mem = s.mem ∧ ∀ c k, slotOf t c k =
        match (slotOf s c k).ids.find? fun e => e.1 == id with
        | some e => { slotOf s c k with ids := (slotOf s c k).ids.erase e, resend := (slotOf s c k).resend ++ [(e.2.1, s.time + 2000)] }
        | none => slotOf s c k) ∧
      (let u := orphanIntent id { s with mbsSent := s.mbsSent.filter fun q => !(q.1 == id && decide (q.2.2 + 100000 ≤ s.time)) };
        ((∀ r ∈ s.sent, r.id = id → s.time < r.since + 100000) → Happens (.remoteOrphan id) s u) ∧
        (∀ r, r ∈ s.sent → r.id = id → r.since + 100000 ≤ s.time → Happens (.remoteOrphan id) s (settle' id 0x10 u)) ∧
        u.mem = s.mem ∧ u.sent = s.sent ∧ ∀ c k, slotOf u c k =
          let x := slotOf s c k
          if x.ids.any fun e => e.1 == id && decide (e.2.2 + 100000 ≤ s.time) then { x with st := .withdrawn, tokens := [], resend := [], ids := [] } else x) ∧
      (∀ r q got, s.sent.find? (fun r => r.id == id) = some r → isCtl (streamOf r.stream) = true →
        (s.ctlOf r.core (streamLeader (streamOf r.stream))).ans = .asked q got → q.id = id →
        (settle' id st s).sent = s.sent.filter (fun q => q.id != id) ∧ ((settle' id st s).ctlOf r.core (streamLeader (streamOf r.stream))).ans = .remote st)) ∧
  (
    ∀ (c : CoreId) (k : Fin 18) (src ep n ex : Nat) (i : MsgId) (info : IntentInfo) (p : ChunkInfo) (ns : List Nat) (s : State), s.powered = true →
      let x := slotOf s c k
      let due := x.resend.filter fun r => decide (r.2 ≤ s.time)
      let live := slotLive x x.epoch = true ∧ x.susp = false
      (live → Happens (.intentResend c k) s (sendIntents c k (due.map (·.1)) (setSlot c k { x with resend := x.resend.filter fun r => !decide (r.2 ≤ s.time) } s))) ∧
      (¬live → Happens (.intentResend c k) s s) ∧
      (let takes := slotLive x ep = true ∧ x.susp = false ∧ x.mods.contains src = true;
        (takes → Happens (.grant c k src ep n ex) s (setSlot c k { x with tokens := x.tokens ++ [⟨src, n, ex⟩] } s)) ∧
        (¬takes → Happens (.grant c k src ep n ex) s s)) ∧
      Happens (.tokenExpiry c k src n) s (setSlot c k { x with tokens := x.tokens.filter fun t => !(t.src == src && t.n == n && decide (t.ex ≤ s.time)) } s) ∧
      (slotLive x ep = true → Happens (.withdraw c k ep) s (setSlot c k { x with st := .withdrawn, tokens := [], resend := [] } s)) ∧
      (slotLive x ep = false → Happens (.withdraw c k ep) s s) ∧
      (let y := intentAt s i;
        let tells := fun (st : Nat) (t : State) => emit (.ack i.sender info.num st info.coll) t
        let ns := announced info
        (∀ z, y = some z → Happens (.intent i info) s (tells 0 (closeIntent i
          (mapIntent i (fun x => { x with
            susp := false, prio := info.prio, bucket := info.bucket, lost := 0, last := s.time, got := x.got.filter fun k => !ns.contains k
            wanted := ns.filter fun k => !(x.tokens.any fun t => t.1 == k) })
            { s with begun := s.begun.filter fun b => !(b.1 == i && ns.contains b.2) })))) ∧
        (y = none → 8192 ≤ s.intents.length → Happens (.intent i info) s (tells 0x7F s)) ∧
        (y = none → s.intents.length < 8192 →
          let s1 := if info.start = 0 then { s with begun := s.begun.filter fun b => b.1 != i, collIn := s.collIn.filter fun b => b.1 != i } else s
          (info.len ≤ info.pfx → Happens (.intent i info) s (tells 0 s1)) ∧
          (info.pfx < info.len → ∃ z, Happens (.intent i info) s (tells 0 { s1 with intents := s1.intents ++ [z] }) ∧ z.id = i ∧ z.len = info.len - info.pfx ∧
            z.prio = info.prio ∧ z.bucket = info.bucket ∧ (info.start = 0 → z.wanted = List.range ((info.len - info.pfx + 65535) / 65536)) ∧ z.tokens = [] ∧
            z.susp = false ∧ z.got = [] ∧ z.lost = 0 ∧ z.coll = info.coll ∧ z.flag = info.flag)) ∧
        (s.maxTok ≤ outst s ∨ nextGrant s = none → Happens .grantSchedule s s) ∧
        (∀ z w rest, repMode s = 0 → outst s < s.maxTok → nextGrant s = some z → z.wanted = w :: rest →
          let ex := s.time + 20000
          let s1 := (mapIntent z.id (fun y => { y with wanted := rest, tokens := y.tokens ++ [(w, ex)], last := if y.tokens.isEmpty then s.time else y.last }) s).noteOpen 0x3FD0 8
          let s2 := emit (.grant z.id w ex) { s1 with lastM := z.id.sender % 1024 }
          Happens .grantSchedule s (grantLoop (s.maxTok - 1) s2) ∧ (s2.maxTok ≤ outst s2 ∨ nextGrant s2 = none → Happens .grantSchedule s s2)) ∧
        Happens (.returnTok i n) s (mapIntent i (fun x => x.untake [n]) s) ∧
        Happens (.suspend i ns) s (mapIntent i (fun x => { x.untake ns with susp := true }) s) ∧
        Happens (.cancel i) s (dropIntent i s) ∧
        (y = none → Happens (.tokenAbandon i n) s s ∧ Happens (.messageWithdraw i) s s) ∧
        ∀ z, y = some z →
          (let late := z.tokens.any fun t => t.1 == n && !z.got.contains n && decide (t.2 + 10000 ≤ s.time);
            (late = true → Happens (.tokenAbandon i n) s (mapIntent i (fun y => { y.untake [n] with lost := y.lost + 1 }) s)) ∧
            (late = false → Happens (.tokenAbandon i n) s s)) ∧
          (let gives := z.susp = false ∧ (8 ≤ z.lost ∨ (z.tokens ≠ [] ∧ z.last + 100000 ≤ s.time));
            let u := emit (.withdraw i z.coll) { dropBegun i (dropIntent i s) with wdraw := Nat.min (s.wdraw + 1) 0xFFFFFFFF };
            (gives → (z.flag = none ∨ z.coll = false) → Happens (.messageWithdraw i) s u) ∧
            (∀ m, gives → z.flag = some m → z.coll = true →
              Happens (.messageWithdraw i) s { u with held := u.held ++ [(u.peerCtx, .atomic { m with msg := some (i.slot, i.epoch) } 2 1 0)] }) ∧
            (¬gives → Happens (.messageWithdraw i) s s))) ∧
      (let clear := ∀ h ∈ s.held, h.2.sender ≠ i.sender;
        let s0 := noteHeader i n p.last s;
        repMode s = 0 →
        (headerOk i n s = false → Happens (.chunkArrive i n p) s (p.writes.foldl (fun s m => emit (.ack m.sender m.id 0x10 p.coll.isSome) s) s)) ∧
        (headerOk i n s = true → ¬clear → Happens (.chunkArrive i n p) s { s0 with held := s0.held ++ [(s0.peerCtx, .chunk i n p)] }) ∧
        (∀ m, headerOk i n s = true → clear → p.writes = [m] → p.coll = none → WriteLands (.chunkArrive i n p) m i.sender (.chunk i n p) s s0) ∧
        (∀ m q ls s1 s2, headerOk i n s = true → clear → p.writes = [m] → p.coll = some q → p.last = true → collSending s0 (q.chunk % 4096) = false →
          s0.collIn = [] → Runs (whole (collLocs m)) s0 ls s1 → Runs (collApply q [(s0.peerCtx, m)]) s0 () s2 →
          Happens (.chunkArrive i n p) s (emit (.ack m.sender m.id 0 true) s2))))

/-! ## Events: the barrier tree, the ring vote, links and slot tables (R382, R390-R398) -/

/-- R164, R328, R390-R392: a child's arrival counts once and completes or passes up a generation that is complete below; COMPLETE comes down for the
generation sent up; votes go round the ring to its root, and a result or a time-out ends the vote. -/
def Obligations.TreeAndVoteEventsComplete : Prop :=
  ∀ (g : BgIx) (src gen step mask : Nat) (d : VoteDecision) (v : VoteInfo) (s : State), s.powered = true →
    let f := fbtOf s g
    let f' := { f with arrived := if f.arrived.contains src then f.arrived else f.arrived ++ [src] }
    let s0 := treeEdge g src s
    let s1 := { s0 with fbt := put s0.fbt g f' }
    let b := s.group g
    let below := gEnable b = true ∧ b.count = gMembers b
    let ready := below ∧ 5 ≤ gLevel b ∧ fbtV f = true ∧ fbtChildren f ≤ f'.arrived.length
    let completed := fun (t : State) => (t.group g).gen = (b.gen + 1) % 2 ^ 32 ∧ (t.group g).count = 0 ∧ (t.group g).sentUp = false ∧ t.mem = s.mem
    (¬below → Happens (.arrive g src) s s1) ∧
    (below → 5 ≤ gLevel b → ¬ready → Happens (.arrive g src) s s1) ∧
    (ready → fbtRoot f = true → ∃ t, Happens (.arrive g src) s t ∧ completed t ∧ (fbtOf t g).arrived = []) ∧
    (ready → fbtRoot f = false → b.sentUp = false →
      Happens (.arrive g src) s (emit (.arrive (fbtParent f) g b.gen) (s1.setGroup g { s1.group g with sentUp := true }))) ∧
    (ready → fbtRoot f = false → b.sentUp = true → Happens (.arrive g src) s s1) ∧
    (let mine := fbtV f = true ∧ b.gen = gen ∧ b.sentUp = true;
      (mine → ∃ t, Happens (.complete g gen) s t ∧ completed t ∧ (fbtOf t g).arrived = []) ∧ (¬mine → Happens (.complete g gen) s s)) ∧
    (ringV s = false → Happens (.vote v) s s ∧ Happens (.result step d mask) s s) ∧
    (ringV s = true → s.voting = none →
      let passed := if v.pos = (ringPos s + 1) % ringSize s then s else emit (.vote (ringSucc s) v) s
      (ringPos s ≠ 0 → Happens (.vote v) s passed) ∧
      (ringPos s = 0 → Happens (.vote v) s
        (if s.votes.any (fun w => w.pos == v.pos && w.step == v.step) then passed else { passed with votes := passed.votes ++ [v] })) ∧
      Happens (.result step d mask) s (if (ringPos s + 1) % ringSize s = 0 ∨ ringPos s = 0 then s else emit (.result (ringSucc s) step d mask) s)) ∧
    (s.voting = none → Happens .voteRootTimeout s s ∧ Happens .voteResultTimeout s s) ∧
    ∀ c x n at', s.voting = some (c, x, n, at') →
      let ended := fun (t : State) (r : VoteDecision) (m : Nat) => t.voting = none ∧ t.voteRes = put s.voteRes (c * 8 + x) (n, r, m) ∧ t.mem = s.mem
      (ringV s = true → n = step → ∃ t, Happens (.result step d mask) s t ∧ ended t d mask) ∧
      (ringPos s = 0 → at' + ringTmo s * 1000 ≤ s.time → ∃ t, Happens .voteRootTimeout s t ∧ ended t .missing 0) ∧
      (ringPos s ≠ 0 ∨ s.time < at' + ringTmo s * 1000 → Happens .voteRootTimeout s s) ∧
      (at' + 2 * ringTmo s * 1000 ≤ s.time → Happens .voteResultTimeout s { s with voting := none, voteRes := put s.voteRes (c * 8 + x) (n, .missing, 0) }) ∧
      (s.time < at' + 2 * ringTmo s * 1000 → Happens .voteResultTimeout s s)

/-- R382, R393-R395, R397, R398: replays, trainings and lane samples of a link, the agreement on a swap of a weak lane, and the change of slot banks.
Whether a replay is in a row, and whether a proposed count is still ahead, are free values (notes/assumptions/7.md, 30.md). -/
def Obligations.LinkAndSlotEventsComplete : Prop :=
  ∀ (l : Fin 16) (n : Fin 9) (good : Fin 10) (q cerr margin : Nat) (s : State), s.powered = true →
    let k := linkOf s l
    let becomes := fun (i : Instr) (k' : Link) => Happens i s (setLink l k' s)
    let again := fun (i : Instr) (j : Nat) =>
      Happens i s (emit (.lanePropose l j (Config.freeNat s.freeCtr (200 + l))) (setLink l { k with propose := some (j, s.time) } s))
    (let r := if Config.freeBit s.freeCtr l then k.replays + 1 else 1;
      (16 ≤ r → becomes (.flitCrcFail l) { k with replays := 0, st := 1 }) ∧ (r < 16 → becomes (.flitCrcFail l) { k with replays := r })) ∧
    (let up := Nat.min good.val (goodLanes k);
      (k.st = 0 → k.retrain = 0 → 8 ≤ up → becomes (.linkRetrain l good) { k with st := 2 }) ∧
      (k.st = 1 ∨ (k.st = 0 ∧ k.retrain = 0 ∧ up < 8) →
        becomes (.linkRetrain l good) { k with st := if 4 ≤ up then 4 else 0, retrain := Nat.min (k.retrain + 1) 65535 }) ∧
      (k.st ≠ 1 → ¬(k.st = 0 ∧ k.retrain = 0) → Happens (.linkRetrain l good) s s)) ∧
    (let a := laneOf k n;
      let bad := bitsAt s.lnkCtl.toNat 0 32 < cerr ∨ margin < bitsAt s.lnkCtl.toNat 32 8;
      let keep := fun (w : Bool) (b : Nat) => { k with lanes := put k.lanes n ⟨w, b, margin % 256, cerr % 2 ^ 32⟩ };
      (¬bad → becomes (.laneSample l n cerr margin) (keep false 0)) ∧
      (bad → a.bad = 0 → becomes (.laneSample l n cerr margin) (keep false 1)) ∧
      (bad → 1 ≤ a.bad → (a.weak = true ∨ (n.val = 8 ∧ k.spared = 0xF)) → becomes (.laneSample l n cerr margin) (keep true 2)) ∧
      (bad → 1 ≤ a.bad → a.weak = false → k.spared ≠ 0xF → k.st = 3 → n.val ≠ k.spared →
        becomes (.laneSample l n cerr margin) { keep true 2 with st := 1 }) ∧
      (bad → 1 ≤ a.bad → a.weak = false → n.val ≠ 8 → k.spared = 0xF → bitAt s.lnkCtl.toNat 40 = true → k.propose = none → k.swapAt = none →
        Happens (.laneSample l n cerr margin) s
          (emit (.lanePropose l n (Config.freeNat s.freeCtr (200 + l))) (setLink l { keep true 2 with propose := some (n.val, s.time) } s)))) ∧
    (Config.freeBit s.freeCtr (300 + l) = true → Happens (.lanePropose l n q) s (emit (.laneAck l n q) (setLink l { k with txSwap := some (n.val, q) } s))) ∧
    (Config.freeBit s.freeCtr (300 + l) = false → Happens (.lanePropose l n q) s (emit (.laneNak l n q) s)) ∧
    (let asked := k.propose.map (·.1) = some n.val;
      (asked → becomes (.laneAck l n q) { k with propose := none, swapAt := some (n.val, q) }) ∧ (asked → again (.laneNak l n q) n) ∧
      (¬asked → Happens (.laneAck l n q) s s ∧ Happens (.laneNak l n q) s s)) ∧
    (k.propose = none → Happens (.laneProposeTimeout l) s s) ∧
    (∀ j t, k.propose = some (j, t) → (t + 10000 ≤ s.time → again (.laneProposeTimeout l) j) ∧ (s.time < t + 10000 → Happens (.laneProposeTimeout l) s s)) ∧
    (k.swapAt = none → Happens (.selvedgeSwap l) s s) ∧
    (∀ j t, k.swapAt = some (j, t) →
      Happens (.selvedgeSwap l) s ((setLink l { k with
        swapAt := none, spared := j
        st := if k.st = 2 then (if (List.range 9).any fun m => some m != some j && (laneOf k m).weak then 1 else 3) else k.st } s).noteOpen (0x3FC0 + l) 9)) ∧
    Happens .slotBankChange s (if s.sltSwap then { s with sltAct := 1 - s.sltAct, sltSwap := false } else s)

/-! ## Events: the host port, power and temperature (R144, R400-R404, R408, R412-R415, R458) -/

namespace Sys2Proof.Claims

/-- The host's answer to the oldest request that an asker has still to hear of, given as event `ev` from `s`, what it wrote standing in `h`. A
command processor's queue and the microbatch scheduler ask as a core's streams do (R403). -/
def Answered (ev : Instr) (k : HostAsker) (z : Stream) (r : HostReply) (s h : State) : Prop :=
  (askOldest k z h = none → Happens ev s h) ∧
  match k with
  | .core c =>
    let h1 := h.actBy (ObjKind.own.key (agentOf c z)) hostAgent
    (isCtl z = true → ∀ q got, (h.ctlOf c (streamLeader z)).ans = .asked q got → q.sp ≠ .none →
      Happens ev s (h1.setCtlOf c (streamLeader z) { h.ctlOf c (streamLeader z) with ans := .host q.sp r got })) ∧
    (isCtl z = false → ∀ q, askOldest k z h = some q →
      let f := fun (u : Run) => { u with ans := u.ans.byHost q.1 r }
      let x := h.seqOf c (streamEng z)
      Happens ev s (h1.setSeqOf c (streamEng z) { x with run := x.run.map f, defer := x.defer.map f }))
  | .cp t n => ∀ q got, (getQ h t n).ans = .asked q got → q.sp ≠ .none → Happens ev s (setQ t n { getQ h t n with ans := .host q.sp r got } h)
  | .mbs => ∀ q got, h.mbsAns = .asked q got → q.sp ≠ .none → Happens ev s { h with mbsAns := .host q.sp r got }

end Sys2Proof.Claims

/-- R144, R400-R404, R458: training and loss of the link; the host's accesses through its window in the order they come, one that meets an
uncorrectable error being refused (R378); its accesses to registers and to the MSI-X table, whose layout is PRESUMED (notes/assumptions/62.md); and
its answers to the device's accesses, in the order they were asked (that the host never writes the safe tier is DEDUCED, that it takes
every posted write PRESUMED, notes/assumptions/31.md; what a register access of another size than 8 bytes does is DEDUCED,
notes/assumptions/50.md). R408, R412-R415, R420, R421: the end of a clock transition; a power sample keeps
the means measured (what the clusters draw is a free value, notes/assumptions/17.md); a thermal sample keeps the readings, and one at the maximum
throttles its die at once. -/
def Obligations.HostPortAndPowerEventsComplete : Prop :=
  (
    ∀ (gen width off n : Nat) (cxl2 cxl3 relaxed wide : Bool) (bar : HostBar) (op : HostAtomic) (bs : List Byte) (x y v : Word) (k : HostAsker) (z : Stream) (r : HostReply) (s : State),
      s.powered = true →
      let h := s.hostLink.toNat
      (let mode := if cxl3 && bitAt h 12 then 2 else if cxl2 && bitAt h 11 then 1 else 0;
        let g := if mode = 1 then 5 else Nat.max 5 (Nat.min gen (if mode = 2 then 6 else 7));
        let w := if width < 8 then 4 else if width < 16 then 8 else 16;
        Happens (.hostLinkTrain gen width cxl2 cxl3) s { s with
          hostHold := [], hostDev := [], hostLink := BitVec.ofNat 64 (1 + g * 2 + w * 2 ^ 4 + mode * 2 ^ 9 + bitsAt h 11 2 * 2 ^ 11) }) ∧
      Happens .hostLinkDown s { s with hostLink := s.hostLink &&& ~~~1 } ∧
      (let acts := fun (i : Instr) (ok : Bool) (q : HostReq) (m : M Unit) =>
          (hostUp s = false ∨ ok = false → Happens i s s) ∧
          (hostUp s = true → ok = true → repMode s = 0 →
            (s.hostHeld = [] → (∀ t, Runs m s () t → Happens i s t) ∧ (∀ w t, m.go s = (.error (.wait w), t) → Happens i s { s with hostHeld := [q] }) ∧
              (∀ f t, m.go s = (.error (.trap f), t) → ∃ u, Happens i s (emit .hostUnsupported u) ∧ u.mem = s.mem)) ∧
            (s.hostHeld ≠ [] → Happens i s { s with hostHeld := s.hostHeld ++ [q] }));
        acts (.hostPostedWrite ⟨.window, off⟩ bs relaxed) (inBar2 off bs.length) (.write off bs relaxed) (hostWrite off bs relaxed) ∧
        acts (.hostMemoryRead ⟨.window, off⟩ n) (inBar2 off n) (.read off n) (hostRead off n) ∧
        acts (.hostAtomicop off op wide x y) (inBar2 off (if wide then 8 else 4)) (.atomic off op wide x y) (hostAtomic off op wide x y) ∧
        acts (.cxlMemWrite off bs) (inHdm s off bs.length) (.cxlWrite off bs) (do hostWrite off bs true; modify (emit (.hostReply []))) ∧
        acts (.cxlMemRead off n) (inHdm s off n) (.cxlRead off n) (hostRead off n true)) ∧
      (hostUp s = true → repMode s = 0 → s.hostHeld = [] → hwinEn s = false → inBar2 off 8 = true → inBar2 off n = true →
        Happens (.hostMemoryRead ⟨.window, off⟩ n) s (emit .hostUnsupported s) ∧ Happens (.hostAtomicop off op wide x y) s (emit .hostUnsupported s)) ∧
      (hostUp s = false → Happens (.hostPostedWrite ⟨bar, off⟩ bs relaxed) s s ∧ Happens (.hostMemoryRead ⟨bar, off⟩ n) s s) ∧
      (hostUp s = true → off + bs.length ≤ 4096 → Happens (.hostPostedWrite ⟨.msix, off⟩ bs relaxed) s (msixWrite off bs s)) ∧
      (hostUp s = true → off + n ≤ 4096 →
        Happens (.hostMemoryRead ⟨.msix, off⟩ n) s (emit (.hostReply ((List.range n).map fun k => msixByte s (off + k))) s)) ∧
      Happens (.hostPostedWrite ⟨.regs, off⟩ bs relaxed) s s ∧
      (hostUp s = true → off + n ≤ 2 ^ 26 →
        let reads := (n = 8 ∧ off % 8 = 0) ∨ (n = 4 ∧ off % 4 = 0)
        (reads → Happens (.hostMemoryRead ⟨.regs, off⟩ n) s (emit (.hostReply (leBytes n (hostRegRead off n s))) s)) ∧
        (¬reads → Happens (.hostMemoryRead ⟨.regs, off⟩ n) s (emit .hostUnsupported s))) ∧
      (let half := decide (2 ^ 25 ≤ off);
        let core := off % 2 ^ 25 / 2 ^ 15;
        let num := off % 2 ^ 15 / 8;
        let lead : Leader := if half then .ccc else .lcc;
        (hostUp s = false ∨ 2 ^ 26 ≤ off → Happens (.hostRegWrite off width v) s s) ∧
        (hostUp s = true → off < 2 ^ 26 →
          (width ≠ 8 ∨ off % 8 ≠ 0 → Happens (.hostRegWrite off width v) s (hostDiscard core num half 0 true s)) ∧
          (width = 8 → off % 8 = 0 →
            (regOf num = none → Happens (.hostRegWrite off width v) s s) ∧
            (∀ a t, regOf num = some a → writeReg core lead num v { s with cur := (core, leaderStream lead) } = .ok t →
              Happens (.hostRegWrite off width v) s { t with cur := s.cur }) ∧
            (∀ a t, regOf num = some a → writeReg core lead num v { s with cur := (core, leaderStream lead) } = .error t →
              Happens (.hostRegWrite off width v) s (hostDiscard core num half (causeCode t.cause) false s))))) ∧
      Answered (.hostCompletion k z r) k z r s (hostCells r s) ∧
      ((∀ q, askOldest k z s = some q → s.time < q.2 + 10000000) → Happens (.hostCompletionTimeout k z) s s) ∧
      (∀ q, askOldest k z s = some q → q.2 + 10000000 ≤ s.time → Answered (.hostCompletionTimeout k z) k z .poisoned s s)) ∧
  (
    ∀ (k : DieId) (p10 p1s : Nat) (t : TowerId) (rd : List (Nat × Nat)) (s : State), s.powered = true →
      let d := s.die k
      (d.busy = false → Happens (.dvfsTransitionEnd k) s s) ∧
      (d.busy = true → ∃ u, Happens (.dvfsTransitionEnd k) s u ∧ u.mem = s.mem ∧ u.cores = s.cores ∧
        (Nat.min d.req d.lim = d.tgt → u.die k = { d with busy := false, cur := d.tgt }) ∧
        (Nat.min d.req d.lim ≠ d.tgt → u.die k = { d with busy := true, cur := d.tgt, tgt := Nat.min d.req d.lim, since := s.time })) ∧
      (∃ u, Happens (.governorSample p10 p1s) s u ∧ u.mem = s.mem ∧ bitsAt u.pwrStat.toNat 0 16 = Nat.min p10 65535 ∧ bitsAt u.pwrStat.toNat 16 16 = Nat.min p1s 65535 ∧
        ∀ j, (u.cluster j).held = (s.cluster j).held ∧ (u.cluster j).wants = (s.cluster j).wants) ∧
      (∃ u, Happens (.thermalSample t rd) s u ∧ u.mem = s.mem ∧
        (∀ j x, j < 64 → rd[j]? = some x → find (u.tower t).thData j = some ⟨x.1 % 1024, x.2 % 1024⟩) ∧
        ((rd.take 64).any (fun x => decide (sensor Config.tjMax ≤ x.1 % 1024)) = true → (u.die (2 * t.val)).lim = 0 ∧ (u.die (2 * t.val)).hold = true) ∧
        ((rd.take 64).any (fun x => decide (sensor Config.tjMax ≤ x.2 % 1024)) = true → (u.die (2 * t.val + 1)).lim = 0 ∧ (u.die (2 * t.val + 1)).hold = true)))

/-! ## Events: checkpoint, restore, increments, time, and the debug master (R425-R429, R433-R437, R440, R446) -/

/-- R425-R427, R435-R437: a checkpoint's start, quiesce and write phases and what refuses each; a restore, which brings back every core but for
its step count and the stop armed on it (R434); an increment of a recording, older ones merged while the region is full. Which increment
a restore in replay names is a free value (notes/assumptions/13.md). The order of a restore's checks is DEDUCED (notes/assumptions/53.md), and that a
register or a queue element with an error stops the write phase is PRESUMED (notes/assumptions/66.md). -/
def Obligations.CheckpointEventsComplete : Prop :=
  ∀ s : State, s.powered = true →
    let res := fun (r : Nat) (u : State) => bitsAt u.ckptStat.toNat 2 4 = r
    let none' := (find s.keys (ckKey s)).isNone = true
    let stopped := s.cores.foldl (fun s e => stopDone e.1 s) s
    let clean := cleanTowers stopped
    let size := imageFixed + (markedFrames clean.ckptMap.toNat (mapCells clean)).length
    (s.me.priv = true →
      (ckPhase s ≠ 0 ∨ s.repBusy = true → Happens .ckptStart s (setResult 7 s)) ∧
      (ckPhase s = 0 → s.repBusy = false → ckDrained s = false → Happens .ckptStart s (setResult 3 s)) ∧
      (ckPhase s = 0 → s.repBusy = false → ckDrained s = true → none' → Happens .ckptStart s (setResult 4 s)) ∧
      (ckPhase s = 0 → s.repBusy = false → ckDrained s = true → ¬none' → ∃ t, Happens .ckptStart s t ∧ ckPhase t = 1 ∧ ckDrained t = false ∧
        t.ckptGot = stoppable s) ∧
      (none' → Happens .ckptRestore s (setResult 4 s)) ∧
      (¬none' → ckPhase s ≠ 0 ∨ s.repBusy = true ∨ allIdle s = false → Happens .ckptRestore s (setResult 7 s)) ∧
      (¬none' → ckPhase s = 0 → s.repBusy = false → allIdle s = true → repMode s ≠ 2 →
        (s.ckptImg = none ∨ ckValid s = false → Happens .ckptRestore s (setResult 7 s)) ∧
        let n := bitsAt s.ckptStat.toNat 7 25
        let sound := imageDamaged s n = false ∧ digestOk s (look 0 s.keys (ckKey s)) n = true
        (∀ g, s.ckptImg = some g → ckValid s = true → ¬sound → Happens .ckptRestore s (setResult 6 s)) ∧
        (∀ g, s.ckptImg = some g → ckValid s = true → sound → ∃ t, Happens .ckptRestore s t ∧ ckPhase t = 0 ∧ res 1 t ∧
          (∀ c, t.core c = { look Core.reset g.cores c with
            scyc := (s.core c).scyc, scycFr := (s.core c).scycFr, haltSc := (s.core c).haltSc }) ∧ t.groups = g.groups ∧ t.dmr = g.dmr ∧ t.stages = g.stages ∧ t.stamps = [] ∧ t.time = s.time))) ∧
    (ckPhase s ≠ 1 → Happens .ckptQuiesceDone s s) ∧
    (ckPhase s = 1 → quiesced stopped = false → Happens .ckptQuiesceDone s stopped) ∧
    (ckPhase s = 1 → quiesced stopped = true → size ≤ 2 ^ 24 → ∃ t, Happens .ckptQuiesceDone s t ∧ ckPhase t = 2 ∧ ckValid t = false ∧ t.mem = clean.mem) ∧
    (ckPhase s = 1 → quiesced stopped = true → 2 ^ 24 < size → ∃ t, Happens .ckptQuiesceDone s t ∧ ckPhase t = 0 ∧ res 2 t ∧ t.mem = clean.mem) ∧
    (ckPhase s ≠ 2 → Happens .ckptWriteDone s s) ∧
    (ckPhase s = 2 → let fs := markedFrames s.ckptMap.toNat (mapCells s)
      (imageMarked fs s = true → ∃ t, Happens .ckptWriteDone s t ∧ ckPhase t = 0 ∧ res 5 t ∧ t.mem = s.mem ∧ t.ckptGot = []) ∧
      (imageMarked fs s = false → ∃ t, Happens .ckptWriteDone s t ∧ ckPhase t = 0 ∧ res 1 t ∧ ckValid t = true ∧ t.ckptImg = some (capture [] [] s) ∧ t.ckptGot = [])) ∧
    (s.repBusy = false → (repMode s ≠ 1 ∨ ckPhase s ≠ 0 ∨ s.time < s.repAt + bitsAt s.replay.toNat 2 10 * 1000000) → Happens .replayIncrement s s) ∧
    (s.repBusy = false → repMode s = 1 → ckPhase s = 0 → s.repAt + bitsAt s.replay.toNat 2 10 * 1000000 ≤ s.time →
      ∃ t, Happens .replayIncrement s t ∧ t.repBusy = true ∧ t.ckptGot = stoppable s) ∧
    (s.repBusy = true → quiesced stopped = false → Happens .replayIncrement s stopped) ∧
    (s.repBusy = true → quiesced stopped = true → ∃ t, Happens .replayIncrement s t ∧ t.repBusy = false ∧ t.repNext = clean.repNext + 1 ∧ t.repAt = clean.time ∧
      t.repIncs = mergeOldest clean (clean.repIncs.length + 1) (clean.repIncs ++ [(clean.repNext + 1, capture (writtenFrames clean) (writtenSlabs clean) clean)]) ∧
      t.ckptGot = [])

/-- R429, R433, R434, R440: the time counter follows its master; a debug command is obeyed by the module it names, by this module's own master or
one that ACCEPT names, and refused otherwise; armed stops, the answer to a command and its time-out. DATA changes with a read that delivers, and with
nothing else. That RD_MEM does not deliver a unit with an uncorrectable error (R378) and answers 1, and what RD_CSR and RD_STAMP answer to a number
that names nothing, is DEDUCED (notes/assumptions/24.md). The time goes on along the barrier tree of bg0 as a message of the model's
(notes/assumptions/32.md). -/
def Obligations.TimeAndDebugEventsComplete : Prop :=
  ∀ (t : Word) (m : Nat) (c : CoreId) (all : Bool) (n : Nat) (num : Fin 4096) (pa off w : Nat) (s : State), s.powered = true →
    let commands : List ((Option Nat → Instr) × Nat × Nat × Nat) := [
      (fun a => Instr.dbgHalt a c all, 1, c.val + b2n all * 1024, 0), (fun a => .dbgResume a c all, 2, c.val + b2n all * 1024, 0),
      (fun a => .dbgHaltAt a t, 3, t.toNat, 0), (fun a => .dbgHaltSc a c n, 4, c.val, n), (fun a => .dbgRdCsr a c num, 5, c.val + num.val * 1024, 0),
      (fun a => .dbgRdMem a pa, 6, pa, 0), (fun a => .dbgRdStamp a c off w, 7, c.val + off % 2 ^ 22 * 2 ^ 10 + w % 8 * 2 ^ 32, 0)]
    let own := fun (i : Instr) (op a0 a1 : Nat) =>
      let s0 := { s with dbgArg0 := BitVec.ofNat 64 a0, dbgArg1 := BitVec.ofNat 64 a1 }
      let r := dbgAct op s0.dbgArg0.toNat s0.dbgArg1.toNat s0
      (s.me.priv = false → Happens i s (trapHere ⟨.priv, 0x239⟩ 8 s)) ∧
      (s.me.priv = true → s.dbgBusy = true → Happens i s { s0 with dbgOver := true }) ∧
      (s.me.priv = true → s.dbgBusy = false → bitAt s.dbgCtl.toNat 0 = false → Happens i s (dbgEnd ⟨1, none⟩ s0)) ∧
      (s.me.priv = true → s.dbgBusy = false → bitAt s.dbgCtl.toNat 0 = true → Happens i s (dbgEnd r.2 r.1))
    (∀ e ∈ commands, own (e.1 none) e.2.1 e.2.2.1 e.2.2.2 ∧
      (let r := dbgAct e.2.1 e.2.2.1 e.2.2.2 s;
        let accepts := bitAt s.dbgCtl.toNat 11 = true ∧ bitsAt s.dbgCtl.toNat 1 10 = m;
        (accepts → Happens (e.1 (some m)) s (emit (.debugReply m r.2.res r.2.data) r.1)) ∧
        (¬accepts → Happens (e.1 (some m)) s (emit (.debugReply m 1 none) s)))) ∧
    own .dbgBadOp 0 0 0 ∧ dbgAct 0 n pa s = (s, ⟨3, none⟩) ∧ dbgAct 3 n pa s = ({ s with haltAt := some n }, ⟨0, none⟩) ∧
    (n ≤ (s.core c).scyc.toNat → dbgAct 4 c.val n s = (s, ⟨3, none⟩)) ∧
    ((s.core c).scyc.toNat < n → dbgAct 4 c.val n s = (s.setCore c { s.core c with haltSc := some n }, ⟨0, none⟩)) ∧
    (let a := c.val + num.val * 1024;
      (regOf num.val = none → dbgAct 5 a 0 s = (s, ⟨3, none⟩)) ∧
      (∀ r x, regOf num.val = some r → readReg c.val .lcc num.val s = .ok x → dbgAct 5 a 0 s = (s, ⟨0, some (BitVec.ofNat 64 x)⟩))) ∧
    (let marked := (unitOf pa).any s.marks.contains;
      (pa % 8 = 0 → pa < Config.devBytes → marked = false →
        dbgAct 6 pa 0 s = (s, ⟨0, some (BitVec.ofNat 64 (leNat (((storedLine s (pa / 64)).drop (pa % 64)).take 8)))⟩)) ∧
      (pa % 8 = 0 → pa < Config.devBytes → marked = true → dbgAct 6 pa 0 s = (s, ⟨1, none⟩)) ∧
      (pa % 8 ≠ 0 ∨ Config.devBytes ≤ pa → dbgAct 6 pa 0 s = (s, ⟨3, none⟩))) ∧
    (s.haltAt = none → Happens .haltAtTrigger s s) ∧
    (∀ a, s.haltAt = some a → (s.time < a → Happens .haltAtTrigger s s) ∧
      (a ≤ s.time → Happens .haltAtTrigger s (s.cores.foldl (fun s e => dbgStop s e.1) { s with haltAt := none }))) ∧
    ((s.core c).haltSc = none → Happens (.haltScTrigger c) s s) ∧
    (∀ a, (s.core c).haltSc = some a → ((s.core c).scyc.toNat < a → Happens (.haltScTrigger c) s s) ∧
      (a ≤ (s.core c).scyc.toNat → Happens (.haltScTrigger c) s (dbgStop (s.setCore c { s.core c with haltSc := none }) c))) ∧
    (s.dbgWait = none → Happens .dbgCommandTimeout s s) ∧
    (∀ i a, s.dbgWait = some (i, a) → (a + 100000 ≤ s.time → Happens .dbgCommandTimeout s (dbgEnd ⟨2, none⟩ s)) ∧
      (s.time < a + 100000 → Happens .dbgCommandTimeout s s) ∧
      ∀ x : AckInfo, x.code ≠ 0x7F → Happens (.ack i x) s (dbgEnd ⟨Nat.min x.code 3, x.data⟩ (settle' i x.code (noted i s)))) ∧
    (∀ x u, (dbgEnd ⟨n, some x⟩ u).dbgData = x ∧ (dbgEnd ⟨n, none⟩ u).dbgData = u.dbgData ∧ (dbgEnd ⟨n, none⟩ u).dbgRes = n) ∧
    (tsMaster s.tsync = true → Happens .timeSyncSend s (emit (.time (BitVec.ofNat 64 s.time)) s)) ∧
    (tsMaster s.tsync = false → Happens .timeSyncSend s s) ∧
    (tsFollower s.tsync = false → Happens (.timeMessage t) s s) ∧
    (tsFollower s.tsync = true → let d : Int := (t.toNat : Int) - s.time
      let s1 := if treeChildren s then emit (.time t) s else s
      (1000000 < d → Happens (.timeMessage t) s { s1 with tsync := setLocked false s.tsync, time := t.toNat, slew := 0 }) ∧
      (d ≤ 1000000 → Happens (.timeMessage t) s { s1 with tsync := setLocked (decide (-50 ≤ d ∧ d ≤ 50)) s.tsync, slew := d }))

/-! ## Whole-machine statements: the register frame, the encoding, reset, the invariant -/

namespace Sys2Proof.Claims

/-- What an instruction that touches registers alone may write: scalar registers, predicates, handle registers. -/
structure Dests where
  s : List SReg := []
  p : List PReg := []
  h : List HReg := []

/-- The instructions that touch nothing but registers of their own control core, with their destinations (R193-R214, R229, R230, R236,
R240): `call` and `calll` write the link register s63 (R203). -/
def registerForm : Instr → Option Dests
  | .add _ d _ _ => some { s := [d] } | .sub _ d _ _ => some { s := [d] } | .mul _ d _ _ => some { s := [d] } | .mulh _ d _ _ => some { s := [d] }
  | .mulhu _ d _ _ => some { s := [d] } | .div _ d _ _ => some { s := [d] } | .divu _ d _ _ => some { s := [d] } | .rem _ d _ _ => some { s := [d] }
  | .remu _ d _ _ => some { s := [d] } | .min _ d _ _ => some { s := [d] } | .max _ d _ _ => some { s := [d] } | .minu _ d _ _ => some { s := [d] }
  | .maxu _ d _ _ => some { s := [d] } | .and _ d _ _ => some { s := [d] } | .or _ d _ _ => some { s := [d] } | .xor _ d _ _ => some { s := [d] }
  | .andn _ d _ _ => some { s := [d] } | .sll _ d _ _ => some { s := [d] } | .srl _ d _ _ => some { s := [d] } | .sra _ d _ _ => some { s := [d] }
  | .rol _ d _ _ => some { s := [d] } | .clz _ d _ => some { s := [d] } | .ctz _ d _ => some { s := [d] } | .popc _ d _ => some { s := [d] }
  | .brev _ d _ => some { s := [d] } | .bswap _ d _ => some { s := [d] }
  | .cmpEq _ d _ _ => some { p := [d] } | .cmpNe _ d _ _ => some { p := [d] } | .cmpLt _ d _ _ => some { p := [d] }
  | .cmpGe _ d _ _ => some { p := [d] } | .cmpLtu _ d _ _ => some { p := [d] } | .cmpGeu _ d _ _ => some { p := [d] }
  | .pand _ d _ _ => some { p := [d] } | .por _ d _ _ => some { p := [d] } | .pxor _ d _ _ => some { p := [d] } | .pandn _ d _ _ => some { p := [d] }
  | .pnot _ d _ => some { p := [d] } | .pset _ d _ => some { p := [d] } | .pget _ d _ => some { s := [d] } | .sel _ _ d _ _ => some { s := [d] }
  | .jr _ _ => some {} | .jalr _ d _ => some { s := [d] } | .br _ _ => some {} | .brl _ _ => some {} | .call _ _ => some { s := [63] }
  | .calll _ _ => some { s := [63] } | .dbnz _ d _ => some { s := [d] }
  | .addi _ d _ _ => some { s := [d] } | .andi _ d _ _ => some { s := [d] } | .ori _ d _ _ => some { s := [d] } | .xori _ d _ _ => some { s := [d] }
  | .slli _ d _ _ => some { s := [d] } | .srli _ d _ _ => some { s := [d] } | .srai _ d _ _ => some { s := [d] } | .muli _ d _ _ => some { s := [d] }
  | .cmpi _ _ d _ _ => some { p := [d] } | .cmpl _ _ d _ _ => some { p := [d] }
  | .li _ d _ => some { s := [d] } | .lih _ d _ _ => some { s := [d] } | .addl _ d _ _ => some { s := [d] }
  | .ext _ d _ _ _ => some { s := [d] } | .extu _ d _ _ _ => some { s := [d] } | .dep _ d _ _ _ => some { s := [d] }
  | .hmov _ d _ => some { h := [d] } | .hbind _ d _ _ => some { h := [d] } | .hunb _ d _ => some { h := [d] } | .hchk _ d _ => some { p := [d] }
  | .hget _ d _ _ => some { s := [d] } | .hset _ d _ _ => some { h := [d] } | .hoff _ d _ _ => some { h := [d] } | .hslc _ d _ _ => some { h := [d] }
  | .semRd _ d _ => some { s := [d] } | .tkCnt _ d _ => some { s := [d] } | .mxRd _ d _ => some { s := [d] } | .nop _ => some {}
  | _ => none

/-- Nothing but the executing control core, its own stream and the queue of trace records differs. -/
structure KeepsAllElse (s t : State) : Prop where
  module  : { t with cores := s.cores, trcQ := s.trcQ } = s
  cores   : ∀ c, c ≠ s.cc → t.core c = s.core c
  core    : { t.core s.cc with strm := (s.core s.cc).strm, lcc := (s.core s.cc).lcc, ccc := (s.core s.cc).ccc } = s.core s.cc
  leader  : ∀ l, l ≠ s.cl → t.ctlOf s.cc l = s.ctlOf s.cc l
  streams : ∀ x, x ≠ s.cur.2 → t.str s.cc x = s.str s.cc x

/-- Of the executing control core only the registers that trap entry writes differ, and they do only where a trap was taken. -/
structure KeepsControl (s t : State) : Prop where
  tvec     : t.me.tvec = s.me.tvec
  tscratch : t.me.tscratch = s.me.tscratch
  step     : t.me.step = s.me.step
  ara      : t.me.araV = s.me.araV ∧ t.me.araG = s.me.araG ∧ t.me.araPc = s.me.araPc
  arrived  : t.me.arr = s.me.arr ∧ t.me.ticket = s.me.ticket
  job      : t.me.starter = s.me.starter ∧ t.me.rdvF = s.me.rdvF
  pending  : t.me.pendPre = s.me.pendPre ∧ t.me.pendEng = s.me.pendEng ∧ t.me.pendGang = s.me.pendGang ∧ t.me.pendDiv = s.me.pendDiv
  traps    : (t.me.tpc = s.me.tpc ∧ t.me.tcause = s.me.tcause ∧ t.me.tinfo = s.me.tinfo ∧ t.me.priv = s.me.priv ∧
    t.me.ppriv = s.me.ppriv ∧ t.me.inh = s.me.inh) ∨
    (t.me.priv = true ∧ t.me.ppriv = s.me.priv ∧ t.me.inh = true ∧ s.me.inh = false ∧ t.myStr.st = .trap)

end Sys2Proof.Claims

/-- The frame of every instruction of `registerForm`, whether it completes, is suppressed or traps: no register but its destinations, no
trap register but by trap entry, no byte of memory and no other core, engine, unit or control register of the module changes; s0, p0 and
the other destinations of no effect included (R169, R173, R364). -/
def Obligations.RegisterFormFrame : Prop :=
  ∀ (i : Instr) (ds : Dests) (s t : State), registerForm i = some ds → isCtl s.cur.2 = true → s.myStr.wait = .none → exec i s = .next t →
    (∀ n, n ∉ ds.s → t.rdS n = s.rdS n) ∧ (∀ n, n ∉ ds.p → t.rdP n = s.rdP n) ∧ (∀ n, n ∉ ds.h → t.rdH n = s.rdH n) ∧
    t.rdS 0 = 0 ∧ t.rdP 0 = true ∧ (∀ a, memRd t.mem a = memRd s.mem a) ∧ KeepsAllElse s t ∧ KeepsControl s t

/-- Every control instruction and every loop-nest record that an encoding exists for decodes from its own encoding, with every operand as
it was (R167-R184, R198, R207, R218). -/
def Obligations.DecodeOfEncode : Prop :=
  ∀ i : Instr, i.wf = true → encode i ≠ [] → decodeWords (encode i) = some i

/-- Every word, or pair of words, that decodes is the encoding of the instruction it decodes to: no bit is read twice or ignored, so no
two words mean the same instruction (R167, R171, R174, R175). -/
def Obligations.EncodeOfDecode : Prop :=
  ∀ (w0 w1 : Nat) (i : Instr), w0 < 2 ^ 32 → w1 < 2 ^ 32 → decodeControl w0 w1 = some i →
    i.wf = true ∧ encode i = if isLong w0 then [w0, w1] else [w0]

/-- The words that R204 writes out decode to the instructions they stand for, at an always-true guard. -/
def Obligations.WordsOfTheSpecDecode : Prop :=
  let gd : Guard := ⟨0, false⟩
  decodeControl 0x00051665 0 = some (.div gd 10 11 12) ∧ decodeControl 0x08010A34 0 = some (.cmpLtu gd 2 5 6) ∧
  decodeControl 0x200C8FFD 0 = some (.cmpi gd .ge 1 7 (BitVec.ofInt 9 (-3))) ∧ decodeControl 0x0C028C3A 0 = some (.sel gd 2 5 6 7) ∧
  decodeControl 0xF0021203 0x00000B08 = some (.ext gd 4 9 8 11) ∧ decodeControl 0x0E1FA801 0 = some (.jalr gd 63 20) ∧
  decodeControl 0x32000070 0 = some (.call gd 0x70)

/-- What reset leaves, by the values that the rules give: every control core at supervisor level with INH set and every trap register 0
(R363), every handle unbound, invalid and 0 elsewhere (R26), every stream IDLE in no job with its tag unbound (R149, R152), every licence
FREE with LAST 1 (R156), and the spill tier and HBM zero (R95). -/
def Obligations.ResetState : Prop :=
  let s := State.reset
  (∀ c l, (s.ctlOf c l).priv = true ∧ (s.ctlOf c l).ppriv = false ∧ (s.ctlOf c l).inh = true ∧ (s.ctlOf c l).step = false ∧
    (s.ctlOf c l).tvec = 0 ∧ (s.ctlOf c l).tcause = 0 ∧ (s.ctlOf c l).tpc = 0 ∧ (s.ctlOf c l).tinfo = 0 ∧ (s.ctlOf c l).tscratch = 0) ∧
  (∀ c l n, hTag ((s.ctlOf c l).rdH n) = 0xFFF ∧ hValid ((s.ctlOf c l).rdH n) = false ∧
    ∀ w, w < 8 → w ≠ 1 → hbits ((s.ctlOf c l).rdH n) w 0 32 = 0) ∧
  (∀ c x, (s.str c x).st = .idle ∧ (s.str c x).inJob = false ∧ (s.str c x).mt = 0xFFF) ∧
  (∀ p, (s.pair p).lic = .free ∧ (s.pair p).disable = false ∧ (s.pair p).last = 1) ∧
  (∀ a, a < capBase + 2 ^ 41 → memRd s.mem a = 0) ∧ Inv s

/-- Every step keeps the canonical form of memory: its cells stay in rising order of address, and none holds what an unlisted address
reads as. The form is the model's (notes/assumptions/5.md). -/
def Obligations.InvKept : Prop :=
  ∀ s t : State, Inv s → step s = .next t → Inv t
end

