-- ==== Sys2Proof/Laws/Codec.lean ====
section
/-! SUPPORT. What each field of an encoded word reads as (R167, R170, R171): one lemma per format and field. -/
namespace Sys2Proof

theorem b2n_lt (b : Bool) : b2n b < 2 := by cases b <;> decide
theorem bitAt_b2n (b : Bool) : bitAt (b2n b) 0 = b := by cases b <;> decide
theorem b2n_mod_beq (b : Bool) : (b2n b % 2 == 1) = b := by cases b <;> decide
theorem scopeCode_lt (e : Scope) : scopeCode e < 6 := by cases e <;> decide
theorem condCode_lt (k : Cond) : condCode k < 6 := by cases k <;> decide
theorem ordCode_lt (o : Ord) : ordCode o < 4 := by cases o <;> decide
@[simp] theorem scopeOf_scopeCode (e : Scope) : scopeOf (scopeCode e) = some e := by cases e <;> rfl
@[simp] theorem condOf_condCode (k : Cond) : condOf (condCode k) = some k := by cases k <;> rfl
@[simp] theorem ordOf_ordCode (o : Ord) : ordOf (ordCode o) = some o := by cases o <;> rfl

/-- Bit `n` of a sum whose other terms lie below and above it. -/
theorem bitAt_split (hi lo n : Nat) (b : Bool) (h : lo < 2 ^ n) : bitAt (hi * 2 ^ (n + 1) + b2n b * 2 ^ n + lo) n = b := by
  have hp : 0 < 2 ^ n := Nat.two_pow_pos n
  have : (hi * 2 ^ (n + 1) + b2n b * 2 ^ n + lo) / 2 ^ n = hi * 2 + b2n b := by
    rw [show hi * 2 ^ (n + 1) + b2n b * 2 ^ n + lo = lo + 2 ^ n * (hi * 2 + b2n b) by rw [Nat.pow_succ]; ring]
    rw [Nat.add_mul_div_left _ _ hp, Nat.div_eq_of_lt h, Nat.zero_add]
  unfold bitAt
  rw [this, Nat.mul_add_mod_self_right]
  exact b2n_mod_beq b

/-! ## Format R -/
section
variable (maj d a b fn : Nat) (gd : Guard)

theorem encGuard_lt : encGuard gd < 2 ^ 25 := by
  have := gd.gp.isLt; have := b2n_lt gd.gs; unfold encGuard; omega

theorem fMaj_fmtR (hm : maj < 128) (hd : d < 64) (ha : a < 64) (hb : b < 64) (hf : fn < 8) : fMaj (fmtR maj gd d a b fn) = maj := by
  have := gd.gp.isLt; have := b2n_lt gd.gs
  simp only [fMaj, fmtR, encGuard, bitsAt]; omega
theorem fD_fmtR (hd : d < 64) (ha : a < 64) (hb : b < 64) (hf : fn < 8) : fD (fmtR maj gd d a b fn) = d := by
  simp only [fD, fmtR, encGuard, bitsAt]; omega
theorem fA_fmtR (hd : d < 64) (ha : a < 64) (hb : b < 64) (hf : fn < 8) : fA (fmtR maj gd d a b fn) = a := by
  simp only [fA, fmtR, encGuard, bitsAt]; omega
theorem fB_fmtR (hb : b < 64) (hf : fn < 8) : fB (fmtR maj gd d a b fn) = b := by
  simp only [fB, fmtR, encGuard, bitsAt]; omega
theorem fFn_fmtR (hf : fn < 8) : fFn (fmtR maj gd d a b fn) = fn := by
  simp only [fFn, fmtR, encGuard, bitsAt]; omega
theorem fmtR_lt (hm : maj < 128) (hd : d < 64) (ha : a < 64) (hb : b < 64) (hf : fn < 8) : fmtR maj gd d a b fn < 2 ^ 32 := by
  have := gd.gp.isLt; have := b2n_lt gd.gs
  simp only [fmtR, encGuard]; omega

/-- A guard read from a word made of a major, the guard and 21 low bits. -/
theorem fGuard_of (maj x : Nat) (gd : Guard) (hx : x < 2 ^ 21) : fGuard (maj * 2 ^ 25 + encGuard gd + x) = gd := by
  obtain ⟨p, s⟩ := gd
  have hp := p.isLt; have hs := b2n_lt s
  simp only [fGuard, encGuard]
  congr 1
  · apply Fin.ext
    simp only [Fin.ofNat, bitsAt]
    omega
  · rw [show maj * 2 ^ 25 + (p.val * 2 ^ 22 + b2n s * 2 ^ 21) + x = (maj * 8 + p.val) * 2 ^ (21 + 1) + b2n s * 2 ^ 21 + x by omega]
    exact bitAt_split _ x 21 s hx

theorem fGuard_fmtR (hd : d < 64) (ha : a < 64) (hb : b < 64) (hf : fn < 8) : fGuard (fmtR maj gd d a b fn) = gd := by
  exact (congrArg fGuard (by simp only [fmtR, Nat.add_assoc])).trans (fGuard_of maj (d * 2 ^ 15 + a * 2 ^ 9 + b * 2 ^ 3 + fn) gd (by omega))

/-! ## Formats I and L -/

variable (x : Nat)

theorem fMaj_fmtI (hm : maj < 128) (hd : d < 64) (ha : a < 64) (hx : x < 512) : fMaj (fmtI maj gd d a x) = maj := by
  have := gd.gp.isLt; have := b2n_lt gd.gs
  simp only [fMaj, fmtI, encGuard, bitsAt]; omega
theorem fD_fmtI (hd : d < 64) (ha : a < 64) (hx : x < 512) : fD (fmtI maj gd d a x) = d := by
  simp only [fD, fmtI, encGuard, bitsAt]; omega
theorem fA_fmtI (ha : a < 64) (hx : x < 512) : fA (fmtI maj gd d a x) = a := by
  simp only [fA, fmtI, encGuard, bitsAt]; omega
theorem fImm9_fmtI (hx : x < 512) : fImm9 (fmtI maj gd d a x) = x := by
  simp only [fImm9, fmtI, encGuard, bitsAt]; omega
theorem fGuard_fmtI (hd : d < 64) (ha : a < 64) (hx : x < 512) : fGuard (fmtI maj gd d a x) = gd := by
  exact (congrArg fGuard (by simp only [fmtI, Nat.add_assoc])).trans (fGuard_of maj (d * 2 ^ 15 + a * 2 ^ 9 + x) gd (by omega))
theorem fmtI_lt (hm : maj < 128) (hd : d < 64) (ha : a < 64) (hx : x < 512) : fmtI maj gd d a x < 2 ^ 32 := by
  have := gd.gp.isLt; have := b2n_lt gd.gs
  simp only [fmtI, encGuard]; omega

/-! ## Format B -/

theorem fMaj_fmtB (hm : maj < 128) (hx : x < 2 ^ 21) : fMaj (fmtB maj gd x) = maj := by
  have := gd.gp.isLt; have := b2n_lt gd.gs
  simp only [fMaj, fmtB, encGuard, bitsAt]; omega
theorem fOff21_fmtB (hx : x < 2 ^ 21) : fOff21 (fmtB maj gd x) = x := by
  simp only [fOff21, fmtB, encGuard, bitsAt]; omega
theorem fGuard_fmtB (hx : x < 2 ^ 21) : fGuard (fmtB maj gd x) = gd := fGuard_of maj x gd hx
theorem fmtB_lt (hm : maj < 128) (hx : x < 2 ^ 21) : fmtB maj gd x < 2 ^ 32 := by
  have := gd.gp.isLt; have := b2n_lt gd.gs
  simp only [fmtB, encGuard]; omega

/-! ## Format M -/

variable (r : SReg) (m : MOp)

theorem fMaj_fmtM (hm : maj < 128) : fMaj (fmtM maj gd r m) = maj := by
  have := gd.gp.isLt; have := b2n_lt gd.gs; have := r.isLt; have := m.h.isLt; have := m.c.isLt; have := b2n_lt m.cp; have := m.off.isLt
  simp only [fMaj, fmtM, encGuard, bitsAt]; omega
theorem fD_fmtM : fD (fmtM maj gd r m) = r.val := by
  have := r.isLt; have := m.h.isLt; have := m.c.isLt; have := b2n_lt m.cp; have := m.off.isLt
  simp only [fD, fmtM, encGuard, bitsAt]; omega
theorem fGuard_fmtM : fGuard (fmtM maj gd r m) = gd := by
  have := r.isLt; have := m.h.isLt; have := m.c.isLt; have := b2n_lt m.cp; have := m.off.isLt
  exact (congrArg fGuard (by simp only [fmtM, Nat.add_assoc])).trans (fGuard_of maj (r.val * 2 ^ 15 + m.h.val * 2 ^ 10 + m.c.val * 2 ^ 4 + b2n m.cp * 2 ^ 3 + m.off.val) gd (by omega))
theorem fMem_fmtM : fMem (fmtM maj gd r m) = m := by
  obtain ⟨h, c, p, o⟩ := m
  have h1 := r.isLt; have h2 := h.isLt; have h3 := c.isLt; have h4 := b2n_lt p; have h5 := o.isLt
  simp only [fMem, fmtM, encGuard]
  congr 1
  · apply Fin.ext; simp only [Fin.ofNat, bitsAt]; omega
  · apply Fin.ext; simp only [Fin.ofNat, bitsAt]; omega
  · rw [show maj * 2 ^ 25 + (gd.gp.val * 2 ^ 22 + b2n gd.gs * 2 ^ 21) + r.val * 2 ^ 15 + h.val * 2 ^ 10 + c.val * 2 ^ 4 + b2n p * 2 ^ 3 + o.val =
      (maj * 2 ^ 21 + (gd.gp.val * 2 ^ 18 + b2n gd.gs * 2 ^ 17) + r.val * 2 ^ 11 + h.val * 2 ^ 6 + c.val) * 2 ^ (3 + 1) + b2n p * 2 ^ 3 + o.val by ring]
    exact bitAt_split _ _ 3 p (by omega)
  · apply Fin.ext; simp only [Fin.ofNat, bitsAt]; omega
theorem fmtM_lt (hm : maj < 128) : fmtM maj gd r m < 2 ^ 32 := by
  have := gd.gp.isLt; have := b2n_lt gd.gs; have := r.isLt; have := m.h.isLt; have := m.c.isLt; have := b2n_lt m.cp; have := m.off.isLt
  simp only [fmtM, encGuard]; omega

/-! ## IMM32 of the 0x79 forms -/

variable (k : Nat)

theorem immM_lt (hb : b < 64) (hk : k < 8) : immM m b k < 2 ^ 24 := by
  have := m.h.isLt; have := m.c.isLt; have := b2n_lt m.cp; have := m.off.isLt
  simp only [immM]; omega
theorem fMemL_immM (hb : b < 64) (hk : k < 8) : fMemL (immM m b k) = m := by
  obtain ⟨h, c, p, o⟩ := m
  have h2 := h.isLt; have h3 := c.isLt; have h4 := b2n_lt p; have h5 := o.isLt
  simp only [fMemL, immM]
  congr 1
  · apply Fin.ext; simp only [Fin.ofNat, bitsAt]; omega
  · apply Fin.ext; simp only [Fin.ofNat, bitsAt]; omega
  · rw [show h.val + b2n p * 2 ^ 5 + c.val * 2 ^ 6 + o.val * 2 ^ 12 + b * 2 ^ 15 + k * 2 ^ 21 =
      (c.val + o.val * 2 ^ 6 + b * 2 ^ 9 + k * 2 ^ 15) * 2 ^ (5 + 1) + b2n p * 2 ^ 5 + h.val by ring]
    exact bitAt_split _ _ 5 p (by omega)
  · apply Fin.ext; simp only [Fin.ofNat, bitsAt]; omega
theorem immM_b (hb : b < 64) (hk : k < 8) : bitsAt (immM m b k) 15 6 = b := by
  have := m.h.isLt; have := m.c.isLt; have := b2n_lt m.cp; have := m.off.isLt
  simp only [immM, bitsAt]; omega
theorem immM_cond (hb : b < 64) (hk : k < 8) : bitsAt (immM m b k) 21 3 = k := by
  have := m.h.isLt; have := m.c.isLt; have := b2n_lt m.cp; have := m.off.isLt
  simp only [immM, bitsAt]; omega
theorem immM_zero (hb : b < 64) (hk : k < 8) : bitsAt (immM m b k) 24 8 = 0 := by
  have := immM_lt b m k hb hk
  simp only [bitsAt]; omega
end

end Sys2Proof
end

