-- ==== Sys2Proof/Laws/Keeps.lean ====
section
/-! SUPPORT. What the shared operations over memory can do, said once: a message changes what has left or waits to leave and nothing else;
a line merged, written back, dropped, filled, read or written, a result landed, and every check before an access keep memory canonical. -/
namespace Sys2Proof.Machine

/-! ## Messages -/

/-- A message leaves, or waits for a link: nothing else changes (R384). -/
theorem emit_eq (m : Msg) (s : State) : ∃ o l, emit m s = { s with outbox := o, linkWait := l } := by
  simp only [emit]
  split
  · exact ⟨s.outbox, _, rfl⟩
  · exact ⟨_, s.linkWait, rfl⟩

/-- A back-invalidation: a message, and the host's copy gone (R136). -/
theorem snoop_eq (line : Nat) (s : State) : ∃ o l d, snoop line s = { s with outbox := o, linkWait := l, hostDev := d } := by
  unfold snoop
  split
  · obtain ⟨o, l, h⟩ := emit_eq (.backInval line) { s with hostDev := s.hostDev.erase line }
    exact ⟨o, l, _, h⟩
  · exact ⟨_, _, _, rfl⟩

/-- An interrupt is sent, or stays pending (R401). -/
theorem raiseMsix_eq (v : Nat) (s : State) : ∃ o l p, raiseMsix v s = { s with outbox := o, linkWait := l, msixPend := p } := by
  unfold raiseMsix
  split
  · exact ⟨_, _, _, rfl⟩
  · obtain ⟨o, l, h⟩ := emit_eq (.msix v) s
    exact ⟨o, l, _, h⟩

@[simp] theorem emit_mem (m : Msg) (s : State) : (emit m s).mem = s.mem := by obtain ⟨_, _, h⟩ := emit_eq m s; rw [h]
@[simp] theorem emit_cores (m : Msg) (s : State) : (emit m s).cores = s.cores := by obtain ⟨_, _, h⟩ := emit_eq m s; rw [h]
@[simp] theorem emit_towers (m : Msg) (s : State) : (emit m s).towers = s.towers := by obtain ⟨_, _, h⟩ := emit_eq m s; rw [h]
@[simp] theorem snoop_mem (line : Nat) (s : State) : (snoop line s).mem = s.mem := by obtain ⟨_, _, _, h⟩ := snoop_eq line s; rw [h]
@[simp] theorem raiseMsix_mem (v : Nat) (s : State) : (raiseMsix v s).mem = s.mem := by obtain ⟨_, _, _, h⟩ := raiseMsix_eq v s; rw [h]

/-! ## Operations that keep memory canonical -/

/-- Memory stays canonical. -/
def Keeps (f : State → State) : Prop := ∀ s, Memory.wf s.mem = true → Memory.wf (f s).mem = true
/-- Memory stays canonical however the effect ends. -/
def KeepsM {α : Type} (m : M α) : Prop := Keeps fun s => (m.go s).2

theorem Keeps.of_mem {f : State → State} (h : ∀ s, (f s).mem = s.mem) : Keeps f := fun s hs => by rw [h]; exact hs
theorem Keeps.comp {f g : State → State} (hg : Keeps g) (hf : Keeps f) : Keeps fun s => g (f s) := fun s hs => hg _ (hf s hs)

/-- A fold of operations that leave memory alone. -/
theorem foldl_mem {α : Type} (f : α → State → State) (h : ∀ a s, (f a s).mem = s.mem) (l : List α) (s : State) :
    (l.foldl (fun s a => f a s) s).mem = s.mem := by
  induction l generalizing s with
  | nil => rfl
  | cons a l ih => exact (ih _).trans (h a s)

theorem Keeps.foldl {α : Type} {f : State → α → State} (h : ∀ a, Keeps fun s => f s a) (l : List α) : Keeps fun s => l.foldl f s := by
  induction l with
  | nil => exact fun _ hs => hs
  | cons a l ih => exact fun s hs => ih _ (h a s hs)

theorem KeepsM.pure {α : Type} (a : α) : KeepsM (pure a : M α) := fun _ hs => hs
theorem KeepsM.modify {f : State → State} (h : Keeps f) : KeepsM (modify f : M Unit) := fun s hs => h s hs
theorem KeepsM.throw {α : Type} (x : Stop) : KeepsM (throw x : M α) := fun _ hs => hs
theorem KeepsM.trapM {α : Type} (c : Cause) (n : Nat) : KeepsM (trapM c n : M α) := fun _ hs => hs
theorem KeepsM.waitM {α : Type} (w : Wait) : KeepsM (waitM w : M α) := fun _ hs => hs
theorem KeepsM.needM (b : Bool) (c : Cause) (n : Nat) : KeepsM (needM b c n) := by cases b <;> exact fun _ hs => hs
theorem KeepsM.liftC {α : Type} (x : Chk α) : KeepsM (liftC x) := by cases x <;> exact fun _ hs => hs
theorem KeepsM.get : KeepsM (get : M State) := fun _ hs => hs

/-- One effect after another, pointwise: the second may use what the first returned and where it ended. -/
theorem keeps_bind_at {α β : Type} {m : M α} {f : α → M β} {s : State} (hs : Memory.wf s.mem = true) (hm : KeepsM m)
    (hf : ∀ a t, m.go s = (.ok a, t) → Memory.wf t.mem = true → Memory.wf ((f a).go t).2.mem = true) :
    Memory.wf ((m >>= f).go s).2.mem = true := by
  have h := hm s hs
  rw [go_bind]
  cases hg : m.go s with
  | mk a t =>
    simp only [hg] at h
    cases a with
    | ok a => exact hf a t hg h
    | error x => exact h

theorem KeepsM.bind {α β : Type} {m : M α} {f : α → M β} (hm : KeepsM m) (hf : ∀ a, KeepsM (f a)) : KeepsM (m >>= f) :=
  fun _ hs => keeps_bind_at hs hm fun a t _ ht => hf a t ht

/-- An effect that reads the state first. -/
theorem KeepsM.get_bind {β : Type} {f : State → M β} (h : ∀ s, Memory.wf s.mem = true → Memory.wf ((f s).go s).2.mem = true) :
    KeepsM (MonadState.get >>= f) := fun s hs => by
  have e : ((MonadState.get : M State) >>= f).go s = (f s).go s := go_get_bind f s
  show Memory.wf (((MonadState.get : M State) >>= f).go s).2.mem = true
  rw [e]
  exact h s hs

theorem KeepsM.ite {α : Type} {p : Prop} [Decidable p] {m n : M α} (hm : KeepsM m) (hn : KeepsM n) : KeepsM (if p then m else n) := by
  split
  · exact hm
  · exact hn

theorem KeepsM.forList {α : Type} {f : α → M Unit} (h : ∀ a, KeepsM (f a)) (l : List α) : KeepsM (forList f l) := by
  induction l with
  | nil => exact KeepsM.pure ()
  | cons a l ih => exact (h a).bind fun _ => ih

theorem KeepsM.mapList {α β : Type} {f : α → M β} (h : ∀ a, KeepsM (f a)) (l : List α) : KeepsM (mapList f l) := by
  induction l with
  | nil => exact KeepsM.pure []
  | cons a l ih => exact (h a).bind fun b => ih.bind fun bs => KeepsM.pure (b :: bs)

/-! ## Bytes of DRAM -/

theorem ringBells_mem (a : Nat) (s : State) : (ringBells a s).mem = s.mem := by
  unfold ringBells
  split <;> rfl

theorem keeps_physWr (view : Option (Nat × Nat)) (a : Nat) (b : Byte) : Keeps fun s => physWr s view a b := fun s hs => by
  have h : Memory.wf (ringBells a s).mem = true := by rw [ringBells_mem]; exact hs
  simp only [physWr]
  split
  · exact memWr_wf _ _ _ h
  · split
    · exact memStore_wf _ _ _ h
    · exact memStore_wf _ _ _ h

theorem keeps_physStore (view : Option (Nat × Nat)) (bs : List Byte) (a : Nat) : Keeps fun s => physStore s view a bs := by
  induction bs generalizing a with
  | nil => exact fun _ hs => hs
  | cons b bs ih => exact fun s hs => ih _ _ (keeps_physWr view a b s hs)

theorem keeps_writeMasked (view : Option (Nat × Nat)) (dirty : Nat) (bs : List Byte) (a k : Nat) :
    Keeps fun s => writeMasked view dirty a k bs s := by
  induction bs generalizing a k with
  | nil => exact fun _ hs => hs
  | cons b bs ih =>
    intro s hs
    simp only [writeMasked]
    refine ih _ _ _ ?_
    split
    · exact keeps_physWr view a b s hs
    · exact hs

/-! ## Replay and trace notes -/

/-- A turn in the order log changes the log, and what of its region is open, only (R436). -/
theorem repTurn_eq {key agent : Nat} {s t : State} (h : repTurn key agent s = some t) : ∃ l o, t = { s with repLog := l, openMem := o } := by
  unfold repTurn at h
  split at h
  · exact ⟨_, _, (Option.some.inj h).symm⟩
  · split at h
    · split at h
      · split at h
        · exact ⟨_, s.openMem, (Option.some.inj h).symm⟩
        · cases h
      · exact ⟨s.repLog, s.openMem, (Option.some.inj h).symm⟩
    · exact ⟨s.repLog, s.openMem, (Option.some.inj h).symm⟩

theorem repTurn_getD_mem (key agent : Nat) (s : State) : ((repTurn key agent s).getD s).mem = s.mem := by
  cases h : repTurn key agent s with
  | none => rfl
  | some t => obtain ⟨_, _, e⟩ := repTurn_eq h; rw [e]; rfl

/-! ## Update-only lines and guest lines (R86-R92) -/

theorem keeps_mergeElem (u : ULine) (line : Nat) (e : Nat × Nat) : Keeps fun s => mergeElem u line s e := fun s hs => by
  have h := keeps_physStore u.view
    (leBytes (esizeBytes u.tag) (opHelper u.op u.tag (leNat (physBytes s u.view (line * 256 + e.1) (esizeBytes u.tag))) e.2))
    (line * 256 + e.1) (snoop line s) (by rw [snoop_mem]; exact hs)
  simp only [mergeElem]
  split
  · rw [emit_mem]; exact h
  · exact h

theorem keeps_mergeLine (t line : Nat) : Keeps (mergeLine t line) := fun s hs => by
  simp only [mergeLine]
  split
  · exact hs
  · next u _ => exact Keeps.foldl (keeps_mergeElem u line) u.vals _ (by rw [repTurn_getD_mem]; exact hs)

theorem keeps_recallLoop (line fuel : Nat) (ts : List Nat) : Keeps (recallLoop line fuel ts) := by
  induction fuel generalizing ts with
  | zero => intro s hs; simpa only [recallLoop] using hs
  | succ n ih =>
    intro s hs
    cases ts with
    | nil => simpa only [recallLoop] using hs
    | cons t ts => exact ih _ _ (keeps_mergeLine _ line s hs)

theorem keeps_recallHolders (line : Nat) : Keeps (recallHolders line) := fun s hs => keeps_recallLoop line _ _ s hs

theorem markOn_mem (t line dirty : Nat) (s : State) : (markOn t line dirty s).mem = s.mem := by
  simp only [markOn]
  split
  · rfl
  · exact foldl_mem (fun (m : Nat × Nat) s => countErr m.1 32 s) (fun _ _ => rfl) _ _

theorem keeps_writeBack (t line : Nat) : Keeps (writeBack t line) := fun s hs => by
  simp only [writeBack]
  split
  · exact hs
  · next g _ =>
    split
    · exact hs
    · show Memory.wf (markOn t line g.dirty _).mem = true
      rw [markOn_mem]
      exact keeps_writeMasked _ _ _ _ _ _ (by rw [snoop_mem]; exact keeps_recallHolders line s hs)

theorem keeps_dropLine (t line : Nat) : Keeps (dropLine t line) := fun s hs => by
  have h := keeps_writeBack t line s hs
  unfold dropLine
  simp only
  split
  · exact h
  · exact h

theorem keeps_evictLine (t line : Nat) : Keeps (evictLine t line) := fun s hs => by
  unfold evictLine
  split
  · split
    · exact keeps_dropLine t line s hs
    · exact hs
  · exact hs

theorem keeps_writeBackAll (t : Nat) : Keeps (writeBackAll t) := fun s hs => Keeps.foldl (fun e : Nat × GLine => keeps_writeBack t e.1) (s.tower t).guest s hs
theorem keeps_dropAll (t : Nat) : Keeps (dropAll t) := fun s hs => Keeps.foldl (fun e : Nat × GLine => keeps_dropLine t e.1) (s.tower t).guest s hs

theorem keeps_makeRoom (t line : Nat) (has : Bool) : Keeps (makeRoom t line has) := fun s hs => by
  unfold makeRoom
  split
  · exact keeps_mergeLine t _ s hs
  · exact keeps_dropLine t _ s hs
  · exact hs

theorem carryMarks_mem (t line : Nat) (s : State) : (carryMarks t line s).mem = s.mem := by
  simp only [carryMarks]
  split <;> rfl

theorem keeps_fillLine (t line : Nat) (view : Option (Nat × Nat)) : Keeps (fillLine t line view) := fun s hs => by
  have h := keeps_recallHolders line _ (keeps_writeBack t line _ (keeps_makeRoom t line (find (s.tower t).guest line).isSome s hs))
  simp only [fillLine]
  split <;> split
  · rw [carryMarks_mem]; exact h
  · exact hs
  · rw [carryMarks_mem]; exact h
  · exact hs

theorem keeps_l2Read (t flat n : Nat) (view : Option (Nat × Nat)) : Keeps fun s => (l2Read t flat n view s).1 := fun s hs => by
  have h := keeps_mergeLine t (flat / 256) s hs
  simp only [l2Read]
  split
  · split <;> exact keeps_fillLine t _ view _ h
  · exact keeps_recallHolders _ _ h

theorem keeps_l2Write (t flat : Nat) (bs : List Byte) (view : Option (Nat × Nat)) : Keeps (l2Write t flat bs view) := fun s hs => by
  have h := keeps_mergeLine t (flat / 256) s hs
  simp only [l2Write]
  split
  · split <;> exact keeps_fillLine t _ view _ h
  · exact keeps_physStore view bs flat _ (by rw [snoop_mem]; exact keeps_recallHolders _ _ h)

theorem keeps_toHome (t flat : Nat) : Keeps (toHome t flat) := fun s hs => by
  have h := keeps_mergeLine t (flat / 256) s hs
  simp only [toHome]
  refine keeps_recallHolders _ _ ?_
  split
  · exact keeps_dropLine t _ _ h
  · exact h

/-! ## Accesses at a location -/

theorem unmarkLine_mem (t a : Nat) (s : State) : (unmarkLine t a s).mem = s.mem := rfl

theorem clearMarks_mem (agent t a n : Nat) (s : State) : (clearMarks agent t a n s).mem = s.mem := by
  have fold : ∀ (l : List Nat) (s : State), (l.foldl (fun s k => unmarkLine t (a + k * lineLen a) s) s).mem = s.mem := by
    intro l
    induction l with
    | nil => exact fun _ => rfl
    | cons k l ih => exact fun s => (ih _).trans (unmarkLine_mem _ _ _)
  simp only [clearMarks]
  split
  · rfl
  · split
    · exact fold _ s
    · split
      · repeat' split
        all_goals rfl
      · rfl

theorem keepsM_readLoc (w : Who) (l : Loc) (n : Nat) : KeepsM (readLoc w l n) := by
  have read : KeepsM (do
      let s ← get
      needM (rangeOk s w.tower l.flat n) .uncorrectable (tinfo l.p.addr l.p.space 0)
      if l.p.space ≤ 1 then return memBytes s.mem l.flat n
      else
        let (s, bs) := l2Read w.tower l.flat n l.view s
        set s
        return bs) :=
    KeepsM.get_bind fun s hs => keeps_bind_at hs (KeepsM.needM _ _ _) fun _ t _ _ => by
      split
      · assumption
      · exact keeps_l2Read _ _ _ _ s hs
  unfold readLoc
  exact KeepsM.ite ((KeepsM.modify fun s hs => keeps_fillLine _ _ l.view _ (keeps_mergeLine w.tower (l.flat / 256) s hs)).bind fun _ => read) read

theorem keepsM_writeLoc (w : Who) (l : Loc) (bs : List Byte) : KeepsM (writeLoc w l bs) := KeepsM.modify fun s hs => by
  rw [clearMarks_mem]
  split
  · exact memStore_wf _ _ _ hs
  · exact keeps_l2Write _ _ _ _ _ hs

theorem keepsM_elemBytes (w : Who) (l : Loc) (x : Nat) : KeepsM (elemBytes w l x) := by
  unfold elemBytes
  split
  · exact KeepsM.pure _
  · exact (keepsM_readLoc w l 1).bind fun _ => KeepsM.pure _

/-! ## Results that leave an engine (R268) -/

theorem keepsM_posted (l : Loc) (bs : List Byte) (rel : Bool) : KeepsM (posted l bs rel) := by
  unfold posted
  split
  · refine KeepsM.modify fun s hs => ?_
    split
    · rw [emit_mem]; exact hs
    · exact hs
  · exact KeepsM.pure ()

theorem keepsM_landElem (w : Who) (l : Loc) (x : Nat) : KeepsM (do let bs ← elemBytes w l x; writeLoc w l bs; posted l bs false) :=
  (keepsM_elemBytes w l x).bind fun bs => (keepsM_writeLoc w l bs).bind fun _ => keepsM_posted l bs false

theorem keeps_landOne (c : Nat) (r : Result) : Keeps (landOne c r) := fun s hs => by
  obtain ⟨n, d, lat, pin, iss⟩ := r
  cases d with
  | acc off bs => simp only [landOne]; rw [clearMarks_mem]; exact memStore_wf _ _ _ hs
  | mem l x => exact keepsM_landElem _ _ x s hs
  | flags ve b => cases ve <;> exact hs
  | rng ve g => cases ve <;> exact hs
  | _ => exact hs

theorem keeps_landEng (c n : Nat) : Keeps (landEng c n) := fun s hs => by
  simp only [landEng]
  split
  · exact hs
  · exact Keeps.foldl (fun r => keeps_landOne c r) _ _ hs

theorem keeps_landFlight (c : Nat) : Keeps (landFlight c) := Keeps.foldl (fun n => keeps_landEng c n) [2, 3, 4, 5]
theorem keeps_landAll : Keeps landAll := fun s hs => by
  unfold landAll
  exact Keeps.foldl (f := fun s (e : Nat × Core) => landFlight e.1 s) (fun e => keeps_landFlight e.1) s.cores s hs

theorem keeps_landFirst (c : Nat) : Keeps (landFirst c) := fun s hs => by
  unfold landFirst
  split
  · exact hs
  · exact keeps_landOne c _ _ hs

/-! ## Checks before an access (R35 steps 10 to 13, R120) -/

theorem keepsM_raised (w : Who) (p : Place) (r : Raced) : KeepsM (raised w p r) := by
  unfold raised
  cases w.core with
  | some c => exact fun _ hs => hs
  | none => exact KeepsM.trapM _ _

theorem keepsM_landOwn (c n : Nat) (l : Loc) :
    KeepsM (do
      if flyingTo (← get) c n l then modify (landEng c n)
      return l) :=
  KeepsM.get.bind fun _ => by
    split
    · exact (KeepsM.modify (keeps_landEng c n)).bind fun _ => KeepsM.pure l
    · exact KeepsM.pure l

theorem keepsM_pastDump (w : Who) (l : Loc) : KeepsM (pastDump w l) := by
  unfold pastDump
  split
  · exact KeepsM.get.bind fun _ => KeepsM.ite ((KeepsM.waitM _).bind fun _ => keepsM_landOwn _ _ _) (keepsM_landOwn _ _ _)
  · exact KeepsM.pure _

theorem keepsM_performRelease (w : Who) (e : Scope) : KeepsM (performRelease w e) := KeepsM.get_bind fun s hs => by
  split
  · exact hs
  · split
    · exact keeps_writeBackAll _ s hs
    · exact hs

theorem keepsM_performAcquire (w : Who) (e : Scope) : KeepsM (performAcquire w e) :=
  KeepsM.ite (KeepsM.modify (keeps_dropAll w.tower)) (KeepsM.pure ())

/-! ## Errors outside the levels (R378) -/

/-- An error that arises changes no byte of memory, and no register's value. -/
theorem upsetAt_mem (u : Upset) (s : State) : (upsetAt u s).mem = s.mem := by
  cases u with
  | reg c l r => simp only [upsetAt]; split <;> rfl
  | bound | queue | module | amax | gusset => rfl

theorem keeps_upsetAt (u : Upset) : Keeps (upsetAt u) := .of_mem (upsetAt_mem u)

/-- A write of a scalar register ends its error, whatever stood there; one of s0 does nothing. -/
theorem wrS_bad (t : Ctl) (n : SReg) (v : Word) : n ≠ 0 → RegName.s n ∉ (t.wrS n v).bad := fun h => by
  have h : n.val ≠ 0 := fun e => h (Fin.ext e)
  simp [Ctl.wrS, h]

end Sys2Proof.Machine
end

