-- ==== Sys2Proof/Laws/PerInstr.lean ====
section
/-! SUPPORT. The family Encoding, per instruction: every word that an instruction's encoding gives fits the 32 bits of a control word or
of a record's word (R167, R171, R177). -/
namespace Sys2Proof.Laws.Encoding

/-- Every word of the encoding is a 32-bit word. -/
def Statement (i : Instr) : Prop := ∀ w ∈ encode i, w < 2 ^ 32

theorem none (w : Nat) (h : w ∈ ([] : List Nat)) : w < 2 ^ 32 := absurd h List.not_mem_nil
theorem one {x : Nat} (h : x < 2 ^ 32) : ∀ w ∈ [x], w < 2 ^ 32 := by
  intro w hw; rw [List.mem_singleton.mp hw]; exact h
theorem two {x y : Nat} (h : x < 2 ^ 32) (k : y < 2 ^ 32) : ∀ w ∈ [x, y], w < 2 ^ 32 := by
  intro w hw
  rcases List.mem_cons.mp hw with rfl | hw
  · exact h
  · exact one k w hw

theorem descWords (d : Desc) : ∀ w ∈ d.words, w < 2 ^ 32 := by
  have := d.hnd.isLt; have := b2n_lt d.pres; have := d.role.isLt; have := d.dmap.isLt; have := d.org.isLt
  have := d.st0.isLt; have := d.st1.isLt; have := d.st2.isLt; have := d.st3.isLt
  intro w hw
  simp only [Desc.words, List.mem_cons, List.not_mem_nil, or_false] at hw
  omega

/-- The words of a record. -/
theorem rec (eng op : Nat) (r : Rec) (he : eng < 16) (ho : op < 256) : ∀ w ∈ recWords eng op r, w < 2 ^ 32 := by
  have := r.rnd.isLt; have := b2n_lt r.sat; have := r.accf.isLt; have := r.levels.isLt; have := b2n_lt r.clr
  have := b2n_lt r.conj; have := b2n_lt r.trn; have := r.opx.isLt; have := r.tpop.isLt; have := r.tpush.isLt
  have := r.swait.isLt; have := r.ssig.isLt; have := b2n_lt r.flag; have := b2n_lt r.bind; have := r.pcls.isLt
  have := r.spare.isLt; have := r.tc0.isLt; have := r.tc1.isLt; have := r.tc2.isLt; have := r.tc3.isLt
  intro w hw
  simp only [recWords, List.mem_append] at hw
  rcases hw with (((hw | hw) | hw) | hw) | hw
  · simp only [List.mem_cons, List.not_mem_nil, or_false] at hw
    omega
  · exact descWords _ w hw
  · exact descWords _ w hw
  · exact descWords _ w hw
  · exact descWords _ w hw

theorem add (gd : Guard) (d : SReg) (a : SReg) (b : SReg) : Statement (.add gd d a b) := by have := d.isLt; have := a.isLt; have := b.isLt; exact one (fmtR_lt _ _ _ _ _ _ (by decide) (by omega) (by omega) (by omega) (by omega))
theorem sub (gd : Guard) (d : SReg) (a : SReg) (b : SReg) : Statement (.sub gd d a b) := by have := d.isLt; have := a.isLt; have := b.isLt; exact one (fmtR_lt _ _ _ _ _ _ (by decide) (by omega) (by omega) (by omega) (by omega))
theorem mul (gd : Guard) (d : SReg) (a : SReg) (b : SReg) : Statement (.mul gd d a b) := by have := d.isLt; have := a.isLt; have := b.isLt; exact one (fmtR_lt _ _ _ _ _ _ (by decide) (by omega) (by omega) (by omega) (by omega))
theorem mulh (gd : Guard) (d : SReg) (a : SReg) (b : SReg) : Statement (.mulh gd d a b) := by have := d.isLt; have := a.isLt; have := b.isLt; exact one (fmtR_lt _ _ _ _ _ _ (by decide) (by omega) (by omega) (by omega) (by omega))
theorem mulhu (gd : Guard) (d : SReg) (a : SReg) (b : SReg) : Statement (.mulhu gd d a b) := by have := d.isLt; have := a.isLt; have := b.isLt; exact one (fmtR_lt _ _ _ _ _ _ (by decide) (by omega) (by omega) (by omega) (by omega))
theorem div (gd : Guard) (d : SReg) (a : SReg) (b : SReg) : Statement (.div gd d a b) := by have := d.isLt; have := a.isLt; have := b.isLt; exact one (fmtR_lt _ _ _ _ _ _ (by decide) (by omega) (by omega) (by omega) (by omega))
theorem divu (gd : Guard) (d : SReg) (a : SReg) (b : SReg) : Statement (.divu gd d a b) := by have := d.isLt; have := a.isLt; have := b.isLt; exact one (fmtR_lt _ _ _ _ _ _ (by decide) (by omega) (by omega) (by omega) (by omega))
theorem rem (gd : Guard) (d : SReg) (a : SReg) (b : SReg) : Statement (.rem gd d a b) := by have := d.isLt; have := a.isLt; have := b.isLt; exact one (fmtR_lt _ _ _ _ _ _ (by decide) (by omega) (by omega) (by omega) (by omega))
theorem remu (gd : Guard) (d : SReg) (a : SReg) (b : SReg) : Statement (.remu gd d a b) := by have := d.isLt; have := a.isLt; have := b.isLt; exact one (fmtR_lt _ _ _ _ _ _ (by decide) (by omega) (by omega) (by omega) (by omega))
theorem min (gd : Guard) (d : SReg) (a : SReg) (b : SReg) : Statement (.min gd d a b) := by have := d.isLt; have := a.isLt; have := b.isLt; exact one (fmtR_lt _ _ _ _ _ _ (by decide) (by omega) (by omega) (by omega) (by omega))
theorem max (gd : Guard) (d : SReg) (a : SReg) (b : SReg) : Statement (.max gd d a b) := by have := d.isLt; have := a.isLt; have := b.isLt; exact one (fmtR_lt _ _ _ _ _ _ (by decide) (by omega) (by omega) (by omega) (by omega))
theorem minu (gd : Guard) (d : SReg) (a : SReg) (b : SReg) : Statement (.minu gd d a b) := by have := d.isLt; have := a.isLt; have := b.isLt; exact one (fmtR_lt _ _ _ _ _ _ (by decide) (by omega) (by omega) (by omega) (by omega))
theorem maxu (gd : Guard) (d : SReg) (a : SReg) (b : SReg) : Statement (.maxu gd d a b) := by have := d.isLt; have := a.isLt; have := b.isLt; exact one (fmtR_lt _ _ _ _ _ _ (by decide) (by omega) (by omega) (by omega) (by omega))
theorem and (gd : Guard) (d : SReg) (a : SReg) (b : SReg) : Statement (.and gd d a b) := by have := d.isLt; have := a.isLt; have := b.isLt; exact one (fmtR_lt _ _ _ _ _ _ (by decide) (by omega) (by omega) (by omega) (by omega))
theorem or (gd : Guard) (d : SReg) (a : SReg) (b : SReg) : Statement (.or gd d a b) := by have := d.isLt; have := a.isLt; have := b.isLt; exact one (fmtR_lt _ _ _ _ _ _ (by decide) (by omega) (by omega) (by omega) (by omega))
theorem xor (gd : Guard) (d : SReg) (a : SReg) (b : SReg) : Statement (.xor gd d a b) := by have := d.isLt; have := a.isLt; have := b.isLt; exact one (fmtR_lt _ _ _ _ _ _ (by decide) (by omega) (by omega) (by omega) (by omega))
theorem andn (gd : Guard) (d : SReg) (a : SReg) (b : SReg) : Statement (.andn gd d a b) := by have := d.isLt; have := a.isLt; have := b.isLt; exact one (fmtR_lt _ _ _ _ _ _ (by decide) (by omega) (by omega) (by omega) (by omega))
theorem sll (gd : Guard) (d : SReg) (a : SReg) (b : SReg) : Statement (.sll gd d a b) := by have := d.isLt; have := a.isLt; have := b.isLt; exact one (fmtR_lt _ _ _ _ _ _ (by decide) (by omega) (by omega) (by omega) (by omega))
theorem srl (gd : Guard) (d : SReg) (a : SReg) (b : SReg) : Statement (.srl gd d a b) := by have := d.isLt; have := a.isLt; have := b.isLt; exact one (fmtR_lt _ _ _ _ _ _ (by decide) (by omega) (by omega) (by omega) (by omega))
theorem sra (gd : Guard) (d : SReg) (a : SReg) (b : SReg) : Statement (.sra gd d a b) := by have := d.isLt; have := a.isLt; have := b.isLt; exact one (fmtR_lt _ _ _ _ _ _ (by decide) (by omega) (by omega) (by omega) (by omega))
theorem rol (gd : Guard) (d : SReg) (a : SReg) (b : SReg) : Statement (.rol gd d a b) := by have := d.isLt; have := a.isLt; have := b.isLt; exact one (fmtR_lt _ _ _ _ _ _ (by decide) (by omega) (by omega) (by omega) (by omega))
theorem clz (gd : Guard) (d : SReg) (a : SReg) : Statement (.clz gd d a) := by have := d.isLt; have := a.isLt; exact one (fmtR_lt _ _ _ _ _ _ (by decide) (by omega) (by omega) (by omega) (by omega))
theorem ctz (gd : Guard) (d : SReg) (a : SReg) : Statement (.ctz gd d a) := by have := d.isLt; have := a.isLt; exact one (fmtR_lt _ _ _ _ _ _ (by decide) (by omega) (by omega) (by omega) (by omega))
theorem popc (gd : Guard) (d : SReg) (a : SReg) : Statement (.popc gd d a) := by have := d.isLt; have := a.isLt; exact one (fmtR_lt _ _ _ _ _ _ (by decide) (by omega) (by omega) (by omega) (by omega))
theorem brev (gd : Guard) (d : SReg) (a : SReg) : Statement (.brev gd d a) := by have := d.isLt; have := a.isLt; exact one (fmtR_lt _ _ _ _ _ _ (by decide) (by omega) (by omega) (by omega) (by omega))
theorem bswap (gd : Guard) (d : SReg) (a : SReg) : Statement (.bswap gd d a) := by have := d.isLt; have := a.isLt; exact one (fmtR_lt _ _ _ _ _ _ (by decide) (by omega) (by omega) (by omega) (by omega))
theorem cmpEq (gd : Guard) (d : PReg) (a : SReg) (b : SReg) : Statement (.cmpEq gd d a b) := by have := d.isLt; have := a.isLt; have := b.isLt; exact one (fmtR_lt _ _ _ _ _ _ (by decide) (by omega) (by omega) (by omega) (by omega))
theorem cmpNe (gd : Guard) (d : PReg) (a : SReg) (b : SReg) : Statement (.cmpNe gd d a b) := by have := d.isLt; have := a.isLt; have := b.isLt; exact one (fmtR_lt _ _ _ _ _ _ (by decide) (by omega) (by omega) (by omega) (by omega))
theorem cmpLt (gd : Guard) (d : PReg) (a : SReg) (b : SReg) : Statement (.cmpLt gd d a b) := by have := d.isLt; have := a.isLt; have := b.isLt; exact one (fmtR_lt _ _ _ _ _ _ (by decide) (by omega) (by omega) (by omega) (by omega))
theorem cmpGe (gd : Guard) (d : PReg) (a : SReg) (b : SReg) : Statement (.cmpGe gd d a b) := by have := d.isLt; have := a.isLt; have := b.isLt; exact one (fmtR_lt _ _ _ _ _ _ (by decide) (by omega) (by omega) (by omega) (by omega))
theorem cmpLtu (gd : Guard) (d : PReg) (a : SReg) (b : SReg) : Statement (.cmpLtu gd d a b) := by have := d.isLt; have := a.isLt; have := b.isLt; exact one (fmtR_lt _ _ _ _ _ _ (by decide) (by omega) (by omega) (by omega) (by omega))
theorem cmpGeu (gd : Guard) (d : PReg) (a : SReg) (b : SReg) : Statement (.cmpGeu gd d a b) := by have := d.isLt; have := a.isLt; have := b.isLt; exact one (fmtR_lt _ _ _ _ _ _ (by decide) (by omega) (by omega) (by omega) (by omega))
theorem pand (gd : Guard) (d : PReg) (a : PReg) (b : PReg) : Statement (.pand gd d a b) := by have := d.isLt; have := a.isLt; have := b.isLt; exact one (fmtR_lt _ _ _ _ _ _ (by decide) (by omega) (by omega) (by omega) (by omega))
theorem por (gd : Guard) (d : PReg) (a : PReg) (b : PReg) : Statement (.por gd d a b) := by have := d.isLt; have := a.isLt; have := b.isLt; exact one (fmtR_lt _ _ _ _ _ _ (by decide) (by omega) (by omega) (by omega) (by omega))
theorem pxor (gd : Guard) (d : PReg) (a : PReg) (b : PReg) : Statement (.pxor gd d a b) := by have := d.isLt; have := a.isLt; have := b.isLt; exact one (fmtR_lt _ _ _ _ _ _ (by decide) (by omega) (by omega) (by omega) (by omega))
theorem pandn (gd : Guard) (d : PReg) (a : PReg) (b : PReg) : Statement (.pandn gd d a b) := by have := d.isLt; have := a.isLt; have := b.isLt; exact one (fmtR_lt _ _ _ _ _ _ (by decide) (by omega) (by omega) (by omega) (by omega))
theorem pnot (gd : Guard) (d : PReg) (a : PReg) : Statement (.pnot gd d a) := by have := d.isLt; have := a.isLt; exact one (fmtR_lt _ _ _ _ _ _ (by decide) (by omega) (by omega) (by omega) (by omega))
theorem pget (gd : Guard) (d : SReg) (a : PReg) : Statement (.pget gd d a) := by have := d.isLt; have := a.isLt; exact one (fmtR_lt _ _ _ _ _ _ (by decide) (by omega) (by omega) (by omega) (by omega))
theorem pset (gd : Guard) (d : PReg) (a : SReg) : Statement (.pset gd d a) := by have := d.isLt; have := a.isLt; exact one (fmtR_lt _ _ _ _ _ _ (by decide) (by omega) (by omega) (by omega) (by omega))
theorem sel (gd : Guard) (f : PReg) (d : SReg) (a : SReg) (b : SReg) : Statement (.sel gd f d a b) := by have := f.isLt; have := d.isLt; have := a.isLt; have := b.isLt; exact one (fmtR_lt _ _ _ _ _ _ (by decide) (by omega) (by omega) (by omega) (by omega))
theorem jr (gd : Guard) (a : SReg) : Statement (.jr gd a) := by have := a.isLt; exact one (fmtR_lt _ _ _ _ _ _ (by decide) (by omega) (by omega) (by omega) (by omega))
theorem jalr (gd : Guard) (d : SReg) (a : SReg) : Statement (.jalr gd d a) := by have := d.isLt; have := a.isLt; exact one (fmtR_lt _ _ _ _ _ _ (by decide) (by omega) (by omega) (by omega) (by omega))
theorem addi (gd : Guard) (d : SReg) (a : SReg) (i : BitVec 9) : Statement (.addi gd d a i) := by have := d.isLt; have := a.isLt; have := i.isLt; exact one (fmtI_lt _ _ _ _ _ (by decide) (by omega) (by omega) (by omega))
theorem andi (gd : Guard) (d : SReg) (a : SReg) (i : BitVec 9) : Statement (.andi gd d a i) := by have := d.isLt; have := a.isLt; have := i.isLt; exact one (fmtI_lt _ _ _ _ _ (by decide) (by omega) (by omega) (by omega))
theorem ori (gd : Guard) (d : SReg) (a : SReg) (i : BitVec 9) : Statement (.ori gd d a i) := by have := d.isLt; have := a.isLt; have := i.isLt; exact one (fmtI_lt _ _ _ _ _ (by decide) (by omega) (by omega) (by omega))
theorem xori (gd : Guard) (d : SReg) (a : SReg) (i : BitVec 9) : Statement (.xori gd d a i) := by have := d.isLt; have := a.isLt; have := i.isLt; exact one (fmtI_lt _ _ _ _ _ (by decide) (by omega) (by omega) (by omega))
theorem slli (gd : Guard) (d : SReg) (a : SReg) (i : Fin 64) : Statement (.slli gd d a i) := by have := d.isLt; have := a.isLt; have := i.isLt; exact one (fmtI_lt _ _ _ _ _ (by decide) (by omega) (by omega) (by omega))
theorem srli (gd : Guard) (d : SReg) (a : SReg) (i : Fin 64) : Statement (.srli gd d a i) := by have := d.isLt; have := a.isLt; have := i.isLt; exact one (fmtI_lt _ _ _ _ _ (by decide) (by omega) (by omega) (by omega))
theorem srai (gd : Guard) (d : SReg) (a : SReg) (i : Fin 64) : Statement (.srai gd d a i) := by have := d.isLt; have := a.isLt; have := i.isLt; exact one (fmtI_lt _ _ _ _ _ (by decide) (by omega) (by omega) (by omega))
theorem muli (gd : Guard) (d : SReg) (a : SReg) (i : BitVec 9) : Statement (.muli gd d a i) := by have := d.isLt; have := a.isLt; have := i.isLt; exact one (fmtI_lt _ _ _ _ _ (by decide) (by omega) (by omega) (by omega))
theorem cmpi (gd : Guard) (k : Cond) (d : PReg) (a : SReg) (i : BitVec 9) : Statement (.cmpi gd k d a i) := by have := condCode_lt k; have := d.isLt; have := a.isLt; have := i.isLt; exact one (fmtI_lt _ _ _ _ _ (by decide) (by omega) (by omega) (by omega))
theorem dbnz (gd : Guard) (d : SReg) (i : BitVec 9) : Statement (.dbnz gd d i) := by have := d.isLt; have := i.isLt; exact one (fmtI_lt _ _ _ _ _ (by decide) (by omega) (by omega) (by omega))
theorem br (gd : Guard) (o : BitVec 21) : Statement (.br gd o) := by have := o.isLt; exact one (fmtB_lt _ _ _ (by decide) (by omega))
theorem call (gd : Guard) (o : BitVec 21) : Statement (.call gd o) := by have := o.isLt; exact one (fmtB_lt _ _ _ (by decide) (by omega))
theorem hmov (gd : Guard) (d : HReg) (a : HReg) : Statement (.hmov gd d a) := by have := d.isLt; have := a.isLt; exact one (fmtR_lt _ _ _ _ _ _ (by decide) (by omega) (by omega) (by omega) (by omega))
theorem hbind (gd : Guard) (d : HReg) (a : HReg) (b : SReg) : Statement (.hbind gd d a b) := by have := d.isLt; have := a.isLt; have := b.isLt; exact one (fmtR_lt _ _ _ _ _ _ (by decide) (by omega) (by omega) (by omega) (by omega))
theorem hunb (gd : Guard) (d : HReg) (a : HReg) : Statement (.hunb gd d a) := by have := d.isLt; have := a.isLt; exact one (fmtR_lt _ _ _ _ _ _ (by decide) (by omega) (by omega) (by omega) (by omega))
theorem hchk (gd : Guard) (d : PReg) (a : HReg) : Statement (.hchk gd d a) := by have := d.isLt; have := a.isLt; exact one (fmtR_lt _ _ _ _ _ _ (by decide) (by omega) (by omega) (by omega) (by omega))
theorem hld (gd : Guard) (d : HReg) (a : SReg) (i : BitVec 9) : Statement (.hld gd d a i) := by have := d.isLt; have := a.isLt; have := i.isLt; exact one (fmtI_lt _ _ _ _ _ (by decide) (by omega) (by omega) (by omega))
theorem hget (gd : Guard) (d : SReg) (a : HReg) (f : Fin 256) : Statement (.hget gd d a f) := by have := d.isLt; have := a.isLt; have := f.isLt; exact one (fmtI_lt _ _ _ _ _ (by decide) (by omega) (by omega) (by omega))
theorem hset (gd : Guard) (d : HReg) (a : SReg) (f : Fin 256) : Statement (.hset gd d a f) := by have := d.isLt; have := a.isLt; have := f.isLt; exact one (fmtI_lt _ _ _ _ _ (by decide) (by omega) (by omega) (by omega))
theorem hoff (gd : Guard) (d : HReg) (a : SReg) (k : Fin 4) : Statement (.hoff gd d a k) := by have := d.isLt; have := a.isLt; have := k.isLt; exact one (fmtI_lt _ _ _ _ _ (by decide) (by omega) (by omega) (by omega))
theorem hslc (gd : Guard) (d : HReg) (a : SReg) (k : Fin 4) : Statement (.hslc gd d a k) := by have := d.isLt; have := a.isLt; have := k.isLt; exact one (fmtI_lt _ _ _ _ _ (by decide) (by omega) (by omega) (by omega))
theorem ld (gd : Guard) (d : SReg) (m : MOp) : Statement (.ld gd d m) := by have := d.isLt; exact one (fmtM_lt _ _ _ _ (by decide))
theorem st (gd : Guard) (d : SReg) (m : MOp) : Statement (.st gd d m) := by have := d.isLt; exact one (fmtM_lt _ _ _ _ (by decide))
theorem updAdd (gd : Guard) (d : SReg) (m : MOp) : Statement (.updAdd gd d m) := by have := d.isLt; exact one (fmtM_lt _ _ _ _ (by decide))
theorem updMin (gd : Guard) (d : SReg) (m : MOp) : Statement (.updMin gd d m) := by have := d.isLt; exact one (fmtM_lt _ _ _ _ (by decide))
theorem updMax (gd : Guard) (d : SReg) (m : MOp) : Statement (.updMax gd d m) := by have := d.isLt; exact one (fmtM_lt _ _ _ _ (by decide))
theorem msaAdd (gd : Guard) (d : SReg) (m : MOp) : Statement (.msaAdd gd d m) := by have := d.isLt; exact one (fmtM_lt _ _ _ _ (by decide))
theorem msaMax (gd : Guard) (d : SReg) (m : MOp) : Statement (.msaMax gd d m) := by have := d.isLt; exact one (fmtM_lt _ _ _ _ (by decide))
theorem msaMin (gd : Guard) (d : SReg) (m : MOp) : Statement (.msaMin gd d m) := by have := d.isLt; exact one (fmtM_lt _ _ _ _ (by decide))
theorem lpin (gd : Guard) (d : SReg) (m : MOp) : Statement (.lpin gd d m) := by have := d.isLt; exact one (fmtM_lt _ _ _ _ (by decide))
theorem lunpin (gd : Guard) (d : SReg) (m : MOp) : Statement (.lunpin gd d m) := by have := d.isLt; exact one (fmtM_lt _ _ _ _ (by decide))
theorem tlk (gd : Guard) (d : SReg) (m : MOp) : Statement (.tlk gd d m) := by have := d.isLt; exact one (fmtM_lt _ _ _ _ (by decide))
theorem tlkM (gd : Guard) (d : SReg) (m : MOp) : Statement (.tlkM gd d m) := by have := d.isLt; exact one (fmtM_lt _ _ _ _ (by decide))
theorem tins (gd : Guard) (d : SReg) (m : MOp) : Statement (.tins gd d m) := by have := d.isLt; exact one (fmtM_lt _ _ _ _ (by decide))
theorem tevc (gd : Guard) (d : SReg) (a : SReg) : Statement (.tevc gd d a) := by have := d.isLt; have := a.isLt; exact one (fmtI_lt _ _ _ _ _ (by decide) (by omega) (by omega) (by omega))
theorem gld (gd : Guard) (d : SReg) (a : GReg) : Statement (.gld gd d a) := by have := d.isLt; have := a.isLt; exact one (fmtR_lt _ _ _ _ _ _ (by decide) (by omega) (by omega) (by omega) (by omega))
theorem gst (gd : Guard) (d : GReg) (a : SReg) : Statement (.gst gd d a) := by have := d.isLt; have := a.isLt; exact one (fmtR_lt _ _ _ _ _ _ (by decide) (by omega) (by omega) (by omega) (by omega))
theorem gswp (gd : Guard) (d : SReg) (a : GReg) (b : SReg) : Statement (.gswp gd d a b) := by have := d.isLt; have := a.isLt; have := b.isLt; exact one (fmtR_lt _ _ _ _ _ _ (by decide) (by omega) (by omega) (by omega) (by omega))
theorem gadd (gd : Guard) (d : SReg) (a : GReg) (b : SReg) : Statement (.gadd gd d a b) := by have := d.isLt; have := a.isLt; have := b.isLt; exact one (fmtR_lt _ _ _ _ _ _ (by decide) (by omega) (by omega) (by omega) (by omega))
theorem gcas (gd : Guard) (d : SReg) (a : GReg) (b : SReg) : Statement (.gcas gd d a b) := by have := d.isLt; have := a.isLt; have := b.isLt; exact one (fmtR_lt _ _ _ _ _ _ (by decide) (by omega) (by omega) (by omega) (by omega))
theorem semSig (gd : Guard) (a : SemIx) (n : Fin 256) : Statement (.semSig gd a n) := by have := a.isLt; have := n.isLt; exact one (fmtI_lt _ _ _ _ _ (by decide) (by omega) (by omega) (by omega))
theorem semWait (gd : Guard) (a : SemIx) (n : Fin 256) : Statement (.semWait gd a n) := by have := a.isLt; have := n.isLt; exact one (fmtI_lt _ _ _ _ _ (by decide) (by omega) (by omega) (by omega))
theorem semRd (gd : Guard) (d : SReg) (a : SemIx) : Statement (.semRd gd d a) := by have := d.isLt; have := a.isLt; exact one (fmtR_lt _ _ _ _ _ _ (by decide) (by omega) (by omega) (by omega) (by omega))
theorem tkPush (gd : Guard) (a : TkIx) : Statement (.tkPush gd a) := by have := a.isLt; exact one (fmtR_lt _ _ _ _ _ _ (by decide) (by omega) (by omega) (by omega) (by omega))
theorem tkPop (gd : Guard) (a : TkIx) : Statement (.tkPop gd a) := by have := a.isLt; exact one (fmtR_lt _ _ _ _ _ _ (by decide) (by omega) (by omega) (by omega) (by omega))
theorem tkCnt (gd : Guard) (d : SReg) (a : TkIx) : Statement (.tkCnt gd d a) := by have := d.isLt; have := a.isLt; exact one (fmtR_lt _ _ _ _ _ _ (by decide) (by omega) (by omega) (by omega) (by omega))
theorem semaphoreWaitEnd (c : CoreId) (x : Stream) : Statement (.semaphoreWaitEnd c x) := none
theorem tokenWaitEnd (c : CoreId) (x : Stream) : Statement (.tokenWaitEnd c x) := none
theorem barArv (gd : Guard) (a : BgIx) : Statement (.barArv gd a) := by have := a.isLt; exact one (fmtR_lt _ _ _ _ _ _ (by decide) (by omega) (by omega) (by omega) (by omega))
theorem barWait (gd : Guard) (a : BgIx) : Statement (.barWait gd a) := by have := a.isLt; exact one (fmtR_lt _ _ _ _ _ _ (by decide) (by omega) (by omega) (by omega) (by omega))
theorem barAra (gd : Guard) (a : BgIx) : Statement (.barAra gd a) := by have := a.isLt; exact one (fmtR_lt _ _ _ _ _ _ (by decide) (by omega) (by omega) (by omega) (by omega))
theorem barrierWaitEnd (c : CoreId) (x : Leader) : Statement (.barrierWaitEnd c x) := none
theorem licAcq (gd : Guard) : Statement (.licAcq gd) := by exact one (fmtR_lt _ _ _ _ _ _ (by decide) (by omega) (by omega) (by omega) (by omega))
theorem licRel (gd : Guard) : Statement (.licRel gd) := by exact one (fmtR_lt _ _ _ _ _ _ (by decide) (by omega) (by omega) (by omega) (by omega))
theorem licenceDrainEnd (p : PairId) : Statement (.licenceDrainEnd p) := none
theorem licenceHandoverEnd (p : PairId) : Statement (.licenceHandoverEnd p) := none
theorem engStart (gd : Guard) (a : SReg) (m : Fin 16) : Statement (.engStart gd a m) := by have := a.isLt; have := m.isLt; exact one (fmtI_lt _ _ _ _ _ (by decide) (by omega) (by omega) (by omega))
theorem rdv (gd : Guard) : Statement (.rdv gd) := by exact one (fmtR_lt _ _ _ _ _ _ (by decide) (by omega) (by omega) (by omega) (by omega))
theorem rdvComplete (c : CoreId) (x : Leader) : Statement (.rdvComplete c x) := none
theorem jend (gd : Guard) : Statement (.jend gd) := by exact one (fmtR_lt _ _ _ _ _ _ (by decide) (by omega) (by omega) (by omega) (by omega))
theorem bndMe (gd : Guard) (k : Fin 16) (a : SReg) : Statement (.bndMe gd k a) := by have := k.isLt; have := a.isLt; exact one (fmtI_lt _ _ _ _ _ (by decide) (by omega) (by omega) (by omega))
theorem bndVe (gd : Guard) (k : Fin 16) (a : SReg) : Statement (.bndVe gd k a) := by have := k.isLt; have := a.isLt; exact one (fmtI_lt _ _ _ _ _ (by decide) (by omega) (by omega) (by omega))
theorem bndCel (gd : Guard) (k : Fin 16) (a : SReg) : Statement (.bndCel gd k a) := by have := k.isLt; have := a.isLt; exact one (fmtI_lt _ _ _ _ _ (by decide) (by omega) (by omega) (by omega))
theorem bndCes (gd : Guard) (k : Fin 16) (a : SReg) : Statement (.bndCes gd k a) := by have := k.isLt; have := a.isLt; exact one (fmtI_lt _ _ _ _ _ (by decide) (by omega) (by omega) (by omega))
theorem fenceAcq (gd : Guard) (e : Scope) : Statement (.fenceAcq gd e) := by have := scopeCode_lt e; exact one (fmtR_lt _ _ _ _ _ _ (by decide) (by omega) (by omega) (by omega) (by omega))
theorem fenceRel (gd : Guard) (e : Scope) : Statement (.fenceRel gd e) := by have := scopeCode_lt e; exact one (fmtR_lt _ _ _ _ _ _ (by decide) (by omega) (by omega) (by omega) (by omega))
theorem fenceFull (gd : Guard) (e : Scope) : Statement (.fenceFull gd e) := by have := scopeCode_lt e; exact one (fmtR_lt _ _ _ _ _ _ (by decide) (by omega) (by omega) (by omega) (by omega))
theorem fenceMsa (gd : Guard) (e : Scope) : Statement (.fenceMsa gd e) := by have := scopeCode_lt e; exact one (fmtR_lt _ _ _ _ _ _ (by decide) (by omega) (by omega) (by omega) (by omega))
theorem releaseComplete (c : CoreId) (x : Stream) : Statement (.releaseComplete c x) := none
theorem mxRd (gd : Guard) (d : SReg) (a : MxIx) : Statement (.mxRd gd d a) := by have := d.isLt; have := a.isLt; exact one (fmtR_lt _ _ _ _ _ _ (by decide) (by omega) (by omega) (by omega) (by omega))
theorem mxWr (gd : Guard) (d : MxIx) (a : SReg) : Statement (.mxWr gd d a) := by have := d.isLt; have := a.isLt; exact one (fmtR_lt _ _ _ _ _ _ (by decide) (by omega) (by omega) (by omega) (by omega))
theorem mxClr (gd : Guard) (d : MxIx) : Statement (.mxClr gd d) := by have := d.isLt; exact one (fmtR_lt _ _ _ _ _ _ (by decide) (by omega) (by omega) (by omega) (by omega))
theorem mxUpd (gd : Guard) (d : MxIx) (a : SReg) : Statement (.mxUpd gd d a) := by have := d.isLt; have := a.isLt; exact one (fmtR_lt _ _ _ _ _ _ (by decide) (by omega) (by omega) (by omega) (by omega))
theorem timeRd (gd : Guard) (d : SReg) : Statement (.timeRd gd d) := by have := d.isLt; exact one (fmtR_lt _ _ _ _ _ _ (by decide) (by omega) (by omega) (by omega) (by omega))
theorem trap (gd : Guard) (n : Fin 64) : Statement (.trap gd n) := by have := n.isLt; exact one (fmtR_lt _ _ _ _ _ _ (by decide) (by omega) (by omega) (by omega) (by omega))
theorem tret (gd : Guard) : Statement (.tret gd) := by exact one (fmtR_lt _ _ _ _ _ _ (by decide) (by omega) (by omega) (by omega) (by omega))
theorem brk (gd : Guard) (n : Fin 64) : Statement (.brk gd n) := by have := n.isLt; exact one (fmtR_lt _ _ _ _ _ _ (by decide) (by omega) (by omega) (by omega) (by omega))
theorem ctxSv (gd : Guard) (a : SReg) : Statement (.ctxSv gd a) := by have := a.isLt; exact one (fmtR_lt _ _ _ _ _ _ (by decide) (by omega) (by omega) (by omega) (by omega))
theorem ctxLd (gd : Guard) (a : SReg) : Statement (.ctxLd gd a) := by have := a.isLt; exact one (fmtR_lt _ _ _ _ _ _ (by decide) (by omega) (by omega) (by omega) (by omega))
theorem nop (gd : Guard) : Statement (.nop gd) := by exact one (fmtR_lt _ _ _ _ _ _ (by decide) (by omega) (by omega) (by omega) (by omega))
theorem li (gd : Guard) (d : SReg) (v : BitVec 32) : Statement (.li gd d v) := by have := d.isLt; have := v.isLt; exact two (fmtI_lt _ _ _ _ _ (by decide) (by omega) (by omega) (by omega)) (by omega)
theorem lih (gd : Guard) (d : SReg) (a : SReg) (v : BitVec 32) : Statement (.lih gd d a v) := by have := d.isLt; have := a.isLt; have := v.isLt; exact two (fmtI_lt _ _ _ _ _ (by decide) (by omega) (by omega) (by omega)) (by omega)
theorem addl (gd : Guard) (d : SReg) (a : SReg) (v : BitVec 32) : Statement (.addl gd d a v) := by have := d.isLt; have := a.isLt; have := v.isLt; exact two (fmtI_lt _ _ _ _ _ (by decide) (by omega) (by omega) (by omega)) (by omega)
theorem ext (gd : Guard) (d : SReg) (a : SReg) (pos : Fin 64) (w1 : Fin 64) : Statement (.ext gd d a pos w1) := by have := d.isLt; have := a.isLt; have := pos.isLt; have := w1.isLt; exact two (fmtI_lt _ _ _ _ _ (by decide) (by omega) (by omega) (by omega)) (by omega)
theorem extu (gd : Guard) (d : SReg) (a : SReg) (pos : Fin 64) (w1 : Fin 64) : Statement (.extu gd d a pos w1) := by have := d.isLt; have := a.isLt; have := pos.isLt; have := w1.isLt; exact two (fmtI_lt _ _ _ _ _ (by decide) (by omega) (by omega) (by omega)) (by omega)
theorem dep (gd : Guard) (d : SReg) (a : SReg) (pos : Fin 64) (w1 : Fin 64) : Statement (.dep gd d a pos w1) := by have := d.isLt; have := a.isLt; have := pos.isLt; have := w1.isLt; exact two (fmtI_lt _ _ _ _ _ (by decide) (by omega) (by omega) (by omega)) (by omega)
theorem brl (gd : Guard) (o : BitVec 32) : Statement (.brl gd o) := by have := o.isLt; exact two (fmtI_lt _ _ _ _ _ (by decide) (by omega) (by omega) (by omega)) (by omega)
theorem calll (gd : Guard) (o : BitVec 32) : Statement (.calll gd o) := by have := o.isLt; exact two (fmtI_lt _ _ _ _ _ (by decide) (by omega) (by omega) (by omega)) (by omega)
theorem cmpl (gd : Guard) (k : Cond) (d : PReg) (a : SReg) (v : BitVec 32) : Statement (.cmpl gd k d a v) := by have := condCode_lt k; have := d.isLt; have := a.isLt; have := v.isLt; exact two (fmtI_lt _ _ _ _ _ (by decide) (by omega) (by omega) (by omega)) (by omega)
theorem ldOrd (gd : Guard) (o : Ord) (e : Scope) (d : SReg) (m : MOp) : Statement (.ldOrd gd o e d m) := by have := ordCode_lt o; have := scopeCode_lt e; have := d.isLt; exact two (fmtI_lt _ _ _ _ _ (by decide) (by omega) (by omega) (by omega)) (Nat.lt_trans (immM_lt _ _ _ (by omega) (by omega)) (by decide))
theorem stOrd (gd : Guard) (o : Ord) (e : Scope) (m : MOp) (a : SReg) : Statement (.stOrd gd o e m a) := by have := ordCode_lt o; have := scopeCode_lt e; have := a.isLt; exact two (fmtI_lt _ _ _ _ _ (by decide) (by omega) (by omega) (by omega)) (Nat.lt_trans (immM_lt _ _ _ (by omega) (by omega)) (by decide))
theorem atomAdd (gd : Guard) (o : Ord) (e : Scope) (d : SReg) (m : MOp) (a : SReg) : Statement (.atomAdd gd o e d m a) := by have := ordCode_lt o; have := scopeCode_lt e; have := d.isLt; have := a.isLt; exact two (fmtI_lt _ _ _ _ _ (by decide) (by omega) (by omega) (by omega)) (Nat.lt_trans (immM_lt _ _ _ (by omega) (by omega)) (by decide))
theorem atomAnd (gd : Guard) (o : Ord) (e : Scope) (d : SReg) (m : MOp) (a : SReg) : Statement (.atomAnd gd o e d m a) := by have := ordCode_lt o; have := scopeCode_lt e; have := d.isLt; have := a.isLt; exact two (fmtI_lt _ _ _ _ _ (by decide) (by omega) (by omega) (by omega)) (Nat.lt_trans (immM_lt _ _ _ (by omega) (by omega)) (by decide))
theorem atomOr (gd : Guard) (o : Ord) (e : Scope) (d : SReg) (m : MOp) (a : SReg) : Statement (.atomOr gd o e d m a) := by have := ordCode_lt o; have := scopeCode_lt e; have := d.isLt; have := a.isLt; exact two (fmtI_lt _ _ _ _ _ (by decide) (by omega) (by omega) (by omega)) (Nat.lt_trans (immM_lt _ _ _ (by omega) (by omega)) (by decide))
theorem atomXor (gd : Guard) (o : Ord) (e : Scope) (d : SReg) (m : MOp) (a : SReg) : Statement (.atomXor gd o e d m a) := by have := ordCode_lt o; have := scopeCode_lt e; have := d.isLt; have := a.isLt; exact two (fmtI_lt _ _ _ _ _ (by decide) (by omega) (by omega) (by omega)) (Nat.lt_trans (immM_lt _ _ _ (by omega) (by omega)) (by decide))
theorem atomMin (gd : Guard) (o : Ord) (e : Scope) (d : SReg) (m : MOp) (a : SReg) : Statement (.atomMin gd o e d m a) := by have := ordCode_lt o; have := scopeCode_lt e; have := d.isLt; have := a.isLt; exact two (fmtI_lt _ _ _ _ _ (by decide) (by omega) (by omega) (by omega)) (Nat.lt_trans (immM_lt _ _ _ (by omega) (by omega)) (by decide))
theorem atomMax (gd : Guard) (o : Ord) (e : Scope) (d : SReg) (m : MOp) (a : SReg) : Statement (.atomMax gd o e d m a) := by have := ordCode_lt o; have := scopeCode_lt e; have := d.isLt; have := a.isLt; exact two (fmtI_lt _ _ _ _ _ (by decide) (by omega) (by omega) (by omega)) (Nat.lt_trans (immM_lt _ _ _ (by omega) (by omega)) (by decide))
theorem atomMinu (gd : Guard) (o : Ord) (e : Scope) (d : SReg) (m : MOp) (a : SReg) : Statement (.atomMinu gd o e d m a) := by have := ordCode_lt o; have := scopeCode_lt e; have := d.isLt; have := a.isLt; exact two (fmtI_lt _ _ _ _ _ (by decide) (by omega) (by omega) (by omega)) (Nat.lt_trans (immM_lt _ _ _ (by omega) (by omega)) (by decide))
theorem atomMaxu (gd : Guard) (o : Ord) (e : Scope) (d : SReg) (m : MOp) (a : SReg) : Statement (.atomMaxu gd o e d m a) := by have := ordCode_lt o; have := scopeCode_lt e; have := d.isLt; have := a.isLt; exact two (fmtI_lt _ _ _ _ _ (by decide) (by omega) (by omega) (by omega)) (Nat.lt_trans (immM_lt _ _ _ (by omega) (by omega)) (by decide))
theorem atomSwp (gd : Guard) (o : Ord) (e : Scope) (d : SReg) (m : MOp) (a : SReg) : Statement (.atomSwp gd o e d m a) := by have := ordCode_lt o; have := scopeCode_lt e; have := d.isLt; have := a.isLt; exact two (fmtI_lt _ _ _ _ _ (by decide) (by omega) (by omega) (by omega)) (Nat.lt_trans (immM_lt _ _ _ (by omega) (by omega)) (by decide))
theorem atomCas (gd : Guard) (o : Ord) (e : Scope) (d : SReg) (m : MOp) (a : SReg) (b : SReg) : Statement (.atomCas gd o e d m a b) := by have := ordCode_lt o; have := scopeCode_lt e; have := d.isLt; have := a.isLt; have := b.isLt; exact two (fmtI_lt _ _ _ _ _ (by decide) (by omega) (by omega) (by omega)) (Nat.lt_trans (immM_lt _ _ _ (by omega) (by omega)) (by decide))
theorem waddr (gd : Guard) (k : Cond) (e : Scope) (d : SReg) (m : MOp) (a : SReg) : Statement (.waddr gd k e d m a) := by have := condCode_lt k; have := scopeCode_lt e; have := d.isLt; have := a.isLt; have := ordCode_lt Ord.acq; exact two (fmtI_lt _ _ _ _ _ (by decide) (by omega) (by omega) (by omega)) (Nat.lt_trans (immM_lt _ _ _ (by omega) (by omega)) (by decide))
theorem waddrReevaluate (c : CoreId) (x : Leader) : Statement (.waddrReevaluate c x) := none
theorem qClaim (gd : Guard) (e : Scope) (d : SReg) (m : MOp) (a : SReg) : Statement (.qClaim gd e d m a) := by have := scopeCode_lt e; have := d.isLt; have := a.isLt; have := ordCode_lt Ord.acqrel; exact two (fmtI_lt _ _ _ _ _ (by decide) (by omega) (by omega) (by omega)) (Nat.lt_trans (immM_lt _ _ _ (by omega) (by omega)) (by decide))
theorem qRing (gd : Guard) (e : Scope) (m : MOp) (a : SReg) : Statement (.qRing gd e m a) := by have := scopeCode_lt e; have := a.isLt; have := ordCode_lt Ord.rel; exact two (fmtI_lt _ _ _ _ _ (by decide) (by omega) (by omega) (by omega)) (Nat.lt_trans (immM_lt _ _ _ (by omega) (by omega)) (by decide))
theorem csrRd (gd : Guard) (d : SReg) (n : Fin 4096) : Statement (.csrRd gd d n) := by have := d.isLt; have := n.isLt; exact two (fmtI_lt _ _ _ _ _ (by decide) (by omega) (by omega) (by omega)) (by omega)
theorem csrWr (gd : Guard) (n : Fin 4096) (a : SReg) : Statement (.csrWr gd n a) := by have := n.isLt; have := a.isLt; exact two (fmtI_lt _ _ _ _ _ (by decide) (by omega) (by omega) (by omega)) (by omega)
theorem csrSet (gd : Guard) (d : SReg) (a : SReg) (n : Fin 4096) : Statement (.csrSet gd d a n) := by have := d.isLt; have := a.isLt; have := n.isLt; exact two (fmtI_lt _ _ _ _ _ (by decide) (by omega) (by omega) (by omega)) (by omega)
theorem csrClr (gd : Guard) (d : SReg) (a : SReg) (n : Fin 4096) : Statement (.csrClr gd d a n) := by have := d.isLt; have := a.isLt; have := n.isLt; exact two (fmtI_lt _ _ _ _ _ (by decide) (by omega) (by omega) (by omega)) (by omega)
theorem plainRegisterWrite (n : Fin 4096) (v : Word) : Statement (.plainRegisterWrite n v) := none
theorem recordHead (c : CoreId) (e : Eng) : Statement (.recordHead c e) := none
theorem recordEntry (c : CoreId) (e : Eng) : Statement (.recordEntry c e) := none
theorem recordOperandRead (c : CoreId) (e : Eng) : Statement (.recordOperandRead c e) := none
theorem recordIssue (c : CoreId) (e : Eng) : Statement (.recordIssue c e) := none
theorem recordCompletion (c : CoreId) (e : Eng) : Statement (.recordCompletion c e) := none
theorem reservationArbitrate (k : Fin 256) : Statement (.reservationArbitrate k) := none
theorem seqEnd (r : Rec) : Statement (.seqEnd r) := rec 0 1 r (by decide) (by decide)
theorem seqWait (r : Rec) : Statement (.seqWait r) := rec 0 2 r (by decide) (by decide)
theorem seqJmp (r : Rec) : Statement (.seqJmp r) := rec 0 3 r (by decide) (by decide)
theorem seqJz (r : Rec) : Statement (.seqJz r) := rec 0 4 r (by decide) (by decide)
theorem seqJnz (r : Rec) : Statement (.seqJnz r) := rec 0 5 r (by decide) (by decide)
theorem meMma (r : Rec) : Statement (.meMma r) := rec 1 1 r (by decide) (by decide)
theorem meCmma (r : Rec) : Statement (.meCmma r) := rec 1 2 r (by decide) (by decide)
theorem meClr (r : Rec) : Statement (.meClr r) := rec 1 3 r (by decide) (by decide)
theorem meBld (r : Rec) : Statement (.meBld r) := rec 1 4 r (by decide) (by decide)
theorem meDrn (r : Rec) : Statement (.meDrn r) := rec 1 5 r (by decide) (by decide)
theorem meDrq (r : Rec) : Statement (.meDrq r) := rec 1 6 r (by decide) (by decide)
theorem meFragLend (r : Rec) : Statement (.meFragLend r) := rec 1 7 r (by decide) (by decide)
theorem meFragReclaim (r : Rec) : Statement (.meFragReclaim r) := rec 1 7 r (by decide) (by decide)
theorem meAld (r : Rec) : Statement (.meAld r) := rec 1 8 r (by decide) (by decide)
theorem meAst (r : Rec) : Statement (.meAst r) := rec 1 9 r (by decide) (by decide)
theorem meSbw (r : Rec) : Statement (.meSbw r) := rec 1 10 r (by decide) (by decide)
theorem veAdd (r : Rec) : Statement (.veAdd r) := rec 2 1 r (by decide) (by decide)
theorem veSub (r : Rec) : Statement (.veSub r) := rec 2 2 r (by decide) (by decide)
theorem veMul (r : Rec) : Statement (.veMul r) := rec 2 3 r (by decide) (by decide)
theorem veMin (r : Rec) : Statement (.veMin r) := rec 2 4 r (by decide) (by decide)
theorem veMax (r : Rec) : Statement (.veMax r) := rec 2 5 r (by decide) (by decide)
theorem veAnd (r : Rec) : Statement (.veAnd r) := rec 2 6 r (by decide) (by decide)
theorem veOr (r : Rec) : Statement (.veOr r) := rec 2 7 r (by decide) (by decide)
theorem veXor (r : Rec) : Statement (.veXor r) := rec 2 8 r (by decide) (by decide)
theorem veShl (r : Rec) : Statement (.veShl r) := rec 2 9 r (by decide) (by decide)
theorem veShr (r : Rec) : Statement (.veShr r) := rec 2 10 r (by decide) (by decide)
theorem veAbs (r : Rec) : Statement (.veAbs r) := rec 2 11 r (by decide) (by decide)
theorem veFadd (r : Rec) : Statement (.veFadd r) := rec 2 16 r (by decide) (by decide)
theorem veFsub (r : Rec) : Statement (.veFsub r) := rec 2 17 r (by decide) (by decide)
theorem veFmul (r : Rec) : Statement (.veFmul r) := rec 2 18 r (by decide) (by decide)
theorem veFma (r : Rec) : Statement (.veFma r) := rec 2 19 r (by decide) (by decide)
theorem veFmin (r : Rec) : Statement (.veFmin r) := rec 2 20 r (by decide) (by decide)
theorem veFmax (r : Rec) : Statement (.veFmax r) := rec 2 21 r (by decide) (by decide)
theorem veFabs (r : Rec) : Statement (.veFabs r) := rec 2 22 r (by decide) (by decide)
theorem veFneg (r : Rec) : Statement (.veFneg r) := rec 2 23 r (by decide) (by decide)
theorem veExp2 (r : Rec) : Statement (.veExp2 r) := rec 2 32 r (by decide) (by decide)
theorem veLog2 (r : Rec) : Statement (.veLog2 r) := rec 2 33 r (by decide) (by decide)
theorem veRcp (r : Rec) : Statement (.veRcp r) := rec 2 34 r (by decide) (by decide)
theorem veRsqrt (r : Rec) : Statement (.veRsqrt r) := rec 2 35 r (by decide) (by decide)
theorem veSqrt (r : Rec) : Statement (.veSqrt r) := rec 2 36 r (by decide) (by decide)
theorem veTanh (r : Rec) : Statement (.veTanh r) := rec 2 37 r (by decide) (by decide)
theorem veSin (r : Rec) : Statement (.veSin r) := rec 2 38 r (by decide) (by decide)
theorem veCos (r : Rec) : Statement (.veCos r) := rec 2 39 r (by decide) (by decide)
theorem veCvt (r : Rec) : Statement (.veCvt r) := rec 2 48 r (by decide) (by decide)
theorem veQuant (r : Rec) : Statement (.veQuant r) := rec 2 49 r (by decide) (by decide)
theorem veDequant (r : Rec) : Statement (.veDequant r) := rec 2 50 r (by decide) (by decide)
theorem veAmax (r : Rec) : Statement (.veAmax r) := rec 2 51 r (by decide) (by decide)
theorem veRsum (r : Rec) : Statement (.veRsum r) := rec 2 56 r (by decide) (by decide)
theorem veRmax (r : Rec) : Statement (.veRmax r) := rec 2 57 r (by decide) (by decide)
theorem veRmin (r : Rec) : Statement (.veRmin r) := rec 2 58 r (by decide) (by decide)
theorem veScan (r : Rec) : Statement (.veScan r) := rec 2 59 r (by decide) (by decide)
theorem veRsumsq (r : Rec) : Statement (.veRsumsq r) := rec 2 60 r (by decide) (by decide)
theorem veCmp (r : Rec) : Statement (.veCmp r) := rec 2 64 r (by decide) (by decide)
theorem veSel (r : Rec) : Statement (.veSel r) := rec 2 65 r (by decide) (by decide)
theorem veAcs (r : Rec) : Statement (.veAcs r) := rec 2 66 r (by decide) (by decide)
theorem vePerm (r : Rec) : Statement (.vePerm r) := rec 2 72 r (by decide) (by decide)
theorem veTrn (r : Rec) : Statement (.veTrn r) := rec 2 73 r (by decide) (by decide)
theorem veBcast (r : Rec) : Statement (.veBcast r) := rec 2 74 r (by decide) (by decide)
theorem veGath (r : Rec) : Statement (.veGath r) := rec 2 75 r (by decide) (by decide)
theorem veScat (r : Rec) : Statement (.veScat r) := rec 2 76 r (by decide) (by decide)
theorem veRng (r : Rec) : Statement (.veRng r) := rec 2 80 r (by decide) (by decide)
theorem veIota (r : Rec) : Statement (.veIota r) := rec 2 81 r (by decide) (by decide)
theorem ceCp (r : Rec) : Statement (.ceCp r) := rec 3 1 r (by decide) (by decide)
theorem ceLq (r : Rec) : Statement (.ceLq r) := rec 3 2 r (by decide) (by decide)
theorem ceFill (r : Rec) : Statement (.ceFill r) := rec 3 3 r (by decide) (by decide)
theorem ceOvl (r : Rec) : Statement (.ceOvl r) := rec 3 4 r (by decide) (by decide)
theorem ceFlag (r : Rec) : Statement (.ceFlag r) := rec 3 5 r (by decide) (by decide)
theorem ceCpx (r : Rec) : Statement (.ceCpx r) := rec 3 6 r (by decide) (by decide)
theorem fabPint (r : Rec) : Statement (.fabPint r) := rec 3 32 r (by decide) (by decide)
theorem fabSend (r : Rec) : Statement (.fabSend r) := rec 3 33 r (by decide) (by decide)
theorem fabWr (r : Rec) : Statement (.fabWr r) := rec 3 34 r (by decide) (by decide)
theorem fabAtom (r : Rec) : Statement (.fabAtom r) := rec 3 35 r (by decide) (by decide)
theorem fabReq (r : Rec) : Statement (.fabReq r) := rec 3 36 r (by decide) (by decide)
theorem fabCollSeed (r : Rec) : Statement (.fabCollSeed r) := rec 3 37 r (by decide) (by decide)
theorem fabCollReduce (r : Rec) : Statement (.fabCollReduce r) := rec 3 37 r (by decide) (by decide)
theorem fabCollPut (r : Rec) : Statement (.fabCollPut r) := rec 3 37 r (by decide) (by decide)
theorem fabCollCommit (r : Rec) : Statement (.fabCollCommit r) := rec 3 37 r (by decide) (by decide)
theorem fabSeamAccum (r : Rec) : Statement (.fabSeamAccum r) := rec 3 38 r (by decide) (by decide)
theorem fabSeamVote (r : Rec) : Statement (.fabSeamVote r) := rec 3 38 r (by decide) (by decide)
theorem fabMcast (r : Rec) : Statement (.fabMcast r) := rec 3 39 r (by decide) (by decide)
theorem fabPrio (r : Rec) : Statement (.fabPrio r) := rec 3 40 r (by decide) (by decide)
theorem fabTkr (r : Rec) : Statement (.fabTkr r) := rec 3 41 r (by decide) (by decide)
theorem stashPut (r : Rec) : Statement (.stashPut r) := rec 4 1 r (by decide) (by decide)
theorem stashGet (r : Rec) : Statement (.stashGet r) := rec 4 2 r (by decide) (by decide)
theorem stashDrop (r : Rec) : Statement (.stashDrop r) := rec 4 3 r (by decide) (by decide)
theorem stashPf (r : Rec) : Statement (.stashPf r) := rec 4 4 r (by decide) (by decide)
theorem bobbinOffload (k : DieId) : Statement (.bobbinOffload k) := none
theorem deviceReset : Statement (.deviceReset) := none
theorem auxPowerLoss : Statement (.auxPowerLoss) := none
theorem patrolScrub (level : Fin 7) (unit : Nat) (r : ScrubResult) : Statement (.patrolScrub level unit r) := none
theorem translationWalk (c : CoreId) (x : Stream) (va : Nat) : Statement (.translationWalk c x va) := none
theorem unmap : Statement (.unmap) := none
theorem unmapDone : Statement (.unmapDone) := none
theorem migrateBegin : Statement (.migrateBegin) := none
theorem migrateBeginDone : Statement (.migrateBeginDone) := none
theorem migrateEnd : Statement (.migrateEnd) := none
theorem migrateAbort : Statement (.migrateAbort) := none
theorem flushCtx : Statement (.flushCtx) := none
theorem flushCtxDone : Statement (.flushCtxDone) := none
theorem ltInval : Statement (.ltInval) := none
theorem badcmd (op : Fin 16) : Statement (.badcmd op) := none
theorem updateLineMerge (t : TowerId) (line : Nat) : Statement (.updateLineMerge t line) := none
theorem msaApply (n : Nat) : Statement (.msaApply n) := none
theorem keySlotLoad (k : Fin 8192) (key : Nat) : Statement (.keySlotLoad k key) := none
theorem keySlotUnload (k : Fin 8192) : Statement (.keySlotUnload k) := none
theorem ttCfgWrite (v : Word) : Statement (.ttCfgWrite v) := none
theorem dmrGlobalWrite (v : Word) : Statement (.dmrGlobalWrite v) := none
theorem bgDataWrite (v : Word) : Statement (.bgDataWrite v) := none
theorem licCtlWrite (v : Word) : Statement (.licCtlWrite v) := none
theorem lstartWrite (v : Word) : Statement (.lstartWrite v) := none
theorem leaderStart (c : CoreId) (x : Leader) : Statement (.leaderStart c x) := none
theorem cpqDataWrite (v : Word) : Statement (.cpqDataWrite v) := none
theorem queueEnable (t : TowerId) (q : Fin 64) : Statement (.queueEnable t q) := none
theorem doorbell (t : TowerId) (q : Fin 64) : Statement (.doorbell t q) := none
theorem waitPacketPoll (t : TowerId) (q : Fin 64) : Statement (.waitPacketPoll t q) := none
theorem packetComplete (t : TowerId) (q : Fin 64) (n : Nat) : Statement (.packetComplete t q n) := none
theorem gangRootTimeout (g : BgIx) (id : Nat) : Statement (.gangRootTimeout g id) := none
theorem gangMemberTimeout (g : BgIx) (id : Nat) : Statement (.gangMemberTimeout g id) := none
theorem mbsDataWrite (v : Word) : Statement (.mbsDataWrite v) := none
theorem mbsEnqWrite (v : Word) : Statement (.mbsEnqWrite v) := none
theorem mbsVerWrite (v : Word) : Statement (.mbsVerWrite v) := none
theorem mbsEvaluate : Statement (.mbsEvaluate) := none
theorem mbsJobEnd (s : Fin 16) (k : Fin 3) (tag : Fin 4096) : Statement (.mbsJobEnd s k tag) := none
theorem bobKeepWrite (v : Word) : Statement (.bobKeepWrite v) := none
theorem bobSpillWrite (v : Word) : Statement (.bobSpillWrite v) := none
theorem bobThrWrite (v : Word) : Statement (.bobThrWrite v) := none
theorem engineTrapDeliver (c : CoreId) (x : Leader) : Statement (.engineTrapDeliver c x) := none
theorem engCtlResume (m : Fin 16) : Statement (.engCtlResume m) := none
theorem engTrapPcWrite (e : Eng) (pc : Fin 262144) : Statement (.engTrapPcWrite e pc) := none
theorem preemptStop (c : CoreId) : Statement (.preemptStop c) := none
theorem preemptStopDone (c : CoreId) : Statement (.preemptStopDone c) := none
theorem preemptNotify (c : CoreId) : Statement (.preemptNotify c) := none
theorem preemptResume (c : CoreId) : Statement (.preemptResume c) := none
theorem dumpReinject (c : CoreId) : Statement (.dumpReinject c) := none
theorem queueTimeout (c : CoreId) (x : Stream) : Statement (.queueTimeout c x) := none
theorem jflushWrite (v : Word) : Statement (.jflushWrite v) := none
theorem remoteOrphan (id : Nat) : Statement (.remoteOrphan id) := none
theorem tokenExpiry (c : CoreId) (k : Fin 18) (src : Nat) (n : Nat) : Statement (.tokenExpiry c k src n) := none
theorem remoteWrite (m : RemoteAcc) : Statement (.remoteWrite m) := none
theorem remoteAtomic (m : RemoteAcc) (op : Fin 16) (x : Word) (y : Word) : Statement (.remoteAtomic m op x y) := none
theorem ack (id : Nat) (status : AckInfo) : Statement (.ack id status) := none
theorem intent (i : MsgId) (n : IntentInfo) : Statement (.intent i n) := none
theorem intentResend (c : CoreId) (k : Fin 18) : Statement (.intentResend c k) := none
theorem grant (c : CoreId) (k : Fin 18) (src : Nat) (ep : Nat) (n : Nat) (ex : Nat) : Statement (.grant c k src ep n ex) := none
theorem grantSchedule : Statement (.grantSchedule) := none
theorem chunkArrive (i : MsgId) (n : Nat) (p : ChunkInfo) : Statement (.chunkArrive i n p) := none
theorem tokenAbandon (i : MsgId) (n : Nat) : Statement (.tokenAbandon i n) := none
theorem returnTok (i : MsgId) (n : Nat) : Statement (.returnTok i n) := none
theorem suspend (i : MsgId) (ns : List Nat) : Statement (.suspend i ns) := none
theorem cancel (i : MsgId) : Statement (.cancel i) := none
theorem messageWithdraw (i : MsgId) : Statement (.messageWithdraw i) := none
theorem withdraw (c : CoreId) (k : Fin 18) (ep : Nat) : Statement (.withdraw c k ep) := none
theorem arrive (g : BgIx) (src : Nat) : Statement (.arrive g src) := none
theorem complete (g : BgIx) (gen : Nat) : Statement (.complete g gen) := none
theorem prepared (g : BgIx) (id : Nat) (src : Nat) : Statement (.prepared g id src) := none
theorem decision (g : BgIx) (id : Nat) (commit : Bool) : Statement (.decision g id commit) := none
theorem vote (v : VoteInfo) : Statement (.vote v) := none
theorem voteRootTimeout : Statement (.voteRootTimeout) := none
theorem result (step : Nat) (d : VoteDecision) (mask : Nat) : Statement (.result step d mask) := none
theorem voteResultTimeout : Statement (.voteResultTimeout) := none
theorem flitCrcFail (l : Fin 16) : Statement (.flitCrcFail l) := none
theorem linkRetrain (l : Fin 16) (good : Fin 10) : Statement (.linkRetrain l good) := none
theorem laneSample (l : Fin 16) (n : Fin 9) (cerr : Nat) (margin : Nat) : Statement (.laneSample l n cerr margin) := none
theorem lanePropose (l : Fin 16) (n : Fin 9) (q : Nat) : Statement (.lanePropose l n q) := none
theorem laneAck (l : Fin 16) (n : Fin 9) (q : Nat) : Statement (.laneAck l n q) := none
theorem laneNak (l : Fin 16) (n : Fin 9) (q : Nat) : Statement (.laneNak l n q) := none
theorem laneProposeTimeout (l : Fin 16) : Statement (.laneProposeTimeout l) := none
theorem selvedgeSwap (l : Fin 16) : Statement (.selvedgeSwap l) := none
theorem fabRingWrite (v : Word) : Statement (.fabRingWrite v) := none
theorem gsCtlWrite (v : Word) : Statement (.gsCtlWrite v) := none
theorem mcgDataWrite (v : Word) : Statement (.mcgDataWrite v) := none
theorem fbtDataWrite (v : Word) : Statement (.fbtDataWrite v) := none
theorem sltDataWrite (v : Word) : Statement (.sltDataWrite v) := none
theorem sltSwap : Statement (.sltSwap) := none
theorem slotBankChange : Statement (.slotBankChange) := none
theorem egrLimWrite (v : Word) : Statement (.egrLimWrite v) := none
theorem peerCtxWrite (v : Word) : Statement (.peerCtxWrite v) := none
theorem hostLinkTrain (gen : Nat) (width : Nat) (cxl2 : Bool) (cxl3 : Bool) : Statement (.hostLinkTrain gen width cxl2 cxl3) := none
theorem hostPostedWrite (off : BarAt) (bs : List Byte) (relaxed : Bool) : Statement (.hostPostedWrite off bs relaxed) := none
theorem hostMemoryRead (off : BarAt) (n : Nat) : Statement (.hostMemoryRead off n) := none
theorem hostAtomicop (off : Nat) (op : HostAtomic) (wide : Bool) (x : Word) (y : Word) : Statement (.hostAtomicop off op wide x y) := none
theorem cxlMemWrite (off : Nat) (bs : List Byte) : Statement (.cxlMemWrite off bs) := none
theorem cxlMemRead (off : Nat) (n : Nat) : Statement (.cxlMemRead off n) := none
theorem hostRegWrite (off : Nat) (width : Nat) (v : Word) : Statement (.hostRegWrite off width v) := none
theorem hostCompletion (c : HostAsker) (x : Stream) (r : HostReply) : Statement (.hostCompletion c x r) := none
theorem hostCompletionTimeout (c : HostAsker) (x : Stream) : Statement (.hostCompletionTimeout c x) := none
theorem dvfsCtlWrite (v : Word) : Statement (.dvfsCtlWrite v) := none
theorem dvfsTransitionEnd (k : DieId) : Statement (.dvfsTransitionEnd k) := none
theorem governorSample (p10 : Nat) (p1s : Nat) : Statement (.governorSample p10 p1s) := none
theorem thermalSample (t : TowerId) (rd : List (Nat × Nat)) : Statement (.thermalSample t rd) := none
theorem pwrCapWrite (v : Word) : Statement (.pwrCapWrite v) := none
theorem pclsDataWrite (v : Word) : Statement (.pclsDataWrite v) := none
theorem thCtlWrite (v : Word) : Statement (.thCtlWrite v) := none
theorem ckptStart : Statement (.ckptStart) := none
theorem ckptQuiesceDone : Statement (.ckptQuiesceDone) := none
theorem ckptWriteDone : Statement (.ckptWriteDone) := none
theorem ckptRestore : Statement (.ckptRestore) := none
theorem timeSyncSend : Statement (.timeSyncSend) := none
theorem timeMessage (t : Word) : Statement (.timeMessage t) := none
theorem trcCtlWrite (v : Word) : Statement (.trcCtlWrite v) := none
theorem dbgHalt (src : Option Nat) (c : CoreId) (all : Bool) : Statement (.dbgHalt src c all) := none
theorem dbgResume (src : Option Nat) (c : CoreId) (all : Bool) : Statement (.dbgResume src c all) := none
theorem dbgHaltAt (src : Option Nat) (t : Word) : Statement (.dbgHaltAt src t) := none
theorem haltAtTrigger : Statement (.haltAtTrigger) := none
theorem dbgHaltSc (src : Option Nat) (c : CoreId) (n : Nat) : Statement (.dbgHaltSc src c n) := none
theorem haltScTrigger (c : CoreId) : Statement (.haltScTrigger c) := none
theorem dbgRdCsr (src : Option Nat) (c : CoreId) (n : Fin 4096) : Statement (.dbgRdCsr src c n) := none
theorem dbgRdMem (src : Option Nat) (pa : Nat) : Statement (.dbgRdMem src pa) := none
theorem dbgRdStamp (src : Option Nat) (c : CoreId) (off : Nat) (w : Nat) : Statement (.dbgRdStamp src c off w) := none
theorem dbgBadOp : Statement (.dbgBadOp) := none
theorem dbgCommandTimeout : Statement (.dbgCommandTimeout) := none
theorem replayCtlWrite (v : Word) : Statement (.replayCtlWrite v) := none
theorem replayIncrement : Statement (.replayIncrement) := none
theorem powerOn : Statement (.powerOn) := none
theorem hostLinkDown : Statement (.hostLinkDown) := none
theorem tsyncWrite (v : Word) : Statement (.tsyncWrite v) := none

end Sys2Proof.Laws.Encoding
end

