-- ==== Sys2Proof/Tests/Slice0.lean ====
section
/-! SUPPORT. Tests: words written out from the spec's encodings, ill-formed terms, single steps on small states, and a witness for the
hypotheses of each statement. -/
namespace Sys2Proof.Tests
open Sys2Proof.Machine Sys2Proof.Claims

set_option maxRecDepth 20000
set_option Elab.async false

/-- The guard that the tests encode: p2, sense 1. -/
abbrev g : Guard := ⟨2, true⟩

/-- Words of Formats R, I, B and M (R167) with GP = 2 and GS = 1; SUB and the second word of the 0x79 forms (R175). -/
def wR (maj d a b fn : Nat) : Nat := maj * 2 ^ 25 + 2 * 2 ^ 22 + 2 ^ 21 + d * 2 ^ 15 + a * 2 ^ 9 + b * 2 ^ 3 + fn
def wI (maj d a imm : Nat) : Nat := maj * 2 ^ 25 + 2 * 2 ^ 22 + 2 ^ 21 + d * 2 ^ 15 + a * 2 ^ 9 + imm
def wB (maj off : Nat) : Nat := maj * 2 ^ 25 + 2 * 2 ^ 22 + 2 ^ 21 + off
def wM (maj d h c cp off : Nat) : Nat := maj * 2 ^ 25 + 2 * 2 ^ 22 + 2 ^ 21 + d * 2 ^ 15 + h * 2 ^ 10 + c * 2 ^ 4 + cp * 2 ^ 3 + off
def wSub (op o e : Nat) : Nat := op * 2 ^ 5 + o * 2 ^ 3 + e
def wL (b cond : Nat) : Nat := cond * 2 ^ 21 + b * 2 ^ 15 + 7 * 2 ^ 12 + 62 * 2 ^ 6 + 2 ^ 5 + 5

/-- The memory operand of these words: h5, S(62) and S(63), offset 7. -/
abbrev mo : MOp := ⟨5, 62, true, 7⟩

/-- Words written out from R193, MAJOR 0x00 to 0x02: MAJOR, GP = 2 and GS = 1, then the format's fields. -/
theorem test_decode_integer :
    decodeControl (wR 0x00 10 11 12 0) 0 = some (.add g 10 11 12) ∧
    decodeControl (wR 0x00 10 11 12 1) 0 = some (.sub g 10 11 12) ∧
    decodeControl (wR 0x00 10 11 12 2) 0 = some (.mul g 10 11 12) ∧
    decodeControl (wR 0x00 10 11 12 3) 0 = some (.mulh g 10 11 12) ∧
    decodeControl (wR 0x00 10 11 12 4) 0 = some (.mulhu g 10 11 12) ∧
    decodeControl (wR 0x00 10 11 12 5) 0 = some (.div g 10 11 12) ∧
    decodeControl (wR 0x00 10 11 12 6) 0 = some (.divu g 10 11 12) ∧
    decodeControl (wR 0x00 10 11 12 7) 0 = some (.rem g 10 11 12) ∧
    decodeControl (wR 0x01 10 11 12 0) 0 = some (.remu g 10 11 12) ∧
    decodeControl (wR 0x01 10 11 12 1) 0 = some (.min g 10 11 12) ∧
    decodeControl (wR 0x01 10 11 12 2) 0 = some (.max g 10 11 12) ∧
    decodeControl (wR 0x01 10 11 12 3) 0 = some (.minu g 10 11 12) ∧
    decodeControl (wR 0x01 10 11 12 4) 0 = some (.maxu g 10 11 12) ∧
    decodeControl (wR 0x02 10 11 12 0) 0 = some (.and g 10 11 12) ∧
    decodeControl (wR 0x02 10 11 12 1) 0 = some (.or g 10 11 12) ∧
    decodeControl (wR 0x02 10 11 12 2) 0 = some (.xor g 10 11 12) ∧
    decodeControl (wR 0x02 10 11 12 3) 0 = some (.andn g 10 11 12) ∧
    decodeControl (wR 0x02 10 11 12 4) 0 = some (.sll g 10 11 12) ∧
    decodeControl (wR 0x02 10 11 12 5) 0 = some (.srl g 10 11 12) ∧
    decodeControl (wR 0x02 10 11 12 6) 0 = some (.sra g 10 11 12) ∧
    decodeControl (wR 0x02 10 11 12 7) 0 = some (.rol g 10 11 12) := by decide

/-- Words written out from R195, MAJOR 0x03: MAJOR, GP = 2 and GS = 1, then the format's fields. -/
theorem test_decode_unary :
    decodeControl (wR 0x03 63 1 0 0) 0 = some (.clz g 63 1) ∧
    decodeControl (wR 0x03 63 1 0 1) 0 = some (.ctz g 63 1) ∧
    decodeControl (wR 0x03 63 1 0 2) 0 = some (.popc g 63 1) ∧
    decodeControl (wR 0x03 63 1 0 3) 0 = some (.brev g 63 1) ∧
    decodeControl (wR 0x03 63 1 0 4) 0 = some (.bswap g 63 1) := by decide

/-- Words written out from R199-R201, MAJOR 0x04 to 0x06, 0x10: MAJOR, GP = 2 and GS = 1, then the format's fields. -/
theorem test_decode_predicates :
    decodeControl (wR 0x04 7 11 12 0) 0 = some (.cmpEq g 7 11 12) ∧
    decodeControl (wR 0x04 7 11 12 1) 0 = some (.cmpNe g 7 11 12) ∧
    decodeControl (wR 0x04 7 11 12 2) 0 = some (.cmpLt g 7 11 12) ∧
    decodeControl (wR 0x04 7 11 12 3) 0 = some (.cmpGe g 7 11 12) ∧
    decodeControl (wR 0x04 7 11 12 4) 0 = some (.cmpLtu g 7 11 12) ∧
    decodeControl (wR 0x04 7 11 12 5) 0 = some (.cmpGeu g 7 11 12) ∧
    decodeControl (wR 0x05 1 2 3 0) 0 = some (.pand g 1 2 3) ∧
    decodeControl (wR 0x05 1 2 3 1) 0 = some (.por g 1 2 3) ∧
    decodeControl (wR 0x05 1 2 3 2) 0 = some (.pxor g 1 2 3) ∧
    decodeControl (wR 0x05 1 2 3 3) 0 = some (.pandn g 1 2 3) ∧
    decodeControl (wR 0x05 1 2 0 4) 0 = some (.pnot g 1 2) ∧
    decodeControl (wR 0x05 40 2 0 5) 0 = some (.pget g 40 2) ∧
    decodeControl (wR 0x05 1 40 0 6) 0 = some (.pset g 1 40) ∧
    decodeControl (wR 0x06 5 6 7 3) 0 = some (.sel g 3 5 6 7) ∧
    decodeControl (wI 0x10 38 9 0x1FF) 0 = some (.cmpi g .ltu 6 9 0x1FF) := by decide

/-- Words written out from R202-R204, MAJOR 0x07, 0x11, 0x18, 0x19: MAJOR, GP = 2 and GS = 1, then the format's fields. -/
theorem test_decode_branches :
    decodeControl (wR 0x07 0 20 0 0) 0 = some (.jr g 20) ∧
    decodeControl (wR 0x07 63 20 0 1) 0 = some (.jalr g 63 20) ∧
    decodeControl (wI 0x11 9 0 0x100) 0 = some (.dbnz g 9 0x100) ∧
    decodeControl (wB 0x18 2097151) 0 = some (.br g 0x1FFFFF) ∧
    decodeControl (wB 0x19 1048576) 0 = some (.call g 0x100000) := by decide

/-- Words written out from R196, MAJOR 0x08 to 0x0F: MAJOR, GP = 2 and GS = 1, then the format's fields. -/
theorem test_decode_immediates :
    decodeControl (wI 0x08 2 3 0x1FE) 0 = some (.addi g 2 3 0x1FE) ∧
    decodeControl (wI 0x09 2 3 0x1FE) 0 = some (.andi g 2 3 0x1FE) ∧
    decodeControl (wI 0x0A 2 3 0x1FE) 0 = some (.ori g 2 3 0x1FE) ∧
    decodeControl (wI 0x0B 2 3 0x1FE) 0 = some (.xori g 2 3 0x1FE) ∧
    decodeControl (wI 0x0F 2 3 0x1FE) 0 = some (.muli g 2 3 0x1FE) ∧
    decodeControl (wI 0x0C 2 3 63) 0 = some (.slli g 2 3 63) ∧
    decodeControl (wI 0x0D 2 3 63) 0 = some (.srli g 2 3 63) ∧
    decodeControl (wI 0x0E 2 3 63) 0 = some (.srai g 2 3 63) := by decide

/-- Words written out from R206-R212, MAJOR 0x20 to 0x25: MAJOR, GP = 2 and GS = 1, then the format's fields. -/
theorem test_decode_handles :
    decodeControl (wR 0x20 31 30 0 0) 0 = some (.hmov g 31 30) ∧
    decodeControl (wR 0x20 31 30 50 1) 0 = some (.hbind g 31 30 50) ∧
    decodeControl (wR 0x20 31 30 0 2) 0 = some (.hunb g 31 30) ∧
    decodeControl (wR 0x20 7 30 0 3) 0 = some (.hchk g 7 30) ∧
    decodeControl (wI 0x21 31 50 0x1FF) 0 = some (.hld g 31 50 0x1FF) ∧
    decodeControl (wI 0x22 50 31 39) 0 = some (.hget g 50 31 39) ∧
    decodeControl (wI 0x23 31 50 19) 0 = some (.hset g 31 50 19) ∧
    decodeControl (wI 0x24 31 50 3) 0 = some (.hoff g 31 50 3) ∧
    decodeControl (wI 0x25 31 50 2) 0 = some (.hslc g 31 50 2) := by decide

/-- Words written out from R216, R221-R223, MAJOR 0x28 to 0x36: MAJOR, GP = 2 and GS = 1, then the format's fields. -/
theorem test_decode_memory :
    decodeControl (wM 0x28 9 5 62 1 7) 0 = some (.ld g 9 mo) ∧
    decodeControl (wM 0x29 9 5 62 1 7) 0 = some (.st g 9 mo) ∧
    decodeControl (wM 0x2A 9 5 62 1 7) 0 = some (.updAdd g 9 mo) ∧
    decodeControl (wM 0x2B 9 5 62 1 7) 0 = some (.updMin g 9 mo) ∧
    decodeControl (wM 0x2C 9 5 62 1 7) 0 = some (.updMax g 9 mo) ∧
    decodeControl (wM 0x2D 9 5 62 1 7) 0 = some (.msaAdd g 9 mo) ∧
    decodeControl (wM 0x2E 9 5 62 1 7) 0 = some (.msaMax g 9 mo) ∧
    decodeControl (wM 0x2F 9 5 62 1 7) 0 = some (.msaMin g 9 mo) ∧
    decodeControl (wM 0x30 9 5 62 1 7) 0 = some (.lpin g 9 mo) ∧
    decodeControl (wM 0x31 9 5 62 1 7) 0 = some (.lunpin g 9 mo) ∧
    decodeControl (wM 0x32 9 5 62 1 7) 0 = some (.tlk g 9 mo) ∧
    decodeControl (wM 0x33 9 5 62 1 7) 0 = some (.tlkM g 9 mo) ∧
    decodeControl (wM 0x34 9 5 62 1 7) 0 = some (.tins g 9 mo) ∧
    decodeControl (wI 0x36 9 10 0) 0 = some (.tevc g 9 10) := by decide

/-- Words written out from R228-R232, MAJOR 0x38 to 0x3F: MAJOR, GP = 2 and GS = 1, then the format's fields. -/
theorem test_decode_synchronisation :
    decodeControl (wR 0x38 9 15 0 0) 0 = some (.gld g 9 15) ∧
    decodeControl (wR 0x38 15 9 0 1) 0 = some (.gst g 15 9) ∧
    decodeControl (wR 0x38 9 15 10 2) 0 = some (.gswp g 9 15 10) ∧
    decodeControl (wR 0x38 9 15 10 3) 0 = some (.gadd g 9 15 10) ∧
    decodeControl (wR 0x38 9 15 10 4) 0 = some (.gcas g 9 15 10) ∧
    decodeControl (wI 0x3A 0 31 255) 0 = some (.semSig g 31 255) ∧
    decodeControl (wI 0x3B 0 31 1) 0 = some (.semWait g 31 1) ∧
    decodeControl (wR 0x3C 9 31 0 0) 0 = some (.semRd g 9 31) ∧
    decodeControl (wR 0x3D 0 7 0 0) 0 = some (.tkPush g 7) ∧
    decodeControl (wR 0x3D 0 7 0 1) 0 = some (.tkPop g 7) ∧
    decodeControl (wR 0x3D 9 7 0 2) 0 = some (.tkCnt g 9 7) ∧
    decodeControl (wR 0x3E 0 63 0 0) 0 = some (.barArv g 63) ∧
    decodeControl (wR 0x3E 0 63 0 1) 0 = some (.barWait g 63) ∧
    decodeControl (wR 0x3E 0 63 0 2) 0 = some (.barAra g 63) ∧
    decodeControl (wR 0x3F 0 0 0 0) 0 = some (.licAcq g) ∧
    decodeControl (wR 0x3F 0 0 0 1) 0 = some (.licRel g) := by decide

/-- Words written out from R233-R236, R240, R241, MAJOR 0x40 to 0x47: MAJOR, GP = 2 and GS = 1, then the format's fields. -/
theorem test_decode_jobs :
    decodeControl (wI 0x40 0 60 15) 0 = some (.engStart g 60 15) ∧
    decodeControl (wR 0x41 0 0 0 0) 0 = some (.rdv g) ∧
    decodeControl (wR 0x41 0 0 0 1) 0 = some (.jend g) ∧
    decodeControl (wI 0x42 15 9 0) 0 = some (.bndMe g 15 9) ∧
    decodeControl (wI 0x42 31 9 0) 0 = some (.bndVe g 15 9) ∧
    decodeControl (wI 0x42 32 9 0) 0 = some (.bndCel g 0 9) ∧
    decodeControl (wI 0x42 49 9 0) 0 = some (.bndCes g 1 9) ∧
    decodeControl (wR 0x44 5 0 0 0) 0 = some (.fenceAcq g .system) ∧
    decodeControl (wR 0x44 4 0 0 1) 0 = some (.fenceRel g .domain) ∧
    decodeControl (wR 0x44 3 0 0 2) 0 = some (.fenceFull g .module) ∧
    decodeControl (wR 0x44 0 0 0 3) 0 = some (.fenceMsa g .core) ∧
    decodeControl (wR 0x45 9 7 0 0) 0 = some (.mxRd g 9 7) ∧
    decodeControl (wR 0x45 7 9 0 1) 0 = some (.mxWr g 7 9) ∧
    decodeControl (wR 0x45 7 0 0 2) 0 = some (.mxClr g 7) ∧
    decodeControl (wR 0x45 7 9 0 3) 0 = some (.mxUpd g 7 9) ∧
    decodeControl (wR 0x46 9 0 0 0) 0 = some (.timeRd g 9) ∧
    decodeControl (wR 0x47 0 63 0 0) 0 = some (.trap g 63) ∧
    decodeControl (wR 0x47 0 0 0 1) 0 = some (.tret g) ∧
    decodeControl (wR 0x47 0 63 0 2) 0 = some (.brk g 63) ∧
    decodeControl (wR 0x47 0 9 0 3) 0 = some (.ctxSv g 9) ∧
    decodeControl (wR 0x47 0 9 0 4) 0 = some (.ctxLd g 9) ∧
    decodeControl (wR 0x47 0 0 0 5) 0 = some (.nop g) := by decide

/-- Words written out from R175, R197, R198, MAJOR 0x78: MAJOR, GP = 2 and GS = 1, then the format's fields. -/
theorem test_decode_long_arithmetic :
    decodeControl (wI 0x78 9 0 0) (0x80000000) = some (.li g 9 0x80000000) ∧
    decodeControl (wI 0x78 9 10 1) (0x80000000) = some (.lih g 9 10 0x80000000) ∧
    decodeControl (wI 0x78 9 10 2) (0x80000000) = some (.addl g 9 10 0x80000000) ∧
    decodeControl (wI 0x78 4 9 3) (0xB34) = some (.ext g 4 9 52 11) ∧
    decodeControl (wI 0x78 4 9 4) (0xB34) = some (.extu g 4 9 52 11) ∧
    decodeControl (wI 0x78 4 9 5) (0xB34) = some (.dep g 4 9 52 11) ∧
    decodeControl (wI 0x78 0 0 6) (0x80000000) = some (.brl g 0x80000000) ∧
    decodeControl (wI 0x78 0 0 7) (0x80000000) = some (.calll g 0x80000000) ∧
    decodeControl (wI 0x78 43 9 8) (0x80000000) = some (.cmpl g .geu 3 9 0x80000000) := by decide

/-- Words written out from R175, R217-R226, MAJOR 0x79: MAJOR, GP = 2 and GS = 1, then the format's fields. -/
theorem test_decode_long_memory :
    decodeControl (wI 0x79 9 0 (wSub 0 1 3)) (wL 0 0) = some (.ldOrd g .acq .module 9 mo) ∧
    decodeControl (wI 0x79 0 9 (wSub 1 2 5)) (wL 0 0) = some (.stOrd g .rel .system mo 9) ∧
    decodeControl (wI 0x79 9 10 (wSub 2 3 1)) (wL 0 0) = some (.atomAdd g .acqrel .twin 9 mo 10) ∧
    decodeControl (wI 0x79 9 10 (wSub 3 3 1)) (wL 0 0) = some (.atomAnd g .acqrel .twin 9 mo 10) ∧
    decodeControl (wI 0x79 9 10 (wSub 4 3 1)) (wL 0 0) = some (.atomOr g .acqrel .twin 9 mo 10) ∧
    decodeControl (wI 0x79 9 10 (wSub 5 3 1)) (wL 0 0) = some (.atomXor g .acqrel .twin 9 mo 10) ∧
    decodeControl (wI 0x79 9 10 (wSub 6 3 1)) (wL 0 0) = some (.atomMin g .acqrel .twin 9 mo 10) ∧
    decodeControl (wI 0x79 9 10 (wSub 7 3 1)) (wL 0 0) = some (.atomMax g .acqrel .twin 9 mo 10) ∧
    decodeControl (wI 0x79 9 10 (wSub 8 3 1)) (wL 0 0) = some (.atomMinu g .acqrel .twin 9 mo 10) ∧
    decodeControl (wI 0x79 9 10 (wSub 9 3 1)) (wL 0 0) = some (.atomMaxu g .acqrel .twin 9 mo 10) ∧
    decodeControl (wI 0x79 9 10 (wSub 10 3 1)) (wL 0 0) = some (.atomSwp g .acqrel .twin 9 mo 10) ∧
    decodeControl (wI 0x79 9 10 (wSub 11 0 0)) (wL 63 0) = some (.atomCas g .rlx .core 9 mo 10 63) ∧
    decodeControl (wI 0x79 9 10 (wSub 12 1 2)) (wL 0 5) = some (.waddr g .geu .tower 9 mo 10) ∧
    decodeControl (wI 0x79 9 10 (wSub 13 3 4)) (wL 0 0) = some (.qClaim g .domain 9 mo 10) ∧
    decodeControl (wI 0x79 0 10 (wSub 14 2 4)) (wL 0 0) = some (.qRing g .domain mo 10) := by decide

/-- Words written out from R237, MAJOR 0x7A: MAJOR, GP = 2 and GS = 1, then the format's fields. -/
theorem test_decode_registers :
    decodeControl (wI 0x7A 9 0 0) (4095) = some (.csrRd g 9 4095) ∧
    decodeControl (wI 0x7A 0 10 1) (0x1C5) = some (.csrWr g 0x1C5 10) ∧
    decodeControl (wI 0x7A 9 10 2) (0x1C5) = some (.csrSet g 9 10 0x1C5) ∧
    decodeControl (wI 0x7A 9 10 3) (0x1C5) = some (.csrClr g 9 10 0x1C5) := by decide

/-- Words that are no instruction: FN 5 of MAJOR 0x01 (R174), a predicate above p7 (R168), a field of kind z that is not zero (R168), C = 63 with CP = 1 (R170), condition 6 (R176), a count of 0 (R229), PCs beyond s63 (R174), handle field 20 (R207), a shift of 64 (R174), MAJOR 0x7F (R80), a field past bit 63 (R198), ld with rel (R175), st with acq (R175), scope 6 (R176), IMM32[31:24] (R175), IMM32[31:12] of csr.rd (R174). -/
theorem test_decode_refuses :
    decodeControl (wR 0x01 1 2 3 5) 0 = none ∧
    decodeControl (wR 0x04 8 2 3 0) 0 = none ∧
    decodeControl (wR 0x03 1 2 1 0) 0 = none ∧
    decodeControl (wM 0x28 1 2 63 1 0) 0 = none ∧
    decodeControl (wI 0x10 48 1 0) 0 = none ∧
    decodeControl (wI 0x3A 0 1 0) 0 = none ∧
    decodeControl (wI 0x40 0 61 15) 0 = none ∧
    decodeControl (wI 0x22 1 2 20) 0 = none ∧
    decodeControl (wI 0x0C 1 2 64) 0 = none ∧
    decodeControl (wR 0x7F 0 0 0 0) 0 = none ∧
    decodeControl (wI 0x78 1 2 3) 0xC34 = none ∧
    decodeControl (wI 0x79 1 0 (wSub 0 2 0)) 0 = none ∧
    decodeControl (wI 0x79 0 1 (wSub 1 1 0)) 0 = none ∧
    decodeControl (wI 0x79 1 2 (wSub 2 0 6)) 0 = none ∧
    decodeControl (wI 0x79 1 2 (wSub 2 0 0)) 0x1000000 = none ∧
    decodeControl (wI 0x7A 1 0 0) 4096 = none := by decide

/-- The record whose first word is `w` and whose other fifteen words are 0. -/
def rec0 (w : Nat) : Option Instr := decodeRecord (w :: List.replicate 15 0)

/-- The record fields of words of zeros. -/
def blank : Rec := recOf 0 0 0 0 (descOf 0 0 0) (descOf 0 0 0) (descOf 0 0 0) (descOf 0 0 0)

/-- The operations of ENGINE 0 by ENGINE and OPCODE (R183). -/
theorem test_record_engine_0_0 :
    rec0 (0x001) = some (.seqEnd blank) ∧
    rec0 (0x002) = some (.seqWait blank) ∧
    rec0 (0x003) = some (.seqJmp blank) ∧
    rec0 (0x004) = some (.seqJz blank) ∧
    rec0 (0x005) = some (.seqJnz blank) := by decide

/-- The operations of ENGINE 1 by ENGINE and OPCODE (R183). -/
theorem test_record_engine_1_0 :
    rec0 (0x101) = some (.meMma blank) ∧
    rec0 (0x102) = some (.meCmma blank) ∧
    rec0 (0x103) = some (.meClr blank) ∧
    rec0 (0x104) = some (.meBld blank) ∧
    rec0 (0x105) = some (.meDrn blank) ∧
    rec0 (0x106) = some (.meDrq blank) ∧
    rec0 (0x107) = some (.meFragLend blank) ∧
    rec0 (0x108) = some (.meAld blank) ∧
    rec0 (0x109) = some (.meAst blank) ∧
    rec0 (0x10A) = some (.meSbw blank) := by decide

/-- The operations of ENGINE 2 by ENGINE and OPCODE (R183). -/
theorem test_record_engine_2_0 :
    rec0 (0x201) = some (.veAdd blank) ∧
    rec0 (0x202) = some (.veSub blank) ∧
    rec0 (0x203) = some (.veMul blank) ∧
    rec0 (0x204) = some (.veMin blank) ∧
    rec0 (0x205) = some (.veMax blank) ∧
    rec0 (0x206) = some (.veAnd blank) ∧
    rec0 (0x207) = some (.veOr blank) ∧
    rec0 (0x208) = some (.veXor blank) ∧
    rec0 (0x209) = some (.veShl blank) ∧
    rec0 (0x20A) = some (.veShr blank) ∧
    rec0 (0x20B) = some (.veAbs blank) ∧
    rec0 (0x210) = some (.veFadd blank) := by decide

/-- The operations of ENGINE 2 by ENGINE and OPCODE (R183). -/
theorem test_record_engine_2_1 :
    rec0 (0x211) = some (.veFsub blank) ∧
    rec0 (0x212) = some (.veFmul blank) ∧
    rec0 (0x213) = some (.veFma blank) ∧
    rec0 (0x214) = some (.veFmin blank) ∧
    rec0 (0x215) = some (.veFmax blank) ∧
    rec0 (0x216) = some (.veFabs blank) ∧
    rec0 (0x217) = some (.veFneg blank) ∧
    rec0 (0x220) = some (.veExp2 blank) ∧
    rec0 (0x221) = some (.veLog2 blank) ∧
    rec0 (0x222) = some (.veRcp blank) ∧
    rec0 (0x223) = some (.veRsqrt blank) ∧
    rec0 (0x224) = some (.veSqrt blank) := by decide

/-- The operations of ENGINE 2 by ENGINE and OPCODE (R183). -/
theorem test_record_engine_2_2 :
    rec0 (0x225) = some (.veTanh blank) ∧
    rec0 (0x226) = some (.veSin blank) ∧
    rec0 (0x227) = some (.veCos blank) ∧
    rec0 (0x230) = some (.veCvt blank) ∧
    rec0 (0x231) = some (.veQuant blank) ∧
    rec0 (0x232) = some (.veDequant blank) ∧
    rec0 (0x233) = some (.veAmax blank) ∧
    rec0 (0x238) = some (.veRsum blank) ∧
    rec0 (0x239) = some (.veRmax blank) ∧
    rec0 (0x23A) = some (.veRmin blank) ∧
    rec0 (0x23B) = some (.veScan blank) ∧
    rec0 (0x23C) = some (.veRsumsq blank) := by decide

/-- The operations of ENGINE 2 by ENGINE and OPCODE (R183). -/
theorem test_record_engine_2_3 :
    rec0 (0x240) = some (.veCmp blank) ∧
    rec0 (0x241) = some (.veSel blank) ∧
    rec0 (0x242) = some (.veAcs blank) ∧
    rec0 (0x248) = some (.vePerm blank) ∧
    rec0 (0x249) = some (.veTrn blank) ∧
    rec0 (0x24A) = some (.veBcast blank) ∧
    rec0 (0x24B) = some (.veGath blank) ∧
    rec0 (0x24C) = some (.veScat blank) ∧
    rec0 (0x250) = some (.veRng blank) ∧
    rec0 (0x251) = some (.veIota blank) := by decide

/-- The operations of ENGINE 3 by ENGINE and OPCODE (R183). -/
theorem test_record_engine_3_0 :
    rec0 (0x301) = some (.ceCp blank) ∧
    rec0 (0x302) = some (.ceLq blank) ∧
    rec0 (0x303) = some (.ceFill blank) ∧
    rec0 (0x304) = some (.ceOvl blank) ∧
    rec0 (0x305) = some (.ceFlag blank) ∧
    rec0 (0x306) = some (.ceCpx blank) ∧
    rec0 (0x320) = some (.fabPint blank) ∧
    rec0 (0x321) = some (.fabSend blank) ∧
    rec0 (0x322) = some (.fabWr blank) ∧
    rec0 (0x323) = some (.fabAtom blank) ∧
    rec0 (0x324) = some (.fabReq blank) ∧
    rec0 (0x325) = some (.fabCollSeed blank) := by decide

/-- The operations of ENGINE 3 by ENGINE and OPCODE (R183). -/
theorem test_record_engine_3_1 :
    rec0 (0x326) = some (.fabSeamAccum blank) ∧
    rec0 (0x327) = some (.fabMcast blank) ∧
    rec0 (0x328) = some (.fabPrio blank) ∧
    rec0 (0x329) = some (.fabTkr blank) := by decide

/-- The operations of ENGINE 4 by ENGINE and OPCODE (R183). -/
theorem test_record_engine_4_0 :
    rec0 (0x401) = some (.stashPut blank) ∧
    rec0 (0x402) = some (.stashGet blank) ∧
    rec0 (0x403) = some (.stashDrop blank) ∧
    rec0 (0x404) = some (.stashPf blank) := by decide

/-- OPX of the collective and seam records (R325, R327) and bit 16 of the immediate of `me.frag` (R266). -/
theorem test_record_modes :
    (rec0 (0x1000325) = some (.fabCollReduce { blank with opx := 1 })) ∧ (rec0 (0x2000325) = some (.fabCollPut { blank with opx := 2 })) ∧
    (rec0 (0x3000325) = some (.fabCollCommit { blank with opx := 3 })) ∧ (rec0 (0x1000326) = some (.fabSeamVote { blank with opx := 1 })) ∧
    decodeRecord ([0x107] ++ List.replicate 13 0 ++ [0x10000, 0]) = some (.meFragReclaim { blank with c := { blank.c with st1 := 1 } }) := by decide

/-- Every field of a record in its place, and codes of no operation (R177-R180, R182). -/
theorem test_record_fields :
    decodeRecord [0xA553C20A, 0xFF6FA1A9, 0x7FFF8003, 0x20001, 0xABCDE4BF, 0xFFFF0001, 0x30002, 0, 0, 0, 0, 0, 0, 0, 0, 0]
    = some (.veShr { blank with
        rnd := 4, sat := true, accf := 3, levels := 4, conj := true, opx := 0xA5, tpop := 9, tpush := 10, swait := 33, ssig := 62, bind := true,
        pcls := 5, spare := 127, tc0 := 0x8003, tc1 := 0x7FFF, tc2 := 1, tc3 := 2,
        d := ⟨31, true, 2, 0xE4, 0xABCD, 1, 0xFFFF, 2, 3⟩ }) ∧
    rec0 0x000 = none ∧ rec0 0x006 = none ∧ rec0 0x10B = none ∧ rec0 0x20C = none ∧ rec0 0x307 = none ∧ rec0 0x405 = none ∧ rec0 0x501 = none := by
  decide

/-! ## Terms that no encoding exists for -/

/-- C = 63 with CP = 1 (R170): every form with a memory operand. -/
def badMo : MOp := ⟨0, 63, true, 0⟩

theorem test_wf_memory_operand : ∀ i ∈ [Instr.ld g 1 badMo, .st g 1 badMo, .updAdd g 1 badMo, .updMin g 1 badMo, .updMax g 1 badMo, .msaAdd g 1 badMo,
    .msaMax g 1 badMo, .msaMin g 1 badMo, .lpin g 1 badMo, .lunpin g 1 badMo, .tlk g 1 badMo, .tlkM g 1 badMo, .tins g 1 badMo], i.wf = false := by decide

theorem test_wf_memory_operand_long : ∀ i ∈ [Instr.ldOrd g .rlx .core 1 badMo, .stOrd g .rlx .core badMo 1, .atomAdd g .rlx .core 1 badMo 2,
    .atomAnd g .rlx .core 1 badMo 2, .atomOr g .rlx .core 1 badMo 2, .atomXor g .rlx .core 1 badMo 2, .atomMin g .rlx .core 1 badMo 2,
    .atomMax g .rlx .core 1 badMo 2, .atomMinu g .rlx .core 1 badMo 2, .atomMaxu g .rlx .core 1 badMo 2, .atomSwp g .rlx .core 1 badMo 2,
    .atomCas g .rlx .core 1 badMo 2 3, .waddr g .eq .core 1 badMo 2, .qClaim g .core 1 badMo 2, .qRing g .core badMo 2], i.wf = false := by decide

/-- Orders that R175 does not allow, handle fields of R207, counts of R229, stream masks of R174, bit fields of R198. -/
theorem test_wf_fields : ∀ i ∈ [Instr.ldOrd g .rel .core 1 mo, .ldOrd g .acqrel .core 1 mo, .stOrd g .acq .core mo 1, .stOrd g .acqrel .core mo 1,
    .hget g 1 2 20, .hget g 1 2 31, .hget g 1 2 40, .hset g 1 2 20, .semSig g 1 0, .semWait g 1 0, .engStart g 61 15, .engStart g 63 5,
    .ext g 1 2 63 1, .extu g 1 2 1 63, .dep g 1 2 32 32], i.wf = false := by decide

/-- The immediate of `me.frag` (R266) and the OPX of the collective and seam records (R325, R327). -/
theorem test_wf_records : ∀ i ∈ [Instr.meFragLend { blank with c := { blank.c with st1 := 1 } }, .meFragReclaim blank, .fabCollSeed { blank with opx := 1 },
    .fabCollReduce { blank with opx := 2 }, .fabCollPut { blank with opx := 3 }, .fabCollCommit { blank with opx := 4 }, .fabSeamAccum { blank with opx := 1 },
    .fabSeamVote { blank with opx := 2 }], i.wf = false := by decide

/-! ## A small module: one core with registers, a layout table, page tables -/

/-- The cells of the 32-bit words `ws` from address `a`. -/
def cellsAt (a : Nat) (ws : List Nat) : List Host.Cell :=
  ((List.range (4 * ws.length)).map fun k => (a + k, (BitVec.ofNat 8 (nth 0 ws (k / 4) / 2 ^ (8 * (k % 4))) : Byte))).filter fun c => c.2 != 0

/-- A relaxed layout entry (R22): `n` elements of format `f` from `base` in space `sp`, in the domain of tower 0, a PEER one in the scale-up domain. -/
def entryWords (sp f peer base : Nat) (n : Nat := 64) : List Nat :=
  [1 + sp * 2 + 16 + f * 2 ^ 8 + (if sp = 6 then 6 else 2) * 2 ^ 16, peer * 2 ^ 16, base % 2 ^ 32, base / 2 ^ 32, n, 1, 1, 1, 512]

/-- Page tables at 0 that map the first GiB to DEV, the second to CAP, the third to HOST (R13-R15), and a layout table at 0x40000 with the
entries 1 to 10. -/
def tables : List Host.Cell :=
  [(0, 1), (3, 1), (256, 1), (259, 2), (512, 115), (520, 119), (528, 123)] ++
  ([(262208, 17), (262209, 69), (262210, 2), (262224, 64), (262228, 1), (262232, 1), (262236, 1), (262241, 2)] ++
  ([(262272, 21), (262273, 68), (262274, 2), (262282, 16), (262288, 64), (262292, 1), (262296, 1), (262300, 1), (262305, 2)] ++
  ([(262336, 25), (262337, 68), (262338, 2), (262346, 32), (262352, 64), (262356, 1), (262360, 1), (262364, 1), (262369, 2)] ++
  ([(262400, 29), (262401, 69), (262402, 6), (262406, 1), (262409, 64), (262416, 64), (262420, 1), (262424, 1), (262428, 1), (262433, 2)] ++
  ([(262464, 27), (262465, 69), (262466, 2), (262475, 128), (262480, 64), (262484, 1), (262488, 1), (262492, 1), (262497, 2)] ++
  ([(262528, 19), (262529, 69), (262530, 2), (262536, 64), (262544, 64), (262548, 1), (262552, 1), (262556, 1), (262561, 2)] ++
  ([(262592, 21), (262593, 67), (262594, 2), (262602, 1), (262611, 1), (262612, 1), (262616, 1), (262620, 1), (262625, 2)] ++
  ([(262656, 21), (262657, 69), (262658, 2), (262666, 64), (262672, 64), (262676, 1), (262680, 1), (262684, 1), (262689, 2)] ++
  ([(262720, 17), (262721, 130), (262722, 2), (262729, 16), (262736, 64), (262740, 1), (262744, 1), (262748, 1), (262753, 2)] ++
  ([(262784, 17), (262785, 67), (262786, 2), (262793, 32), (262800, 64), (262804, 1), (262808, 1), (262812, 1), (262817, 2)]))))))))))

theorem tables_are : tables =
   [cellsAt 0 [1 + 2 ^ 24],
    cellsAt 0x100 [1 + 2 * 2 ^ 24],
    cellsAt 0x200 [0x73, 0, 0x77, 0, 0x7B, 0],
    cellsAt (0x40000 + 64) (entryWords 0 0x45 0 0x0),
    cellsAt (0x40000 + 128) (entryWords 2 0x44 0 0x100000),
    cellsAt (0x40000 + 192) (entryWords 4 0x44 0 0x200000),
    cellsAt (0x40000 + 256) (entryWords 6 0x45 1 0x4000),
    cellsAt (0x40000 + 320) (entryWords 5 0x45 0 0x80000000),
    cellsAt (0x40000 + 384) (entryWords 1 0x45 0 0x40),
    cellsAt (0x40000 + 448) (entryWords 2 0x43 0 0x10000 0x1000000),
    cellsAt (0x40000 + 512) (entryWords 2 0x45 0 0x400000),
    cellsAt (0x40000 + 576) (entryWords 0 0x82 0 0x1000),
    cellsAt (0x40000 + 640) (entryWords 0 0x43 0 0x2000)].flatten := by decide +kernel

/-- A handle on layout entry `n` of format `f`, unbound, with a window of `k` + 1 elements (R26). -/
def handleOn (n f : Nat) (k : Nat := 63) : Handle := BitVec.ofNat 256 (n + 2 ^ 12 + f * 2 ^ 16 + 0xFFF * 2 ^ 50 + k * 2 ^ 192)

/-- The formats of the entries 1 to 10. -/
def fmts : List Nat := [0, 0x45, 0x44, 0x44, 0x45, 0x45, 0x45, 0x43, 0x45, 0x82, 0x43]

/-- Core 0 with the tables above; handles h1 to h10 on the entries 1 to 10, h11 to h20 on the first element of each; `k` its LCC but for
them. -/
def coreWith (k : Ctl) : Core :=
  { Core.reset with
    ascLtb := 0x8000000000040000
    ascRoot := 0x50000000000
    lcc := { k with h := List.map (fun n => (n + 1, handleOn (n % 10 + 1) (nth 0 fmts (n % 10 + 1)) (if n < 10 then 63 else 0))) (List.range 20) } }

/-- The module at supervisor level, running at PC 0, with the scalar registers `rs`. -/
def world (rs : List (Nat × Word)) : State :=
  { State.reset with mem := tables, dmr := 0x100000000, cores := [(0, { coreWith { Ctl.reset with s := rs } with strm := [(0, { Strm.reset with st := .run })] })] }

/-- The same core at job level in a job, INH clear. -/
def jobWorld (rs : List (Nat × Word)) : State :=
  { State.reset with
    mem := tables
    dmr := 0x100000000
    cores := [(0, { coreWith { Ctl.reset with s := rs, priv := false, inh := false, tvec := 0x200 } with
      strm := [(0, { Strm.reset with st := .run, inJob := true, mt := 7 })] })] }

/-- A checked effect that ends without a trap or a wait, with a value and a state of which `ok` holds. -/
def ends {α : Type} (m : M α) (s : State) (ok : α → State → Bool := fun _ _ => true) : Bool :=
  match m.go s with
  | (.ok x, t) => ok x t
  | _ => false

/-- Such an effect gives that value and that state. -/
theorem runs {α : Type} {m : M α} {s : State} {ok : α → State → Bool} (h : ends m s ok = true) : ∃ x t, Runs m s x t ∧ ok x t = true := by
  unfold ends at h
  split at h
  · exact ⟨_, _, ‹_›, h⟩
  · cases h

/-- Two such effects, one after the other. -/
theorem runs2 {α β : Type} {m : M α} {f : α → M β} {s : State} {ok : α → State → β → State → Bool}
    (h : ends m s (fun x t => ends (f x) t (ok x t)) = true) : ∃ x t y u, Runs m s x t ∧ Runs (f x) t y u ∧ ok x t y u = true := by
  obtain ⟨x, t, h1, h2⟩ := runs h
  obtain ⟨y, u, h3, h4⟩ := runs h2
  exact ⟨x, t, y, u, h1, h3, h4⟩

/-- The value and the state that an effect ends with. -/
def outV {α : Type} [Inhabited α] (m : M α) (s : State) : α :=
  match (m.go s).1 with
  | .ok x => x
  | _ => default
def outS {α : Type} (m : M α) (s : State) : State := (m.go s).2

theorem runs_out {α : Type} [Inhabited α] {m : M α} {s : State} (h : ends m s = true) : Runs m s (outV m s) (outS m s) := by
  obtain ⟨x, t, h, _⟩ := runs h
  have h : m.go s = (.ok x, t) := h
  simp only [outV, outS, Runs, h]

/-- An effect that changes nothing. -/
theorem runs_same {α : Type} [Inhabited α] {m : M α} {s : State} (h : ends m s (fun _ t => decide (t = s)) = true) : Runs m s (outV m s) s := by
  obtain ⟨x, t, h, e⟩ := runs h
  have h : m.go s = (.ok x, t) := h
  rw [of_decide_eq_true e] at h
  simp only [outV, Runs, h]

theorem runs_unit {m : M Unit} {s : State} (h : ends m s = true) : Runs m s () (outS m s) := runs_out h
theorem runs_check {m : M Unit} {s : State} (h : ends m s (fun _ t => decide (t = s)) = true) : Runs m s () s := runs_same h

/-- The operand `h<n>[s1]`. -/
abbrev opnd (n : HReg) : MOp := ⟨n, 1, false, 0⟩

/-- Always-true guard. -/
abbrev g0 : Guard := ⟨0, false⟩

theorem tables_wf : Memory.wf tables = true := by decide +kernel


/-! The same four, their premise evaluated by the kernel. -/
theorem rS {α : Type} [Inhabited α] {m : M α} {s : State} (h : ends m s (fun _ t => decide (t = s)) = true := by decide +kernel) :
    Runs m s (outV m s) s := runs_same h
theorem rC {m : M Unit} {s : State} (h : ends m s (fun _ t => decide (t = s)) = true := by decide +kernel) : Runs m s () s := runs_same h
theorem rO {α : Type} [Inhabited α] {m : M α} {s : State} (h : ends m s = true := by decide +kernel) : Runs m s (outV m s) (outS m s) := runs_out h
theorem rU {m : M Unit} {s : State} (h : ends m s = true := by decide +kernel) : Runs m s () (outS m s) := runs_out h
/-! ## Witnesses: arithmetic, branches, handles -/

/-- Ready at supervisor level, and at job level without STEP; suppressed by p1 = 0 with sense 0. -/
theorem wit_ready : Ready g0 State.reset ∧ Ready g0 (jobWorld []) ∧ Ready ⟨1, true⟩ State.reset ∧ guardOk ⟨1, false⟩ State.reset = false ∧
    isCtl State.reset.cur.2 = true ∧ State.reset.myStr.wait = .none ∧ State.reset.agenda = [] := by decide

/-- Fields at the ends of the register, and words of fields that lie outside it or carry other bits. -/
theorem wit_bit_fields : (63 : Fin 64).val + ((0 : Fin 64).val + 1) ≤ 64 ∧ (0 : Fin 64).val + ((63 : Fin 64).val + 1) ≤ 64 ∧
    fMaj (0x78 * 2 ^ 25 + 5) = 0x78 ∧ fImm9 (0x78 * 2 ^ 25 + 5) ∈ [3, 4, 5] ∧ 0x13F % 64 + (0x13F / 2 ^ 8 % 64 + 1) > 64 ∧
    0x40 / 2 ^ 6 % 4 ≠ 0 ∧ 0x80000000 / 2 ^ 14 ≠ 0 ∧ 0x80000000 < 2 ^ 32 := by decide

/-- Branch targets at both ends of instruction memory, beyond them, and between words. -/
theorem wit_branch_targets :
    let t := fun (o : Int) => (State.reset.pc : Int) + 4 * o
    (0 ≤ t 0 ∧ t 0 % 4 = 0) ∧ (t (0xFFFF : BitVec 21).toInt = 262140) ∧ t (0x10000 : BitVec 21).toInt ≥ 262144 ∧ t (0x1FFFFF : BitVec 21).toInt < 0 ∧
    t (0x80000000 : BitVec 32).toInt < 0 ∧ t (0x1FF : BitVec 9).toInt < 0 ∧ ((world [(5, 262140)]).rdS 5).toNat = 262140 ∧
    ((world [(5, 262144)]).rdS 5).toNat ≥ 262144 ∧ ((world [(5, 262142)]).rdS 5).toNat % 4 ≠ 0 ∧ (world [(5, 1)]).rdS 5 - 1 = 0 ∧
    Ready g0 (world [(5, 1)]) := by decide

/-- A value that a handle field just holds, and the least it does not; TAGMODE with and without other bits. -/
theorem wit_handle_fields : fieldBits 0 = some (0, 12) ∧ fieldBits 39 = some (224, 32) ∧ fieldBits 19 = none ∧ fieldBits 20 = none ∧
    ((world [(1, 4095)]).rdS 1).toNat < 2 ^ 12 ∧ 2 ^ 12 ≤ ((world [(1, 4096)]).rdS 1).toNat ∧
    (world [(1, 0xFF00E000)]).rdS 1 &&& ~~~(0xFF00E000 : Word) = 0 ∧ (world [(1, 0x1000)]).rdS 1 &&& ~~~(0xFF00E000 : Word) ≠ 0 := by decide

/-- Tags, offsets and slices at their bounds, on h1, whose window has 64 elements from 0; a slot dimension of a tag-relative handle. -/
theorem wit_handle_forms :
    let x := (world []).rdH 1
    hpart x 64 32 = 0 ∧ hpart x 192 16 = 63 ∧ hpart x 13 1 = 0 ∧ ((world [(1, 4094)]).rdS 1).toNat ≤ 4094 ∧ 4094 < ((world [(1, 4095)]).rdS 1).toNat ∧
    (0 : Int) + ((world [(1, 0xFFFFFFFF)]).rdS 1).toInt = 2 ^ 32 - 1 ∧ 2 ^ 32 ≤ (0 : Int) + ((world [(1, 0x100000000)]).rdS 1).toInt ∧
    (0 : Int) + ((world [(1, -1)]).rdS 1).toInt < 0 ∧ 63 + 1 ≤ hpart x 192 16 + 1 ∧ hpart x 192 16 + 1 < 63 + 2 ∧
    (let y : Handle := BitVec.ofNat 256 (2 ^ 13 + 3 * 2 ^ 14); hpart y 13 1 = 1 ∧ hpart y 14 2 = 3) := by decide

/-- Layout indices at both ends of the table and beyond; a sound entry and one that is not valid; a table that is off. -/
theorem wit_layout_entries :
    let w := (world []).who
    ((world [(1, 4095)]).rdS 1).toInt + (0 : BitVec 9).toInt = 4095 ∧ ((world [(1, 4095)]).rdS 1).toInt + (1 : BitVec 9).toInt > 4095 ∧
    ((world []).rdS 1).toInt + (0x1FF : BitVec 9).toInt < 0 ∧ bitAt (world []).myCore.ascLtb.toNat 63 = true ∧
    bitAt State.reset.myCore.ascLtb.toNat 63 = false ∧ eValid (ltEntry (world []) w 1) = true ∧ eMalformed (ltEntry (world []) w 1) = false ∧
    isReserved (eFmt (ltEntry (world []) w 1)) = false ∧ eValid (ltEntry (world []) w 4095) = false := by decide +kernel

/-- A sound entry of a reserved format. -/
theorem wit_layout_reserved :
    let s := { world [] with mem := cellsAt 0x40000 (entryWords 0 0x08 0 0) }
    eValid (ltEntry s s.who 0) = true ∧ eMalformed (ltEntry s s.who 0) = false ∧ isReserved (eFmt (ltEntry s s.who 0)) = true := by decide +kernel

/-! ## Witnesses: traps, the frame, a step -/

/-- Control core levels: at job level with and without STEP, with INH clear; in a handler with INH set. -/
theorem wit_levels :
    let s := jobWorld []
    let stepping := s.setMe { s.me with step := true }
    s.powered = true ∧ guardOk g0 s = true ∧ isCtl s.cur.2 = true ∧ s.me.inh = false ∧ s.me.priv = false ∧ stepping.me.step = true ∧
    stepping.me.priv = false ∧ stepping.me.inh = false ∧ guardOk ⟨1, false⟩ stepping = false ∧ State.reset.me.inh = true ∧
    guardOf (.nop g0) = some g0 ∧ (jobWorld []).rdP 0 = !false ∧ (State.reset.setMe { State.reset.me with step := true }).me.priv = true := by decide

/-- Return addresses at the last word, beyond it, and between words, with job level saved. -/
theorem wit_return :
    let s := fun (pc : Word) => State.reset.setMe { State.reset.me with tpc := pc }
    (s 262140).me.priv = true ∧ (s 262140).me.ppriv = false ∧ (s 262140).me.tpc.toNat < 262144 ∧ (s 262140).me.tpc.toNat % 4 = 0 ∧
    (s 262144).me.tpc.toNat ≥ 262144 ∧ (s 262142).me.tpc.toNat < 262144 ∧ (s 262142).me.tpc.toNat % 4 ≠ 0 := by decide

/-- A body that completes and one that jumps. -/
theorem wit_bodies : (fun s => Eff.done s) (jobWorld []) = .done (jobWorld []) ∧ (fun s => Eff.jump s 64) (jobWorld []) = .jump (jobWorld []) 64 := ⟨rfl, rfl⟩

/-- A state without power. -/
theorem wit_unpowered : ({ State.reset with powered := false }).powered = false ∧ Instr.deviceReset ≠ .powerOn := by decide

/-- A state about to run a word placed at its PC: a short form, a long form, and words that are none. -/
def placed (nbits w : Nat) : State := State.reset.withFetchWord nbits w
def longWord : Nat := 0x78 * 2 ^ 25 + 9 * 2 ^ 15 + 7 * 2 ^ 32

theorem wit_step_short :
    let s := placed 32 (wI 0x08 9 0 5 - 5 * 2 ^ 21)
    latchReads s.cc s = s ∧ s.agenda = [] ∧ s.powered = true ∧ canRun s = true ∧ isCtl s.cur.2 = true ∧ deliver s.cc s.cl s = none ∧ s.pc < 262144 ∧ s.me.held = none ∧ loadingAt s s.cc s.pc = false ∧
    imMarked s s.cc s.pc = false ∧ isLong (imWord s s.cc s.pc) = false ∧ decodeControl (imWord s s.cc s.pc) 0 = some (.addi g0 9 0 5) := by decide +kernel

/-- A step whose control core waits in an instruction that it has issued. -/
theorem wit_step_waits :
    let s := placed 32 0
    let s := (s.setMyStr { s.myStr with st := .wait, wait := .token 7 false }).setMe { s.me with held := some (.tkPop g0 7) }
    latchReads s.cc s = s ∧ canRun s = true ∧ deliver s.cc s.cl s = none ∧ s.myStr.st = .wait ∧ s.me.held = some (.tkPop g0 7) ∧
    (match exec (.tkPop g0 7) s with | .next _ => true | _ => false) = true := by decide +kernel

/-- An instruction that reads no register with an error, one that does, and one whose guard suppresses the read. -/
theorem wit_step_marked :
    let s := placed 32 (wI 0x08 9 0 5 - 5 * 2 ^ 21)
    let bad := upsetAt (.reg 0 .lcc (.s 7)) s
    readsMarked s (.addi g0 9 0 5) = false ∧ readsMarked bad (.addi g0 9 7 5) = true ∧ readsMarked bad (.addi ⟨0, true⟩ 9 7 5) = false ∧
    readsMarked bad (.st g0 7 ⟨1, 2, false, 0⟩) = true ∧ readsMarked bad (.li g0 7 1) = false ∧
    latchReads bad.cc bad = bad ∧ deliver bad.cc bad.cl bad = none ∧ canRun bad = true := by decide +kernel

theorem wit_step_long :
    let s := placed 64 longWord
    isLong (imWord s s.cc s.pc) = true ∧ s.pc + 4 < 262144 ∧ loadingAt s s.cc (s.pc + 4) = false ∧ imMarked s s.cc (s.pc + 4) = false ∧
    decodeControl (imWord s s.cc s.pc) (imWord s s.cc (s.pc + 4)) = some (.li g0 9 7) := by decide +kernel

theorem wit_fetch_refusals :
    let s := placed 32 (0x7F * 2 ^ 25)
    let far := s.setMyStr { s.myStr with pc := 262144 }
    let loading := s.setMyCore { s.myCore with loading := 1 }
    (isLong (imWord s s.cc s.pc) = false ∧ decodeControl (imWord s s.cc s.pc) 0 = none ∧ canRun s = true ∧ deliver s.cc s.cl s = none) ∧
    (far.pc ≥ 262144 ∧ canRun far = true ∧ deliver far.cc far.cl far = none) ∧ loadingAt loading loading.cc loading.pc = true ∧
    canRun loading = true := by decide +kernel

/-- A state about to run, at `pc`, a word placed there. -/
def placedAt (pc nbits w : Nat) : State := (State.reset.setMyStr { State.reset.myStr with pc := pc }).withFetchWord nbits w

/-- A core about to fetch, with the first word readable. -/
def fetches (s : State) : Bool :=
  decide (latchReads s.cc s = s) && s.agenda.isEmpty && s.powered && canRun s && isCtl s.cur.2 && (deliver s.cc s.cl s).isNone && s.me.held.isNone &&
    decide (s.pc < 262144) && !loadingAt s s.cc s.pc
/-- The same with a long form there, in a unit without an error. -/
def fetchesLong (s : State) : Bool := fetches s && !imMarked s s.cc s.pc && isLong (imWord s s.cc s.pc)

/-- A marked first word; a long form whose second word lies beyond instruction memory, in a region being loaded, in a marked unit, or is no word of
such a form; a core that stopped in no instruction. -/
theorem wit_fetch_second :
    let marked := { placedAt 0 32 0 with marks := [(0, 0)] }
    let last := placedAt 262140 32 (0x78 * 2 ^ 25)
    let edge := placedAt 65532 64 longWord
    let edge := edge.setMyCore { edge.myCore with loading := 2 }
    let split := { placedAt 4 64 longWord with marks := [(0, 1)] }
    let odd := placedAt 0 64 (0x79 * 2 ^ 25 + 2 ^ 63)
    (fetches marked = true ∧ imMarked marked marked.cc marked.pc = true) ∧ (fetchesLong last = true ∧ 262144 ≤ last.pc + 4) ∧
    (fetchesLong edge = true ∧ edge.pc + 4 < 262144 ∧ loadingAt edge edge.cc (edge.pc + 4) = true) ∧
    (fetchesLong split = true ∧ loadingAt split split.cc (split.pc + 4) = false ∧ imMarked split split.cc (split.pc + 4) = true) ∧
    (fetchesLong odd = true ∧ loadingAt odd odd.cc (odd.pc + 4) = false ∧ imMarked odd odd.cc (odd.pc + 4) = false ∧
      decodeControl (imWord odd odd.cc odd.pc) (imWord odd odd.cc (odd.pc + 4)) = none) := by decide +kernel

theorem wit_agenda : ({ State.reset with agenda := [.event .unmapDone] }).agenda = .event .unmapDone :: [] ∧
    ({ State.reset with agenda := [.stream 3 .ve] }).agenda = .stream 3 .ve :: [] := ⟨rfl, rfl⟩

/-! ## Witnesses: memory -/

/-- A load and a store of SPM through h1: the first and the last element of the window, and one beyond. -/
theorem wit_spm_load : ∃ l s1 y s2, Runs (myLoc (world []) (opnd 1) .load scalarTag) (world []) l s1 ∧
    Runs (raceCheck (world []).who l.p l.flat l.view false) s1 y s2 ∧
    (decide (Plain s1) && decide (l.p.space ≤ 1) && (l.p.nib == none) && decide (Ready g0 (world [])) && Memory.wf (world []).mem) = true :=
  runs2 (by decide +kernel)

theorem wit_spm_store : ∃ l s1 y s2, Runs (myLoc (world [(1, 63)]) (opnd 1) .store scalarTag) (world [(1, 63)]) l s1 ∧
    Runs (raceCheck (world [(1, 63)]).who l.p l.flat l.view true) s1 y s2 ∧ (decide (l.p.space ≤ 1) && (l.p.nib == none) && decide (l.p.addr = 504)) = true :=
  runs2 (by decide +kernel)

/-- The checks of R35 one by one: a malformed handle, a tag that differs, a coordinate beyond the window, no entry, a wrong format, all well. -/
theorem wit_operand_checks :
    let s := world []
    let w := s.who
    let h := s.rdH 1
    hMalformed (0 : Handle) = true ∧ hMalformed h = false ∧ hTagOk h w.mt = true ∧ hTagOk (hset h 1 18 12 5) w.mt = false ∧ inWindow h [63, 0, 0, 0] = true ∧
    inWindow h [64, 0, 0, 0] = false ∧ inWindow h [-1, 0, 0, 0] = false ∧ entryOk w.ltb (ltEntry s w 1) = true ∧ entryOk w.ltb (ltEntry s w 11) = false ∧
    hMalformed (handleOn 11 0x45) = false ∧ formatOk h (ltEntry s w 1) false (fun _ => true) = true ∧
    formatOk (handleOn 1 0x44) (ltEntry s w 1) false (fun _ => true) = false ∧ hMalformed (handleOn 1 0x44) = false ∧
    (place s w h [63, 0, 0, 0] .load).isOk = true := by decide +kernel

/-- The conditions of R35's steps 1 to 9 one by one, for an access of kind `a` to coordinate `c` of the layout entry `ws` through a window of 101
elements: sound, tag, window, entry, format, extents, PEER level, domain, kind, and the address in range. -/
def checked (ws : List Nat) (c : Int) (a : Acc) : List Bool :=
  let s := { world [] with mem := cellsAt 0x40040 ws }
  let w := s.who
  let h := handleOn 1 0x45 100
  let e := ltEntry s w (hLt h)
  let abs := absCoord h w.mt [c, 0, 0, 0]
  let byte := (elemByte e (hFmt h) abs).1
  let top : Int := if eSpace e = 0 then 2 ^ 22 else if eSpace e = 1 then 2 ^ 28 else 2 ^ 56
  [!hMalformed h, hTagOk h w.mt, inWindow h [c, 0, 0, 0], entryOk w.ltb e, formatOk h e false (fun _ => true), (List.range 4).all (fun d => decide (nth 0 abs d < eExt e d)),
    eSpace e != 6 || decide (5 ≤ eDomLevel e), inDomain s w (eDomLevel e) (eDomInst e), kindOk e a, decide (0 ≤ byte ∧ byte < top)]

/-- Beyond the extents; a PEER entry below level 5; another domain; a kind that the space does not admit; beyond SPM and beyond 2^56 bytes. -/
theorem wit_operand_refusals :
    checked (entryWords 0 0x45 0 0) 64 .load = [true, true, true, true, true, false, true, true, true, true] ∧
    checked [1 + 12 + 16 + 0x45 * 2 ^ 8 + 4 * 2 ^ 16, 2 ^ 16, 0x4000, 0, 64, 1, 1, 1, 512] 63 .store =
      [true, true, true, true, true, true, false, false, true, true] ∧
    checked [1 + 16 + 0x45 * 2 ^ 8 + 2 * 2 ^ 16 + 2 ^ 19, 0, 0, 0, 64, 1, 1, 1, 512] 63 .load =
      [true, true, true, true, true, true, true, false, true, true] ∧
    checked (entryWords 0 0x45 0 0) 63 .msa = [true, true, true, true, true, true, true, true, false, true] ∧
    checked (entryWords 0 0x45 0 (2 ^ 22 - 64)) 63 .load = [true, true, true, true, true, true, true, true, true, false] ∧
    checked (entryWords 2 0x45 0 (2 ^ 56 - 64)) 63 .load = [true, true, true, true, true, true, true, true, true, false] := by decide +kernel

/-- The place of the first element of operand `h<n>`. -/
def firstAt (n : HReg) : Place :=
  match place (world []) (world []).who ((world []).rdH n) [0, 0, 0, 0] .load with
  | .ok p => p
  | .error _ => default

/-- An address that no page maps, a page of another kind, a key that is asked for and not there, and a place that passes, of an accessor that is
no core; none of it frozen or passed before. -/
theorem wit_operand_translation :
    let s := world []
    let w := s.who
    let p := firstAt 8
    let far := { p with addr := 0xC0000000 }
    let cap := { p with space := 3 }
    let keyed := { p with entry := p.entry + 2 ^ 45 }
    let clear := fun (p : Place) => decide (2 ≤ p.space) && p.space != 6 && (hostSpot s w p).isNone && !frozenAt s (ctxId w.root) p.addr
    repMode s ≠ 2 ∧ clear far = true ∧ translate s w.tower w.root far.addr = none ∧
    (match translate s w.tower w.root p.addr with
      | none => false
      | some (pte, _) => clear cap && !pageOk pte cap.addr cap.space .load w.sup &&
        (clear keyed && pageOk pte keyed.addr keyed.space .load w.sup && !keyOk s pte (eKey keyed.entry) (eKeyReq keyed.entry)) &&
        (clear p && pageOk pte p.addr p.space .load w.sup && keyOk s pte (eKey p.entry) (eKeyReq p.entry))) = true ∧
    ({ w with core := none } : Who).core = none := by decide +kernel

/-- A write by one stream, then the read of another that nothing orders after it; and an operand with relaxed accesses. -/
theorem wit_race :
    let s := world []
    let p := firstAt 1
    let strict := { p with entry := p.entry - 16 }
    eRelaxed p.entry = true ∧ eRelaxed strict.entry = false ∧
    (match (raceCheck (whoStream s 0 .ccc) strict 0 none false).go (outS (raceCheck s.who strict 0 none true) s) with
      | (.error (.trap t), _) => decide (t = ⟨.race, tinfo strict.addr 0 13⟩)
      | _ => false) = true := by decide +kernel

/-- Loads and stores that go through: plain and ordered, of HBM, host memory and WSS; a plain load of SPM after a store. -/
theorem wit_loads_complete : ∃ l s1 x s2, Runs (myLoc (world []) (opnd 8) .load scalarTag) (world []) l s1 ∧ Runs (plainLoad (world []).who l) s1 x s2 ∧
    decide (l.p.space = 2) = true := runs2 (by decide +kernel)

theorem wit_ordered_loads_complete : ∃ l s1 x s2, Runs (myLoc (world []) (opnd 8) .load scalarTag) (world []) l s1 ∧
    Runs (loadOrd (world []).who l .acq .module) s1 x s2 ∧ decide (l.p.space = 2) = true := runs2 (by decide +kernel)

theorem wit_stores_complete : ∃ l s1 x s2, Runs (myLoc (world []) (opnd 8) .store scalarTag) (world []) l s1 ∧ Runs (plainStore (world []).who l 5) s1 x s2 ∧
    decide (l.p.space ≠ 6) = true := runs2 (by decide +kernel)

theorem wit_ordered_stores_complete : ∃ l s1 x s2, Runs (myLoc (world []) (opnd 8) .store scalarTag) (world []) l s1 ∧
    Runs (storeOrd (world []).who l .rel .module 5) s1 x s2 ∧ decide (l.p.space ≠ 6) = true := runs2 (by decide +kernel)

/-- A core whose remote access has been answered with status 0. -/
def answered : State := (world []).setMe { (world []).me with ans := .remote 0 }

theorem wit_remote_stores_complete : ∃ l s1 x s2, Runs (myLoc answered (opnd 4) .store scalarTag) answered l s1 ∧
    Runs (remoteStore answered.who l.p false false .module 5) s1 x s2 ∧
    (ends (remoteStore answered.who l.p true true .domain 5) s1 && decide (l.p.space = 6)) = true := runs2 (by decide +kernel)

/-- Atomics that go through on HBM, with a compare that succeeds and one that fails, and a remote one that has been acknowledged. -/
theorem wit_atomics_complete : ∃ l s1 x s2, Runs (myLoc (world []) (opnd 8) .atomic atomTag) (world []) l s1 ∧
    Runs (atomicAt (world []).who l .acqrel .module fun y => some (rmw 2 64 y 5)) s1 x s2 ∧
    (ends (atomicAt (world []).who l .rlx .core fun y => if y = 0 then some 9 else none) s1 &&
      ends (atomicAt (world []).who l .rlx .core fun y => if y = 1 then some 9 else none) s1) = true :=
  runs2 (by decide +kernel)

theorem wit_remote_atomics_complete : ∃ l s1 x s2, Runs (myLoc answered (opnd 4) .atomic atomTag) answered l s1 ∧
    Runs (remoteDo answered.who l.p false (fun r => .remoteAtomic (ePeer l.p.entry) r 2 5 0) []) s1 x s2 ∧
    (decide (l.p.space = 6) && !isAcq .rlx && !isRel .rlx && (ansOf s1 answered.who.agent != .none) &&
      ends (remoteDo answered.who l.p true (fun r => .remoteAtomic (ePeer l.p.entry) r 11 5 7) []) s1 &&
      (((relScope s1 answered.who.agent .rlx .domain).filter fun e => decide (4 ≤ scopeNo e)) == none) &&
      (((relScope s1 answered.who.agent .rel .domain).filter fun e => decide (4 ≤ scopeNo e)) == some .domain) && isRel .rel) = true :=
  runs2 (by decide +kernel)

/-- The first visit of a remote atomic: no answer yet, and what the release performs is performed. -/
theorem wit_remote_atomics_first : ∃ l s1, Runs (myLoc (world []) (opnd 4) .atomic atomTag) (world []) l s1 ∧
    ((ansOf s1 (world []).who.agent == .none) && ends (performIf (world []).who (some .domain)) s1 && ends (performIf (world []).who none) s1) = true :=
  runs (by decide +kernel)

/-- Bytes at the end of a line of HBM, with no image open and no guest copy. -/
theorem wit_memory_read_back :
    let s := world []
    Memory.wf s.mem = true ∧ Plain s ∧ 2 ≤ (firstAt 8).space ∧ (0x4000F8 : Nat) % 256 + [(1 : Byte), 2, 3, 4, 5, 6, 7, 8].length ≤ 256 ∧
    s.imgKey.isSome = false ∧ find (s.tower 0).guest (0x4000F8 / 256) = none := by decide +kernel

/-- A host atomic on a link with atomics. -/
theorem wit_host_atomics : ∃ l s1, Runs (myLoc { world [] with hostLink := 0x1401 } (opnd 5) .atomic atomTag) { world [] with hostLink := 0x1401 } l s1 ∧
    (decide (l.p.space = 5) && decide (hostMode s1 ≠ 0)) = true := runs (by decide +kernel)

/-- A relaxed atomic of SPM with nothing released before it. -/
theorem wit_spm_atomics : ∃ l s1, Runs (myLoc (world []) (opnd 1) .atomic atomTag) (world []) l s1 ∧
    (decide (Plain s1) && decide (l.p.space ≤ 1) && (relScope s1 (world []).who.agent .rlx .core == none) && Memory.wf (world []).mem) = true :=
  runs (by decide +kernel)

/-- Updates: no line, a line that holds the element; a memory-side request of a line no tower holds. -/
def updating : State := (world []).setTower 0 { (world []).tower 0 with upd := [(0x1000, ⟨.add, 0x44, none, [(0, 3)]⟩)] }

theorem wit_updates : (∃ l s1, Runs (myLoc (world []) (opnd 2) .update updTag) (world []) l s1 ∧
      (!isGuest 0 l.flat && (find (s1.tower 0).upd (l.flat / 256) == none) && decide (l.flat / 256 = 0x1000)) = true) ∧
    ∃ l s1, Runs (myLoc updating (opnd 2) .update updTag) updating l s1 ∧
      (!isGuest 0 l.flat && (find (s1.tower 0).upd (l.flat / 256) == some ⟨.add, 0x44, none, [(0, 3)]⟩) && decide (l.p.tag = 0x44) && (l.view == none)) = true :=
  ⟨runs (by decide +kernel),
   runs (by decide +kernel)⟩

/-- An update of host memory on a port of mode 0. -/
def hostUpd : State :=
  let s := { world [] with mem := memWr tables 262465 68 }
  s.setMe { s.me with h := put s.me.h 5 (handleOn 5 0x44) }
theorem wit_host_updates : ∃ l s1, Runs (myLoc hostUpd (opnd 5) .update updTag) hostUpd l s1 ∧
    (!isGuest 0 l.flat && decide (l.p.space = 5) && decide (hostMode s1 = 0) && (find (s1.tower 0).upd (l.flat / 256) == none)) = true :=
  runs (by decide +kernel)

theorem wit_memory_side : ∃ l s1, Runs (myLoc (world []) (opnd 3) .msa msaTag) (world []) l s1 ∧ ((holders s1 (l.flat / 256) == []) && decide (∀ r ∈ s1.msa, r.issue ≠ s1.freeCtr)) = true :=
  runs (by decide +kernel)

/-- Pins: a line with none, one that is full, a full table of pins, full ways, a closing page. -/
def pinned (k n ways : Nat) (closing : List Closing) : State :=
  { (world []).setTower 0 { (world []).tower 0 with
      homePin := (if k = 0 then [] else [(0x1000, k)]) ++ (List.range ways).map fun j => (0x1000 + (j + 1) * 32768, 1) } with
    pins := [(ltKey 0x50000000000 2, n)], closing := closing }

/-- What the pin statements ask of a state: pins of the line, pinned ways, pins of the layout, a page of it closing. -/
def pinState (s : State) : Nat × Nat × Nat × Bool × Bool :=
  match (pinLoc s (opnd 2)).go s with
  | (.ok l, s1) => (linePins s1 0 (l.flat / 256), pinnedWays s1 0 (l.flat / 256), look 0 s1.pins (ltKey s.who.root l.p.lt),
      s1.closing.any (fun p => p.ctx == ctxId s.who.root && overlaps l.p.entry p), isGuest 0 l.flat)
  | _ => (0, 0, 0, false, true)

theorem wit_pins : pinState (pinned 0 0 7 []) = (0, 7, 0, false, false) ∧ pinState (pinned 254 65534 7 []) = (254, 8, 65534, false, false) ∧
    pinState (pinned 255 65534 0 []) = (255, 1, 65534, false, false) := by decide +kernel

theorem wit_pins_refused : pinState (pinned 0 65535 0 []) = (0, 0, 65535, false, false) ∧ pinState (pinned 0 0 8 []) = (0, 8, 0, false, false) ∧
    pinState (pinned 0 0 0 [⟨5, 0, 2, 0x200, false, 0⟩]) = (0, 0, 0, true, false) := by decide +kernel

/-- A pin of a page that is frozen for migration, and of one that is not, the tower holding no update-only line there. -/
theorem wit_pins_frozen :
    let place := fun (s : State) ok => ends (cachePlace s.who (s.rdH 2) (coordM s (opnd 2))) s ok
    place (pinned 0 0 0 [⟨5, 0, 2, 0x200, true, 0⟩]) (fun p s0 => frozenAt s0 (ctxId s0.who.root) p.addr) = true ∧
    place (pinned 0 0 7 []) (fun p s0 => !frozenAt s0 (ctxId s0.who.root) p.addr && ends (resolve s0.who p .load) s0 fun l s1 =>
      find (s1.tower 0).upd (l.flat / 256) == none && !isGuest 0 (l.flat / 256 * 256)) = true := by decide +kernel

/-- Tag tables: off; on with 2 ways and 4 slots, a hit, a free slot, a full set; inserts of every outcome. -/
def tagged (tt : List (Nat × Word)) (d : Word) : State :=
  (world [(2, d)]).setMyCore { (world [(2, d)]).myCore with ttCfg := BitVec.ofNat 64 (2 ^ 63 + 1 * 2 ^ 4 + 3 * 2 ^ 8), tt := tt }

theorem wit_tag_table :
    let s := tagged [(0, 0x40010009), (2, 0xFFFF000000000009)] 1
    let c := s.myCore.ttCfg
    2 ^ 63 ≤ c.toNat ∧ c.toNat / 2 ^ 8 % 2 ^ 10 + 1 = 4 ∧ 2 ^ (c.toNat / 16 % 8) = 2 ∧ (world []).myCore.ttCfg.toNat < 2 ^ 63 ∧
    ends (cachePlace s.who (s.rdH 2) (coordM s (opnd 2))) s (fun p s1 => decide (s1.myCore = s.myCore) && decide (repMode s1 = 0) && decide (p.lt = 2) &&
      decide (p.addr = 0x100000)) = true ∧ (look 0 s.myCore.tt 0).toNat % 2 = 1 ∧ (look 0 s.myCore.tt 1).toNat % 2 = 0 ∧ (s.rdS 2).toNat < 4 ∧
    4 ≤ ((tagged [] 4).rdS 2).toNat ∧ 1024 ≤ ((tagged [] 1024).rdS 2).toNat := by decide +kernel

/-- The same table's entries as R75 packs them: VALID, LT 2, and the block number. -/
theorem wit_tag_hit :
    let s := tagged [(0, BitVec.ofNat 64 (1 + 2 * 2 ^ 2 + 1024 * 2 ^ 16))] 1
    let entry := (look 0 s.myCore.tt 0).toNat
    entry % 2 = 1 ∧ entry / 2 ^ 2 % 2 ^ 12 = 2 ∧ entry / 2 ^ 16 % 2 ^ 46 = 0x100000 / 2 ^ 10 ∧ (0x100000 / 2 ^ 10) % (4 / 2) = 0 ∧ 0 / 2 = 0 ∧
    entry < 2 ^ 62 := by decide +kernel

/-! ## Witnesses: synchronisation, jobs, registers, monitors, queues, contexts -/

/-- A gusset file that no context owns, one that context 5 (the world's) owns, and one of another context. -/
theorem wit_gussets :
    let s := world []
    let owned := fun (c : Nat) => s.setPair 0 { s.pair 0 with ownV := true, ownCtx := c }
    repMode s = 0 ∧ (s.pair (pairOf s.cc)).ownV = false ∧ ((owned 5).pair 0).ownV = true ∧ ctxId (owned 5).myCore.ascRoot.toNat = 5 ∧
    ((owned 6).pair 0).ownCtx ≠ ctxId (owned 6).myCore.ascRoot.toNat := by decide

/-- Semaphore 3 of core 0 holding `v`, token FIFO 2 holding `n` tokens. -/
def counted (v n : Nat) : State :=
  (world []).setMyCore { (world []).myCore with sem := [(3, v, .empty)], tk := [(2, List.replicate n ⟨0, 0, .empty⟩)] }

theorem wit_semaphores : (counted 65535 0).cc < 1024 ∧ repMode (counted 65535 0) = 0 ∧ (semOf (counted 65534 0) 0 3).1 + 1 ≤ 65535 ∧
    65535 < (semOf (counted 65535 0) 0 3).1 + 1 ∧ 255 ≤ (semOf (counted 255 0) 0 3).1 ∧ (semOf (counted 254 0) 0 3).1 < 255 ∧
    (tokens (counted 0 7) 0 2).length < 8 ∧ 8 ≤ (tokens (counted 0 8) 0 2).length ∧ tokens (counted 0 1) 0 2 = [⟨0, 0, .empty⟩] ∧
    tokens (counted 0 0) 0 2 = [] := by decide

/-- Group 1 of level 3 with members the control cores that `cores` and `streams` name, `count` arrived; the LCC of core 0 holds ticket `t`. -/
def grouped (cores streams count gen : Nat) (a : Bool) (t : Nat) : State :=
  let s := (world []).setGroup 1 { Group.reset with cfg := BitVec.ofNat 64 (3 + streams * 2 ^ 13 + 2 ^ 16), mask := [(0, BitVec.ofNat 64 cores)], count := count, gen := gen }
  s.setMe { s.me with arr := [(1, a)], ticket := [(1, t)], araV := a, araG := 1, araPc := 0 }

theorem wit_barriers :
    let last := grouped 1 1 0 5 false 0
    let first := grouped 3 1 0 5 false 0
    let waits := grouped 3 1 1 5 true 5
    let past := grouped 3 1 0 6 true 5
    let none' := grouped 2 1 0 5 false 0
    (gEnable (last.group 1) = true ∧ gMember (last.group 1) last.cc last.cl = true ∧ gLevel (last.group 1) ≤ 4 ∧ (last.group 1).count + 1 = gMembers (last.group 1)) ∧
    ((first.group 1).count + 1 ≠ gMembers (first.group 1) ∧ look false first.me.arr 1 = false) ∧
    (look false waits.me.arr 1 = true ∧ (waits.group 1).gen = look 0 waits.me.ticket 1 ∧ waits.myStr.wait = .none) ∧
    (look false past.me.arr 1 = true ∧ (past.group 1).gen ≠ look 0 past.me.ticket 1 ∧ past.me.araV = true ∧ past.me.araG = 1 ∧ past.me.araPc = past.pc) ∧
    (gMember (none'.group 1) none'.cc none'.cl = false ∧ none'.me.araV = false) := by decide +kernel

/-- Jobs: PCs of four streams in s60-s63, the engines idle; a leader in no job; a job whose ME runs. -/
theorem wit_jobs :
    let s := jobWorld [(60, 0), (61, 64), (62, 128), (63, 262080), (1, 65535), (2, 65536)]
    let busy := s.setStr 0 .me { s.str 0 .me with st := .run, inJob := true, job := .lcc }
    Ready g0 s ∧ s.myStr.inJob = true ∧ (∀ e ∈ maskStreams 60 15, (s.me.rdS e.2).toNat % 64 = 0 ∧ (s.me.rdS e.2).toNat < 262144 ∧
      (s.str s.cc (engStream e.1)).st = .idle) ∧ (world []).myStr.inJob = false ∧ jobBusy s s.cc s.cl = false ∧ acked s s.myAgent = true ∧
    jobBusy busy busy.cc busy.cl = true ∧ busy.myStr.inJob = true ∧ (s.rdS 1).toNat ≤ 65535 ∧ 65535 < (s.rdS 2).toNat := by decide +kernel

/-- The licence held here, disabled, free; a core that waits for its release; fences with and without accesses under way. -/
theorem wit_licence :
    let s := fun (x : Lic) (w : Nat) => (world []).setPair 0 { (world []).pair 0 with lic := x, who := w }
    let waits := (s .free 0).setMyStr { (s .free 0).myStr with wait := .licence false, st := .wait }
    let sent := { world [] with sent := [⟨1, 0, 0, 1, 0⟩] }
    let msa := { world [] with msa := [⟨4, 0, 0, 0x2000, .add, 0x44, [(0, 1)], none, (0, 0)⟩], msaNext := 5 }
    ((s .held 0).pair 0).lic = .held ∧ ((s .held 0).pair 0).who = levelOf (s .held 0).cc ∧ ((s .disabled 0).pair 0).lic = .disabled ∧
    (s .held 1).myStr.wait = .none ∧ ((s .held 1).pair 0).who ≠ levelOf (s .held 1).cc ∧ waits.myStr.wait = .licence false ∧ (waits.pair 0).lic ≠ .releasing ∧
    acked (world []) (world []).myAgent = true ∧ acked sent sent.myAgent = false ∧ scopeNo .module < 4 ∧ ¬scopeNo .domain < 4 ∧
    (¬∃ r ∈ (world []).msa, r.core = (world []).cc) ∧ (∀ r ∈ msa.msa, r.core = msa.cc ∧ r.id < msa.msaNext) ∧ msa.myStr.st ≠ .wait ∧
    (∀ r ∈ msa.msa, r.core = msa.cc → 4 ≤ r.id) := by decide +kernel

/-- Values that an amax register takes and refuses; registers that exist and do not; the levels that reach them. -/
theorem wit_registers :
    amaxBad ((world [(1, 0x3F800000)]).rdS 1) = false ∧ amaxBad ((world [(1, 0xFFC00000)]).rdS 1) = true ∧ regOf 0xFFF = none ∧
    (regOf 0x104).isSome = true ∧ (jobWorld []).me.priv = false ∧ ((regOf 0x104).map (·.jobRd)) = some false ∧ ((regOf 0x1C0).map (·.jobRd)) = some true ∧
    readReg 0 .lcc 0x104 (world []) = .ok 0 ∧ (writeReg 0 .lcc 0x104 5 (world [])).isOk = true ∧ (writeReg 0 .lcc 0x21C 0x800 (world [])).isOk = true ∧
    (writeReg 0 .lcc 0x21C 1 (world [])).isOk = false := by decide +kernel

/-- The state that such a write leaves goes on: it neither halts nor idles its own stream, and the same stream executes. -/
theorem wit_register_goes_on : ∃ t, writeReg 0 .lcc 0x104 5 (world []) = .ok t ∧ t.myStr.st ≠ .halt ∧ t.myStr.st ≠ .idle ∧ t.cur = (world []).cur :=
  ⟨_, rfl, by decide, by decide, rfl⟩

/-- A monitor of HBM whose condition holds, and one whose condition does not. -/
theorem wit_monitors : ∃ l s1 x s2, Runs (myLoc (world [(2, 5)]) (opnd 8) .load fun t => t == 0x45 || t == 0x83 || t == 0xC0) (world [(2, 5)]) l s1 ∧
    Runs (loadOrd (world [(2, 5)]).who l .acq .module) s1 x s2 ∧ (decide (s1.me = (world [(2, 5)]).me) && decide ((world [(2, 5)]).myStr.wait = .none) &&
      Machine.cond .ltu (BitVec.ofNat 64 x) ((world [(2, 5)]).rdS 2) && !Machine.cond .eq (BitVec.ofNat 64 x) ((world [(2, 5)]).rdS 2)) = true := runs2 (by decide +kernel)

/-- A queue of 4 slots with indices `wix` and `rix`, of which `n` are asked for (R133). -/
def queued (wix rix n : Nat) : State :=
  { world [(2, BitVec.ofNat 64 n)] with
    mem := tables ++ cellsAt 0x400000 [wix % 2 ^ 32, wix / 2 ^ 32, rix % 2 ^ 32, rix / 2 ^ 32, 4, 0, 0, 0] }

/-- What a claim needs of a header, and what its condition compares. -/
def claimState (s : State) : Nat × Nat × Bool :=
  match ((do
    let l ← locate s.who (s.rdH 8) (coordM s (opnd 8)) .atomic false (fun t => !isReserved t) (fun q => q == 2 || q == 3 || q == 5)
    hostGate s.who l true true
    performRelease s.who .module
    performAcquire s.who .module
    let x ← homeRead s.who l 32
    return (l, x) : M (Loc × Nat)).go s).1 with
  | .ok (l, x) => (x % 2 ^ 64, (x % 2 ^ 64 + 2 ^ 64 - x / 2 ^ 64 % 2 ^ 64) % 2 ^ 64 + (s.rdS 2).toNat,
      decide (l.p.addr % 32 = 0 ∧ l.p.tag = 0x45 ∧ x / 2 ^ 128 % 2 ^ 64 = 4 ∧ x / 2 ^ 192 = 0) && ends (takeRels s.who.agent .acq .module (look [] s.locs l.flat)) s &&
        ends (homeWrite l 8 5) s)
  | _ => (0, 0, false)

/-- Claims that just fit, across the wrap of the index, and one that does not. -/
theorem wit_claims : claimState (queued 3 1 2) = (3, 4, true) ∧ claimState (queued 1 (2 ^ 64 - 1) 2) = (1, 4, true) ∧
    claimState (queued 3 1 3) = (3, 5, true) := by decide +kernel

theorem wit_bells : ∃ l s1 x s2, Runs (myLoc (world []) (opnd 8) .store fun t => t == 0x45) (world []) l s1 ∧
    Runs (storeOrd (world []).who l .rel .module 3) s1 x s2 ∧ (decide (2 ≤ l.p.space) && decide (l.p.space ≠ 6) &&
      inScope (world []).who.agent .module (8192 + 1024 + homeOf l.flat) &&
      decide (((writeBack (world []).who.tower (l.flat / 256) s2).tower (homeOf l.flat)).notices = [])) = true := runs2 (by decide +kernel)

/-- A notice buffer holds at least one notice, and can be full. -/
theorem wit_notices : ([] : List Nat).length < Config.noticeMax ∧ Config.noticeMax ≤ (List.replicate Config.noticeMax 0).length :=
  ⟨Nat.succ_pos _, by rw [List.length_replicate]⟩

/-- A doorbell that waits while the buffer is full, its store made. -/
theorem wit_bell_again :
    let s := (world []).setMyStr { (world []).myStr with st := .wait, wait := .own 6 }
    Ready g0 s ∧ s.myStr.st = .wait ∧ s.myStr.wait = .own 6 ∧ ends (myLoc s (opnd 8) .store fun t => t == 0x45) s = true := by decide +kernel

/-- A module whose core 1 stands still, and an image of version 1 with nothing else in it. -/
def imaged (v : Word) : State := { world [(1, v)] with mem := memWr tables 0x10000 1 }

/-- What the save of core 1 through entry 7 needs. -/
theorem wit_context_save :
    let s := imaged (7 * 2 ^ 10 + 1)
    canSave s 1 = true ∧ canSave s 0 = false ∧ coreSent s 1 = false ∧ s.msa.any (fun r => r.core == 1) = false ∧ s.me.priv = true ∧
    (match imageEntry (s.rdS 1) s with
      | .ok (n, e) => decide (n = 7) && ends (imageLocs n e .store (imagePieces (eBase e))) s
      | .error _ => false) = true := by decide +kernel

/-- Saves that wait for a remote access and for a memory-side request of the target, and one whose instruction memory holds an error. -/
theorem wit_context_save_waits :
    let s := imaged (7 * 2 ^ 10 + 1)
    let sent := { s with sent := [⟨1, 1, 0, 1, 0⟩] }
    let msa := { s with msa := [⟨4, 0, 1, 0x2000, .add, 0x44, [(0, 1)], none, (0, 0)⟩], msaNext := 5 }
    let bad := { s with marks := [(0, 2 ^ 18 / 8)] }
    let pieces := fun (s : State) => match imageEntry (s.rdS 1) s with
      | .ok (n, e) => ends (imageLocs n e .store (imagePieces (eBase e))) s
      | .error _ => false
    canSave sent 1 = true ∧ coreSent sent 1 = true ∧ canSave msa 1 = true ∧ msa.msa.any (fun r => r.core == 1) = true ∧
    contextMarked s 1 = false ∧ canSave bad 1 = true ∧ coreSent bad 1 = false ∧ contextMarked bad 1 = true ∧ pieces bad = true := by decide +kernel

/-! The load of an image: no copy of a line is held away from its home, so that nothing moves home. -/

theorem toHome_same {t flat : Nat} {s : State} (h1 : (s.tower t).upd = []) (h2 : (s.tower t).guest = []) (h3 : (s.towers.filter fun e => !e.2.upd.isEmpty) = []) :
    toHome t flat s = s := by
  have hm : mergeLine t (flat / 256) s = s := by unfold mergeLine; simp only [h1, find]
  have hd : dropLine t (flat / 256) s = s := by unfold dropLine writeBack; simp only [h2, find]
  have hr : recallHolders (flat / 256) s = s := by
    have : holders s (flat / 256) = [] := by
      unfold holders
      rw [List.map_eq_nil_iff, List.filter_eq_nil_iff]
      intro e he hc
      have := List.filter_eq_nil_iff.mp h3 e he
      simp only [Bool.not_eq_true, Bool.not_eq_false', List.isEmpty_iff] at this
      rw [this] at hc
      cases hc
    unfold recallHolders
    rw [this]
    rfl
  unfold toHome
  simp only [hm, hd, ite_self, hr]

theorem home_same {t : Nat} {s : State} (ls : List (Nat × Nat × Loc)) (h1 : (s.tower t).upd = []) (h2 : (s.tower t).guest = [])
    (h3 : (s.towers.filter fun e => !e.2.upd.isEmpty) = []) : ls.foldl (pieceHome t) s = s := by
  induction ls with
  | nil => rfl
  | cons x ls ih =>
    rw [List.foldl_cons]
    have : pieceHome t s x = s := by
      unfold pieceHome
      induction List.range (x.2.1 / 256 + 2) with
      | nil => rfl
      | cons k ks ihk => rw [List.foldl_cons, toHome_same h1 h2 h3]; exact ihk
    rw [this]
    exact ih

/-- The image's entry, its pieces, and the state behind their translations. -/
def imageE (s : State) : Entry := match imageEntry (s.rdS 1) s with | .ok (_, e) => e | .error _ => 0
def imageLs (s : State) : List (Nat × Nat × Loc) := outV (imageLocs 7 (imageE s) .load (imagePieces (eBase (imageE s)))) s
def imageS (s : State) : State := outS (imageLocs 7 (imageE s) .load (imagePieces (eBase (imageE s)))) s
def imageW (s : State) (k : Nat) : Nat := leNat ((List.range 8).map fun j => pieceByte (imageS s) (imageLs s) (k + j))

def sound : State := imaged (7 * 2 ^ 10 + 1)
theorem sound_reads : ends (imageLocs 7 (imageE sound) .load (imagePieces (eBase (imageE sound)))) sound
    (fun _ t => decide ((t.tower t.who.tower).upd = [] ∧ (t.tower t.who.tower).guest = [] ∧ (t.towers.filter fun e => !e.2.upd.isEmpty) = [] ∧ t.marks = [])) = true := by
  decide +kernel
/-- What the load needs: the target idle, every byte of the image readable, the tests of R374 passed. -/
theorem wit_context_load : canLoad sound 1 = true ∧ (∃ e, imageEntry (sound.rdS 1) sound = .ok (7, e) ∧ e = imageE sound) ∧
    Runs (imageLocs 7 (imageE sound) .load (imagePieces (eBase (imageE sound)))) sound (imageLs sound) (imageS sound) ∧
    (let t := (imageLs sound).foldl (pieceHome (imageS sound).who.tower) (imageS sound)
     t = imageS sound ∧ (imageLs sound).all (fun x => rangeOk t t.who.tower x.2.2.flat x.2.1) = true) := by
  obtain ⟨ls, t, hr, ht⟩ := runs sound_reads
  obtain ⟨h1, h2, h3, h4⟩ := of_decide_eq_true ht
  have e1 : imageLs sound = ls := by have hr : M.go _ _ = _ := hr; simp only [imageLs, outV, hr]
  have e2 : imageS sound = t := by have hr : M.go _ _ = _ := hr; simp only [imageS, outS, hr]
  rw [e1, e2]
  refine ⟨by decide +kernel, ⟨_, by decide +kernel, rfl⟩, hr, home_same ls h1 h2 h3, ?_⟩
  rw [home_same ls h1 h2 h3, List.all_eq_true]
  intro x _
  unfold rangeOk
  rw [h4]
  rfl
theorem wit_context_image : imageOk (imageW sound) = true ∧ (gusLoad ((imageS sound).pair (pairOf 1)) (imageW sound 0 / 2 ^ 26 % 2 ^ 12) (imageW sound)).isSome = true := by decide +kernel

/-- An image of another version fails the tests. -/
theorem wit_context_load_refused : imageOk (imageW { sound with mem := memWr tables 0x10000 2 }) = false := by decide +kernel

/-- An image with a marked unit in its first piece. -/
theorem wit_context_load_marked :
    let s := { sound with marks := [(5, 0x10000 / 32)] }
    ends (imageLocs 7 (imageE s) .load (imagePieces (eBase (imageE s)))) s (fun ls t => ls.any fun x =>
      !rangeOk t t.who.tower (x.2.2.flat + 32 * 0) (Nat.min 32 (x.2.1 - 32 * 0)) && decide (32 * 0 < x.2.1)) = true := by decide +kernel

/-! ## Witnesses: records at their sequencer -/

/-- Operand descriptors (R180): memory through handle `n`, an operand queue, an accumulator tile, an immediate, none. -/
def inMem (n : HReg) : Desc := ⟨n, true, 0, 0, 0, 0, 0, 0, 0⟩
def inQueue (n : Fin 32) : Desc := ⟨n, true, 1, 0, 0, 0, 0, 0, 0⟩
def inTile (t : Fin 65536) : Desc := ⟨0, true, 2, 0, t, 0, 0, 0, 0⟩
def inImm (lo : BitVec 16) : Desc := ⟨0, false, 3, 0, 0, lo, 0, 0, 0⟩

/-- A record of one issue that stands at its issue at sequencer `e` of core 0, whose stream executes. -/
def issuing (i : Instr) (e : Eng) (s : State) : State :=
  let s := { s with cur := (0, engStream e) }
  s.setSeqOf 0 e { s.seqOf 0 e with run := some { Run.fresh s 0 e i 0 .issue with total := 1 } }

/-- The record there. -/
def runOf (i : Instr) (e : Eng) (s : State) : Run := ((issuing i e s).seqOf 0 e).run.getD default

theorem wit_at_issue : AtIssue (.veAdd blank) .ve (runOf (.veAdd blank) .ve (world [])) (issuing (.veAdd blank) .ve (world [])) :=
  ⟨rfl, rfl, by decide +kernel, rfl, by decide +kernel⟩

def recAdd : Rec := { blank with d := inMem 11, a := inMem 11, b := inMem 11 }
theorem wit_lanes : ∃ v t, laneRule (fun _ t => decide (0x40 ≤ t ∧ t ≤ 0x45)) (fun r => bitAt r.opx.val 0) (intSum fun a b => a + b) recAdd 0 .ve
    (runOf (.veAdd recAdd) .ve (world [])) (landed .ve (issuing (.veAdd recAdd) .ve (world []))) v t :=
  ⟨_, _, _, _, _, _, _, _, _, _, _, _, _, rS, rS, rS, rS, rC, rC, rC, rO, rO, rU, rU, rU, rU, rfl⟩

/-! Vector records. -/

abbrev ve (mk : Rec → Instr) (r : Rec) (s : State := world []) : State := landed .ve (issuing (mk r) .ve s)
abbrev veRun (mk : Rec → Instr) (r : Rec) (s : State := world []) : Run := runOf (mk r) .ve s

/-- Memory operands of the formats i64 and f32. -/
def rec64 : Rec := { blank with d := inMem 11, a := inMem 11, b := inMem 11, c := inMem 11 }
def rec32 : Rec := { blank with d := inMem 19, a := inMem 19, b := inMem 19, c := inMem 19 }

theorem wit_float_lanes : ∃ v t, laneRule realOrComplexTag (fun r => bitAt r.opx.val 0) (floatSum true fun a b z => ((mulTerms a b).zip z).map fun e => e.1 ++ [e.2])
    rec32 0 .ve (veRun .veFma rec32) (ve .veFma rec32) v t :=
  ⟨_, _, _, _, _, _, _, _, _, _, _, _, _, rS, rS, rS, rS, rC, rC, rC, rO, rO, rU, rU, rU, rU, rfl⟩

theorem wit_transcendental : ∃ v t, laneRule (fun _ t => t == 0x80 || t == 0x81 || t == 0x82) (fun _ => false) (transCode 0x20)
    { rec32 with b := blank.b, c := blank.c } 0 .ve (veRun .veExp2 { rec32 with b := blank.b, c := blank.c }) (ve .veExp2 { rec32 with b := blank.b, c := blank.c }) v t :=
  ⟨_, _, _, _, _, _, _, _, _, _, _, _, _, rS, rS, rS, rS, rC, rC, rC, rO, rO, rU, rU, rU, rU, rfl⟩

theorem wit_convert : ∃ v t, convertRule false { rec32 with c := blank.c } 0 .ve (veRun .veCvt { rec32 with c := blank.c }) (ve .veCvt { rec32 with c := blank.c }) v t :=
  ⟨_, _, _, _, _, _, _, _, _, rS, rS, rC, rO, rO, rU, rU, rfl⟩

theorem wit_amax : ∃ v t, amaxRule rec32 0 .ve (veRun .veAmax rec32) (ve .veAmax rec32) v t :=
  ⟨_, _, _, _, _, _, rS, rC, rO, rU, rU, rfl⟩

theorem wit_scan : ∃ v t, scanRule rec32 0 .ve (veRun .veScan rec32) (ve .veScan rec32) v t :=
  ⟨_, _, _, _, _, _, _, _, _, rS, rS, rC, rO, rO, rU, rU, rfl⟩

/-- A reduction over the value in memory, and one that starts afresh. -/
theorem wit_reduce : ∃ v t, reduceRule 0x38 .zero (fun _ o l => xsum (o :: l)) rec32 0 .ve (veRun .veRsum rec32) (ve .veRsum rec32) v t :=
  ⟨_, _, _, _, _, _, _, _, rS, rC, rO, rO, rU, rU, rfl⟩
theorem wit_reduce_fresh : ∃ v t, reduceRule 0x39 (.inf true) (fun b o l => (l.map fun v => if b then v.abs else v).foldl maxVal o) { rec32 with clr := true } 0 .ve
    (veRun .veRmax { rec32 with clr := true }) (ve .veRmax { rec32 with clr := true }) v t :=
  ⟨_, _, _, _, _, _, _, _, rS, rC, rO, rO, rU, rU, rfl⟩

theorem wit_acs : ∃ v t, laneRule (fun _ t => isIntOp t || isIeee t) (fun r => bitAt r.opx.val 1) acsCode rec64 0 .ve (veRun .veAcs rec64) (ve .veAcs rec64) v t :=
  ⟨_, _, _, _, _, _, _, _, _, _, _, _, _, rS, rS, rS, rS, rC, rC, rC, rO, rO, rU, rU, rU, rU, rfl⟩

/-- A mask in uint8 memory (h20), indices in i32 memory (h12). -/
def recCmp : Rec := { rec64 with d := inMem 20, c := blank.c }
theorem wit_cmp : ∃ v t, cmpRule recCmp 0 .ve (veRun .veCmp recCmp) (ve .veCmp recCmp) v t :=
  ⟨_, _, _, _, _, _, _, _, _, _, _, rS, rS, rS, rC, rC, rO, rO, rU, rU, rU, rfl⟩
def recSel : Rec := { rec64 with c := inMem 20 }
theorem wit_sel : ∃ v t, selRule recSel 0 .ve (veRun .veSel recSel) (ve .veSel recSel) v t :=
  ⟨_, _, _, _, _, _, _, _, _, rS, rS, rS, rC, rC, rO, rU, rU, rU, rfl⟩
def recIdx : Rec := { rec64 with b := inMem 12 }
theorem wit_perm : ∃ v t, permRule recIdx 0 .ve (veRun .vePerm recIdx) (ve .vePerm recIdx) v t :=
  ⟨_, _, _, _, _, _, _, _, _, rS, rS, rS, rC, rC, rO, rU, rU, rU, rfl⟩
theorem wit_gath : ∃ v t, gathRule recIdx 0 .ve (veRun .veGath recIdx) (ve .veGath recIdx) v t :=
  ⟨_, _, _, _, _, _, _, rS, rS, rC, rO, rU, rU, rfl⟩
theorem wit_scat : ∃ v t, scatRule recIdx 0 .ve (veRun .veScat recIdx) (ve .veScat recIdx) v t :=
  ⟨_, _, _, _, _, _, _, _, rS, rS, rC, rC, rO, rU, rU, rU, rfl⟩
theorem wit_bcast : ∃ v t, bcastRule rec64 0 .ve (veRun .veBcast rec64) (ve .veBcast rec64) v t :=
  ⟨_, _, _, _, _, _, rS, rS, rO, rU, rfl⟩
theorem wit_iota : ∃ v t, iotaRule { rec64 with c := inImm 5 } 0 .ve (veRun .veIota { rec64 with c := inImm 5 }) (ve .veIota { rec64 with c := inImm 5 }) v t :=
  ⟨_, _, _, _, _, _, _, rS, rO, rO, rU, rfl⟩

/-- Random words, and the bits of a mask. -/
def recRng : Rec := { blank with d := inMem 12 }
theorem wit_rng : ∃ v t, rngRule recRng 0 .ve (veRun .veRng recRng) (ve .veRng recRng) v t :=
  ⟨_, _, (fun h => absurd h (by decide)), fun _ => ⟨_, _, _, rS, rO, rU, rfl⟩⟩

/-- A destination in memory. -/
theorem rRun {m : M Dst} {s : State} (h : ends m s (fun x t => decide (t = s) && match x with | .run _ _ => true | _ => false) = true) :
    ∃ a k, Runs m s (.run a k) s := by
  obtain ⟨x, t, hr, ht⟩ := runs h
  simp only [Bool.and_eq_true] at ht
  have e := of_decide_eq_true ht.1
  subst e
  cases x with
  | run a k => exact ⟨a, k, hr⟩
  | frag p => exact absurd ht.2 (by simp)
  | bad f q => exact absurd ht.2 (by simp)
def recRngMask : Rec := { blank with d := inMem 20, opx := 2, c := inImm 0x8000 }
theorem wit_rng_mask : ∃ v t, rngRule recRngMask 0 .ve (veRun .veRng recRngMask) (ve .veRng recRngMask) v t := by
  obtain ⟨a, k, h⟩ := rRun (m := dstOf 0 (veRun .veRng recRngMask) recRngMask.d) (s := ve .veRng recRngMask) (by decide +kernel)
  exact ⟨_, _, (fun _ => ⟨a, k, _, _, _, _, h, rO, rO, rU, rfl⟩), fun h => absurd rfl h⟩

/-! Scaled and square operands; matrix records. -/

/-- A relaxed layout entry of `n` by `n` elements of format `f` in scratchpad memory at `base`. -/
def squareWords (f base n stride : Nat) : List Nat := [17 + f * 2 ^ 8 + 2 * 2 ^ 16, 0, base, 0, n, n, 1, 1, stride]

/-- A handle on entry `n` of format `f` with scales of kind `k` in entry `e`, and a window of `x` by `x`. -/
def scaledOn (n f k e x : Nat) : Handle :=
  BitVec.ofNat 256 (n + 2 ^ 12 + f * 2 ^ 16 + e * 2 ^ 32 + k * 2 ^ 44 + 0xFFF * 2 ^ 50 + (x - 1 + (x - 1) * 2 ^ 16) * 2 ^ 192)

/-- The module with more layout entries: 11 a square of 32 by 32 bytes, 12 block scales, 13 row scales, 14 a byte of weight storage; h21 the square, h22 with block scales,
h23 and h24 its first element plain and with a row scale, h25 the last. The core holds its matrix licence, unit 2 carries FP32 with unit 3. -/
def scaled : State :=
  let s := world []
  let k := { s.core 0 with
    unitTag := [(2, 0x82), (3, 0x82)]
    lcc := { (s.core 0).lcc with h := (s.core 0).lcc.h ++ [(21, scaledOn 11 0x43 0 0 32), (22, scaledOn 11 0x43 1 12 32), (23, scaledOn 11 0x43 0 0 1), (24, scaledOn 11 0x43 2 13 1), (25, handleOn 14 0x43 0)] } }
  let s := { s with mem := tables ++ (cellsAt (0x40000 + 704) (squareWords 0x43 0x1000 32 32) ++ (cellsAt (0x40000 + 768) (squareWords 0x84 0x2000 2 2) ++
    cellsAt (0x40000 + 832) (squareWords 0x82 0x3000 8 32 ++ (List.replicate 7 0 ++ entryWords 1 0x43 0 0)))) }
  (s.setCore 0 k).setPair 0 { s.pair 0 with lic := .held, who := 0 }

theorem wit_dequant : ∃ v t, convertRule true { blank with d := inMem 19, a := inMem 24 } 0 .ve (veRun .veDequant { blank with d := inMem 19, a := inMem 24 } scaled)
    (ve .veDequant { blank with d := inMem 19, a := inMem 24 } scaled) v t :=
  ⟨_, _, _, _, _, _, _, _, _, rS, rS, rC, rO, rO, rU, rU, rfl⟩

def recQuant : Rec := { blank with d := inMem 24, a := inMem 19, b := inMem 19 }
theorem wit_quant : ∃ v t, quantRule recQuant 0 .ve (veRun .veQuant recQuant scaled) (ve .veQuant recQuant scaled) v t :=
  ⟨_, _, _, _, _, _, _, _, _, rS, rC, rO, rO, rU, rU, rU, rfl⟩

abbrev me (mk : Rec → Instr) (r : Rec) (s : State := scaled) : State := landed .me (issuing (mk r) .me s)
abbrev meRun (mk : Rec → Instr) (r : Rec) (s : State := scaled) : Run := runOf (mk r) .me s

/-- The same with bank 0 loaded with one element of uint8, and with one of FP32. -/
def banked (tag : Nat) : State := scaled.setCore 0 { scaled.core 0 with banks := [(0, ⟨1, 1, tag, 0⟩)] }

def recMul : Rec := { blank with d := inTile 0, a := inMem 23 }
theorem wit_mul_empty : ∃ v t, mulRule false recMul 0 .me (meRun .meMma recMul) (me .meMma recMul) v t :=
  ⟨_, _, rC, (fun _ => ⟨rU, rfl⟩), fun h => absurd (by decide +kernel) h⟩

/-- A row from memory; a bank without rows; a queue's row, also without rows and with an empty bank. -/
theorem wit_mul_memory : ∃ v t, mulRule false recMul 0 .me (meRun .meMma recMul (banked 0x43)) (me .meMma recMul (banked 0x43)) v t :=
  ⟨_, _, rC, (fun h => absurd h (by decide +kernel)), fun _ => ⟨⟨0, 0x82, 0, 0⟩, by decide +kernel,
    (fun _ => ⟨by decide +kernel, (fun h => absurd h (by decide +kernel)), fun _ => ⟨_, _, rO, ⟨fun _ => rC, rC, fun h => absurd rfl h⟩, rfl, rfl⟩⟩), fun h => absurd h (by decide +kernel)⟩⟩

/-- The bank with `k` rows, and one element in the operand queue 0. -/
def queuedRow (k : Nat) : State :=
  setQueue 0 0 [⟨List.replicate 512 1, 0x43, default, false⟩] (scaled.setCore 0 { scaled.core 0 with banks := [(0, ⟨k, 1, 0x43, 0⟩)] })
def recMulQ : Rec := { recMul with a := inQueue 0 }
theorem wit_mul_queue : ∃ v t, mulRule false recMulQ 0 .me (meRun .meMma recMulQ (queuedRow 1)) (me .meMma recMulQ (queuedRow 1)) v t :=
  ⟨_, _, rC, (fun h => absurd h (by decide +kernel)), fun _ => ⟨⟨0, 0x82, 0, 0⟩, by decide +kernel, (fun h => absurd rfl h), fun _ =>
    ⟨_, rS, by decide +kernel, (fun h => absurd h (by decide +kernel)), fun _ => ⟨⟨fun _ => rC, rC, fun h => absurd rfl h⟩, rU, rfl⟩⟩⟩⟩
theorem wit_mul_queue_no_rows : ∃ v t, mulRule false recMulQ 0 .me (meRun .meMma recMulQ (queuedRow 0)) (me .meMma recMulQ (queuedRow 0)) v t :=
  ⟨_, _, rC, (fun h => absurd h (by decide +kernel)), fun _ => ⟨⟨0, 0x82, 0, 0⟩, by decide +kernel, (fun h => absurd rfl h), fun _ =>
    ⟨_, rS, by decide +kernel, (fun _ => ⟨rU, rfl⟩), fun h => absurd (by decide +kernel) h⟩⟩⟩

def recBld : Rec := { blank with b := inMem 25, opx := 1, c := inImm 1 }
theorem wit_bld : ∃ v t, bldRule recBld 0 .me (meRun .meBld recBld) (me .meBld recBld) v t := ⟨_, _, _, rC, rU, by decide +kernel, rfl, rfl⟩

def recTile : Rec := { blank with d := inTile 0 }
theorem wit_clr : ∃ v t, clrRule recTile 0 .me (meRun .meClr recTile) (me .meClr recTile) v t :=
  ⟨_, _, ⟨0, 0x82, 0, 0⟩, rC, by decide +kernel, rfl, rfl⟩

/-- No run stands where none does. -/
theorem not_some {α : Type} {o : Option α} {x : α} {P : Prop} (h0 : o = none) (h : o = some x) : P := by rw [h0] at h; cases h

def recDrn : Rec := { blank with d := inMem 19, a := inTile 2, c := ⟨0, false, 3, 0, 0, 0, 0x3F80, 1, 0⟩ }
theorem wit_drn : ∃ v t, drnRule recDrn 0 .me (meRun .meDrn recDrn) (me .meDrn recDrn) v t :=
  ⟨_, _, ⟨2, 0x82, 0, 0⟩, rC, by decide +kernel, by decide +kernel, by decide +kernel, rC, rU, rfl⟩
theorem wit_lend : ∃ v t, lendRule { blank with c := inImm 1 } 0 .me (meRun .meFragLend { blank with c := inImm 1 }) (me .meFragLend { blank with c := inImm 1 }) v t :=
  ⟨_, _, rC, rfl, rfl⟩
theorem wit_reclaim : ∃ v t, reclaimRule { blank with c := inImm 1 } 0 .me (meRun .meFragReclaim { blank with c := inImm 1 })
    (me .meFragReclaim { blank with c := inImm 1 }) v t := ⟨_, _, rC, rfl, .inl ⟨(fun _ h => not_some (by decide +kernel) h), rfl⟩, rfl⟩
theorem wit_sbw : Runs (needLicence 0) (me .meSbw blank) () (me .meSbw blank) := rC

theorem runs_then {α β : Type} {m : M α} {f : α → M β} {s t u : State} {x : α} {y : β} (h1 : Runs m s x t) (h2 : Runs (f x) t y u) :
    Runs (m >>= f) s y u := by
  have h1 : m s = (Except.ok x, t) := h1
  show (m >>= f) s = _
  simp only [bind, ExceptT.bind, ExceptT.mk, ExceptT.bindCont, StateT.bind, h1]
  exact h2

/-- A module whose layout table lies at 0: entry 0 a row of 256 FP32 elements, 1 a square of 32 by 32 bytes, 2 block scales; h1 the row, h2 and
h3 the square without and with scales. The three entries stand in the layout cache of the tower. -/
def rows : State :=
  let line := fun ws : List Nat => ws.foldr (fun w n => w + 2 ^ 32 * n) 0
  let k := { Core.reset with
    ascLtb := 0x8000000000000000
    unitTag := [(0, 0x82), (1, 0x82)]
    strm := [(0, { Strm.reset with st := .run })]
    lcc := { Ctl.reset with h := [(1, handleOn 0 0x82 255), (2, scaledOn 1 0x43 0 0 32), (3, scaledOn 1 0x43 1 2 32)] } }
  let s := { State.reset with
    mem := cellsAt 0 (entryWords 0 0x82 0 0x4000 256) ++ (cellsAt 64 (squareWords 0x43 0x1000 32 32) ++ cellsAt 128 (squareWords 0x84 0x2000 2 2))
    towers := [(0, { Tower.reset with lcache := [(0, line (entryWords 0 0x82 0 0x4000 256)), (1, line (squareWords 0x43 0x1000 32 32)), (2, line (squareWords 0x84 0x2000 2 2))] })]
    cores := [(0, k)] }
  s.setPair 0 { s.pair 0 with lic := .held, who := 0 }


/-! Squares: an access to relaxed scratchpad memory whose entry stands in the layout cache changes nothing; a result joins those in flight. -/

theorem runs_each {α : Type} {f : α → M Unit} {s : State} {l : List α} (h : ∀ x ∈ l, Runs (f x) s () s) : Runs (forList f l) s () s := by
  induction l with
  | nil => rfl
  | cons x l ih => exact runs_then (h x List.mem_cons_self) (ih fun y hy => h y (List.mem_cons_of_mem _ hy))
/-- A walk each of whose steps keeps `P`. -/
theorem runs_walk {α : Type} {f : α → M Unit} {P : State → Prop} {l : List α} (h : ∀ x ∈ l, ∀ s, P s → ∃ t, Runs (f x) s () t ∧ P t) :
    ∀ s, P s → ∃ t, Runs (forList f l) s () t ∧ P t := by
  induction l with
  | nil => exact fun s hs => ⟨s, rfl, hs⟩
  | cons x l ih =>
    intro s hs
    obtain ⟨t, h1, ht⟩ := h x List.mem_cons_self s hs
    obtain ⟨u, h2, hu⟩ := ih (fun y hy => h y (List.mem_cons_of_mem _ hy)) t ht
    exact ⟨u, runs_then h1 h2, hu⟩
/-- A walk over the numbers below `n`, of which `P` says how far it is. -/
theorem runs_range {f : Nat → M Unit} {P : Nat → State → Prop} {n : Nat} (h : ∀ q, q < n → ∀ s, P q s → ∃ t, Runs (f q) s () t ∧ P (q + 1) t) :
    ∀ s, P 0 s → ∃ t, Runs (forList f (List.range n)) s () t ∧ P n t := by
  have key : ∀ m a, a + m = n → ∀ s, P a s → ∃ t, Runs (forList f (List.range' a m)) s () t ∧ P n t := by
    intro m
    induction m with
    | zero => exact fun a ha s hs => ⟨s, rfl, by rwa [show n = a by omega]⟩
    | succ m ih =>
      intro a ha s hs
      obtain ⟨t, h1, ht⟩ := h a (by omega) s hs
      obtain ⟨u, h2, hu⟩ := ih (a + 1) (by omega) t ht
      exact ⟨u, runs_then h1 h2, hu⟩
  intro s hs
  rw [List.range_eq_range']
  exact key n 0 (by omega) s hs
theorem runs_append {α : Type} {f : α → M Unit} {s t u : State} {l k : List α} (h1 : Runs (forList f l) s () t) (h2 : Runs (forList f k) t () u) :
    Runs (forList f (l ++ k)) s () u := by
  induction l generalizing s with
  | nil =>
    have h1 : M.go _ _ = _ := h1
    have e : s = t := congrArg Prod.snd h1
    rw [e]; exact h2
  | cons x l ih =>
    obtain ⟨v, h3, h4⟩ : ∃ v, Runs (f x) s () v ∧ Runs (forList f l) v () t := by
      have h1 : (f x >>= fun _ => forList f l) s = _ := h1
      simp only [bind, ExceptT.bind, ExceptT.mk, ExceptT.bindCont, StateT.bind] at h1
      rcases hx : (f x) s with ⟨_ | _, v⟩
      · rw [hx] at h1; cases h1
      · rw [hx] at h1; exact ⟨v, hx, h1⟩
    exact runs_then h3 (ih h4)
theorem runs_flat {α β : Type} {f : β → M Unit} {g : α → List β} {l : List α} : ∀ {s t : State}, Runs (forList (fun x => forList f (g x)) l) s () t →
    Runs (forList f (l.flatMap g)) s () t := by
  induction l with
  | nil => exact fun h => h
  | cons x l ih =>
    intro s t h
    have h : (forList f (g x) >>= fun _ => forList (fun x => forList f (g x)) l) s = _ := h
    simp only [bind, ExceptT.bind, ExceptT.mk, ExceptT.bindCont, StateT.bind] at h
    rcases hx : (forList f (g x)) s with ⟨_ | _, v⟩
    · rw [hx] at h; cases h
    · rw [hx] at h; exact runs_append hx (ih h)
theorem runs_mapped {α β : Type} {f : β → M Unit} {g : α → β} {l : List α} : ∀ {s t : State}, Runs (forList (fun x => f (g x)) l) s () t →
    Runs (forList f (l.map g)) s () t := by
  induction l with
  | nil => exact fun h => h
  | cons x l ih =>
    intro s t h
    have h : (f (g x) >>= fun _ => forList (fun x => f (g x)) l) s = _ := h
    simp only [bind, ExceptT.bind, ExceptT.mk, ExceptT.bindCont, StateT.bind] at h
    rcases hx : (f (g x)) s with ⟨_ | _, v⟩
    · rw [hx] at h; cases h
    · rw [hx] at h; exact runs_then hx (ih h)
theorem runs_map {α β : Type} {f : α → M β} {g : α → β} {s : State} {l : List α} (h : ∀ x ∈ l, Runs (f x) s (g x) s) : Runs (mapList f l) s (l.map g) s := by
  induction l with
  | nil => rfl
  | cons x l ih => exact runs_then (h x List.mem_cons_self) (runs_then (ih fun y hy => h y (List.mem_cons_of_mem _ hy)) rfl)
/-- The operands of a lane, one after the other. -/
theorem runs_set {m : M Got} {ms : List (M Got)} {s : State} {g : Got} {gs : List Got} (h1 : Runs m s g s) (h2 : Runs (laneSet ms) s gs s) :
    Runs (laneSet (m :: ms)) s (g :: gs) s := by
  have h1 : m.go s = (.ok g, s) := h1
  have h2 : (laneSet ms).go s = (.ok gs, s) := h2
  show laneSet (m :: ms) s = _
  simp only [laneSet, h1, h2]
theorem runs_set2 {m n : M Got} {s : State} {g k : Got} (h1 : Runs m s g s) (h2 : Runs n s k s) : Runs (laneSet [m, n]) s [g, k] s :=
  runs_set h1 (runs_set h2 rfl)

/-- The place of an access. -/
def placeOf (s : State) (w : Who) (h : Handle) (k : Coord) (a : Acc) (ok : Nat → Bool) (sp : Nat → Bool) : Place :=
  match place s w h k a false ok sp with
  | .ok p => p
  | .error _ => default

/-- The place is found: in scratchpad memory, a whole byte or more, through entry `n` that reads `e`, its bytes good. -/
def inSpm (s : State) (w : Who) (h : Handle) (k : Coord) (a : Acc) (ok : Nat → Bool) (sp : Nat → Bool) (n : Nat) (e : Entry) : Bool :=
  match place s w h k a false ok sp with
  | .ok p => p.space == 0 && p.nib.isNone && p.lt == n && p.entry == e && rangeOk s w.tower (spmAt (w.core.getD 0) p.addr) p.bytes
  | .error _ => false

/-- What core 0 has in flight lies below byte `b`, and it has nothing dumped. -/
def Below (b : Nat) (s : State) : Prop := (s.core 0).dump = [] ∧ ∀ r ∈ (s.core 0).flight, ∀ d y, r.dest = .mem d y → d.flat + d.p.bytes ≤ b

/-- What every access to such a place rests on. -/
structure Quiet (s : State) (w : Who) (n : Nat) (e : Entry) (b : Nat) : Prop where
  cache : cacheLt s w n e = s
  relaxed : eRelaxed e = true
  core  : w.core = some 0
  below : Below b s

def spmLoc (w : Who) (p : Place) : Loc := ⟨p, spmAt (w.core.getD 0) p.addr, none, ctxId w.root⟩

/-- The same but for what core 0 has in flight. -/
def Flown (b : Nat) (s t : State) : Prop := ∃ x, t = { s with cores := x } ∧ Below b t

/-- A result in flight is one of before or the new one. -/
theorem mem_addResult {r : Result} {l : List Result} {d : Loc} {y : Nat} (h : ∃ q ∈ addResult r l, q.dest = .mem d y) :
    (∃ q ∈ l, q.dest = .mem d y) ∨ r.dest = .mem d y := by
  obtain ⟨q, hq, hd⟩ := h
  unfold addResult at hq
  split at hq
  · simp only [List.mem_append, List.mem_filter, List.mem_singleton] at hq
    rcases hq with (⟨h, _⟩ | ⟨⟨h, _⟩, _⟩) | rfl
    · exact .inl ⟨q, h, hd⟩
    · exact .inl ⟨q, h, hd⟩
    · cases hd
  · simp only [List.mem_append, List.mem_filter, List.mem_singleton] at hq
    rcases hq with (⟨h, _⟩ | ⟨⟨h, _⟩, _⟩) | rfl
    · exact .inl ⟨q, h, hd⟩
    · exact .inl ⟨q, h, hd⟩
    · exact .inr hd
  · simp only [List.mem_append, List.mem_filter, List.mem_singleton] at hq
    rcases hq with (⟨h, _⟩ | rfl) | ⟨h, _⟩
    · exact .inl ⟨q, h, hd⟩
    · exact .inr hd
    · exact .inl ⟨q, h, hd⟩

theorem below_pend {b c : Nat} {s : State} (n : Nat) (d : Dest) (hb : b ≤ c) (hd : ∀ l y, d = .mem l y → l.flat + l.p.bytes ≤ c) (h : Below b s) : Below c (pend 0 n d s) := by
  unfold pend Below
  rw [core_setCore]
  refine ⟨h.1, fun r hr l y he => ?_⟩
  rcases mem_addResult ⟨r, hr, he⟩ with ⟨q, hq, hk⟩ | hk
  · exact Nat.le_trans (h.2 q hq l y hk) hb
  · exact hd l y hk
theorem flown_pend {b c : Nat} {s t : State} (n : Nat) (d : Dest) (hb : b ≤ c) (hd : ∀ l y, d = .mem l y → l.flat + l.p.bytes ≤ c) (h : Flown b s t) :
    Flown c s (pend 0 n d t) := by
  obtain ⟨x, rfl, hx⟩ := h
  exact ⟨_, rfl, below_pend n d hb hd hx⟩
theorem flown_le {b c : Nat} {s t : State} (hb : b ≤ c) (h : Flown b s t) : Flown c s t := by
  obtain ⟨x, rfl, h1, h2⟩ := h
  exact ⟨x, rfl, h1, fun r hr d y he => Nat.le_trans (h2 r hr d y he) hb⟩

section
variable {s : State} {w : Who} {h : Handle} {k : Coord} {a : Acc} {ok : Nat → Bool} {sp : Nat → Bool} {n : Nat} {e : Entry} {b c : Nat}

theorem quiet_flown {t : State} (q : Quiet s w n e b) (hf : Flown c s t) : Quiet t w n e c := by
  obtain ⟨x, rfl, hd⟩ := hf
  refine ⟨?_, q.relaxed, q.core, hd⟩
  have : cacheLt { s with cores := x } w n e = { cacheLt s w n e with cores := x } := rfl
  rw [this, q.cache]
theorem inSpm_flown {t : State} (hf : Flown c s t) : inSpm t w h k a ok sp n e = inSpm s w h k a ok sp n e ∧ placeOf t w h k a ok sp = placeOf s w h k a ok sp := by
  obtain ⟨x, rfl, _⟩ := hf
  exact ⟨rfl, rfl⟩

theorem inSpm_cases (hi : inSpm s w h k a ok sp n e = true) : ∃ p, placeOf s w h k a ok sp = p ∧ place s w h k a false ok sp = .ok p ∧
    p.space = 0 ∧ p.nib = none ∧ p.lt = n ∧ p.entry = e ∧ rangeOk s w.tower (spmAt (w.core.getD 0) p.addr) p.bytes = true := by
  unfold inSpm at hi
  unfold placeOf
  split at hi
  · simp only [Bool.and_eq_true, beq_iff_eq, Option.isNone_iff_eq_none] at hi
    obtain ⟨⟨⟨⟨h1, h2⟩, h3⟩, h4⟩, h5⟩ := hi
    rename_i p hp
    exact ⟨p, rfl, hp, h1, h2, h3, h4, h5⟩
  · cases hi

theorem resolve_quiet {p : Place} (hc : w.core = some 0) (h0 : p.space = 0) (hd : Below b s) (hb : b ≤ spmAt 0 p.addr) :
    Runs (resolve w p a) s (spmLoc w p) s := by
  unfold resolve
  refine runs_then (x := s) (t := s) rfl ?_
  rw [if_pos h0]
  unfold pastDump
  rw [hc]
  refine runs_then (x := s) (t := s) rfl ?_
  rw [show dumpedAt s 0 _ = false by unfold dumpedAt; rw [hd.1]; rfl]
  simp only [Bool.false_eq_true, ↓reduceIte]
  refine runs_then (m := get) (x := s) (t := s) rfl ?_
  rw [show flyingTo s 0 _ _ = false from ?_]
  · unfold spmLoc
    rw [hc]
    rfl
  · unfold flyingTo
    rw [Bool.and_eq_false_iff]
    refine .inr (List.any_eq_false.mpr fun r hr => ?_)
    rw [Bool.not_eq_true, Bool.and_eq_false_iff]
    refine .inr ?_
    split
    · rename_i d y he
      have := hd.2 r hr d y he
      exact decide_eq_false fun h => Nat.not_lt.mpr (Nat.le_trans this hb) h.2
    · rfl

theorem locate_quiet (q : Quiet s w n e b) (hi : inSpm s w h k a ok sp n e = true) (hb : b ≤ spmAt 0 (placeOf s w h k a ok sp).addr) :
    Runs (locate w h k a false ok sp) s (spmLoc w (placeOf s w h k a ok sp)) s := by
  obtain ⟨p, hp, h1, h2, _, h4, h5, _⟩ := inSpm_cases hi
  rw [hp] at hb ⊢
  unfold locate
  refine runs_then (x := s) (t := s) rfl (runs_then (x := p) (t := s) (by rw [h1]; rfl) (runs_then (x := ()) (t := s) ?_ ?_))
  · show (Except.ok (), cacheLt s w p.lt p.entry) = _
    rw [h4, h5, q.cache]
  · rw [if_neg (by omega)]
    exact resolve_quiet q.core h2 q.below hb

theorem race_quiet (q : Quiet s w n e b) {p : Place} (hp : p.entry = e) (f : Nat) (v : Option (Nat × Nat)) (b : Bool) :
    Runs (raceCheck w p f v b) s () s := by
  unfold raceCheck
  rw [hp, if_pos q.relaxed]
  rfl

theorem gate_quiet {l : Loc} (hl : l.p.space = 0) (x y : Bool) : Runs (hostGate w l x y) s () s := by
  unfold hostGate
  refine runs_then (x := s) (t := s) rfl ?_
  rw [if_pos (.inl (by omega))]
  rfl

/-- The code of the element at a place. -/
def codeAt (s : State) (w : Who) (p : Place) : Nat := elemCode p (memBytes s.mem (spmLoc w p).flat p.bytes)

theorem read_quiet (q : Quiet s w n e b) {p : Place} (h0 : p.space = 0) (he : p.entry = e)
    (hr : rangeOk s w.tower (spmAt (w.core.getD 0) p.addr) p.bytes = true) : Runs (readElem w (spmLoc w p)) s (codeAt s w p) s := by
  unfold readElem
  refine runs_then (race_quiet q he _ _ _) (runs_then (x := memBytes s.mem (spmLoc w p).flat p.bytes) (t := s) ?_ rfl)
  unfold readLoc
  have hs : (spmLoc w p).p.space = p.space := rfl
  rw [if_neg (by omega)]
  refine runs_then (m := get) (x := s) (t := s) rfl (runs_then (x := ()) (t := s) ?_ ?_)
  · show (needM (rangeOk s w.tower (spmAt (w.core.getD 0) p.addr) p.bytes) _ _).go s = _
    rw [hr]; rfl
  · rw [if_pos (by show p.space ≤ 1; omega)]
    rfl

theorem readLane_quiet {m t j : Nat} {adm : Handle → Nat → Bool} (q : Quiet s w n e b) (hi : inSpm s w h (along k j) .load (adm h) veSpace n e = true)
    (hb : b ≤ spmAt 0 (placeOf s w h (along k j) .load (adm h) veSpace).addr) :
    Runs (gotCode m w adm (.run h k) t j) s (.code (codeAt s w (placeOf s w h (along k j) .load (adm h) veSpace))) s := by
  obtain ⟨p, hp, _, h2, _, _, h5, h6⟩ := inSpm_cases hi
  unfold gotCode
  refine runs_then (x := (codeAt s w (placeOf s w h (along k j) .load (adm h) veSpace), (placeOf s w h (along k j) .load (adm h) veSpace).abs)) (t := s) ?_ rfl
  refine runs_then (locate_quiet q hi hb) ?_
  rw [hp]
  exact runs_then (gate_quiet h2 _ _) (runs_then (read_quiet q h2 h5 h6) rfl)

theorem putAt_quiet {adm : Handle → Nat → Bool} (q : Quiet s w n e b) (hi : inSpm s w h k .store (adm h) veSpace n e = true)
    (hb : b ≤ spmAt 0 (placeOf s w h k .store (adm h) veSpace).addr) :
    Runs (gotPut w 0 adm h k) s (.dest (.store (spmLoc w (placeOf s w h k .store (adm h) veSpace)))) s := by
  obtain ⟨p, hp, _, h2, _, _, h5, _⟩ := inSpm_cases hi
  unfold gotPut
  refine runs_then (x := .store (spmLoc w (placeOf s w h k .store (adm h) veSpace))) (t := s) ?_ rfl
  unfold putAt
  rw [if_pos rfl]
  refine runs_then (locate_quiet q hi hb) ?_
  rw [hp]
  exact runs_then (x := s) (t := s) rfl (runs_then (gate_quiet h2 _ _) (runs_then (race_quiet q h5 _ _ _) rfl))

/-- A result for such a place joins those in flight. -/
theorem pend_quiet {p : Place} {x : Nat} (hc : w.agent / 8 = 0) (hn : p.nib = none) (ht : p.tag ≠ 0xC0 ∧ p.tag ≠ 0xC1)
    (hd : Below b s) (hb : b ≤ c) (he : (spmLoc w p).flat + p.bytes ≤ c) :
    ∃ t, Runs (pendElem w (spmLoc w p) x) s () t ∧ Flown c s t := by
  refine ⟨_, runs_then (x := leBytes p.bytes x) (t := s) ?_ rfl, ?_⟩
  · unfold elemBytes
    rw [show (spmLoc w p).p.nib = none from hn]
    rfl
  · have hp : partDests (spmLoc w p) x = [.mem (spmLoc w p) x] := by
      unfold partDests
      split
      · exact absurd ‹_› ht.1
      · exact absurd ‹_› ht.2
      · rfl
    rw [hp, hc]
    exact flown_pend _ _ hb (fun l y h => by cases h; exact he) ⟨s.cores, rfl, hd⟩

theorem engWrite_quiet {x : Nat} (q : Quiet s w n e b) (hc : w.agent / 8 = 0) (hi : inSpm s w h k .store (fun _ => true) sp n e = true)
    (hb : b ≤ spmAt 0 (placeOf s w h k .store (fun _ => true) sp).addr)
    (ht : (placeOf s w h k .store (fun _ => true) sp).tag ≠ 0xC0 ∧ (placeOf s w h k .store (fun _ => true) sp).tag ≠ 0xC1)
    (he : spmAt 0 (placeOf s w h k .store (fun _ => true) sp).addr + (placeOf s w h k .store (fun _ => true) sp).bytes ≤ c) :
    ∃ t, Runs (engWrite w h k x sp) s () t ∧ Flown c s t := by
  obtain ⟨p, hp, _, h2, h3, _, h5, _⟩ := inSpm_cases hi
  have hl := locate_quiet q hi hb
  rw [hp] at hb ht he hl
  obtain ⟨t, hw, hf⟩ := pend_quiet (x := storeBits p.tag x) (c := c) hc h3 ht q.below (by omega) (by unfold spmLoc; rw [q.core]; exact he)
  refine ⟨t, ?_, hf⟩
  unfold engWrite
  refine runs_then hl ?_
  exact runs_then (x := s) (t := s) rfl (runs_then (gate_quiet h2 _ _) (runs_then (race_quiet q h5 _ _ _) hw))

theorem engRead_quiet (q : Quiet s w n e b) (hi : inSpm s w h k .load (fun _ => true) sp n e = true)
    (hb : b ≤ spmAt 0 (placeOf s w h k .load (fun _ => true) sp).addr) :
    Runs (engRead w h k false sp) s (codeAt s w (placeOf s w h k .load (fun _ => true) sp), (placeOf s w h k .load (fun _ => true) sp).abs) s := by
  obtain ⟨p, hp, _, h2, _, _, h5, h6⟩ := inSpm_cases hi
  refine runs_then (locate_quiet q hi hb) ?_
  rw [hp]
  exact runs_then (gate_quiet h2 _ _) (runs_then (read_quiet q h2 h5 h6) rfl)

end

/-- The entries of the row and the square in `rows`. -/
def rowEntry : Entry := (entryWords 0 0x82 0 0x4000 256).foldr (fun w n => w + 2 ^ 32 * n) 0
def squareEntry : Entry := (squareWords 0x43 0x1000 32 32).foldr (fun w n => w + 2 ^ 32 * n) 0

theorem no_flight {s : State} {b : Nat} (h : (s.core 0).flight.isEmpty = true) : ∀ r ∈ (s.core 0).flight, ∀ d y, r.dest = .mem d y → d.flat + d.p.bytes ≤ b := by
  rw [List.isEmpty_iff.mp h]
  exact fun _ h => absurd h List.not_mem_nil

def recTrn : Rec := { blank with d := inMem 2, a := inMem 2 }
/-- The coordinates that element `q` of the transposition reads and writes. -/
def trnFrom (q : Nat) : Coord := along (addTo (addTo ((veRun .veTrn recTrn rows).at recTrn.a) 0 ((q % 32 : Nat) : Int)) 1 ((q / 32 : Nat) : Int)) 0
def trnTo (q : Nat) : Coord := addTo (addTo ((veRun .veTrn recTrn rows).at recTrn.d) 0 ((q / 32 : Nat) : Int)) 1 ((q % 32 : Nat) : Int)
abbrev trnTag (g : Nat) : Bool := g == hFmt ((veRun .veTrn recTrn rows).h 1) && g != 0xF0 && (!recTrn.conj || isCplx g)
abbrev trnS : State := ve .veTrn recTrn rows
abbrev trnW : Who := engWho trnS 0 .ve
abbrev trnH : Handle := (veRun .veTrn recTrn rows).h 1
def trnGood (q : Nat) : Bool :=
  inSpm trnS trnW trnH (trnFrom q) .load (plainTag trnTag trnH) veSpace 1 squareEntry && inSpm trnS trnW trnH (trnTo q) .store (plainTag trnTag trnH) veSpace 1 squareEntry
theorem trn_good : (List.range 1024).all trnGood = true := by decide +kernel

theorem quiet_trn : Quiet trnS trnW 1 squareEntry 0 :=
  ⟨by decide +kernel, by decide +kernel, by decide +kernel, by decide +kernel, no_flight (by decide +kernel)⟩
theorem trn_each {q : Nat} (hq : q < 1024) : inSpm trnS trnW trnH (trnFrom q) .load (plainTag trnTag trnH) veSpace 1 squareEntry = true ∧
    inSpm trnS trnW trnH (trnTo q) .store (plainTag trnTag trnH) veSpace 1 squareEntry = true := by
  have := List.all_eq_true.mp trn_good q (List.mem_range.mpr hq)
  simpa only [trnGood, Bool.and_eq_true] using this

/-- The result of element `q`. -/
def trnOut (q : Nat) : Put × Nat :=
  (.store (spmLoc trnW (placeOf trnS trnW trnH (trnTo q) .store (plainTag trnTag trnH) veSpace)), codeAt trnS trnW (placeOf trnS trnW trnH (trnFrom q) .load (plainTag trnTag trnH) veSpace))

theorem wit_trn : ∃ v t, trnRule recTrn 0 .ve (veRun .veTrn recTrn rows) trnS v t := by
  obtain ⟨t, ht, _⟩ := runs_walk (f := putCode 0 trnW 0) (P := fun _ => True) (l := (List.range 1024).map trnOut) (fun x hx s _ => by
    obtain ⟨q, hq, rfl⟩ := List.mem_map.mp hx
    obtain ⟨_, h2⟩ := trn_each (List.mem_range.mp hq)
    obtain ⟨p, hp, _, _, h5, _⟩ := inSpm_cases h2
    unfold trnOut
    rw [hp]
    exact ⟨_, runs_then (x := leBytes p.bytes (storeBits p.tag (codeAt trnS trnW (placeOf trnS trnW trnH (trnFrom q) .load (plainTag trnTag trnH) veSpace)))) (t := s)
      (by unfold elemBytes; rw [show (spmLoc trnW p).p.nib = none from h5]; rfl) rfl, trivial⟩) trnS trivial
  refine ⟨_, t, (List.range 1024).map trnOut, trnS, runs_map fun q hq => ?_, ht, rfl⟩
  obtain ⟨h1, h2⟩ := trn_each (List.mem_range.mp hq)
  exact runs_then (runs_set2 (readLane_quiet quiet_trn h1 (Nat.zero_le _)) (putAt_quiet quiet_trn h2 (Nat.zero_le _))) rfl

/-! The block of 32 by 32 drained into the square with block scales. -/

def recDrq : Rec := { blank with d := inMem 3, a := inTile 0 }
abbrev drqS : State := me .meDrq recDrq rows
abbrev drqW : Who := engWho drqS 0 .me
abbrev drqH : Handle := (meRun .meDrq recDrq rows).h 0
def drqTo (i j : Nat) : Coord := addTo (along ((meRun .meDrq recDrq rows).at recDrq.d) j) 1 (i : Int)
/-- Element `q` of the block goes to byte `q` of the square. -/
def drqGood (q : Nat) : Bool :=
  inSpm drqS drqW drqH (drqTo (q / 32) (q % 32)) .store (fun _ => true) tileSpace 1 squareEntry &&
  (let p := placeOf drqS drqW drqH (drqTo (q / 32) (q % 32)) .store (fun _ => true) tileSpace
   p.addr == 0x1000 + q && p.bytes == 1 && p.tag == 0x43)
theorem drq_good : (List.range 1024).all drqGood = true := by decide +kernel
theorem quiet_drq : Quiet drqS drqW 1 squareEntry 0 :=
  ⟨by decide +kernel, by decide +kernel, by decide +kernel, by decide +kernel, no_flight (by decide +kernel)⟩
abbrev drqPlace (i j : Nat) : Place := placeOf drqS drqW drqH (drqTo i j) .store (fun _ => true) tileSpace
theorem drq_each {i j : Nat} (hi : i < 32) (hj : j < 32) : inSpm drqS drqW drqH (drqTo i j) .store (fun _ => true) tileSpace 1 squareEntry = true ∧
    (drqPlace i j).addr = 0x1000 + (32 * i + j) ∧ (drqPlace i j).bytes = 1 ∧ (drqPlace i j).tag = 0x43 := by
  have := List.all_eq_true.mp drq_good (32 * i + j) (List.mem_range.mpr (by omega))
  simp only [drqGood, Bool.and_eq_true, beq_iff_eq, show (32 * i + j) / 32 = i by omega, show (32 * i + j) % 32 = j by omega] at this
  exact ⟨this.1, this.2.1.1, this.2.1.2, this.2.2⟩

/-- The scale of the block. -/
def drqScale : Nat := blockScale (hFmt drqH) (maxAbs (((List.range 32).flatMap fun i => (List.range 32).map fun j =>
  (i, j, fvalue 0x82 (accCode drqS 0 2 ⟨0, 0x82, 0, 0⟩ (0 + i) (0 + j)))).map fun x => x.2.2.mul (drainMul recDrq)))

/-- One element of the block drained. -/
def drqStep (x : Nat × Nat × Val) : M Unit := do
  let v := x.2.2.mul (drainMul recDrq)
  drainAmax 0 recDrq.opx.val x.2.2 v
  let code ← drainPart 0 (hFmt drqH) (rndOf recDrq.rnd.val) recDrq.sat (x.2.2.isNan || (drainMul recDrq).isNan) (v.mul (.fin false 1 (127 - (drqScale : Int))))
  engWrite drqW drqH (drqTo x.1 x.2.1) code tileSpace

/-- The byte behind the first `q` of the block. -/
def drqEnd (q : Nat) : Nat := spmAt 0 0x1000 + q

theorem spm_add (a q : Nat) : spmAt 0 (a + q) = spmAt 0 a + q := by unfold spmAt; omega

theorem drq_step {i j : Nat} (h1 : i < 32) (h2 : j < 32) (v : Val) (s : State) (hs : Flown (drqEnd (32 * i + j)) drqS s) :
    ∃ t, Runs (drqStep (i, j, v)) s () t ∧ Flown (drqEnd (32 * i + (j + 1))) drqS t := by
  have hp : ∃ code t, Runs (drainPart 0 (hFmt drqH) (rndOf recDrq.rnd.val) recDrq.sat (v.isNan || (drainMul recDrq).isNan)
      ((v.mul (drainMul recDrq)).mul (.fin false 1 (127 - (drqScale : Int))))) s code t ∧ Flown (drqEnd (32 * i + j)) drqS t :=
    ⟨_, _, runs_then (x := 0) (t := s) rfl rfl, flown_pend _ _ (Nat.le_refl _) (fun l y h => by cases h) hs⟩
  obtain ⟨code, t, ht, hf⟩ := hp
  obtain ⟨hi, ha, hb, hg⟩ := drq_each h1 h2
  have e := inSpm_flown (w := drqW) (h := drqH) (k := drqTo i j) (a := .store) (ok := fun _ => true) (sp := tileSpace) (n := 1) (e := squareEntry) hf
  obtain ⟨u, hu, y, rfl, hd⟩ := engWrite_quiet (x := code) (c := drqEnd (32 * i + (j + 1))) (quiet_flown quiet_drq hf) rfl (e.1.trans hi)
    (by rw [e.2, ha, spm_add]; exact Nat.le_refl _) (by rw [e.2, hg]; decide) (by rw [e.2, ha, hb, spm_add]; unfold drqEnd; omega)
  obtain ⟨z, rfl, _⟩ := hf
  exact ⟨_, runs_then (x := ()) (t := s) rfl (runs_then ht hu), _, rfl, hd⟩

/-- A scale found in relaxed scratchpad memory. -/
def scaleFound (s : State) (w : Who) (h : Handle) (i : List Nat) : Bool :=
  match scalePlace s w h i .store with
  | .ok p => p.space == 0 && p.nib.isNone && eRelaxed p.entry && p.tag == 0x84 && p.addr == 0x2000
  | .error _ => false
theorem scaleFound_flown {s t : State} {w : Who} {h : Handle} {i : List Nat} {c : Nat} (hf : Flown c s t) : scaleFound t w h i = scaleFound s w h i := by
  obtain ⟨x, rfl, _⟩ := hf
  rfl
theorem scale_quiet {s : State} {w : Who} {h : Handle} {i : List Nat} {x b : Nat} (hc : w.core = some 0) (ha : w.agent / 8 = 0) (hd : Below b s)
    (hb : b ≤ spmAt 0 0x2000) (hp : scaleFound s w h i = true) : ∃ u, Runs (writeScale w h i x) s () u := by
  unfold scaleFound at hp
  split at hp
  case h_2 => cases hp
  case h_1 p hs =>
    simp only [Bool.and_eq_true, beq_iff_eq, Option.isNone_iff_eq_none] at hp
    obtain ⟨⟨⟨⟨h0, hn⟩, hr⟩, ht⟩, hq⟩ := hp
    obtain ⟨u, hu, _⟩ := pend_quiet (x := x) (c := b + (spmLoc w p).flat + p.bytes) ha hn (by rw [ht]; decide) hd (by omega) (by omega)
    refine ⟨u, ?_⟩
    unfold writeScale
    refine runs_then (x := spmLoc w p) (t := s) ?_ hu
    unfold scaleLoc
    refine runs_then (x := s) (t := s) rfl (runs_then (x := p) (t := s) (by rw [hs]; rfl) (runs_then (x := ()) (t := s) (by rw [h0]; rfl)
      (runs_then (resolve_quiet hc h0 hd (by rw [hq]; exact hb)) (runs_then (x := s) (t := s) rfl (runs_then (gate_quiet h0 _ _) (runs_then (x := ()) (t := s) ?_ rfl))))))
    unfold raceCheck
    rw [show (spmLoc w p).p.entry = p.entry from rfl, if_pos hr]
    rfl

theorem drq_scale : scaleFound drqS drqW drqH (absCoord drqH drqW.mt ((meRun .meDrq recDrq rows).at recDrq.d)) = true := by decide +kernel

theorem wit_drq : ∃ v t, drqRule recDrq 0 .me (meRun .meDrq recDrq rows) drqS v t := by
  let val := fun i j => fvalue 0x82 (accCode drqS 0 2 ⟨0, 0x82, 0, 0⟩ (0 + i) (0 + j))
  obtain ⟨t, ht, hf⟩ := runs_range (f := fun i => forList drqStep ((List.range 32).map fun j => (i, j, val i j))) (n := 32)
    (P := fun i => Flown (drqEnd (32 * i)) drqS) (fun i hi s hs => by
      obtain ⟨t, ht, hf⟩ := runs_range (f := fun j => drqStep (i, j, val i j)) (n := 32) (P := fun j => Flown (drqEnd (32 * i + j)) drqS)
        (fun j hj s hs => drq_step hi hj _ s hs) s hs
      exact ⟨t, runs_mapped ht, by rwa [show 32 * (i + 1) = 32 * i + 32 by omega]⟩) drqS ⟨_, rfl, by decide +kernel, no_flight (by decide +kernel)⟩
  obtain ⟨u, hu⟩ := scale_quiet (x := drqScale) quiet_drq.core rfl (quiet_flown quiet_drq hf).below (by decide) ((scaleFound_flown hf).trans drq_scale)
  exact ⟨_, _, ⟨0, 0x82, 0, 0⟩, _, rC, by decide +kernel, rfl, rfl, by decide +kernel, by decide +kernel, rC, runs_flat ht, hu, rfl⟩

/-! Rows of 256 elements. -/

def recRow : Rec := { blank with d := inTile 4, a := inMem 1 }
abbrev aldS : State := me .meAld recRow rows
abbrev aldW : Who := engWho aldS 0 .me
abbrev aldH : Handle := (meRun .meAld recRow rows).h 1
abbrev aldFrom (q : Nat) : Coord := along ((meRun .meAld recRow rows).at recRow.a) q
theorem quiet_ald : Quiet aldS aldW 0 rowEntry 0 := ⟨by decide +kernel, by decide +kernel, by decide +kernel, by decide +kernel, no_flight (by decide +kernel)⟩
theorem ald_good : (List.range 256).all (fun q => inSpm aldS aldW aldH (aldFrom q) .load (fun _ => true) tileSpace 0 rowEntry) = true := by decide +kernel
theorem wit_ald : ∃ v t, aldRule recRow 0 .me (meRun .meAld recRow rows) (me .meAld recRow rows) v t :=
  ⟨_, _, ⟨4, 0x82, 0, 0⟩, _, _, rC, by decide +kernel, by decide +kernel, by decide +kernel,
    runs_map (g := fun q => storeBits (hFmt aldH) (codeAt aldS aldW (placeOf aldS aldW aldH (aldFrom q) .load (fun _ => true) tileSpace))) fun q hq =>
      runs_then (engRead_quiet quiet_ald (List.all_eq_true.mp ald_good q hq) (Nat.zero_le _)) rfl, rfl, rfl⟩

def recOut : Rec := { blank with d := inMem 1, a := inTile 0 }
abbrev astS : State := me .meAst recOut rows
abbrev astW : Who := engWho astS 0 .me
abbrev astH : Handle := (meRun .meAst recOut rows).h 0
abbrev astTo (q : Nat) : Coord := along ((meRun .meAst recOut rows).at recOut.d) q
theorem quiet_ast : Quiet astS astW 0 rowEntry 0 := ⟨by decide +kernel, by decide +kernel, by decide +kernel, by decide +kernel, no_flight (by decide +kernel)⟩
def astGood (q : Nat) : Bool :=
  inSpm astS astW astH (astTo q) .store (fun _ => true) tileSpace 0 rowEntry &&
  (let p := placeOf astS astW astH (astTo q) .store (fun _ => true) tileSpace
   p.addr == 0x4000 + 4 * q && p.bytes == 4 && p.tag == 0x82)
theorem ast_good : (List.range 256).all astGood = true := by decide +kernel
theorem wit_ast : ∃ v t, astRule recOut 0 .me (meRun .meAst recOut rows) (me .meAst recOut rows) v t := by
  obtain ⟨t, ht, _⟩ := runs_range (f := fun q => engWrite astW astH (astTo q) (accCode astS 0 2 ⟨0, 0x82, 0, 0⟩ 0 (0 + q)) tileSpace) (n := 256)
    (P := fun q => Flown (spmAt 0 0x4000 + 4 * q) astS) (fun q hq s hs => by
      have hi := List.all_eq_true.mp ast_good q (List.mem_range.mpr hq)
      simp only [astGood, Bool.and_eq_true, beq_iff_eq] at hi
      obtain ⟨hi, ⟨ha, hb⟩, hg⟩ := hi
      have e := inSpm_flown (w := astW) (h := astH) (k := astTo q) (a := .store) (ok := fun _ => true) (sp := tileSpace) (n := 0) (e := rowEntry) hs
      obtain ⟨u, hu, y, rfl, hd⟩ := engWrite_quiet (x := accCode astS 0 2 ⟨0, 0x82, 0, 0⟩ 0 (0 + q)) (c := spmAt 0 0x4000 + 4 * (q + 1)) (quiet_flown quiet_ast hs) rfl
        (e.1.trans hi) (by rw [e.2, ha, spm_add]) (by rw [e.2, hg]; decide) (by rw [e.2, ha, hb, spm_add]; omega)
      obtain ⟨z, rfl, _⟩ := hs
      exact ⟨_, hu, _, rfl, hd⟩) astS ⟨_, rfl, by decide +kernel, no_flight (by decide +kernel)⟩
  simp only [Nat.zero_add] at ht
  exact ⟨_, _, ⟨0, 0x82, 0, 0⟩, rC, by decide +kernel, by decide +kernel, by decide +kernel, rC, ht, rfl⟩


/-! Copy, stash and fabric records at the sequencers of their engines; what awaits an acknowledgement has it. -/

/-- A record at its issue as `f` changes it. -/
def issuingAs (f : Run → Run) (i : Instr) (e : Eng) (s : State) : State :=
  let s := issuing i e s
  s.setSeqOf 0 e { s.seqOf 0 e with run := (s.seqOf 0 e).run.map f }
def runAs (f : Run → Run) (i : Instr) (e : Eng) (s : State) : Run := f (runOf i e s)

/-- The same module with a microbatch tag on the copy engine's small stream and on its large one. -/
def bound : State :=
  let s := world []
  s.setCore 0 { s.core 0 with strm := (s.core 0).strm ++ [(4, { Strm.reset with st := .run, mt := 7 }), (5, { Strm.reset with st := .run, mt := 7 })] }

abbrev ce (mk : Rec → Instr) (r : Rec) (s : State := world []) : State := landed .cel (issuing (mk r) .cel s)
abbrev ceRun (mk : Rec → Instr) (r : Rec) (s : State := world []) : Run := runOf (mk r) .cel s

theorem wit_copy : ∃ v t, copyRule (fun _ c e s => (engWho s c e, engWho s c e)) rec64 0 .cel (ceRun .ceCp { rec64 with c := blank.c }) (ce .ceCp { rec64 with c := blank.c }) v t :=
  ⟨_, _, rfl, by decide +kernel, (fun _ => ⟨⟨_, rU⟩, _, _, rO, rU⟩), (fun h => absurd h (by decide +kernel)), rfl⟩
theorem wit_copyx : ∃ v t, copyRule (fun r c e s => (cpxWho (engWho s c e) r false, cpxWho (engWho s c e) r true)) { rec64 with c := blank.c } 0 .cel
    (ceRun .ceCpx { rec64 with c := blank.c }) (ce .ceCpx { rec64 with c := blank.c }) v t :=
  ⟨_, _, rfl, by decide +kernel, (fun _ => ⟨⟨_, rU⟩, _, _, rO, rU⟩), (fun h => absurd h (by decide +kernel)), rfl⟩
/-- A run of no elements at a coordinate behind the window. -/
theorem wit_copy_empty : ∃ v t, copyRule (fun _ c e s => (engWho s c e, engWho s c e)) { rec64 with c := inImm 0 } 0 .cel (ceRun .ceCp { rec64 with c := inImm 0 })
    (ce .ceCp { rec64 with c := inImm 0 }) v t :=
  ⟨_, _, rfl, by decide +kernel, (fun h => absurd h (by decide +kernel)), (fun _ => rfl), rfl⟩

def recLq : Rec := { blank with d := inQueue 0, a := inMem 11, c := inImm 1 }
theorem wit_lq : ∃ v t, lqRule recLq 0 .cel (ceRun .ceLq recLq) (ce .ceLq recLq) v t :=
  ⟨_, _, _, _, rfl, by decide +kernel, ⟨_, rU⟩, by decide +kernel, rO, rfl, rfl⟩
def recFill : Rec := { blank with d := inMem 11, c := inImm 9 }
theorem wit_fill : ∃ v t, fillRule recFill 0 .cel (ceRun .ceFill recFill) (ce .ceFill recFill) v t :=
  ⟨_, _, by decide +kernel, (fun _ => ⟨⟨_, rU⟩, rU⟩), (fun h => absurd h (by decide +kernel)), rfl⟩
def recOvl : Rec := { blank with a := inMem 20 }
theorem wit_ovl : ∃ v t, ovlRule recOvl 0 .cel (ceRun .ceOvl recOvl) (ce .ceOvl recOvl) v t :=
  ⟨_, _, (fun _ => by decide +kernel), by decide +kernel, (fun _ => ⟨⟨_, rU⟩, _, _, rO, rfl⟩), (fun h => absurd h (by decide +kernel)), rfl⟩
theorem wit_flag : ∃ v t, flagRule recFill 0 .cel (ceRun .ceFlag recFill) (ce .ceFlag recFill) v t := ⟨_, _, _, _, rO, rU, rfl⟩

/-- An object of the tag whose image is being put, and none. -/
def recSput : Rec := { blank with a := inMem 11, c := inImm 3 }
def stashed : State := setObj 0 (objKey 7 3) default bound
theorem wit_stash_put : ∃ v t, sputRule recSput 0 .cel (ceRun .stashPut recSput stashed) (ce .stashPut recSput stashed) v t :=
  ⟨_, _, by decide +kernel, by decide +kernel, (fun _ => ⟨⟨_, rU⟩, _, _, rO, fun o h => by
    rw [show find _ _ = some default from by decide +kernel] at h; cases h; rfl, fun h => by
    rw [show find _ _ = some default from by decide +kernel] at h; cases h⟩), (fun h => absurd h (by decide +kernel)), rfl⟩
theorem wit_stash_put_refused : ∃ v t, sputRule recSput 0 .cel (ceRun .stashPut recSput bound) (ce .stashPut recSput bound) v t :=
  ⟨_, _, by decide +kernel, by decide +kernel, (fun _ => ⟨⟨_, rU⟩, _, _, rO, fun o h => not_some (by decide +kernel) h, fun _ => rfl⟩),
    (fun h => absurd h (by decide +kernel)), rfl⟩
def recSget : Rec := { blank with d := inMem 11, c := inImm 3 }
theorem wit_stash_get : ∃ v t, sgetRule recSget 0 .cel (ceRun .stashGet recSget bound) (ce .stashGet recSget bound) v t :=
  ⟨_, _, by decide +kernel, (fun _ => ⟨⟨_, rU⟩, rU⟩), (fun h => absurd h (by decide +kernel)), rfl⟩
theorem wit_stash_drop : (engWho (ce .stashDrop recSget bound) 0 .cel).mt ≠ 0xFFF ∧ AtIssue (.stashDrop recSget) .cel (ceRun .stashDrop recSget bound) (issuing (.stashDrop recSget) .cel bound) :=
  ⟨by decide +kernel, rfl, rfl, by decide +kernel, rfl, by decide +kernel⟩

/-! Messages: from the memory of entry 1 to the peer of entry 4. -/

def acked (u : Run) : Run := { u with ans := .remote 0 }
abbrev fa (mk : Rec → Instr) (r : Rec) (s : State := world []) : State := landed .cel (issuingAs acked (mk r) .cel s)
abbrev faRun (mk : Rec → Instr) (r : Rec) (s : State := world []) : Run := runAs acked (mk r) .cel s
def recMsg : Rec := { blank with d := inMem 14, a := inMem 11 }

theorem wit_pint : ∃ v t, pintRule recMsg 0 .cel (faRun .fabPint recMsg) (fa .fabPint recMsg) v t :=
  ⟨_, _, _, _, rO, rfl, (fun h => absurd (by decide +kernel) h), fun _ => rfl⟩
/-- The same with a message announced in slot 0. -/
def announced : State := setSlot 0 0 { Slot.reset with st := .announced, mods := [1] } (world [])
theorem wit_pint_busy : ∃ v t, pintRule recMsg 0 .cel (faRun .fabPint recMsg announced) (fa .fabPint recMsg announced) v t :=
  ⟨_, _, _, _, rO, rfl, (fun _ => ⟨by decide +kernel, rfl⟩), fun h => absurd h (by decide +kernel)⟩
theorem wit_send : ∃ v t, sendRule recMsg 0 .cel (faRun .fabSend recMsg) (fa .fabSend recMsg) v t :=
  ⟨_, _, _, _, ⟨by decide +kernel, (fun _ => ⟨⟨_, rU⟩, _, _, by decide +kernel, rfl, rO, by decide +kernel, by decide +kernel, rfl⟩), (fun h => absurd h (by decide +kernel)), rfl⟩, rfl, rfl⟩
theorem wit_mcast : ∃ v t, mcastRule recMsg 0 .cel (faRun .fabMcast recMsg) (fa .fabMcast recMsg) v t :=
  ⟨_, _, _, _, by decide +kernel, rfl, ⟨by decide +kernel, (fun _ => ⟨⟨_, rU⟩, _, _, by decide +kernel, rfl, rO, by decide +kernel, by decide +kernel, rfl⟩), (fun h => absurd h (by decide +kernel)), rfl⟩, rfl, rfl⟩
theorem wit_wr : ∃ v t, wrRule recMsg 0 .cel (faRun .fabWr recMsg) (fa .fabWr recMsg) v t :=
  ⟨_, _, by decide +kernel, by decide +kernel, (fun _ => ⟨⟨_, rU⟩, _, _, _, rO, rO, by decide +kernel⟩), (fun h => absurd h (by decide +kernel)), rfl⟩
theorem wit_atom : ∃ v t, atomRule recMsg 0 .cel (faRun .fabAtom recMsg) (fa .fabAtom recMsg) v t :=
  ⟨_, _, _, _, rO, rfl, by decide +kernel, rfl, rfl⟩
/-- A release, and a compare-and-swap that is one. -/
theorem wit_atom_release (x : Fin 256) (h : x ∈ [(16 : Fin 256), 25]) : ∃ v t, atomRule { recMsg with opx := x } 0 .cel (faRun .fabAtom { recMsg with opx := x })
    (fa .fabAtom { recMsg with opx := x }) v t := by
  simp only [List.mem_cons, List.not_mem_nil, or_false] at h
  rcases h with rfl | rfl <;> exact ⟨_, _, _, _, rO, rfl, by decide +kernel, rfl, rfl⟩
/-- The first part of a request, and the second. -/
def firstPart (u : Run) : Run := { acked u with carry := [0, 5] }
theorem wit_req : ∃ v t, reqRule recMsg 0 .cel (runAs firstPart (.fabReq recMsg) .cel (world [])) (landed .cel (issuingAs firstPart (.fabReq recMsg) .cel (world []))) v t :=
  ⟨_, _, _, _, rO, by decide +kernel, rfl, by decide +kernel, by decide, (fun _ => ⟨rfl, rfl⟩), fun h => absurd rfl h⟩
def second (u : Run) : Run := { acked u with carry := [1, 5] }
theorem wit_req_end : ∃ v t, reqRule recMsg 0 .cel (runAs second (.fabReq recMsg) .cel (world [])) (landed .cel (issuingAs second (.fabReq recMsg) .cel (world []))) v t :=
  ⟨_, _, _, _, rO, by decide +kernel, rfl, by decide +kernel, by decide, (fun h => absurd h (by decide)), fun _ => ⟨rfl, rfl⟩⟩

/-! What a first visit sends. -/

theorem wit_wr_sends : ∃ q n t, wrSends recMsg 0 .cel (ceRun .fabWr recMsg) (ce .fabWr recMsg) q n t :=
  ⟨_, _, _, by decide +kernel, [0], _, _, _, _, ⟨by decide +kernel, ⟨_, rU⟩, by decide +kernel⟩, rO, rO, by decide +kernel, rfl, rfl, rfl⟩
theorem wit_atom_sends : ∃ q n t, atomSends recMsg 0 .cel (ceRun .fabAtom recMsg) (ce .fabAtom recMsg) q n t :=
  ⟨_, _, _, _, _, _, _, _, rO, rO, (fun _ => rfl), (fun h => absurd h (by decide)), by decide +kernel, rfl, rfl, rfl⟩
def recRel : Rec := { recMsg with opx := 16 }
theorem wit_atom_sends_release : ∃ q n t, atomSends recRel 0 .cel (ceRun .fabAtom recRel) (ce .fabAtom recRel) q n t :=
  ⟨_, _, _, _, _, _, _, _, rO, rO, (fun h => absurd h (by decide)), (fun _ => ⟨rU, by decide +kernel⟩), by decide +kernel, rfl, rfl, rfl⟩
def recReq : Rec := { recMsg with a := inMem 1 }
theorem wit_req_sends : ∃ q n t, reqSends recReq 0 .cel (ceRun .fabReq recReq) (ce .fabReq recReq) q n t :=
  ⟨_, _, _, _, _, rO, by decide +kernel, rfl, (fun _ => ⟨_, _, ⟨_, rU⟩, rO, rfl, by decide +kernel, rfl⟩), fun h => absurd rfl h⟩
/-- Its second part, for which nothing has come back. -/
def half (u : Run) : Run := { u with carry := [1, 5] }
theorem wit_req_sends_end : ∃ q n t, reqSends recReq 0 .cel (runAs half (.fabReq recReq) .cel (world [])) (landed .cel (issuingAs half (.fabReq recReq) .cel (world []))) q n t :=
  ⟨_, _, _, _, _, rO, by decide +kernel, rfl, (fun h => absurd h (by decide)), fun _ => ⟨rU, by decide +kernel, by decide +kernel, rfl⟩⟩

/-- A message that is being sent from slot `k`, with a token of its chunk 0; its chunk 0 begins at `org`. -/
def withMessage (k org : Nat) (s : State) : State :=
  setSlot 0 k { Slot.reset with st := .sending, stream := streamNo (engStream .cel), mods := [1], len := 8, prefixN := org, tokens := [⟨1, 0, 1000⟩] } s
theorem only {P : Nat → Prop} {n : Nat} (h : P n) : ∀ j, some n = some j → P j := fun _ e => Option.some.inj e ▸ h
theorem wit_send_sends : ∃ q n t, sendSends recMsg 0 .cel (ceRun .fabSend recMsg (withMessage 0 0 (world []))) (ce .fabSend recMsg (withMessage 0 0 (world []))) q n t :=
  ⟨_, _, _, [0], (some 0, [0]), _, _, _, _, ⟨by decide +kernel, ⟨_, rU⟩, by decide +kernel⟩, by decide +kernel, rO, by decide +kernel,
    only (.inr (by decide +kernel)), rO, rfl, by decide +kernel, (fun h => absurd h (by decide)), only ⟨_, rU, rfl, rfl⟩⟩
/-- Bytes before chunk 0, which an earlier announcement covered. -/
theorem wit_send_sends_before : ∃ q n t, sendSends recMsg 0 .cel (ceRun .fabSend recMsg (withMessage 0 64 (world []))) (ce .fabSend recMsg (withMessage 0 64 (world []))) q n t :=
  ⟨_, _, _, [0], (none, [0]), _, _, _, _, ⟨by decide +kernel, ⟨_, rU⟩, by decide +kernel⟩, by decide +kernel, rO, by decide +kernel, (fun _ h => by cases h), rO, rfl,
    by decide +kernel, (fun _ => ⟨rfl, rfl⟩), fun _ h => by cases h⟩
theorem wit_mcast_sends : ∃ o, mcastSends recMsg 0 .cel (ceRun .fabMcast recMsg (withMessage 16 0 (world []))) (ce .fabMcast recMsg (withMessage 16 0 (world []))) o :=
  ⟨_, by decide +kernel, by decide +kernel, [0], (some 0, [0]), _, _, _, _, _, ⟨by decide +kernel, ⟨_, rU⟩, by decide +kernel⟩, by decide +kernel, rO, by decide +kernel,
    only (.inr (by decide +kernel)), rO, rU, rfl⟩
/-- Buckets 255 to 255: the last that `fab.prio` may name. -/
theorem wit_prio : bitsAt (immOf (inImm 255)) 0 8 + bitsAt (immOf (inImm 255)) 8 8 ≤ 255 := by decide

/-! Collectives of two members, of which this is member 0. -/
def collImm : Desc := ⟨0, false, 3, 0, 0, 0, 0x10, 0, 0⟩
def recColl : Rec := { blank with d := inMem 12, a := inMem 12, c := collImm }
theorem wit_seed : ∃ v t, seedRule recColl 0 .cel (ceRun .fabCollSeed recColl) (ce .fabCollSeed recColl) v t :=
  ⟨_, _, ⟨by decide +kernel, by decide +kernel, by decide +kernel⟩, (fun h => absurd h (by decide +kernel)),
    fun _ => ⟨_, ⟨by decide +kernel, (fun _ => ⟨⟨_, rU⟩, _, _, rO, rU⟩), (fun h => absurd h (by decide +kernel)), rfl⟩, rfl⟩⟩
/-- A run of no elements, of SEED and of COMMIT. -/
def recCollEmpty : Rec := { recColl with d := { inMem 12 with org := 1 } }
theorem wit_seed_empty : ∃ v t, seedRule recCollEmpty 0 .cel (ceRun .fabCollSeed recCollEmpty) (ce .fabCollSeed recCollEmpty) v t :=
  ⟨_, _, ⟨by decide +kernel, by decide +kernel, by decide +kernel⟩, (fun _ => ⟨rfl, rfl⟩), fun h => absurd (by decide +kernel) h⟩
theorem wit_commit_empty : ∃ v t, commitRule recCollEmpty 0 .cel (ceRun .fabCollCommit recCollEmpty) (ce .fabCollCommit recCollEmpty) v t :=
  ⟨_, _, ⟨by decide +kernel, by decide +kernel, by decide +kernel⟩, (fun _ => ⟨rfl, rfl⟩), (fun h => absurd (by decide +kernel) h), fun h => absurd (by decide +kernel) h⟩
def seeded : State := setChunk 0 ⟨1, false⟩ (world [])
/-- The same with entry 11 in a peer's memory, of format f32, and h21 its first element. -/
def paired : State :=
  let s := { seeded with mem := tables ++ cellsAt (0x40000 + 704) (entryWords 6 0x82 1 0x5000) }
  s.setCore 0 { s.core 0 with lcc := { (s.core 0).lcc with h := (s.core 0).lcc.h ++ [(21, handleOn 11 0x82 0)] } }
def recCollPeer : Rec := { recColl with d := inMem 21, a := inMem 19 }
/-- An acknowledged beat of a chunk that has a map. -/
def mapped (u : Run) : Run := (acked u).withSending { u.sending with map := 1 }
theorem wit_coll_send : ∃ v t, collSendRule recCollPeer 0 .cel (runAs mapped (.fabCollPut recCollPeer) .cel paired)
    (landed .cel (issuingAs mapped (.fabCollPut recCollPeer) .cel paired)) v t :=
  ⟨_, _, _, _, ⟨by decide +kernel, by decide +kernel, by decide +kernel⟩,
    ⟨by decide +kernel, (fun _ => ⟨⟨_, rU⟩, _, rfl, by decide +kernel, rO, by decide +kernel⟩), (fun h => absurd h (by decide +kernel)), rfl⟩, rfl, rfl⟩
/-- Its first visit: the map is read as the header leaves, and stands already at a later beat. -/
theorem wit_coll_sends : ∃ q n t, collSends recCollPeer 0 .cel (ceRun .fabCollPut recCollPeer (withMessage 0 0 paired)) (ce .fabCollPut recCollPeer (withMessage 0 0 paired)) q n t :=
  ⟨_, _, _, by decide +kernel, by decide +kernel, by decide +kernel, [0], _, _, _, _, _, ⟨by decide +kernel, ⟨_, rU⟩, by decide +kernel⟩, by decide +kernel,
    only (.inr (by decide +kernel)), rO, (fun _ => by decide +kernel), rfl, rU, rO, by decide +kernel, rfl, rfl⟩
/-- A chunk that every member has given, and one that not all have. -/
theorem wit_commit : ∃ v t, commitRule recColl 0 .cel (ceRun .fabCollCommit recColl (setChunk 0 ⟨3, false⟩ (world []))) (ce .fabCollCommit recColl (setChunk 0 ⟨3, false⟩ (world []))) v t :=
  ⟨_, _, ⟨by decide +kernel, by decide +kernel, by decide +kernel⟩, (fun h => absurd h (by decide +kernel)),
    (fun _ _ => ⟨by decide +kernel, (fun _ => ⟨⟨_, rU⟩, _, _, rO, rU⟩), (fun h => absurd h (by decide +kernel)), rfl⟩), fun _ h => absurd (by decide +kernel) h⟩
theorem wit_commit_missing : ∃ v t, commitRule recColl 0 .cel (ceRun .fabCollCommit recColl seeded) (ce .fabCollCommit recColl seeded) v t :=
  ⟨_, _, ⟨by decide +kernel, by decide +kernel, by decide +kernel⟩, (fun h => absurd h (by decide +kernel)), (fun _ h => absurd h (by decide +kernel)), fun _ _ => ⟨rfl, rfl⟩⟩
theorem wit_accum : ∃ v t, accumRule recMsg 0 .cel (ceRun .fabSeamAccum recMsg) (ce .fabSeamAccum recMsg) v t :=
  ⟨_, _, _, _, by decide +kernel, ⟨_, rU⟩, rO, rfl, rfl⟩
/-- A vote that ends in each decision. -/
def voted (d : VoteDecision) : State := { world [] with voteRes := [(streamNo .cel, (0, d, 1))] }
theorem wit_vote (d : VoteDecision) : ∃ v t, voteRule blank 0 .cel (runAs second (.fabSeamVote blank) .cel (voted d)) (landed .cel (issuingAs second (.fabSeamVote blank) .cel (voted d))) v t :=
  ⟨_, _, (by decide : ([1, 5] : List Nat) ≠ []), d, 1, rfl, rfl, rfl⟩

/-! Sequencer records that complete. -/

def completing (u : Run) : Run := { u with phase := .complete }
theorem wit_seq (e : Eng) :
    let i := Instr.seqWait blank
    let s := issuingAs completing i e (world [])
    let u := runAs completing i e (world [])
    let w : Run := { u with status := 1, held := 0, ans := .none }
    let t := engRun s.cc e (setRun s.cc e (some w) (dropResv s.cc (engStream e)
      (landEng s.cc (streamNo (engStream e)) (reinject s.cc (streamNo (engStream e)) s))))
    s.powered = true ∧ seqFor s i = e ∧ (s.seqOf s.cc e).run = some u ∧ u.instr = i ∧ u.phase = .complete ∧ u.status = 0 ∧
    (t.seqOf s.cc e).defer = [] ∧ (actLoop s.cc e 3 w t).2.2 = none := by cases e <;> decide +kernel

/-! ## Witnesses: events -/

/-- Instruction memory of core 0 that holds the words `ws` at 0. -/
def imWords (ws : List Nat) : List Host.Cell := memStore [] (imAt 0 0) (ws.flatMap (leBytes 4))

/-- The module with control core `l` of core 0 in a wait at PC 0, where instruction memory holds `i`. -/
def waiting (l : Leader) (w : Wait) (i : Instr) : State :=
  let s := world [(2, 5)]
  { s with mem := tables ++ imWords (encode i) }.setCore 0 { s.core 0 with strm := [(streamNo (leaderStream l), { Strm.reset with st := .wait, wait := w })] }

/-- The hypotheses of a wait that ends. -/
def waitsAt (l : Leader) (w : Wait) (i : Instr) : Bool :=
  let s := waiting l w i
  let x := leaderStream l
  decide ((s.str 0 x).st = .wait ∧ canRun (focus 0 x s) = true ∧ (s.str 0 x).wait = w ∧ issued s 0 l = some i) &&
  (match exec i (focus 0 x s) with | .next _ => true | _ => false)

theorem wit_waits_end :
    ([Instr.semSig g0 3 1, .semWait g0 3 1].all fun i => waitsAt .lcc (.sem 3 1 true) i && waitsAt .ccc (.sem 3 1 false) i) = true ∧
    ([Instr.tkPush g0 7, .tkPop g0 7].all (waitsAt .lcc (.token 7 true))) = true ∧
    ([Instr.barArv g0 0, .barWait g0 0, .barAra g0 0].all (waitsAt .lcc (.barrier 0 0 1))) = true ∧ waitsAt .lcc .rdv (.rdv g0) = true ∧
    ([Instr.stOrd g0 .rel .module (opnd 1) 2, .fenceRel g0 .core, .fenceFull g0 .core, .fenceMsa g0 .core, .barArv g0 63, .barAra g0 63, .jend g0].all
      (waitsAt .lcc (.own 0))) = true := by decide +kernel

/-- A barrier wait whose generation has passed, and a rendezvous whose engines are done. -/
theorem wit_waits_over : (waitsAt .lcc (.barrier 5 1 1) (.barWait g0 5) = true ∧ Ready g0 (focus 0 .lcc (waiting .lcc (.barrier 5 1 1) (.barWait g0 5))) ∧
      ((waiting .lcc (.barrier 5 1 1) (.barWait g0 5)).group (5 : BgIx).val).gen ≠ 1) ∧
    waitsAt .ccc .rdv (.rdv g0) = true ∧ Ready g0 (focus 0 .ccc (waiting .ccc .rdv (.rdv g0))) ∧ jobBusy (waiting .ccc .rdv (.rdv g0)) 0 .ccc = false := by
  decide +kernel

/-- An engine in each of the three waits. -/
def engWaiting (w : Wait) : State :=
  let s := world []
  s.setCore 0 { s.core 0 with strm := (streamNo .ve, { Strm.reset with st := .wait, wait := w }) :: (s.core 0).strm }
theorem wit_engine_waits : InWait (engWaiting (.sem 31 1 false)) 0 .ve (.sem 31 1 false) ∧ InWait (engWaiting (.token 7 false)) 0 .ve (.token 7 false) ∧
    InWait (engWaiting (.own 2)) 0 .ve (.own 2) := ⟨⟨by decide +kernel, by decide +kernel, by decide +kernel⟩, ⟨by decide +kernel, by decide +kernel, by decide +kernel⟩,
  ⟨by decide +kernel, by decide +kernel, by decide +kernel⟩⟩

/-- An armed monitor whose word, 0, is and is not what it waits for (s2 = 5). -/
def armedAt : Loc := { (default : Loc) with p := { (default : Loc).p with addr := 64, bytes := 8, tag := 0x45 }, flat := spmAt 0 64 }
def armed (k : Cond) : State := waiting .lcc (.addr 1 3 2 k .module armedAt) (.nop g0)
theorem wit_armed : InWait (armed .eq) 0 .lcc (.addr 1 3 2 .eq .module armedAt) ∧
    (∃ v u, Runs (loadOrd (focus 0 .lcc (armed .eq)).who armedAt .acq .module) (focus 0 .lcc (armed .eq)) v u ∧
      (!cond .eq (BitVec.ofNat 64 v) (u.me.rdS 2)) = true) ∧
    (∃ v u, Runs (loadOrd (focus 0 .lcc (armed .ltu)).who armedAt .acq .module) (focus 0 .lcc (armed .ltu)) v u ∧
      (cond .ltu (BitVec.ofNat 64 v) (u.me.rdS 2) && (focus 0 .lcc (armed .ltu)).me.priv) = true) :=
  ⟨⟨by decide +kernel, by decide +kernel, by decide +kernel⟩, runs (by decide +kernel), runs (by decide +kernel)⟩

/-- A pair in each state of its licence. -/
def licensed (l : Lic) (want : List Nat) : State := let s := world []; s.setPair 0 { s.pair 0 with lic := l, who := 0, want := want }
theorem wit_licence_events : (((licensed .releasing [1]).pair 0).want.contains (1 - ((licensed .releasing [1]).pair 0).who)) = true ∧
    (((licensed .releasing [0]).pair 0).want.contains (1 - ((licensed .releasing [0]).pair 0).who)) = false ∧
    ((licensed .handover [0]).pair 0).lic = .handover ∧ ((licensed .held []).pair 0).lic = .held := by decide +kernel

/-! The gates of a record. -/

/-- Records that the vector engine's sequencer finds at PC 0: a wait, and words of zeros. -/
def atHead (ws : List Nat) : State :=
  let s := world []
  { s with mem := tables ++ imWords ws }.setCore 0 { s.core 0 with strm := (streamNo .ve, { Strm.reset with st := .run }) :: (s.core 0).strm }
def headFree (s : State) : Bool :=
  decide (s.powered = true ∧ canRun (focus 0 .ve s) = true ∧ (s.seqOf 0 .ve).run = none ∧ (s.str 0 .ve).st ≠ .trap ∧ (s.str 0 .ve).pc + 63 < 262144 ∧
    loadingAt s 0 (s.str 0 .ve).pc = false ∧ (List.range 8).any (fun j => imMarked s 0 ((s.str 0 .ve).pc + 8 * j)) = false)
theorem wit_head : headFree (atHead (encode (.seqWait blank))) = true ∧
    (match decodeRecord (recordWords (atHead (encode (.seqWait blank))) 0 0) with | some i => recordLegal .ve 0 i | none => false) = true ∧
    headFree (atHead []) = true ∧ (match decodeRecord (recordWords (atHead []) 0 0) with | some i => recordLegal .ve 0 i | none => false) = false := by decide +kernel

/-- A record at a gate of core 0, its engine running; token FIFO 0 holds a pass, semaphore 0 the value 1. -/
def atGate (i : Instr) (e : Eng) (f : Run → Run) : State :=
  let s := scaled
  let s := s.setCore 0 { s.core 0 with
    strm := (streamNo (engStream e), { Strm.reset with st := .run }) :: (s.core 0).strm, tk := [(0, [default])], sem := [(0, (1, .empty))] }
  { issuingAs f i e s with pcls := [(0, 0x1000000), (1, 0x1010101), (7, 0)] }
def stands (i : Instr) (e : Eng) (f : Run → Run) : Bool :=
  let s := atGate i e f
  decide (s.powered = true ∧ canRun (focus 0 (engStream e) s) = true ∧ (s.seqOf 0 e).run ≠ none)
theorem wit_gates : ([Phase.entry, .read, .licence, .reserve, .issue, .complete].all fun p => stands (.veAdd rec64) .ve fun u => { u with phase := p }) = true ∧
    engineOf (.seqWait blank) = 0 ∧ voteHolds (atGate (.veAdd rec64) .ve id) 0 = false ∧ holdsLic scaled 0 = true ∧
    engineOf (.meClr rec64) = 1 ∧ holdsLic (licensed .disabled []) 0 = false ∧ ((licensed .disabled []).pair (pairOf 0)).lic = .disabled := by decide +kernel
/-- Entry actions at their least and greatest: a pop and a semaphore that can be taken, and neither. -/
def popping : Rec := { rec64 with tpop := 8, swait := 32 }
theorem wit_entry : 8 ≤ popping.tpop.val ∧ 32 ≤ popping.swait.val ∧ rec64.tpop.val < 8 ∧ rec64.swait.val < 32 ∧
    (let s := engRun 0 .ve (atGate (.veAdd popping) .ve fun u => { u with phase := .entry })
     match tokenPop 0 (agentOf 0 .ve) 0 s with
     | some s1 => (semTake 0 (agentOf 0 .ve) 0 1 s1).isSome && !(tokens s 0 0).isEmpty && decide ((semOf s 0 0).1 ≠ 0)
     | none => false) = true ∧ tokens (world []) 0 7 = [] := by decide +kernel
/-- Errors outside the levels: in a handle the record reads, in one it does not read, and in module state. -/
theorem wit_marked_reads : let s := atGate (.veAdd rec64) .ve fun u => { u with phase := .read }
    operandMarked s 0 .ve (.veAdd rec64) = false ∧ operandMarked (upsetAt (.reg 0 .lcc (.h rec64.a.hnd)) s) 0 .ve (.veAdd rec64) = true ∧
    operandMarked (upsetAt (.reg 0 .lcc (.h 31)) s) 0 .ve (.veAdd rec64) = false ∧ (upsetAt .module s).modBad = true ∧ s.modBad = false ∧
    Sys2Proof.Machine.opnd rec64.a = .mem ∧ rec64.a.hnd ≠ 31 := by decide +kernel
/-- Power classes: without units, with some, and not enabled. -/
theorem wit_reserve : let s := atGate (.veAdd rec64) .ve fun u => { u with phase := .reserve }
    (classEn s 0 = true ∧ classUnits s 0 2 = 0) ∧ (classEn s 1 = true ∧ classUnits s 1 2 = 1 ∧ classUnits s 1 2 ≤ Config.clMax) ∧ classEn s 7 = false := by decide +kernel
/-- A reservation that is held, one that is waited for, and none. -/
theorem wit_reserve_waits : let s := atGate (.veAdd rec64) .ve fun u => { u with phase := .reserve }
    let waits := reserve 0 .ve 1 s
    let held := s.setCluster 0 { s.cluster 0 with held := [⟨0, 3, 1, 0, 0⟩] }
    (holdsResv held 0 .ve = true ∧ resvUnits held 0 .ve = 1) ∧ (holdsResv waits 0 .ve = false ∧ wantsResv waits 0 .ve = true) ∧
    holdsResv s 0 .ve = false ∧ wantsResv s 0 .ve = false := by decide +kernel
theorem wit_closes : ∃ v t, Runs (closeOp 0 .ve (runAs completing (.veIota rec64) .ve scaled)) (issuingAs completing (.veIota rec64) .ve scaled) v t ∧
    (decide (((engRun 0 .ve (setRun 0 .ve (some v) t)).seqOf 0 .ve).defer = []) && (match v.instr with | .seqEnd _ => false | _ => true) &&
      (actLoop 0 .ve 3 v (engRun 0 .ve (setRun 0 .ve (some v) t))).2.2.isNone) = true := runs (by decide +kernel)
/-- The gates where nothing stands in the way: entry, a reservation whose licence has gone, and a completion without actions. -/
theorem wit_plain_gates : repMode (atGate (.veAdd popping) .ve id) = 0 ∧ tokens (atGate (.veAdd popping) .ve id) 0 0 ≠ [] ∧ (semOf (atGate (.veAdd popping) .ve id) 0 0).1 ≠ 0 ∧
    holdsLic ((atGate (.meClr rec64) .me id).setPair 0 ((licensed .free []).pair 0)) 0 = false ∧ blank.ssig.val < 32 ∧ blank.tpush.val < 8 ∧
    blank.flag = false ∧ (runOf (.veAdd blank) .ve (world [])).flagLoc = none := by decide +kernel
theorem wit_plain_completion : ∀ k f w, doneFn (.veAdd blank) k f w = pure w := fun _ _ _ => rfl
/-- One request that fits its cluster's budget, and one that does not. -/
def clustered (b : Nat) : State := (world []).setCluster 0 { (world []).cluster 0 with budget := b, wants := [⟨0, 3, 1, 0, 0⟩] }
theorem wit_arbitrate : ((clustered 1).cluster 0).wants = [⟨0, 3, 1, 0, 0⟩] ∧ heldUnits ((clustered 1).cluster 0) + 1 ≤ ((clustered 1).cluster 0).budget ∧
    ((clustered 1).die (dieOf 0)).hold = false ∧ ¬heldUnits ((clustered 0).cluster 0) + 1 ≤ ((clustered 0).cluster 0).budget := by decide +kernel

/-! Translation commands on the first GiB of context 5. -/
def xlt (f : State → State) : State := f { world [] with xltArg0 := 0, xltArg1 := 5 + 2 * 2 ^ 12 }
def closed (frozen : Bool) (s : State) : State := { s with closing := [⟨5, 0, 2, 512, frozen, 0⟩] }
def pageOf (s : State) : Bool := decide (xVa s % 2 ^ sizeBits (xSize s) = 0 ∧ xSize s ≠ 3)
theorem wit_translation :
    let table := ((ctxRegs (world []) 5).map (·.1)).getD 0
    (xlt id).me.priv = true ∧ (xlt id).xltBusy = false ∧ (xlt fun s => { s with xltBusy := true }).xltBusy = true ∧ badOp 0 = true ∧ badOp 7 = true ∧ badOp 6 = false ∧
    pageOf (xlt id) = true ∧ pageOf (xlt fun s => { s with xltArg0 := 0x10000 }) = false ∧
    (xLeaf (xlt id)).isSome = true ∧ xLeaf (xlt fun s => { s with xltArg0 := 0xC0000000 }) = none ∧
    (closingAt (xlt id) 5 0).isSome = false ∧ closingAt (xlt (closed true)) 5 0 = some ⟨5, 0, 2, 512, true, 0⟩ ∧ closingAt (xlt (closed false)) 5 0 = some ⟨5, 0, 2, 512, false, 0⟩ ∧
    pinnedOver (xlt id) ⟨5, 0, 2, 512, true, table⟩ = false ∧ pinnedOver (xlt fun s => { s with pins := [(5 * 4096 + 8, 1)] }) ⟨5, 0, 2, 512, true, table⟩ = true ∧
    xFrame (xlt (closed true)) % 2 ^ (sizeBits (xSize (xlt (closed true))) - 16) = 0 ∧
    look 0 (xlt fun s => { s with pins := [(5 * 4096, 1)] }).pins (xCtx (xlt id) * 4096 + xVa (xlt id) % 4096) ≠ 0 ∧
    (xlt (closed false)).closing.find? (fun p => !p.frozen) = some ⟨5, 0, 2, 512, false, 0⟩ ∧
    (walk (world []) (whoStream (world []) 0 .lcc).root 0).isSome = true ∧ walk (world []) (whoStream (world []) 0 .lcc).root (2 ^ 55) = none ∧
    frozenAt (world []) (ctxId (whoStream (world []) 0 .lcc).root) 0 = false := by decide +kernel

/-- A memory-side request that came through address `va` of context `ctx`, under a key and not: in the page, outside it, of another context. -/
def flying (ctx va : Nat) (view : Option (Nat × Nat)) : State :=
  xlt fun s => { s with msa := [⟨0, 0, 0, 16, .add, 0x44, [(0, 1)], view, (ctx, va)⟩], keys := [(3, 9)], xltCmd := some (5, 5) }
theorem wit_flying : pageFlying (flying 5 0x1000 none) ⟨5, 0, 2, 512, true, 0⟩ = true ∧ pageFlying (flying 5 0x40000000 none) ⟨5, 0, 2, 512, true, 0⟩ = false ∧
    pageFlying (flying 6 0x1000 none) ⟨5, 0, 2, 512, true, 0⟩ = false ∧ beganPage (xlt (closed true)) = some ⟨5, 0, 2, 512, true, 0⟩ ∧
    (inFlight (flying 5 0 none)).any (fun f => f.ctx == 5) = true ∧ (inFlight (flying 6 0 none)).any (fun f => f.ctx == 5) = false ∧
    find (flying 5 0 none).keys 3 = some 9 ∧ (flying 5 0 none).keyOut.contains 3 = false ∧ (flying 5 0 none).xltCmd = some (5, 5) ∧
    (inFlight (flying 5 0 (some (9, 0)))).any (fun f => f.view.any fun v => some v.1 == some 9) = true ∧
    (inFlight (flying 5 0 none)).any (fun f => f.view.any fun v => some v.1 == some 9) = false := by decide +kernel

/-- Scrubs of a unit with an error and of one without. -/
theorem wit_scrub : ({ world [] with marks := [(6, 4)] }).marks.contains (6, 4) = true ∧ ({ world [] with marks := [(6, 4)] }).marks.contains (6, 5) = false := by decide

/-! The memory unit, reset and power. -/
def requested : State := { world [] with msa := [default] }
theorem wit_memory_unit : repMode (world []) = 0 ∧ (world []).msa[0]? = none ∧ requested.msa[0]? = some default ∧ repMode requested = 0 := by decide +kernel
theorem wit_reset : Inv (world []) ∧ (world []).powered = true ∧ Inv { world [] with powered := false } :=
  ⟨tables_wf, by decide +kernel, tables_wf⟩

/-! Register writes. -/
def atJob : State := (world []).setMe { (world []).me with priv := false }
theorem wit_plain_write : plainReg 0x188 = true ∧ plainReg 0x1D4 = true ∧ (regOf 0x188).isSome = true ∧ atJob.me.priv = false ∧ (match regOf 0x188 with | some r => r.jobWr | none => true) = false ∧
    (match regOf 0x1D4 with | some r => r.jobWr | none => false) = true := by decide +kernel

/-- A tag table of one slot of 1 KiB, one that is outside the scratchpad, and a change while a slot is valid. -/
def ttValid : State := (world []).setMyCore { (world []).myCore with tt := [(0, 1)] }
theorem wit_tag_table_config : (2 ^ Nat.log2 (bitsAt 0 8 10 + 1) = bitsAt 0 8 10 + 1 ∧ 2 ^ bitsAt 0 4 3 ≤ bitsAt 0 8 10 + 1 ∧ (bitsAt 0 8 10 + 1) * 2 ^ 10 ≤ 2 ^ 22) ∧
    (let x := 6 + 1023 * 2 ^ 8 + 0xFC0 * 2 ^ 20; ¬(bitsAt x 20 12 * 1024 + (bitsAt x 8 10 + 1) * 2 ^ (x % 16 + 10) ≤ 2 ^ 22)) ∧
    ¬(0x100 % 2 ^ 63 = ttValid.myCore.ttCfg.toNat % 2 ^ 63 ∨ ∀ e ∈ ttValid.myCore.tt, bitAt e.2.toNat 0 = false) := by decide +kernel

/-- A module with a job on core 0, and one whose die holds a kept and an offloaded object. -/
def jobbed : State := (world []).setCore 0 { (world []).core 0 with strm := [(0, { Strm.reset with inJob := true })] }
def objects : State := (world []).setDie 0 { (world []).die 0 with objs := [(0, { (default : Obj) with goal := .kept }), (1, { (default : Obj) with goal := .offloaded })] }
theorem wit_ruled_writes :
    anyJob (world []) = false ∧ anyJob jobbed = true ∧
    -- a barrier group that may be configured, one that is counting, words at the ends of their range, a level and a reserved bit
    (((world []).group 0).count = 0 ∧ bitsAt 1 17 47 = 0) ∧ bitsAt (2 ^ 17) 17 47 ≠ 0 ∧
    -- keep and spill tiers: the first and last that fit, one too large, and those that hold objects
    (bitsAt (2 ^ 19 - 1) 0 19 + bitsAt (2 ^ 19 - 1) 19 19 ≤ 2 ^ 19) ∧ ¬(bitsAt (2 ^ 19 + 2 ^ 19 - 1 + 2 ^ 20) 0 19 + bitsAt (2 ^ 19 + 2 ^ 19 - 1 + 2 ^ 20) 19 19 ≤ 2 ^ 19) ∧
    (∀ e ∈ (world []).dies, e.1 = 0 ∨ rangesMeet 0 1 e.2.keepBase e.2.keepSize = false) ∧
    ¬(∀ e ∈ (objects.die 0).objs, e.2.goal ≠ ObjSt.kept) ∧ ¬(∀ e ∈ (objects.die 0).objs, e.2.goal ≠ ObjSt.offloaded) ∧
    -- thresholds equal and out of order
    (bitsAt 0x808080 0 8 ≤ bitsAt 0x808080 8 8 ∧ bitsAt 0x808080 8 8 ≤ bitsAt 0x808080 16 8) ∧ ¬bitsAt 1 0 8 ≤ bitsAt 1 8 8 ∧
    -- a ring with a time-out, and one without
    bitsAt (2 ^ 36) 36 16 ≠ 0 ∧ bitsAt 0 36 16 = 0 ∧
    mcBusy (world []) 0 = false ∧ ((world []).group 0).count = 0 ∧
    -- rates, operating points and limits at their ends
    (1 ≤ 1 % 32 ∧ 16 ≤ Config.egrRateMax ∧ ¬17 ≤ Config.egrRateMax) ∧ (12 % 16 ≤ 12 ∧ ¬13 % 16 ≤ 12) ∧
    (bitsAt (50 + 50 * 2 ^ 16) 0 16 ≤ Config.avgMax ∧ bitsAt (50 + 50 * 2 ^ 16) 16 16 ≤ Config.pkMax ∧ bitsAt (50 + 50 * 2 ^ 16) 32 32 = 0) ∧ ¬50 ≤ bitsAt 49 0 16 ∧
    (bitsAt (Config.tjMax - 1) 0 8 < Config.tjMax ∧ ¬bitsAt Config.tjMax 0 8 < Config.tjMax) ∧
    -- a trace ring that is off, one that may run and one that may not
    bitAt 0 0 = false ∧ ringOk (whoStream (world []) 0 .lcc).ltb (ltEntry (world []) (whoStream (world []) 0 .lcc) 4) = false ∧
    -- replay: off, recording at the least and greatest interval, and a mode that is none
    (1 ≤ bitsAt (1 + 1 * 4) 2 10 ∧ bitsAt (1 + 1000 * 4) 2 10 ≤ 1000 ∧ ¬bitsAt (1 + 1001 * 4) 2 10 ≤ 1000 ∧ (3 : Nat) % 4 = 3) := by decide +kernel

theorem wit_multicast_busy : mcBusy (issuing (.fabMcast blank) .cel (world [])) 0 = true := by decide +kernel

/-- An engine in TRAP with its restart point, and one that has none. -/
def trapped : State :=
  let s := world []
  (s.setCore 0 { s.core 0 with strm := (streamNo .ve, { Strm.reset with st := .trap }) :: (s.core 0).strm }).setSeqOf 0 .ve { s.seqOf 0 .ve with tValid := true }
theorem wit_engine_registers : trapped.me.priv = true ∧ (trapped.str 0 .ve).st = .trap ∧ (trapped.str 0 .ve).pstop = false ∧ (trapped.seqOf 0 .ve).tValid = true ∧
    (trapped.seqOf 0 .me).tValid = false ∧ bitAt 2 (engNo .ve) = true ∧ atJob.me.priv = false := by decide +kernel

/-! Starts, command queues, gangs, the scheduler and the stash policy. -/

def startOf (ctx : Option (Word × Word)) : Start := ⟨0, .lcc, 0x100, 7, [], ctx, .none, false, ⟨0, 0, .empty⟩⟩
theorem wit_starts : (world []).me.priv = true ∧ (jobbed.str (bitsAt 0 0 10) .lcc).inJob = true ∧ ((world []).str 0 .lcc).inJob = false ∧
    bitsAt (2 ^ 11) 11 18 % 4 ≠ 0 ∧ bitsAt (2 ^ 41) 41 23 ≠ 0 ∧ (bitsAt (4 * 2 ^ 11) 11 18 % 4 = 0 ∧ bitsAt (4 * 2 ^ 11) 41 23 = 0) ∧
    canStart (startOf none) (world []) = true ∧ canStart (startOf none) jobbed = false ∧ (world []).starts = [] := by decide +kernel

/-- Queue 0 of tower 0: its header and its notify word are entry 8, where four words stand. -/
def queuesAt (on : Nat) (hdr : List Nat) : State :=
  let s := { queued 0 0 0 with mem := tables ++ cellsAt 0x400000 hdr }
  setQ 0 0 { Cpq.reset with w0 := BitVec.ofNat 64 (on + 8 * 2 ^ 12 + 8 * 2 ^ 24 + 8 * 2 ^ 36), ltb := 0x8000000000040000, root := 0x50000000000 } s
def emptyQueue (on : Nat) : State := queuesAt on [0, 0, 0, 0, 4, 0, 0, 0]
theorem wit_queue_writes : qEnable (getQ (emptyQueue 0) 0 0) = false ∧ qEnable (getQ (emptyQueue 1) 0 0) = true ∧ bitsAt 2 1 11 ≠ 0 ∧ bitsAt (2 ^ 25) 25 39 ≠ 0 ∧
    (getQ (emptyQueue 1) 0 0).w0 &&& ~~~1 = (getQ (emptyQueue 0) 0 0).w0 := by decide +kernel

/-- Enabling: the notify word at this tower, the header readable; and a notify entry that is not valid. -/
theorem wit_queue_enable :
    let s0 := emptyQueue 1
    ends (do
      let w := cpWho 0 0 (getQ s0 0 0)
      let g ← wordLoc w 8 0 .load
      modify fun s => setQ 0 0 { getQ s 0 0 with notify := g.flat } s
      settleQueue 0 0
      let r ← acqWord w 8 1
      return (homeOf g.flat, r)) s0 (fun x _ => x.1 == 0) = true := by decide +kernel
def unmappedQueue : State := setQ 0 0 { Cpq.reset with w0 := 1, ltb := 0x8000000000040000, root := 0x50000000000 } (world [])
theorem wit_queue_enable_refused : (match ((wordLoc (cpWho 0 0 (getQ unmappedQueue 0 0)) 0 0 .load).go unmappedQueue).1 with | .error (.trap _) => true | _ => false) = true := by
  decide +kernel

/-- Serving an empty queue: nothing is consumed; with a doorbell, with its service held, with neither, and while it is being enabled. -/
theorem wit_queue_serve : ∃ x t, Runs (settleQueue 0 0) (takeNotices 0 0 (emptyQueue 1)) x t ∧
    ends (serveLoop 0 0 65536) (setQ 0 0 { getQ t 0 0 with bell := false, hold := .idle } t) = true := runs (by decide +kernel)
def turned (bell : Bool) (hold : QHold) : State := setQ 0 0 { getQ (emptyQueue 1) 0 0 with bell := bell, hold := hold } (emptyQueue 1)
theorem wit_queue_turns : [(true, QHold.idle), (false, .serving), (false, .idle)].all (fun k => ends (settleQueue 0 0) (takeNotices 0 0 (turned k.1 k.2)) (fun _ t =>
      decide (qEnable (getQ t 0 0) = true ∧ (getQ t 0 0).bell = k.1 ∧ (getQ t 0 0).hold = k.2))) = true ∧
    (getQ (turned false .enabling) 0 0).hold = .enabling ∧ qEnable (getQ (takeNotices 0 0 (emptyQueue 0)) 0 0) = false := by decide +kernel

/-- A gang packet of group 0, gang 7, TMO 5 us, that awaits its decision. -/
def gangPacket : Pkt := ⟨0, 0, [6, 0, 0, 0, 0, 0, 0, 7 + 5 * 2 ^ 32], false, 0, none, [], false, 1, 0⟩
/-- A gang with one arrival, its root's timer at the limit and just before it; decided and undecided. -/
def gang (cfg : Nat) (time : Nat) : State :=
  { setQ 0 0 { Cpq.reset with fly := [gangPacket] } (world []) with
    gangs := [(0, [⟨7, [0], some 0⟩])], fbt := [(0, ⟨BitVec.ofNat 64 cfg, []⟩)], decided := [(0, [(3, false)])], time := time }
theorem wit_gang : (gangOf (world []) 0 7).start = none ∧ (gangOf (gang 0x4400 5000) 0 7).start = some 0 ∧ fbtRoot (fbtOf (gang 0x4400 5000) 0) = true ∧
    fbtV (fbtOf (gang 0x4400 5000) 0) = true ∧ fbtV (fbtOf (gang 0x400 5000) 0) = false ∧ fbtV (fbtOf (gang 0x4000 0) 0) = true ∧
    gangTmo (gang 0x4400 5000) 0 7 = some 5 ∧ 0 + 5 * 1000 ≤ (gang 0x4400 5000).time ∧ (gang 0x4400 4999).time < 0 + 5 * 1000 ∧
    decidedOf (gang 0x4400 5000) 0 7 = none ∧ decidedOf (gang 0x4400 5000) 0 3 = some false ∧ moduleInst (gang 0x4400 0) = 0 ∧
    fbtRoot (fbtOf (gang 0x4000 0) 0) = false ∧ ((gangOf (gang 0x4000 0) 0 7).from'.contains (moduleInst (gang 0x4000 0)) = true ∧
      fbtChildren (fbtOf (gang 0x4000 0) 0) + 1 ≤ (gangOf (gang 0x4000 0) 0 7).from'.length) ∧
    ¬fbtChildren (fbtOf (gang 0x4800 0) 0) + 1 ≤ (gangOf (gang 0x4800 0) 0 7).from'.length ∧
    gangExpired (gang 0x4400 5000) 0 7 = true ∧ gangExpired (gang 0x4400 4999) 0 7 = false := by decide +kernel
/-- A member whose PREPARED is older than twice the gang's time-out and 100 us. -/
def memberLate (time : Nat) : State := { setQ 0 0 { Cpq.reset with fly := [gangPacket] } (world []) with time := time }
def lateIn (s : State) : Bool := s.towers.any fun t => t.2.cpq.any fun q => q.2.fly.any fun k =>
  k.gang == 1 && pKindOf k.words == 3 && pGroup k.words == 0 && pGangId k.words == 7 && decide (k.sent + (2 * pTmo k.words + 100) * 1000 ≤ s.time)
theorem wit_gang_member : lateIn (memberLate 110000) = true ∧ lateIn (memberLate 109999) = false := by decide +kernel

/-! The scheduler: a stage with an entry in its forward queue, and the rules that hold and do not. -/
def stage : Stage :=
  { Stage.reset with w := [(0, 1 + 4 * 2 ^ 8 + 2 * 2 ^ 16 + 2 ^ 32), (1, 1), (2, 0)], queues := [(0, [⟨3, 0, none, ⟨0, 0, .empty⟩⟩])], ready := 1, newest := 0 }
def scheduled (rule : Nat) : State := { world [] with stages := [(0, stage)], rules := [(0, BitVec.ofNat 64 rule)] }
theorem wit_scheduler_writes : stReserved 0 (2 ^ 5) = true ∧ stReserved 5 0 = false ∧ stReserved 0 1 = false ∧ stReserved 1 1 = false ∧ stEnable (stageOf (world []) 15) = false ∧
    stEnable stage = true ∧ stBadEnable { Stage.reset with w := [(0, 1)] } = true ∧ stBadEnable stage = false ∧ ruleBad 1 = false ∧ ruleBad 0x81 = true ∧
    chEnable (chanOf (world []) 31) = false := by decide +kernel
theorem wit_scheduler_queue : (stQueue (stageOf (scheduled 1) 0) 0).length < 256 ∧ bitsAt 3 0 12 ≠ 0xFFF ∧ bitsAt 3 12 2 ≠ 3 ∧ stEnable (stageOf (scheduled 1) 0) = true ∧
    bitsAt 3 18 46 = 0 ∧ bitsAt 0xFFF 0 12 = 0xFFF ∧ bitsAt 0x3000 12 2 = 3 := by decide +kernel
/-- Versions: the newest ready, none in use dropped; one in use dropped, and a version beyond the last. -/
def versioned : State := (scheduled 1).setMe { (scheduled 1).me with starter := .mbs 0 0 3 }
theorem wit_versions : stageOfCtl (world []).me = none ∧ stageOfCtl versioned.me = some 0 ∧
    ((∀ j < 8, bitAt (stageOf versioned 0).ready j = true → bitAt 2 j = false → bitAt (stInuse (stageOf versioned 0)) j = false) ∧
      bitAt 2 1 = true ∧ 2 < 2 ^ stNver (stageOf versioned 0) ∧ 1 < stNver (stageOf versioned 0)) ∧ ¬4 < 2 ^ stNver (stageOf versioned 0) := by decide +kernel
theorem wit_evaluate : agedHeads (scheduled 1) = [] ∧ (bitAt 1 0 = true ∧ bitsAt 1 1 4 = 0 ∧ bitsAt 1 5 2 = 0) ∧
    ruleHolds (scheduled 1) 1 0 = true ∧ slotFree (scheduled 1) 0 0 = true ∧ ruleHolds (scheduled (1 + 2 * 2 ^ 8)) (1 + 2 * 2 ^ 8) 0 = false ∧
    (∀ j < 64, j ≠ 0 → bitAt (look 0 (scheduled 1).rules j).toNat 0 = false) ∧ (∀ n < 64, bitAt (look 0 (world []).rules n).toNat 0 = false) := by decide +kernel
/-- A job of class 2 whose leaders have all ended, and none. -/
def ended' : Stage := { stage with jobs := [⟨2, 3, [], none⟩] }
theorem wit_job_end : ended'.jobs.find? (fun j => j.cls == 2 && j.tag == 3 && j.left.isEmpty) = some ⟨2, 3, [], none⟩ ∧ stAutoW stage = false ∧
    stage.jobs.find? (fun j => j.cls == 2 && j.tag == 3 && j.left.isEmpty) = none := by decide +kernel
/-- A die at level 3 with an object to move, with room for it and without, and with none to move. -/
def full (spill : Nat) : Die := { (world []).die 0 with keepSize := 1, spillSize := spill, thr := 0, objs := [(0, { (default : Obj) with st := .kept, goal := .kept, held := 64, len := 64 })] }
theorem wit_offload : bobLevel { (world []).die 0 with thr := 0x010101, keepSize := 1 } ≠ 3 ∧ bobLevel (full 0) = 3 ∧ (firstMover (full 0).objs).isSome = true ∧
    spillRoom (full 0) 64 = false ∧ spillRoom (full 1) 64 = true ∧ bobLevel { full 0 with objs := [] } = 3 ∧ firstMover ([] : Tbl Obj) = none := by decide +kernel

/-! Engine traps, pre-emption, time-outs and flushes. -/

/-- A pending engine trap of the vector engine at its leader, open and in a trap. -/
def pendingTrap (inTrap : Bool) : State := let s := world []; s.setCtlOf 0 .lcc { s.ctlOf 0 .lcc with inTrap := inTrap, pendEng := [3], inh := false }
theorem wit_deliver : ((pendingTrap false).ctlOf 0 .lcc).inTrap = false ∧ ((pendingTrap false).str 0 .lcc).st ≠ .idle ∧ ((pendingTrap false).str 0 .lcc).st ≠ .halt ∧
    ((pendingTrap false).str 0 .lcc).pstop = false ∧ ((pendingTrap false).die (dieOf 0)).busy = false ∧ ((pendingTrap false).ctlOf 0 .lcc).pendGang = none ∧
    ((pendingTrap false).ctlOf 0 .lcc).pendDiv = none ∧ least ((pendingTrap false).ctlOf 0 .lcc).pendEng = some 3 ∧ ((pendingTrap true).ctlOf 0 .lcc).inTrap = true ∧
    ((world []).ctlOf 0 .lcc).pendEng = [] := by decide +kernel
/-- A divergence in a handler with INH set; a trap of two that pend; one in a clock transition. -/
def diverging : State := (pendingTrap true).setCtlOf 0 .lcc { (pendingTrap true).ctlOf 0 .lcc with pendDiv := some 3, inh := true }
theorem wit_deliver_more : (diverging.ctlOf 0 .lcc).pendDiv = some 3 ∧ (diverging.ctlOf 0 .lcc).inh = true ∧ (diverging.ctlOf 0 .lcc).inTrap = true ∧
    (diverging.str 0 .lcc).st ≠ .idle ∧ (diverging.str 0 .lcc).st ≠ .halt ∧ (diverging.str 0 .lcc).pstop = false ∧ (diverging.die (dieOf 0)).busy = false ∧
    least [4, 3] = some 3 ∧ (((pendingTrap false).setDie 0 { (pendingTrap false).die 0 with busy := true }).die (dieOf 0)).busy = true := by decide +kernel

/-- Waits on a token FIFO at the limit of 2 us and just before it: a control core's and an engine's. -/
def timed (time : Nat) : State :=
  let s := world []
  { s with time := time }.setCore 0 { s.core 0 with qtmo := 2, strm := [(0, { Strm.reset with st := .wait, wait := .token 1 false }), (3, { Strm.reset with st := .wait, wait := .token 1 false })] }
def dueAt (s : State) (x : Stream) : Bool :=
  decide ((s.str 0 x).st = .wait ∧ canRun (focus 0 x s) = true ∧ (s.core 0).qtmo ≠ 0 ∧ (s.str 0 x).since + (s.core 0).qtmo * 1000 ≤ s.time)
theorem wit_time_outs : dueAt (timed 2000) .lcc = true ∧ dueAt (timed 2000) .ve = true ∧ dueAt (timed 1999) .lcc = false ∧
    dueAt ((timed 2000).setDie 0 { (timed 2000).die 0 with busy := true }) .lcc = false ∧
    timeoutInfo ((timed 0).str 0 .lcc).wait = some 5 ∧ timeoutInfo .rdv = none := by decide +kernel
/-- The wait that has ended unseen: its token is there. -/
def tokened (s : State) : State := s.setCore 0 { s.core 0 with tk := [(1, [default])] }
def stillAt (s : State) (x : Stream) : Bool :=
  let t := redoStr 0 x (fun _ => true) redoTimed s
  decide ((t.str 0 x).st = .wait ∧ (t.str 0 x).wait = (s.str 0 x).wait ∧ (t.str 0 x).since = (s.str 0 x).since)
/-- The same with a record of the vector engine at its entry, which pops the FIFO. -/
def popEntry (s : State) : State :=
  s.setSeqOf 0 .ve { s.seqOf 0 .ve with run := some { Run.fresh s 0 .ve (.veAdd { rec64 with tpop := 9 }) 0 .entry with total := 1 } }
/-- The same with the instruction `tk.pop` issued. -/
def popWaits (s : State) : State := s.setCtlOf 0 .lcc { s.ctlOf 0 .lcc with held := some (.tkPop g0 1) }
theorem wit_time_out_still : stillAt (popEntry (timed 2000)) .ve = true ∧ stillAt (popEntry (tokened (timed 2000))) .ve = false ∧ stillAt (popWaits (timed 2000)) .lcc = true ∧ stillAt (popWaits (tokened (timed 2000))) .lcc = false := by decide +kernel
theorem wit_flush : (world []).me.priv = true ∧ bitsAt (2 ^ 11) 11 53 ≠ 0 ∧ bitsAt 0x7FF 11 53 = 0 ∧ (jobbed.str 0 .lcc).inJob = true ∧ ((world []).str 0 .lcc).inJob = false ∧
    jobbed.jflush = [] ∧ jobbed.sent = [] ∧ jobbed.msa = [] := by decide +kernel

/-- A checkpoint that owns core 0; a core that is stopping, with and without an access under way; a gang that holds the stop back. -/
def owned : State := { world [] with ckptStat := 1, ckptGot := [0] }
def busy (sent : List Sent) : State := let s := world []; { s with sent := sent }.setCore 0 { s.core 0 with busy := true }
def stopped : State := let s := world []; s.setCore 0 { s.core 0 with strm := [(0, { Strm.reset with st := .run, pstop := true })] }
def gangWait : State := let s := world []; s.setCore 0 { s.core 0 with strm := [(0, { Strm.reset with st := .wait, wait := .gang })] }
def stopsAt (s : State) (x : Stream) : Bool := decide ((s.str 0 x).st ≠ .idle ∧ (s.str 0 x).st ≠ .halt ∧ (s.str 0 x).pstop = false)
theorem wit_preemption : ckptOwns owned 0 = true ∧ ckptOwns (world []) 0 = false ∧ ((busy []).core 0).busy = true ∧ coreSent (busy []) 0 = false ∧
    coreSent (busy [⟨1, 0, 0, 1, 0⟩]) 0 = true ∧ allStreams.all (fun x => !stopsAt stopped x) = true ∧ stopsAt (world []) .lcc = true ∧ stopWaits (world []) 0 = false ∧
    stopsAt gangWait .lcc = true ∧ stopWaits gangWait 0 = true ∧ ((world []).pair (pairOf 0)).lic ≠ .handover ∧ (stopped.core 0).strm.any (fun e => e.2.pstop) = true ∧
    (stopped.core 0).busy = false ∧ ((world []).seqOf 0 .me).run = none ∧ (atGate (.meClr recTile) .me id).powered = true ∧
    canRun (focus 0 .me (atGate (.meClr recTile) .me id)) = true ∧ holdsLic (atGate (.meClr recTile) .me id) 0 = true := by decide +kernel

/-- A drain that has ended: of a core with nothing in use, and of one with a message slot, a reservation and a record that awaits nothing. -/
def drained : State :=
  let s := busy []
  let s := setSlot 0 2 { Slot.reset with st := .announced, mods := [1] } (issuing (.veAdd blank) .ve s)
  s.setCluster 0 { s.cluster 0 with held := [⟨0, 3, 1, 0, 0⟩] }
theorem wit_stop_done : ((busy []).core 0).busy = true ∧ allEng.all (fun e => ((busy []).seqOf 0 e).run.isNone) = true ∧ ((busy []).core 0).slots = [] ∧
    ((busy []).cluster (clusterOf 0)).held = [] ∧ ((busy []).cluster (clusterOf 0)).wants = [] ∧ (busy []).msa = [] ∧
    (drained.core 0).busy = true ∧ coreSent drained 0 = false ∧ (allEng.all fun e => ((drained.seqOf 0 e).run).all fun u => !u.drains) = true ∧
    (drained.seqOf 0 .ve).run.isSome = true ∧ (slotOf drained 0 2).st = .announced ∧ (slotOf drained 0 2).susp = false ∧ drained.msa = [] := by decide +kernel
/-- A stopped core that held its licence, which is free again, held by the twin, or disabled. -/
def heldStop (l : Lic) (disable : Bool) : State :=
  let s := stopped.setCore 0 { stopped.core 0 with licHeld := true }
  s.setPair 0 { s.pair 0 with lic := l, who := 1, disable := disable }
theorem wit_resume : [(Lic.free, false), (.held, true), (.held, false)].all (fun x => let s := heldStop x.1 x.2
      (s.core 0).licHeld && (s.core 0).strm.any (fun e => e.2.pstop) && !(s.core 0).busy && (s.pair (pairOf 0)).lic != .disabled &&
      ((s.pair (pairOf 0)).lic != .free || !(s.pair (pairOf 0)).disable)) = true ∧ ((world []).core 0).licReq = false := by decide +kernel

/-- A stop while the licence drains from or changes over to core 0, whose `lic.rel` or `lic.acq` waits (R370). -/
def changing (l : Lic) : State :=
  let s := world []
  (s.setPair 0 { s.pair 0 with lic := l, who := 0 }).setCore 0 { s.core 0 with strm := [(0, { Strm.reset with st := .wait, wait := .licence (l == .handover), pc := 64 })] }
theorem wit_stop_licence : [Lic.releasing, .handover].all (fun l => stopsAt (changing l) .lcc && !stopWaits (changing l) 0 && ((changing l).core 0).busy == false &&
    ckptOwns (changing l) 0 == false && ((changing l).pair (pairOf 0)).who == levelOf 0 && ((changing l).pair (pairOf 0)).lic == l) = true := by decide +kernel
theorem test_stop_licence : ((stopCore 0 (changing .releasing)).str 0 .lcc).pc = 68 ∧ ((stopCore 0 (changing .releasing)).core 0).licHeld = false ∧
    ((stopCore 0 (changing .handover)).str 0 .lcc).pc = 68 ∧ ((stopCore 0 (changing .handover)).core 0).licHeld = true ∧
    ((stopCore 0 (changing .handover)).pair 0).lic = .free := by decide +kernel

/-! Other modules: accesses to pages that peers may reach. -/

def peers : State := { world [] with mem := tables.map (fun c => if c.1 = 512 then (512, 0xF3) else c), peerCtx := 0x8000050000000000 }
def access (va : Nat) : RemoteAcc := ⟨5, 9, 0, 6, va, 0x45, leBytes 8 77, false, 0, false, true, 6, 0, 4, none⟩
def frozenPeers : State := { peers with closing := [⟨5, 0, 2, 512, true, 0⟩] }
/-- A write of `n` elements lands: they pass their checks and the first performs. -/
def lands (m : RemoteAcc) (n : Nat) (s : State) : Bool :=
  ends (do
    let els ← writeChecks m
    match els with
    | (l, x) :: _ => landElem m.sender l x
    | [] => pure ()
    return els.length) s fun k _ => k == n
/-- The same access as a release; with two elements, and with none. -/
def sized (n : Nat) : RemoteAcc := { access 0x500000 with bytes := List.replicate n 77 }
theorem wit_remote_write : lands (access 0x500000) 1 peers = true ∧ lands (sized 16) 2 peers = true ∧ lands (sized 0) 0 peers = true ∧
    ends (performRelWrite { access 0x500000 with release := true }) peers = true ∧ ends (performAtomic (access 0x500000) 0 1 0) peers = true ∧
    (match ((writeChecks (access 0x500000)).go (world [])).1 with | .error (.trap _) => true | _ => false) = true ∧
    (match ((performRelWrite { access 0x500000 with release := true }).go (world [])).1 with | .error (.trap _) => true | _ => false) = true ∧
    (match ((performAtomic (access 0x500000) 0 1 0).go (world [])).1 with | .error (.trap _) => true | _ => false) = true ∧
    (match ((writeChecks (access 0x500000)).go frozenPeers).1 with | .error (.wait _) => true | _ => false) = true ∧
    (match ((performRelWrite { access 0x500000 with release := true }).go frozenPeers).1 with | .error (.wait _) => true | _ => false) = true ∧
    (match ((performAtomic (access 0x500000) 0 1 0).go frozenPeers).1 with | .error (.wait _) => true | _ => false) = true ∧
    repMode peers = 0 ∧ peers.held = [] ∧ (access 0).space ≠ 8 := by decide +kernel
/-- A channel of an enabled stage, whose CREDIT word is the first of entry 8. -/
def channelled : State :=
  { peers with
    stages := [(0, { Stage.reset with w := [(0, 1), (1, 1), (3, 0x8000000000040000), (4, 0x50000000000)] })]
    chans := [(3, { Chan.reset with w0 := 3, w1 := 8 })] }
theorem wit_credit : ends (addCredit 3 5) { channelled with mbsHeld := [.credit 3 5 9] } = true ∧ channelled.mbsHeld = [] ∧ ({ access 3 with space := 8 }).va % 32 = 3 := by
  decide +kernel
/-- Accesses under way for 100 us, and for less. -/
def sentAt (time : Nat) : State := { world [] with sent := [⟨9, 0, 0, 5, 0⟩], time := time }
theorem wit_orphan : (∃ r ∈ (sentAt 100000).sent, r.id = 9 ∧ r.since + 100000 ≤ (sentAt 100000).time) ∧ (∀ r ∈ (sentAt 99999).sent, r.id = 9 → (sentAt 99999).time < r.since + 100000) ∧
    (world []).dbgWait = none := by decide +kernel
def asks : State := (sentAt 0).setCtlOf 0 .lcc { (sentAt 0).ctlOf 0 .lcc with ans := .asked ⟨9, 0, true, Spot.none⟩ [] }
theorem wit_answer : asks.sent.find? (fun r => r.id == 9) = some ⟨9, 0, 0, 5, 0⟩ ∧ isCtl (streamOf 0) = true ∧ (asks.ctlOf 0 .lcc).ans = .asked ⟨9, 0, true, Spot.none⟩ [] := by decide +kernel

/-- A sender's slot that is live, suspended, and free. -/
def slotted (st : SlotSt) (susp : Bool) : State := setSlot 0 0 { Slot.reset with st := st, susp := susp, mods := [5], epoch := 1, resend := [(5, 0)] } (world [])
def slotIs (s : State) : Bool := slotLive (slotOf s 0 0) (slotOf s 0 0).epoch && !(slotOf s 0 0).susp
theorem wit_slots : slotIs (slotted .announced false) = true ∧ slotIs (slotted .sending true) = false ∧ slotIs (slotted .free false) = false ∧
    slotLive (slotOf (slotted .sending false) 0 0) 1 = true ∧ slotLive (slotOf (slotted .sending false) 0 0) 2 = false ∧
    (slotOf (slotted .sending false) 0 0).mods.contains 5 = true ∧ (slotOf (slotted .sending false) 0 0).mods.contains 6 = false := by decide +kernel

/-- An intent of one chunk: not granted, granted and outstanding, given up. -/
def mid : MsgId := ⟨5, 0, 0, 1⟩
def intent0 : Intent := ⟨mid, 8, 0, none, [0], [], false, 0, [], 0, false, none⟩
def heard (x : Intent) (time : Nat) : State := { peers with intents := [x], maxTok := 1, time := time }
theorem wit_intents : (intentAt (heard intent0 0) mid).isSome = true ∧ intentAt peers mid = none ∧ peers.intents.length < 8192 ∧
    8192 ≤ { peers with intents := List.replicate 8192 { intent0 with id := ⟨6, 0, 0, 1⟩ } }.intents.length ∧
    outst (heard intent0 0) = 0 ∧ nextGrant (heard intent0 0) = some intent0 ∧ nextGrant peers = none ∧
    (heard { intent0 with tokens := [(0, 20000)] } 30000).maxTok ≤ outst (heard { intent0 with tokens := [(0, 20000)] } 30000) ∧
    ([(0, 20000)].any fun t : Nat × Nat => t.1 == 0 && !([] : List Nat).contains 0 && decide (t.2 + 10000 ≤ 30000)) = true ∧
    ([(0, 20000)].any fun t : Nat × Nat => t.1 == 0 && decide (29999 < t.2 + 10000)) = true ∧
    -- a second token beside one outstanding
    outst { heard { intent0 with wanted := [1], tokens := [(0, 20000)] } 0 with maxTok := 2 } < 2 ∧
    nextGrant { heard { intent0 with wanted := [1], tokens := [(0, 20000)] } 0 with maxTok := 2 } = some { intent0 with wanted := [1], tokens := [(0, 20000)] } ∧
    ({ intent0 with lost := 8 }.susp = false ∧ 8 ≤ { intent0 with lost := 8 }.lost) ∧ ({ intent0 with tokens := [(0, 20000)] }.last + 100000 ≤ 100000) := by decide +kernel
/-- The chunk of an intent whose token still counts: its last byte, a run of a collective's chunk, and no intent at all. -/
def granted : State := heard { intent0 with tokens := [(0, 20000)] } 29999
theorem wit_chunk : repMode granted = 0 ∧ granted.held = [] ∧ headerOk mid 0 granted = true ∧ headerOk mid 1 granted = false ∧ headerOk mid 0 peers = false ∧
    headerOk mid 0 { granted with time := 30000 } = false ∧ headerOk mid 0 { peers with begun := [(mid, 0)] } = true ∧
    lands (access 0x500000) 1 (noteHeader mid 0 true granted) = true ∧ collSending (noteHeader mid 0 true granted) 7 = false ∧ (noteHeader mid 0 true granted).collIn = [] ∧
    ends (whole (collLocs (access 0x500000))) (noteHeader mid 0 true granted) = true ∧
    ends (collApply ⟨true, 0, 7, 1, false⟩ [((noteHeader mid 0 true granted).peerCtx, access 0x500000)]) (noteHeader mid 0 true granted) = true ∧
    (¬∀ h ∈ { granted with held := [(0, .write (access 0))] }.held, h.2.sender ≠ mid.sender) := by decide +kernel

/-! The barrier tree, the ring vote and the links. -/

/-- A group of stage level whose one member has arrived; a node below the root and the root. -/
def tree (cfg : Nat) (sentUp : Bool) (arr : List Nat) : State :=
  let s := world []
  { s with fbt := [(0, ⟨BitVec.ofNat 64 cfg, arr⟩)] }.setGroup 0 { s.group 0 with cfg := 73733, mask := [(0, 1)], count := 1, sentUp := sentUp }
theorem wit_tree : (let b := (tree 0x4400 false []).group 0; gEnable b = true ∧ b.count = gMembers b ∧ 5 ≤ gLevel b) ∧
    (fbtV (fbtOf (tree 0x4400 false []) 0) = true ∧ fbtRoot (fbtOf (tree 0x4400 false []) 0) = true ∧ fbtRoot (fbtOf (tree 0x4000 true []) 0) = false ∧
      fbtChildren (fbtOf (tree 0x4400 false []) 0) ≤ 0 ∧ ¬fbtChildren (fbtOf (tree 0x5400 false []) 0) ≤ 1) ∧
    ((tree 0x4000 true []).group 0).sentUp = true ∧ ((tree 0x4000 false []).group 0).sentUp = false ∧ ¬((world []).group 0).count = 1 := by decide +kernel

def ringWord : Nat := 3 * 2 ^ 8 + 2 ^ 16 + 3 * 2 ^ 26 + 3 * 2 ^ 36 + 2 ^ 52
/-- A ring of 4 modules at position 0 and 1, with a vote under way at its time-outs. -/
def ring (x : Nat) (voting : Option (Nat × Nat × Nat × Nat)) (time : Nat) : State := { world [] with fabRing := BitVec.ofNat 64 x, voting := voting, time := time }
theorem wit_ring : ringV (world []) = false ∧ ringV (ring ringWord none 0) = true ∧ ringPos (ring ringWord none 0) = 0 ∧ ringPos (ring (ringWord + 1) none 0) = 1 ∧
    ringTmo (ring ringWord none 0) = 3 ∧ (world []).voting = none ∧ 0 + ringTmo (ring ringWord none 0) * 1000 ≤ 3000 ∧ 0 + 2 * ringTmo (ring ringWord none 0) * 1000 ≤ 6000 ∧
    (ring ringWord (some (0, 0, 9, 0)) 3000).voting = some (0, 0, 9, 0) := by decide +kernel

/-- Links: trained and not, lanes weak and not, a swap proposed and agreed. -/
def linked (f : Link → Link) : State := setLink 0 (f (linkOf (world []) 0)) { world [] with lnkCtl := BitVec.ofNat 64 (10 + 5 * 2 ^ 32 + 2 ^ 40) }
theorem wit_links : (linkOf (linked fun k => { k with replays := 15 }) 0).replays + 1 = 16 ∧ (linkOf (linked id) 0).st = 0 ∧ (linkOf (linked id) 0).retrain = 0 ∧
    (linkOf (linked fun k => { k with st := 3 }) 0).st ≠ 0 ∧ (laneOf (linkOf (linked id) 0) 0).bad = 0 ∧ (laneOf (linkOf (linked id) 0) 0).weak = false ∧
    (laneOf (linkOf (linked fun k => { k with lanes := [(0, ⟨true, 1, 0, 0⟩)] }) 0) 0).weak = true ∧ (linkOf (linked id) 0).spared = 0xF ∧
    (linkOf (linked fun k => { k with st := 3, spared := 2 }) 0).spared ≠ 0xF ∧ bitAt (linked id).lnkCtl.toNat 40 = true ∧
    (bitsAt (linked id).lnkCtl.toNat 0 32 < 11 ∧ ¬bitsAt (linked id).lnkCtl.toNat 0 32 < 10 ∧ 4 < bitsAt (linked id).lnkCtl.toNat 32 8 ∧ ¬5 < bitsAt (linked id).lnkCtl.toNat 32 8) ∧
    (linkOf (linked fun k => { k with propose := some (0, 0) }) 0).propose.map (·.1) = some 0 ∧ (linkOf (linked id) 0).propose = none ∧
    (linkOf (linked fun k => { k with swapAt := some (0, 0) }) 0).swapAt = some (0, 0) ∧ (linkOf (linked id) 0).swapAt = none := by decide +kernel

/-- Enough good lanes for a first training, and too few; a link that trains again, and one that is up. -/
theorem wit_trainings : 8 ≤ Nat.min 9 (goodLanes (linkOf (linked id) 0)) ∧
    Nat.min 9 (goodLanes (linkOf (linked fun k => { k with lanes := [(0, ⟨true, 2, 0, 0⟩), (1, ⟨true, 2, 0, 0⟩)] }) 0)) < 8 ∧
    (linkOf (linked fun k => { k with st := 1 }) 0).st = 1 ∧ (linkOf (linked fun k => { k with st := 3 }) 0).st ≠ 1 ∧
    (linkOf (linked fun k => { k with st := 3, spared := 2 }) 0).st = 3 := by decide +kernel

/-! The host port, power and temperature. -/

/-- The host link up in PCI Express mode and in CXL 2.0, a window over the first pages of context 5. -/
def hosted (f : State → State) : State :=
  f { world [] with hostLink := 1, hwinBase := 0x400000, hwinCtl := 0x1000, hwinRoot := 0x8000050000000000 }
theorem wit_host : hostUp (world []) = false ∧ hostUp (hosted id) = true ∧ inBar2 0 8 = true ∧ inBar2 (2 ^ 36 - 8) 8 = true ∧ inBar2 (2 ^ 36 - 7) 8 = false ∧
    inHdm (hosted fun s => { s with hostLink := 0x201 }) (2 ^ 40 - 1) 1 = true ∧ inHdm (hosted id) 0 1 = false ∧ repMode (hosted id) = 0 ∧ (hosted id).hostHeld = [] ∧
    hwinEn (hosted id) = true ∧ hwinEn (hosted fun s => { s with hwinCtl := 0 }) = false ∧ (hosted fun s => { s with hostHeld := [.read 0 1] }).hostHeld ≠ [] := by decide +kernel
theorem wit_host_access : ends (hostWrite 0 [1] false) (hosted id) = true ∧ ends (hostRead 0 1) (hosted id) = true ∧ ends (hostAtomic 0 .fetchAdd true 1 0) (hosted id) = true ∧
    [hostWrite 0 [1] false, hostRead 0 1, hostAtomic 0 .swap true 1 0].all (fun m =>
      match (m.go (hosted fun s => { s with ckptStat := 1 })).1 with | .error (.wait _) => true | _ => false) = true := by decide +kernel
/-- Registers that the host names: one unassigned, one taken, one refused; a short write. -/
theorem wit_host_registers : regOf 0xFFF = none ∧ (match regOf 0x188 with
    | some _ => (match writeReg 0 .lcc 0x188 0 (hosted id) with | .ok _ => true | .error _ => false) | none => false) = true ∧
    (match regOf 0x106 with | some _ => (match writeReg 0 .lcc 0x106 (2 ^ 11) (hosted id) with | .ok _ => false | .error _ => true) | none => false) = true := by
  decide +kernel
/-- A host access that meets an uncorrectable error. -/
theorem wit_host_marked : (match ((hostRead 0 1).go (hosted fun s => { s with marks := [(5, 0x400000 / 32)] })).1 with | .error (.trap _) => true | _ => false) = true := by
  decide +kernel
/-- Accesses of a control core, an engine, a command processor and the scheduler that have awaited the host for 10 ms, and for less. -/
def hostSpot : Spot := ⟨hostBase, 5, 64⟩
def hostAsks : Answer := .asked ⟨9, 0, true, hostSpot⟩ []
def hostWait (time : Nat) : State :=
  let s := issuingAs (fun u => { u with ans := hostAsks }) (.veAdd blank) .ve { world [] with mbsAns := hostAsks }
  let s := { setQ 0 0 { Cpq.reset with ans := hostAsks } s with time := time }
  s.setCtlOf 0 .lcc { s.ctlOf 0 .lcc with ans := hostAsks }
theorem wit_host_answers : ([(HostAsker.core 0, Stream.lcc), (.core 0, .ve), (.cp 0 0, .lcc), (.mbs, .lcc)].all fun k =>
      askOldest k.1 k.2 (hostWait 10000000) == some (9, 0)) = true ∧ 0 + 10000000 ≤ (hostWait 10000000).time ∧ (hostWait 9999999).time < 0 + 10000000 ∧
    askOldest (.core 0) .lcc (world []) = none ∧ ((hostWait 0).ctlOf 0 (streamLeader .lcc)).ans = hostAsks ∧ (getQ (hostWait 0) 0 0).ans = hostAsks ∧
    (hostWait 0).mbsAns = hostAsks ∧ hostSpot ≠ Spot.none := by decide +kernel

def clocked (busy : Bool) (req : Nat) : State := (world []).setDie 0 { (world []).die 0 with busy := busy, req := req, lim := 12, tgt := 5 }
theorem wit_power : ((clocked false 5).die 0).busy = false ∧ (((clocked true 5).die 0).busy = true ∧ Nat.min ((clocked true 5).die 0).req ((clocked true 5).die 0).lim = 5) ∧
    Nat.min ((clocked true 12).die 0).req ((clocked true 12).die 0).lim ≠ 5 ∧
    (([(1023, 0)] : List (Nat × Nat)).take 64).any (fun x => decide (sensor Config.tjMax ≤ x.1 % 1024)) = true ∧
    (([(0, 1023)] : List (Nat × Nat)).take 64).any (fun x => decide (sensor Config.tjMax ≤ x.2 % 1024)) = true ∧ ([(0, 1)] : List (Nat × Nat))[0]? = some (0, 1) := by decide +kernel

/-! Checkpoint, restore and increments. -/
def ck (f : State → State) : State := f { world [] with keys := [(0, 7)] }
def idle (f : State → State) : State := f { State.reset with keys := [(0, 7)] }
theorem wit_checkpoint_start : (ck id).me.priv = true ∧ ckPhase (ck fun s => { s with ckptStat := 1 }) ≠ 0 ∧ ckPhase (ck id) = 0 ∧ (ck id).repBusy = false ∧
    (ck fun s => { s with repBusy := true }).repBusy = true ∧ ckDrained (ck id) = false ∧ ckDrained (ck fun s => { s with ckptCtl := 4 }) = true ∧
    (find (world []).keys (ckKey (world []))).isNone = true ∧ (find (ck id).keys (ckKey (ck id))).isNone = false := by decide +kernel
theorem wit_restore : allIdle (ck id) = false ∧ allIdle (idle id) = true ∧ repMode (idle id) ≠ 2 ∧ (idle id).me.priv = true ∧ (idle id).ckptImg = none ∧
    (idle fun s => { s with ckptImg := some (capture [] [] s), ckptStat := 0x40 }).ckptImg.isSome = true ∧ ckValid (idle fun s => { s with ckptStat := 0x40 }) = true ∧
    ckValid (idle id) = false ∧ imageDamaged (idle id) 2 = false ∧ imageDamaged (idle fun s => { s with marks := [(6, (2 ^ 41 + 32) / 32)] }) 0 = true ∧
    imageDamaged (idle fun s => { s with marks := [(6, (2 ^ 41 + 2 ^ 16) / 32)] }) 2 = true ∧ imageDamaged (idle fun s => { s with marks := [(6, (2 ^ 41 + 2 ^ 17) / 32)] }) 2 = false ∧
    -- a digest that differs
    digestOk (idle fun s => { s with crypt := [(imageBase / 64, 7, 0)], mem := [(imageBase + 40, 1)] }) 7 0 = false := by decide +kernel
/-- A phase of quiesce: over with every core idle, not with one that stops. -/
theorem wit_quiesce : ckPhase (idle fun s => { s with ckptStat := 1 }) = 1 ∧ quiesced (idle fun s => { s with ckptStat := 1 }) = true ∧ quiesced (ck id) = false ∧
    imageFixed + (markedFrames (idle id).ckptMap.toNat (mapCells (cleanTowers (idle id)))).length ≤ 2 ^ 24 ∧
    ckPhase (idle fun s => { s with ckptStat := 2 }) = 2 ∧ imageMarked [] (idle fun s => { s with marks := [(3, 0)] }) = true ∧ imageMarked [] (idle id) = false := by decide +kernel
theorem marked_all (n : Nat) : (markedFrames 0 (List.replicate n ((0, 0xFF) : Host.Cell))).length = 8 * n := by
  induction n with
  | zero => rfl
  | succ n ih =>
    rw [List.replicate_succ, markedFrames, List.flatMap_cons, List.length_append]
    have h : (List.map (fun b => 8 * (((0, 0xFF) : Host.Cell).1 - 0) + b) (List.filter (fun b => bitAt ((0, 0xFF) : Host.Cell).2.toNat b) (List.range 8))).length = 8 := by decide
    rw [h]
    rw [markedFrames] at ih
    omega
/-- A frame map with more frames than the region holds. -/
def overfull : State := { State.reset with mem := List.replicate 2100000 (0, 0xFF), ckptStat := 1 }
theorem wit_overfull : 2 ^ 24 < imageFixed + (markedFrames overfull.ckptMap.toNat (mapCells overfull)).length := by
  have h : mapCells overfull = List.replicate 2100000 (0, 0xFF) := List.filter_eq_self.mpr fun c hc => by
    rw [List.eq_of_mem_replicate hc]; decide
  rw [h, show overfull.ckptMap.toNat = 0 from rfl, marked_all]
  decide
theorem wit_increment : repMode (idle fun s => { s with replay := 5 }) = 1 ∧ 0 + bitsAt (5 : Word).toNat 2 10 * 1000000 ≤ 1000000 ∧ repMode (idle id) ≠ 1 ∧
    (idle fun s => { s with repBusy := true }).repBusy = true ∧ quiesced (idle fun s => { s with repBusy := true }) = true := by decide +kernel

/-! Time and the debug master. -/
def debugged (f : State → State) : State := f { world [] with dbgCtl := 1 + 5 * 2 + 2 ^ 11 }
theorem wit_debug : atJob.me.priv = false ∧ (world []).me.priv = true ∧ (debugged fun s => { s with dbgBusy := true }).dbgBusy = true ∧ (debugged id).dbgBusy = false ∧
    bitAt (world []).dbgCtl.toNat 0 = false ∧ bitAt (debugged id).dbgCtl.toNat 0 = true ∧ (bitAt (debugged id).dbgCtl.toNat 11 = true ∧ bitsAt (debugged id).dbgCtl.toNat 1 10 = 5) ∧
    ¬bitAt (world []).dbgCtl.toNat 11 = true ∧ 0 < Config.devBytes ∧ (world []).haltAt = none ∧ (debugged fun s => { s with haltAt := some 7, time := 7 }).time = 7 ∧
    ((world []).core 0).haltSc = none ∧ (world []).dbgWait = none ∧ (debugged fun s => { s with dbgWait := some (9, 0), time := 100000 }).dbgWait = some (9, 0) := by decide +kernel
theorem wit_time : tsMaster 3 = true ∧ tsMaster 1 = false ∧ tsFollower 1 = true ∧ tsFollower 3 = false ∧ ((1000000 : Int) < 1000001 - 0) ∧ ((1000000 : Int) - 0 ≤ 1000000) := by
  decide +kernel

/-- A read of a number that names a register and of one that names none; of a unit with an error and without; a read beyond the end of memory. -/
theorem wit_debug_reads : regOf 0xFFF = none ∧ (match regOf 0x104 with | some _ => (readReg 0 .lcc 0x104 (world [])).isOk | none => false) = true ∧
    (unitOf 64).any ({ world [] with marks := [(5, 2)] }).marks.contains = true ∧ (unitOf 64).any (world []).marks.contains = false ∧
    (64 : Nat) % 8 = 0 ∧ 64 < Config.devBytes ∧ ((world []).core 0).scyc.toNat < 1 ∧ 0 ≤ ((world []).core 0).scyc.toNat := by decide +kernel
/-- The largest and least differences of a time message, and a module with children in the tree of bg0. -/
theorem wit_time_tree : treeChildren (world []) = false ∧ treeChildren { world [] with fbt := [(0, ⟨BitVec.ofNat 64 0x4800, []⟩)] } = true := by decide +kernel

/-! An image whose digest agrees. -/

def digested : State := idle fun s => { s with ckptImg := some (capture [] [] s), ckptStat := 0x40, crypt := [(imageBase / 64, 7, 0)] }
theorem wit_digest : imageDamaged digested 0 = false ∧ bitsAt digested.ckptStat.toNat 7 25 = 0 ∧ digestOk digested (look 0 digested.keys (ckKey digested)) 0 = true ∧
    ckPhase digested = 0 ∧ digested.repBusy = false ∧ allIdle digested = true ∧ repMode digested ≠ 2 ∧ digested.ckptImg.isSome = true ∧ ckValid digested = true := by
  decide +kernel

/-! ## Witnesses: frames, the codec, every step -/

theorem wit_frame : (registerForm (.add g0 1 2 3)).isSome = true ∧ isCtl (world []).cur.2 = true ∧ (world []).myStr.wait = .none ∧
    (match exec (.add g0 1 2 3) (world []) with | .next _ => true | _ => false) = true := by decide +kernel
theorem wit_codec : (Instr.add g0 63 63 63).wf = true ∧ encode (.add g0 63 63 63) ≠ [] ∧ (Instr.veAdd rec64).wf = true ∧ encode (.veAdd rec64) ≠ [] ∧
    decodeControl 0x00051665 0 = some (.div g0 10 11 12) := by decide +kernel
/-- A state with canonical memory that steps. -/
def ready : State := State.reset.withFetchWord 32 (nth 0 (encode (.addi g0 1 0 (BitVec.ofInt 9 (-1)))) 0)
theorem wit_inv : Memory.wf ready.mem = true ∧ (match step ready with | .next _ => true | _ => false) = true := by decide +kernel

/-! ## Single steps: the spec's worked examples, and corners worked by hand -/

/-- The value of an integer register after one instruction at supervisor level. -/
def after (i : Instr) (rs : List (Nat × Word)) (n : SReg) : Option Word :=
  match exec i { State.reset with cores := [(0, { Core.reset with lcc := { Ctl.reset with s := rs }, strm := [(0, { Strm.reset with st := .run })] })] } with
  | .next t => some (t.rdS n)
  | _ => none

/-- R194's examples. -/
theorem test_div : after (.div g0 1 11 12) [(11, -7), (12, 2)] 1 = some (-3) ∧ after (.div g0 1 11 12) [(11, -7)] 1 = some 0xFFFFFFFFFFFFFFFF := by decide +kernel
theorem test_rem : after (.rem g0 1 11 12) [(11, -7), (12, 2)] 1 = some (-1) ∧ after (.rem g0 1 11 12) [(11, -7)] 1 = some (-7) := by decide +kernel
theorem test_divu : after (.divu g0 1 11 12) [(11, 0xFFFFFFFFFFFFFFF9), (12, 2)] 1 = some 0x7FFFFFFFFFFFFFFC := by decide +kernel
theorem test_remu : after (.remu g0 1 11 12) [(11, 0xFFFFFFFFFFFFFFF9), (12, 2)] 1 = some 1 := by decide +kernel
theorem test_div_overflow : after (.div g0 1 11 12) [(11, 0x8000000000000000), (12, -1)] 1 = some 0x8000000000000000 := by decide +kernel
/-- R193: the high half of products of negative and of great numbers; a shift count's low six bits only. -/
theorem test_mulh : after (.mulh g0 1 2 3) [(2, -1), (3, 5)] 1 = some (-1) ∧ after (.mulhu g0 1 2 3) [(2, -1), (3, 5)] 1 = some 4 := by decide +kernel
theorem test_shift : after (.sra g0 1 2 3) [(2, -16), (3, 66)] 1 = some (-4) ∧ after (.srl g0 1 2 3) [(2, -16), (3, 60)] 1 = some 15 := by decide +kernel
theorem test_rol : after (.rol g0 1 2 3) [(2, 0x8000000000000001), (3, 1)] 1 = some 3 := by decide +kernel
/-- R195: zero has 64 leading zeros; bytes reverse. -/
theorem test_clz : after (.clz g0 1 2) [(2, 0)] 1 = some 64 ∧ after (.clz g0 1 2) [(2, 1)] 1 = some 63 := by decide +kernel
theorem test_bswap : after (.bswap g0 1 2) [(2, 0x0102030405060708)] 1 = some 0x0807060504030201 := by decide +kernel
/-- R196, R197: `andi #-16` clears the low four bits; `li` extends its sign and `lih` replaces the upper half. -/
theorem test_andi : after (.andi g0 1 2 (BitVec.ofInt 9 (-16))) [(2, 0xFF)] 1 = some 0xF0 := by decide +kernel
theorem test_li : after (.li g0 5 0x80000000) [] 5 = some 0xFFFFFFFF80000000 ∧ after (.lih g0 5 5 0) [(5, 0xFFFFFFFF80000000)] 5 = some 0x80000000 := by decide +kernel
/-- R169: s0 stays 0. -/
theorem test_zero : after (.addi g0 0 0 7) [] 0 = some 0 := by decide +kernel

/-- One step of the machine after reset runs the instruction ready where it fetches: `addi s1, s0, #-1`, then it stands behind it. -/
theorem test_step : (match step ready with
    | .next t => decide (t.rdS 1 = -1 ∧ t.pc = 4)
    | _ => false) = true := by decide +kernel

/-- R378: an instruction that reads a register with an uncorrectable error takes UNCORRECTABLE; its destination keeps its value. -/
theorem test_upset : (match step ((State.reset.withFetchWord 32 (nth 0 (encode (.add g0 1 2 3)) 0)).setMe
      { (upsetAt (.reg 0 .lcc (.s 3)) State.reset).me with inh := false, tvec := 0x200 }) with
    | .next t => decide (t.pc = 0x200 ∧ t.me.tcause.toNat = 0x0D ∧ t.rdS 1 = 0)
    | _ => false) = true := by decide +kernel

/-- The example of FIPS 197 for a key of 256 bits, both ways. -/
theorem test_aes :
    let ks := roundKeys (leNat ((List.range 32).map (BitVec.ofNat 8)))
    let x := (List.range 16).map (17 * ·)
    let y := [0x8e, 0xa2, 0xb7, 0xca, 0x51, 0x67, 0x45, 0xbf, 0xea, 0xfc, 0x49, 0x90, 0x4b, 0x49, 0x60, 0x89]
    aesEnc ks x = y ∧ aesDec ks y = x := by decide +kernel
/-- The start of IEEE 1619's vector 10: two keys of 256 bits, data unit 0xFF, bytes 0, 1, 2, …; and back. -/
theorem test_xts :
    let key := leNat ([0x27, 0x18, 0x28, 0x18, 0x28, 0x45, 0x90, 0x45, 0x23, 0x53, 0x60, 0x28, 0x74, 0x71, 0x35, 0x26, 0x62, 0x49, 0x77, 0x57, 0x24, 0x70, 0x93, 0x69,
      0x99, 0x59, 0x57, 0x49, 0x66, 0x96, 0x76, 0x27, 0x31, 0x41, 0x59, 0x26, 0x53, 0x58, 0x97, 0x93, 0x23, 0x84, 0x62, 0x64, 0x33, 0x83, 0x27, 0x95, 0x02, 0x88,
      0x41, 0x97, 0x16, 0x93, 0x99, 0x37, 0x51, 0x05, 0x82, 0x09, 0x74, 0x94, 0x45, 0x92] : List Byte)
    let c := xtsLine false key 0xFF ((List.range 64).map (BitVec.ofNat 8))
    c.take 32 = ([0x1c, 0x3b, 0x3a, 0x10, 0x2f, 0x77, 0x03, 0x86, 0xe4, 0x83, 0x6c, 0x99, 0xe3, 0x70, 0xcf, 0x9b, 0xea, 0x00, 0x80, 0x3f, 0x5e, 0x48, 0x23, 0x57,
      0xa4, 0xae, 0x12, 0xd4, 0x14, 0xa3, 0xe6, 0x3b] : List Byte) ∧ xtsLine true key 0xFF c = (List.range 64).map (BitVec.ofNat 8) := by decide +kernel
end Sys2Proof.Tests
end

section
/-! SUPPORT. Checked effects inverted, the frame of an instruction that completes, and accesses in scratchpad and weight memory (R5, R35, R120,
R216, R217); with them the plain loads and stores of these memories. -/
namespace Sys2Proof.Machine

/-! ## Effects, inverted -/

/-- A sequence of two effects that ends was the first ending and then the second. -/
theorem go_bind_eq_ok {α β : Type} {m : M α} {f : α → M β} {s t : State} {b : β} (h : (m >>= f).go s = (.ok b, t)) :
    ∃ a u, m.go s = (.ok a, u) ∧ (f a).go u = (.ok b, t) := by
  rw [go_bind] at h
  cases hm : m.go s with
  | mk r u =>
    rw [hm] at h
    cases r with
    | ok a => exact ⟨a, u, rfl, h⟩
    | error x => cases h

/-- A lifted check that ends leaves the state and was an answer. -/
theorem go_liftC_eq_ok {α : Type} {c : Chk α} {s t : State} {a : α} (h : (liftC c).go s = (.ok a, t)) : c = .ok a ∧ t = s := by
  cases c with
  | ok b => cases h; exact ⟨rfl, rfl⟩
  | error x => cases h

/-- A condition checked on the way leaves the state. -/
theorem go_needM_eq_ok {b : Bool} {c : Cause} {n : Nat} {s t : State} {u : Unit} (h : (needM b c n).go s = (.ok u, t)) : b = true ∧ t = s := by
  cases b with
  | true => cases h; exact ⟨rfl, rfl⟩
  | false => cases h

/-- An effect behind a condition under which it would wait: it ended, so it did not wait. -/
theorem go_unless_waitM_eq_ok {α β : Type} {c : Prop} [Decidable c] {w : Wait} {f : β → M α} {m : M α} {s t : State} {a : α}
    (h : (if c then waitM w >>= f else m).go s = (.ok a, t)) : m.go s = (.ok a, t) := by
  split at h
  · rw [go_bind_error (go_waitM w s)] at h
    cases h
  · exact h

/-! ## The frame of a completed instruction (R155, R173, R432) -/

/-- A trace event changes the trace's buffer only. -/
theorem note_eq (src kind n : Nat) (s : State) : ∃ q, s.note src kind n = { s with trcQ := q } := by
  unfold State.note
  split
  · exact ⟨_, rfl⟩
  · exact ⟨s.trcQ, rfl⟩

/-- A wait that ends by itself leaves a trace event at most. -/
theorem endWait_completed_eq (c : Nat) (x : Stream) (s : State) : ∃ q, endWait c x false s = { s with trcQ := q } := by
  simp only [endWait, Bool.false_eq_true, if_false]
  split
  · exact ⟨s.trcQ, rfl⟩
  · split
    · exact note_eq _ _ _ s
    · exact ⟨s.trcQ, rfl⟩

/-- A forgotten answer changes no register of the control core. -/
theorem dropAns_me (s : State) : (dropAns s).me = { s.me with ans := .none } := by
  unfold dropAns
  split
  · next h => rw [← h]
  · exact me_setMe _ _

@[simp] theorem dropAns_mem (s : State) : (dropAns s).mem = s.mem := by unfold dropAns; split <;> rfl

@[simp] theorem resumeAt_mem (n : Nat) (s : State) : (resumeAt n s).mem = s.mem := by
  obtain ⟨q, hq⟩ := endWait_completed_eq s.cc s.cur.2 s
  simp [resumeAt, hq]

@[simp] theorem resumeAt_pc (n : Nat) (s : State) : (resumeAt n s).pc = n := by simp [resumeAt, State.pc]

theorem resumeAt_me (n : Nat) (s : State) : (resumeAt n s).me = { s.me with ans := .none } := by
  obtain ⟨q, hq⟩ := endWait_completed_eq s.cc s.cur.2 s
  simp only [resumeAt, me_setMyStr, dropAns_me, hq]
  rfl

@[simp] theorem resumeAt_rdS (n : Nat) (s : State) (r : SReg) : (resumeAt n s).rdS r = s.rdS r := by simp only [State.rdS, resumeAt_me]; rfl
@[simp] theorem resumeAt_rdP (n : Nat) (s : State) (r : PReg) : (resumeAt n s).rdP r = s.rdP r := by simp only [State.rdP, resumeAt_me]; rfl
@[simp] theorem resumeAt_rdH (n : Nat) (s : State) (r : HReg) : (resumeAt n s).rdH r = s.rdH r := by simp only [State.rdH, resumeAt_me]; rfl
@[simp] theorem wrS_rdP (s : State) (d : SReg) (v : Word) (r : PReg) : (s.wrS d v).rdP r = s.rdP r := by simp [State.wrS, State.rdP]
@[simp] theorem wrS_rdH (s : State) (d : SReg) (v : Word) (r : HReg) : (s.wrS d v).rdH r = s.rdH r := by simp [State.wrS, State.rdH]

/-! ## The location of an operand in scratchpad or weight memory (R35) -/

/-- The control cores are streams 0 and 1 (R103). -/
theorem streamNo_lt_two {x : Stream} (h : isCtl x = true) : streamNo x < 2 := by
  revert h
  cases x <;> decide

/-- A control core's agent number names its own stream, for which no result of an engine is in flight. -/
theorem who_agent_lt_two (s : State) (h : isCtl s.cur.2 = true) : s.who.agent % 8 < 2 := by
  have hn := streamNo_lt_two h
  show (s.cc * 8 + streamNo s.cur.2) % 8 < 2
  omega

/-- The step past dumped results answers the location that it was given; for a control core it changes nothing (R126, R372). -/
theorem pastDump_ok {w : Who} {l l' : Loc} {s t : State} (h : (pastDump w l).go s = (.ok l', t)) :
    l' = l ∧ (w.agent % 8 < 2 → t = s) := by
  unfold pastDump at h
  split at h
  · next c hc =>
    rw [go_get_bind] at h
    have h := go_unless_waitM_eq_ok h
    rw [go_get_bind] at h
    split at h
    · next hf =>
      cases h
      refine ⟨rfl, fun hw => ?_⟩
      simp only [flyingTo, Bool.and_eq_true, decide_eq_true_eq] at hf
      omega
    · cases h
      exact ⟨rfl, fun _ => rfl⟩
  · cases h
    exact ⟨rfl, fun _ => rfl⟩

/-- Steps 10 to 12 of R35 answer a location at the place they were given. -/
theorem resolve_place {w : Who} {p : Place} {a : Acc} {s t : State} {l : Loc} (h : (resolve w p a).go s = (.ok l, t)) : l.p = p := by
  unfold resolve at h
  rw [go_get_bind] at h
  simp only at h
  split at h
  · rw [(pastDump_ok h).1]
  · split at h
    · rw [(pastDump_ok h).1]
    · split at h
      · rw [(pastDump_ok h).1]
      · have h := go_unless_waitM_eq_ok h
        split at h
        · cases h
        · rw [go_set_bind] at h
          obtain ⟨_, u, -, h⟩ := go_bind_eq_ok h
          obtain ⟨_, v, -, h⟩ := go_bind_eq_ok h
          rw [(pastDump_ok (go_unless_waitM_eq_ok h)).1]

/-- In scratchpad and weight memory they change nothing for a control core. -/
theorem resolve_sram {w : Who} {p : Place} {a : Acc} {s t : State} {l : Loc} (h : (resolve w p a).go s = (.ok l, t)) (hp : p.space ≤ 1)
    (hw : w.agent % 8 < 2) : t = s := by
  unfold resolve at h
  rw [go_get_bind] at h
  simp only at h
  split at h
  · exact (pastDump_ok h).2 hw
  · rw [if_pos (by omega)] at h
    exact (pastDump_ok h).2 hw

/-- The location of a control core's operand in scratchpad or weight memory: only the tower's layout cache changes (R21). -/
theorem myLoc_sram {s s1 : State} {m : MOp} {a : Acc} {okTag : Nat → Bool} {l : Loc} (hc : isCtl s.cur.2 = true)
    (h : (myLoc s m a okTag).go s = (.ok l, s1)) (hl : l.p.space ≤ 1) : ∃ k, s1 = s.setTower s.who.tower k := by
  unfold myLoc locate at h
  rw [go_get_bind] at h
  obtain ⟨p, u, hu, h⟩ := go_bind_eq_ok h
  obtain ⟨-, rfl⟩ := go_liftC_eq_ok hu
  rw [go_modify_bind] at h
  split at h
  · next h6 => cases h; simp only at hl; omega
  · have hp := resolve_place h
    rw [resolve_sram h (hp ▸ hl) (who_agent_lt_two _ hc)]
    exact ⟨_, rfl⟩

/-! ## An access in scratchpad or weight memory (R120, R216) -/

/-- A race that is found ends the access (R120). -/
theorem go_raised_ne_ok (w : Who) (p : Place) (r : Raced) (s t : State) : (raised w p r).go s ≠ (.ok (), t) := by
  unfold raised
  cases w.core <;> exact fun h => nomatch h

/-- A race check in scratchpad or weight memory that passes changes stamps only. -/
theorem raceCheck_sram {w : Who} {p : Place} {flat : Nat} {view : Option (Nat × Nat)} {write : Bool} {s t : State} (hp : p.space ≤ 1)
    (h : (raceCheck w p flat view write).go s = (.ok (), t)) : ∃ g, t = { s with stamps := g } := by
  unfold raceCheck at h
  split at h
  · cases h
    exact ⟨_, rfl⟩
  · rw [go_get_bind] at h
    simp only at h
    split at h
    · exact absurd h (go_raised_ne_ok _ _ _ _ _)
    · cases h
      exact ⟨_, rfl⟩

/-- Only accesses to HOST pass the gate of the host (R403). -/
theorem hostGate_other (w : Who) (l : Loc) (atomic reply : Bool) (s : State) (h : l.p.space ≠ 5) : (hostGate w l atomic reply).go s = (.ok (), s) := by
  unfold hostGate
  rw [go_get_bind]
  simp only [if_pos (Or.inl h)]
  rfl

/-- Only stores to HOST are posted (R403). -/
theorem posted_other (l : Loc) (bs : List Byte) (rel : Bool) (s : State) (h : l.p.space ≠ 5) : (posted l bs rel).go s = (.ok (), s) := by
  unfold posted
  rw [if_neg h]
  rfl

/-- Bytes of scratchpad or weight memory with no error marked (R101). -/
theorem readLoc_sram (w : Who) (l : Loc) (n : Nat) (s : State) (hl : l.p.space ≤ 1) (hm : s.marks = []) :
    (readLoc w l n).go s = (.ok (memBytes s.mem l.flat n), s) := by
  have ok : rangeOk s w.tower l.flat n = true := by simp [rangeOk, hm]
  unfold readLoc
  rw [if_neg (by omega)]
  simp only [go_get_bind, ok, go_needM_bind, if_pos hl, go_pure]

/-- A write clears marks and counts what covers a line, and changes nothing else (R101). -/
theorem clearMarks_eq (agent t a n : Nat) (s : State) : ∃ m c, clearMarks agent t a n s = { s with marks := m, cover := c } := by
  have fold : ∀ (l : List Nat) (s : State), ∃ m c, l.foldl (fun s k => unmarkLine t (a + k * lineLen a) s) s = { s with marks := m, cover := c } := by
    intro l
    induction l with
    | nil => exact fun s => ⟨s.marks, s.cover, rfl⟩
    | cons k l ih => exact fun s => ih _
  simp only [clearMarks]
  split
  · exact ⟨s.marks, s.cover, rfl⟩
  · split
    · exact fold _ s
    · split
      · split <;> split <;> exact ⟨_, _, rfl⟩
      · exact ⟨s.marks, s.cover, rfl⟩

/-- A write in scratchpad or weight memory: its bytes, and marks, covers and releases of the location (R101, R109). -/
theorem writeLoc_sram (w : Who) (l : Loc) (bs : List Byte) (s : State) (hl : l.p.space ≤ 1) :
    ∃ m c r, (writeLoc w l bs).go s = (.ok (), { s with mem := memStore s.mem l.flat bs, marks := m, cover := c, locs := r }) := by
  obtain ⟨m, c, h⟩ := clearMarks_eq w.agent w.tower l.flat bs.length (clearRels l.flat bs.length { s with mem := memStore s.mem l.flat bs })
  refine ⟨m, c, cutRels l.flat bs.length s.locs, ?_⟩
  unfold writeLoc
  rw [go_modify, if_pos hl, h]
  rfl

/-- A plain load of a whole element in scratchpad or weight memory, once its race check has passed. -/
theorem plainLoad_sram {w : Who} {l : Loc} {s t : State} (hl : l.p.space ≤ 1) (hn : l.p.nib = none) (hm : s.marks = [])
    (hr : (raceCheck w l.p l.flat l.view false).go s = (.ok (), t)) :
    (plainLoad w l).go s = (.ok (leNat (memBytes s.mem l.flat l.p.bytes)), t) := by
  obtain ⟨g, rfl⟩ := raceCheck_sram hl hr
  unfold plainLoad readElem
  rw [go_bind_ok (hostGate_other w l false true s (by omega)), go_bind_ok hr, go_bind_ok (readLoc_sram w l _ _ hl (by exact hm)), go_pure]
  simp only [elemCode, hn]

/-- A plain store of a whole element in scratchpad or weight memory, once its race check has passed. -/
theorem plainStore_sram {w : Who} {l : Loc} {s t : State} (x : Nat) (hl : l.p.space ≤ 1) (hn : l.p.nib = none)
    (hr : (raceCheck w l.p l.flat l.view true).go s = (.ok (), t)) :
    ∃ g m c r, (plainStore w l x).go s =
      (.ok (), { s with mem := memStore s.mem l.flat (leBytes l.p.bytes x), stamps := g, marks := m, cover := c, locs := r }) := by
  obtain ⟨g, rfl⟩ := raceCheck_sram hl hr
  obtain ⟨m, c, r, hw⟩ := writeLoc_sram w l (leBytes l.p.bytes x) { s with stamps := g } hl
  have he : (elemBytes w l x).go { s with stamps := g } = (.ok (leBytes l.p.bytes x), { s with stamps := g }) := by
    unfold elemBytes
    simp only [hn, go_pure]
  refine ⟨g, m, c, r, ?_⟩
  unfold plainStore
  rw [go_get_bind, go_bind_ok (hostGate_other w l false _ s (by omega)), go_bind_ok hr, go_bind_ok he, go_bind_ok hw,
    posted_other _ _ _ _ (by omega)]

@[simp] theorem leBytes_length (n x : Nat) : (leBytes n x).length = n := by
  induction n generalizing x with
  | zero => rfl
  | succ n ih => simp [leBytes, ih]

/-- A control instruction whose effect ends, at a level that may: the stream goes on at the next PC. -/
theorem control_ofM_done {gd : Guard} {len : Nat} {body : State → M Unit} {s t : State} (hr : Claims.Ready gd s) (h : (body s).go s = (.ok (), t)) :
    control gd len false (fun s => Eff.ofM (body s) s) s = .next (resumeAt (s.pc + len) t) := by
  obtain ⟨hp, hg, hs⟩ := hr
  rw [control_runs gd len false _ s hp hg (.inl rfl)]
  simp only [Eff.ofM, h, Eff.finish, stepTrap_none _ _ _ hs]

end Sys2Proof.Machine

namespace Sys2Proof.Proofs
open Sys2Proof.Machine Sys2Proof.Claims

/-- R5, R216, R217: the load's result and frame. -/
theorem ld_sram (gd : Guard) (d : SReg) (m : MOp) (s s1 s2 : State) (l : Loc) (hready : Ready gd s) (hc : isCtl s.cur.2 = true) (hplain : Plain s1)
    (hloc : Runs (myLoc s m .load scalarTag) s l s1) (hl : l.p.space ≤ 1) (hn : l.p.nib = none)
    (hrace : Runs (raceCheck s.who l.p l.flat l.view false) s1 () s2) :
    ∃ k g, exec (.ld gd d m) s = .next (resumeAt (s.pc + 4)
      ({ s.setTower s.who.tower k with stamps := g }.wrS d (loadBits l.p.tag (leNat (memBytes s.mem l.flat l.p.bytes))))) := by
  obtain ⟨k, rfl⟩ := myLoc_sram hc hloc hl
  obtain ⟨g, rfl⟩ := raceCheck_sram hl hrace
  refine ⟨k, g, ?_⟩
  refine control_ofM_done (body := loadBody d m) hready ?_
  unfold loadBody
  rw [go_bind_ok hloc, go_bind_ok (plainLoad_sram hl hn hplain.2 hrace)]
  rfl

/-- R5, R216, R217: the store's result and frame. -/
theorem st_sram (gd : Guard) (d : SReg) (m : MOp) (s s1 s2 : State) (l : Loc) (hready : Ready gd s) (hc : isCtl s.cur.2 = true)
    (hloc : Runs (myLoc s m .store scalarTag) s l s1) (hl : l.p.space ≤ 1) (hn : l.p.nib = none)
    (hrace : Runs (raceCheck s.who l.p l.flat l.view true) s1 () s2) :
    ∃ k g mk c r, exec (.st gd d m) s = .next (resumeAt (s.pc + 4)
      { s.setTower s.who.tower k with mem := memStore s.mem l.flat (leBytes l.p.bytes (storeBits l.p.tag (s.rdS d).toNat)),
                                      stamps := g, marks := mk, cover := c, locs := r }) := by
  obtain ⟨k, rfl⟩ := myLoc_sram hc hloc hl
  obtain ⟨g, mk, c, r, hst⟩ := plainStore_sram (storeBits l.p.tag (s.rdS d).toNat) hl hn hrace
  refine ⟨k, g, mk, c, r, ?_⟩
  refine control_ofM_done (body := storeBody d m) hready ?_
  unfold storeBody
  rw [go_bind_ok hloc]
  simp only [if_neg (show ¬l.p.space = 6 by omega)]
  exact hst

/-- Settles O17: the load and the store run to known next states, whose parts are read off. -/
theorem scratchpadLoadAndStoreResults : Obligations.ScratchpadLoadAndStoreResults := by
  unfold Obligations.ScratchpadLoadAndStoreResults
  constructor
  · intro gd d m s s1 s2 l hready hc hplain hloc hl hn hrace
    obtain ⟨k, g, h⟩ := ld_sram gd d m s s1 s2 l hready hc hplain hloc hl hn hrace
    refine ⟨_, h, resumeAt_pc _ _, ?_, fun n hne => ?_, fun n => ?_, fun n => ?_, fun a => ?_⟩
    · rw [resumeAt_rdS, rdS_wrS]
      by_cases hd : d.val = 0
      · rw [if_neg (by simp [hd]), if_pos hd]
        show (if d.val = 0 then _ else _) = _
        rw [if_pos hd]
      · rw [if_pos ⟨rfl, hd⟩, if_neg hd]
    · rw [resumeAt_rdS, rdS_wrS, if_neg (by simp [hne])]
      rfl
    · rw [resumeAt_rdP, wrS_rdP]
      rfl
    · rw [resumeAt_rdH, wrS_rdH]
      rfl
    · rw [resumeAt_mem]
      rfl
  · intro gd d m s s1 s2 l hready hc hinv hloc hl hn hrace
    obtain ⟨k, g, mk, c, r, h⟩ := st_sram gd d m s s1 s2 l hready hc hloc hl hn hrace
    refine ⟨_, h, resumeAt_pc _ _, ?_, fun a ha => ?_, fun n => resumeAt_rdS _ _ n, fun n => resumeAt_rdP _ _ n, fun n => resumeAt_rdH _ _ n⟩
    · have hb := memBytes_memStore (leBytes l.p.bytes (storeBits l.p.tag (s.rdS d).toNat)) s.mem l.flat hinv
      rw [leBytes_length] at hb
      rw [resumeAt_mem]
      exact hb
    · rw [resumeAt_mem]
      exact memRd_memStore_outside _ s.mem l.flat a hinv (by rw [leBytes_length]; exact ha)

end Sys2Proof.Proofs
end

section
/-! SUPPORT. Reads of a memory of which cells are left out, and the events of the memory units, of reset and of power (R6, R15, R91, R95, R96, R100,
R101, R429). -/
namespace Sys2Proof.Machine

/-- A byte of a memory of which only the addresses that `p` names are kept: the others read as unlisted. -/
theorem memRd_filter (p : Nat → Bool) (m : List Host.Cell) (a : Nat) (h : Memory.wf m = true) :
    memRd (m.filter fun c => p c.1) a = if p a then memRd m a else memRd [] a := by
  induction m with
  | nil => exact (ite_self _).symm
  | cons c m ih =>
    obtain ⟨b, w⟩ := c
    obtain ⟨-, habove, hm⟩ := (wf_cons b w m).mp h
    have ih := ih hm
    rcases Nat.lt_trichotomy b a with hlt | rfl | hgt
    · have hhead : memRd ((b, w) :: m) a = memRd m a := if_pos hlt
      rw [hhead, ← ih, List.filter_cons]
      split
      · exact if_pos hlt
      · rfl
    · simp only [List.filter_cons]
      split
      · simp [memRd]
      · rw [ih, if_neg ‹_›]
    · have hdef : ∀ c ∈ (b, w) :: m, a < c.1 := by
        intro c hc
        rcases List.mem_cons.mp hc with rfl | hc
        · exact hgt
        · exact hgt.trans (habove c hc)
      rw [memRd_below _ a hdef, memRd_below _ a fun c hc => hdef c (List.mem_of_mem_filter hc)]
      exact (ite_self _).symm

/-- Without record or replay no act waits for its turn (R437). -/
theorem repTurn_free {s : State} (key agent : Nat) (h : repMode s = 0) : repTurn key agent s = some s := by simp [repTurn, h]

/-- An event happens with the state its act answers. -/
theorem event_eq {f : State → State} {s t : State} (hp : s.powered = true) (h : f s = t) : event f s = .next t := h ▸ event_runs f s hp

/-! ## Merges and memory-side requests (R91, R96) -/

theorem exec_updateLineMerge_free (t : TowerId) (line : Nat) {s : State} (hp : s.powered = true) (h : repMode s = 0) :
    exec (.updateLineMerge t line) s = .next (mergeLine t line s) :=
  event_eq hp (if_pos (by rw [repTurn_free _ _ h]; rfl))

theorem msaApply_none {n : Nat} {s : State} (h : s.msa[n]? = none) : msaApply n s = s := by
  unfold msaApply
  rw [h]

theorem msaApply_free {n : Nat} {r : MsaReq} {s : State} (h : s.msa[n]? = some r) (hr : repMode s = 0) :
    msaApply n s = r.vals.foldl (mergeElem ⟨r.op, r.tag, r.view, r.vals⟩ r.line) { s with msa := s.msa.eraseIdx n } := by
  simp only [msaApply, h, repTurn_free _ _ hr]

/-! ## Scrubs (R101, R438) -/

/-- A scrub that finds a unit uncorrectable marks and counts it, once. -/
theorem patrolScrub_uncorrectable (level unit : Nat) (s : State) : patrolScrub level unit .uncorrectable s =
    if s.marks.contains (level, unit) then s else countErr level 32 { s with marks := s.marks ++ [(level, unit)] } := rfl

/-! ## Key slots (R100) -/

theorem exec_keySlotLoad_free {k : Fin 8192} (key : Nat) {s : State} (hp : s.powered = true) (h : s.keyOut.contains k.val = false) :
    exec (.keySlotLoad k key) s = .next { s with keys := put s.keys k.val key } := by
  rw [exec_keySlotLoad, execKeySlotLoad, event_runs _ s hp, h]
  rfl

/-- A slot whose unload is under way is not loaded. -/
theorem exec_keySlotLoad_unloading {k : Fin 8192} (key : Nat) {s : State} (hp : s.powered = true) (h : s.keyOut.contains k.val = true) :
    exec (.keySlotLoad k key) s = .next s := by
  rw [exec_keySlotLoad, execKeySlotLoad, event_runs _ s hp, h]
  rfl

/-- An unload of a slot that is empty, or whose unload is under way, changes nothing. -/
theorem unloadBegin_again {k : Nat} {s : State} (h : find s.keys k = none ∨ s.keyOut.contains k = true) : unloadBegin k s = s := by
  unfold unloadBegin
  refine if_pos ?_
  rcases h with h | h
  · rw [h]; rfl
  · rw [h, Bool.or_true]

/-- An unload of a loaded slot begins, and ends at once where no access in flight holds it up. -/
theorem unloadBegin_loaded {k h : Nat} {s : State} (hk : find s.keys k = some h) (ho : s.keyOut.contains k = false) :
    unloadBegin k s = if (inFlight s).any (fun f => f.view.any fun v => some v.1 == some h) then { s with keyOut := s.keyOut ++ [k] }
      else { s with keys := del s.keys k } := by
  have hnot : k ∉ s.keyOut := by simpa using ho
  have herase : (s.keyOut ++ [k]).erase k = s.keyOut := by simp [List.erase_append_right _ hnot]
  unfold unloadBegin
  rw [if_neg (by simp [hk, hnot])]
  unfold unloadSlot
  simp only [hk, herase]
  rfl

/-! ## Reset and power (R6, R95, R429) -/

/-- Device reset keeps the bytes of the safe tier and the host's, and no other (R95). -/
theorem deviceReset_memRd {s : State} (h : Inv s) (a : Nat) : memRd (deviceReset s).mem a = if keptAt a then memRd s.mem a else memRd [] a :=
  memRd_filter keptAt s.mem a h

/-- Device reset clears the low two bits of CKPT_STATUS and keeps the rest (R426). -/
theorem deviceReset_ckptStat (s : State) : (deviceReset s).ckptStat.toNat % 4 = 0 := by
  show (BitVec.ofNat 64 (s.ckptStat.toNat / 4 * 4)).toNat % 4 = 0
  rw [BitVec.toNat_ofNat]
  omega

/-- A loss of all power leaves the host's bytes alone (R95). -/
theorem auxPowerLoss_memRd {s : State} (h : Inv s) (a : Nat) :
    memRd (auxPowerLoss s).mem a = if hostBase ≤ a ∧ a < spmBase then memRd s.mem a else memRd [] a := by
  rw [show (auxPowerLoss s).mem = s.mem.filter fun c => decide (hostBase ≤ c.1 ∧ c.1 < spmBase) from rfl,
    memRd_filter (fun a => decide (hostBase ≤ a ∧ a < spmBase)) s.mem a h]
  simp only [decide_eq_true_eq]

theorem powerOn_powered {s : State} (h : s.powered = true) : powerOn s = s := if_pos h
theorem powerOn_unpowered {s : State} (h : s.powered = false) : powerOn s = { auxPowerLoss s with powered := true } := by
  unfold powerOn
  rw [h]
  rfl

end Sys2Proof.Machine

namespace Sys2Proof.Proofs
open Sys2Proof.Machine Sys2Proof.Claims

/-- Settles O41: each event's act by its own law, and what a reset or a loss of power leaves read off State.reset. -/
theorem memoryUnitResetAndPowerEvents : Obligations.MemoryUnitResetAndPowerEvents := by
  unfold Obligations.MemoryUnitResetAndPowerEvents
  constructor
  · intro t line n unit key level k s hp
    refine ⟨exec_updateLineMerge_free t line hp, fun h => event_eq hp (msaApply_none h), fun r h hr => event_eq hp (msaApply_free h hr),
      ⟨event_eq hp rfl, ⟨_, event_eq hp rfl, rfl, rfl, rfl⟩, fun h => ?_, fun h => ?_⟩, exec_keySlotLoad_free key hp, exec_keySlotLoad_unloading key hp,
      fun h => event_eq hp (unloadBegin_again h), fun h hk ho => ⟨fun hf => event_eq hp ?_, fun hf => event_eq hp ?_⟩⟩
    · refine ⟨_, event_eq hp ((patrolScrub_uncorrectable _ _ s).trans (if_neg ?_)), rfl, List.mem_append_right _ List.mem_cons_self, rfl⟩
      rw [h]
      exact Bool.false_ne_true
    · exact event_eq hp ((patrolScrub_uncorrectable _ _ s).trans (if_pos h))
    · rw [unloadBegin_loaded hk ho, hf]
      rfl
    · rw [unloadBegin_loaded hk ho, hf]
      rfl
  · intro s hinv
    refine ⟨fun hp => ⟨deviceReset s, event_eq hp rfl, rfl, ?_⟩, fun hp => ⟨auxPowerLoss s, event_eq hp rfl, rfl, auxPowerLoss_memRd hinv⟩,
      fun hp => ⟨_, congrArg Host.Outcome.next (powerOn_unpowered hp), rfl, rfl, rfl⟩, fun hp => congrArg Host.Outcome.next (powerOn_powered hp)⟩
    -- every field named is one that State.reset gives, but the last two
    refine ⟨rfl, rfl, rfl, rfl, rfl, rfl, rfl, rfl, rfl, rfl, rfl, rfl, rfl, rfl, rfl, rfl, rfl, rfl, rfl, rfl, rfl, rfl, rfl, rfl, rfl, rfl, rfl,
      rfl, rfl, rfl, rfl, rfl, rfl, rfl, rfl, rfl, deviceReset_ckptStat s, deviceReset_memRd hinv⟩
end Sys2Proof.Proofs
end

section
/-! SUPPORT. What is read of a core's parts after a write of one, register writes of their own level, and the plain registers and the engines'
trap registers (R6, R237, R366, R459). -/
namespace Sys2Proof.Machine

/-! ## Parts of a core after a write of one -/

@[simp] theorem ctlOf_setCtlOf (s : State) (c : Nat) (l : Leader) (t : Ctl) : (s.setCtlOf c l t).ctlOf c l = t := by
  simp [State.ctlOf, State.setCtlOf]
@[simp] theorem str_setStr (s : State) (c : Nat) (x : Stream) (m : Strm) : (s.setStr c x m).str c x = m := by simp [State.str, State.setStr]
theorem str_setStr_other (s : State) (c : Nat) {x y : Stream} (m : Strm) (h : y ≠ x) : (s.setStr c x m).str c y = s.str c y := by
  simp [State.str, State.setStr, Core.str_setStr_other _ m h]
@[simp] theorem seqOf_setStr (s : State) (c : Nat) (x : Stream) (m : Strm) (e : Eng) : (s.setStr c x m).seqOf c e = s.seqOf c e := by
  simp [State.seqOf, State.setStr]
@[simp] theorem seqOf_setSeqOf (s : State) (c : Nat) (e : Eng) (q : Seq) : (s.setSeqOf c e q).seqOf c e = q := by simp [State.seqOf, State.setSeqOf]
theorem seqOf_setSeqOf_other (s : State) (c : Nat) {e f : Eng} (q : Seq) (h : f ≠ e) : (s.setSeqOf c e q).seqOf c f = s.seqOf c f := by
  simp [State.seqOf, State.setSeqOf, Core.seq_setSeq_other _ q h]
@[simp] theorem str_setSeqOf (s : State) (c : Nat) (e : Eng) (q : Seq) (x : Stream) : (s.setSeqOf c e q).str c x = s.str c x := by
  simp [State.str, State.setSeqOf]

theorem engStream_inj {e f : Eng} (h : engStream e = engStream f) : e = f := by
  revert h
  cases e <;> cases f <;> decide

/-! ## The write of a register as an event (R237) -/

/-- At a level that may write the register, its rule decides. -/
theorem regEvent_takes {n : Nat} {sup : Bool} {f : State → Chk State} {s t : State} (hp : s.powered = true)
    (hv : sup = false ∨ s.me.priv = true) (h : f s = .ok t) : regEvent n sup f s = .next t := by
  rw [regEvent, event_runs _ s hp]
  rcases hv with hv | hv <;> simp [hv, h]

/-- At job level a register of the supervisor's raises PRIV with its number. -/
theorem regEvent_priv {n : Nat} {f : State → Chk State} {s : State} (hp : s.powered = true) (hv : s.me.priv = false) :
    regEvent n true f s = .next (trapHere ⟨.priv, n⟩ 8 s) := by
  rw [regEvent, event_runs _ s hp, hv]
  rfl

/-! ## Plain registers (R6) -/

/-- A register's writable fields in a written value. -/
theorem rwPart_eq {n : Nat} {r : Reg} (v : Word) (h : regOf n = some r) : rwPart n v = v &&& BitVec.ofNat 64 r.rw := by
  rw [rwPart, h]
  rfl

/-- A register whose writable field is its low `k` bits holds the value modulo 2^k. -/
theorem rwPart_low {n k : Nat} (v : Word) (hk : k ≤ 64) (h : (regOf n).elim 0 (·.rw) = fieldAt 0 k) : (rwPart n v).toNat = v.toNat % 2 ^ k := by
  have hlt : 2 ^ k - 1 < 2 ^ 64 := by
    have := Nat.pow_le_pow_right (n := 2) (by decide) hk
    omega
  rw [rwPart, h, BitVec.toNat_and, BitVec.toNat_ofNat, fieldAt, pow_zero, Nat.mul_one, Nat.mod_eq_of_lt hlt, Nat.and_two_pow_sub_one_eq_mod]

/-- A register that is writable as a whole holds the value. -/
theorem rwPart_whole {n : Nat} (v : Word) (h : (regOf n).elim 0 (·.rw) = allBits) : (rwPart n v).toNat = v.toNat := by
  rw [rwPart_low v (le_refl 64) h, Nat.mod_eq_of_lt v.isLt]

/-- The write of register `n` is taken, and changes no byte of memory. -/
def WriteTaken (c : Nat) (l : Leader) (n : Nat) (v : Word) (s : State) : Prop := ∃ t, writeReg c l n v s = .ok t ∧ t.mem = s.mem

/-- It is, and the register's writable fields read back. -/
def ReadsBack (c : Nat) (l : Leader) (n : Nat) (v : Word) (s : State) : Prop :=
  ∃ t, writeReg c l n v s = .ok t ∧ t.mem = s.mem ∧ readReg c l n t = .ok (rwPart n v).toNat

theorem startTable_mem (ltb : Word) (s : State) : (startTable ltb s).mem = s.mem := by
  unfold startTable
  split <;> rfl

theorem wrErr_mem (k : Nat) (v : Word) (s : State) : (wrErr k v s).mem = s.mem := by
  unfold wrErr
  split <;> split <;> rfl

theorem wrBgStatus_mem (n : Nat) (v : Word) (s : State) : (wrBgStatus n v s).mem = s.mem := by
  unfold wrBgStatus
  split <;> rfl

/-- The plain registers whose writable fields are all that a read gives, by the groups of `writeReg`. -/
def readBackRegs : List Nat := [0x100, 0x101, 0x102, 0x103, 0x104, 0x110] ++ [0x180, 0x181, 0x188, 0x189, 0x1C2] ++
  [0x1D4, 0x1D5, 0x1D8, 0x1D9, 0x1DA, 0x1DB, 0x1DD, 0x1DE, 0x1DF] ++ [0x20A, 0x219, 0x21A, 0x21D] ++ [0x231, 0x238, 0x23A, 0x23B]
/-- The other plain registers: selectors, and those with status bits or counts that a write clears. -/
def statusRegs : List Nat := [0x1CE, 0x21E, 0x22B] ++ [0x105, 0x18B, 0x1CC, 0x1D0, 0x1D2, 0x1E0, 0x1E2, 0x202, 0x208, 0x20C, 0x20E, 0x210,
  0x218, 0x222, 0x223, 0x227, 0x22A, 0x237, 0x23C, 0x23F]

/-- These are all the plain registers there are. -/
theorem plainReg_cases (n : Nat) (h : plainReg n = true) : n ∈ readBackRegs ∨ n ∈ statusRegs := by
  replace h := List.contains_iff_mem.mp h
  revert n
  decide

section
variable (c : Nat) (l : Leader) (v : Word) (s : State)

theorem readsBack_trap {n : Nat} (hn : n ∈ [0x100, 0x101, 0x102, 0x103, 0x104, 0x110]) : ReadsBack c l n v s := by
  simp only [List.mem_cons, List.not_mem_nil, or_false] at hn
  rcases hn with rfl | rfl | rfl | rfl | rfl | rfl
  · exact ⟨_, rfl, rfl, by simp [readReg, rdTrap]⟩
  · exact ⟨_, rfl, rfl, by simp [readReg, rdTrap]⟩
  · exact ⟨_, rfl, rfl, by simp [readReg, rdTrap]⟩
  · exact ⟨_, rfl, rfl, by simp [readReg, rdTrap, rwPart_whole (n := 0x103) v rfl]⟩
  · exact ⟨_, rfl, rfl, by simp [readReg, rdTrap, rwPart_whole (n := 0x104) v rfl]⟩
  · exact ⟨_, rfl, rfl, by simp [readReg, rdTrap, rwPart_low (n := 0x110) (k := 20) v (by decide) rfl]⟩

theorem readsBack_core {n : Nat} (hn : n ∈ [0x180, 0x181, 0x188, 0x189, 0x1C2]) : ReadsBack c l n v s := by
  simp only [List.mem_cons, List.not_mem_nil, or_false] at hn
  rcases hn with rfl | rfl | rfl | rfl | rfl
  · exact ⟨_, rfl, startTable_mem _ s, by simp [readReg, rdCore]⟩
  · exact ⟨_, rfl, rfl, by simp [readReg, rdCore]⟩
  · exact ⟨_, rfl, rfl, rfl⟩
  · exact ⟨_, rfl, rfl, rfl⟩
  · exact ⟨_, rfl, rfl, by simp [readReg, rdCore, rwPart_low (n := 0x1C2) (k := 12) v (by decide) rfl]⟩

theorem readsBack_engine {n : Nat} (hn : n ∈ [0x1D4, 0x1D5, 0x1D8, 0x1D9, 0x1DA, 0x1DB, 0x1DD, 0x1DE, 0x1DF]) : ReadsBack c l n v s := by
  simp only [List.mem_cons, List.not_mem_nil, or_false] at hn
  rcases hn with rfl | rfl | rfl | rfl | rfl | rfl | rfl | rfl | rfl
  · exact ⟨_, rfl, rfl, by simp [readReg, rdEngine, wrEngine, rwPart_whole (n := 0x1D4) v rfl]⟩
  · exact ⟨_, rfl, rfl, by simp [readReg, rdEngine, wrEngine, rwPart_whole (n := 0x1D5) v rfl]⟩
  · exact ⟨_, rfl, rfl, by simp [readReg, rdEngine, wrEngine, State.setSeqOf]⟩
  · exact ⟨_, rfl, rfl, by simp [readReg, rdEngine, wrEngine, State.setSeqOf]⟩
  · exact ⟨_, rfl, rfl, by simp [readReg, rdEngine, wrEngine, State.setSeqOf]⟩
  · exact ⟨_, rfl, rfl, by simp [readReg, rdEngine, wrEngine, State.setSeqOf]⟩
  · exact ⟨_, rfl, rfl, by simp [readReg, rdEngine, wrEngine, rwPart_whole (n := 0x1DD) v rfl]⟩
  · exact ⟨_, rfl, rfl, by simp [readReg, rdEngine, wrEngine, rwPart_whole (n := 0x1DE) v rfl]⟩
  · exact ⟨_, rfl, rfl, by simp [readReg, rdEngine, wrEngine, rwPart_low (n := 0x1DF) (k := 48) v (by decide) rfl]⟩

theorem readsBack_fabric {n : Nat} (hn : n ∈ [0x20A, 0x219, 0x21A, 0x21D]) : ReadsBack c l n v s := by
  simp only [List.mem_cons, List.not_mem_nil, or_false] at hn
  rcases hn with rfl | rfl | rfl | rfl <;> exact ⟨_, rfl, rfl, rfl⟩

theorem readsBack_system {n : Nat} (hn : n ∈ [0x231, 0x238, 0x23A, 0x23B]) : ReadsBack c l n v s := by
  simp only [List.mem_cons, List.not_mem_nil, or_false] at hn
  rcases hn with rfl | rfl | rfl | rfl
  · exact ⟨_, rfl, rfl, rfl⟩
  · exact ⟨_, rfl, rfl, rfl⟩
  · exact ⟨_, rfl, rfl, congrArg Except.ok (rwPart_whole (n := 0x23A) v rfl).symm⟩
  · exact ⟨_, rfl, rfl, congrArg Except.ok (rwPart_whole (n := 0x23B) v rfl).symm⟩

/-- The registers of `readBackRegs` read back. -/
theorem readsBack {n : Nat} (hn : n ∈ readBackRegs) : ReadsBack c l n v s := by
  simp only [readBackRegs, List.mem_append] at hn
  rcases hn with (((hn | hn) | hn) | hn) | hn
  · exact readsBack_trap c l v s hn
  · exact readsBack_core c l v s hn
  · exact readsBack_engine c l v s hn
  · exact readsBack_fabric c l v s hn
  · exact readsBack_system c l v s hn

/-- The registers of `statusRegs` are written. -/
theorem writeTaken_status {n : Nat} (hn : n ∈ statusRegs) : WriteTaken c l n v s := by
  simp only [statusRegs, List.mem_append, List.mem_cons, List.not_mem_nil, or_false] at hn
  rcases hn with (rfl | rfl | rfl) | hn
  · exact ⟨_, rfl, wrBgStatus_mem _ v s⟩
  · exact ⟨_, rfl, (apply_ite State.mem _ _ _).trans (ite_self _)⟩
  · exact ⟨_, rfl, wrErr_mem _ v s⟩
  · rcases hn with rfl | rfl | rfl | rfl | rfl | rfl | rfl | rfl | rfl | rfl | rfl | rfl | rfl | rfl | rfl | rfl | rfl | rfl | rfl | rfl <;>
      exact ⟨_, rfl, rfl⟩
end

/-! ## The engines' trap registers (R366, R459) -/

/-- What ENG_CTL makes of the stream and the sequencer of an engine that it names. -/
def resumed (e : Strm × Seq) : Strm × Seq :=
  if e.1.st == .trap && !e.1.pstop then ({ e.1 with st := .run, wait := .none }, { e.2 with tValid := false }) else e

theorem resumed_of_trap {e : Strm × Seq} (ht : e.1.st = .trap) (hs : e.1.pstop = false) :
    resumed e = ({ e.1 with st := .run, wait := .none }, { e.2 with tValid := false }) := by simp [resumed, ht, hs]

theorem resumed_of_not_trap {e : Strm × Seq} (h : e.1.st ≠ .trap ∨ e.1.pstop = true) : resumed e = e := by
  rcases h with h | h <;> simp [resumed, h]

/-- The stream and the sequencer of an engine. -/
def engineAt (s : State) (c : Nat) (e : Eng) : Strm × Seq := (s.str c (engStream e), s.seqOf c e)

theorem resumeEngine_self (c : Nat) (s : State) (e : Eng) : engineAt (resumeEngine c s e) c e = resumed (engineAt s c e) := by
  unfold engineAt resumed resumeEngine
  simp only
  split
  · rw [str_setSeqOf, str_setStr, seqOf_setSeqOf]
  · rfl

theorem resumeEngine_other (c : Nat) (s : State) {e f : Eng} (h : f ≠ e) : engineAt (resumeEngine c s e) c f = engineAt s c f := by
  have hx : engStream f ≠ engStream e := fun he => h (engStream_inj he)
  unfold engineAt resumeEngine
  simp only
  split
  · rw [str_setSeqOf, str_setStr_other _ _ _ hx, seqOf_setSeqOf_other _ _ _ h, seqOf_setStr]
  · rfl

theorem resumeEngine_mem (c : Nat) (s : State) (e : Eng) : (resumeEngine c s e).mem = s.mem := by
  unfold resumeEngine
  simp only
  split <;> rfl

/-- Engines resumed one after another: each that is named once, and no other. -/
theorem foldl_resumeEngine (c : Nat) (f : Eng) (es : List Eng) (h : es.Nodup) (s : State) :
    engineAt (es.foldl (resumeEngine c) s) c f = if f ∈ es then resumed (engineAt s c f) else engineAt s c f := by
  induction es generalizing s with
  | nil => rfl
  | cons e es ih =>
    obtain ⟨hne, hd⟩ := List.nodup_cons.mp h
    rw [List.foldl_cons, ih hd]
    by_cases he : f = e
    · subst he
      rw [if_neg hne, if_pos List.mem_cons_self, resumeEngine_self]
    · rw [resumeEngine_other c s he]
      simp only [List.mem_cons, he, false_or]

theorem wrEngCtl_mem (c : Nat) (v : Word) (s : State) : (wrEngCtl c v s).mem = s.mem :=
  foldl_mem (fun e s => resumeEngine c s e) (fun e s => resumeEngine_mem c s e) _ s

/-- ENG_CTL resumes the engines whose bits are set. -/
theorem wrEngCtl_engineAt (c : Nat) (v : Word) (s : State) (f : Eng) :
    engineAt (wrEngCtl c v s) c f = if bitAt v.toNat (engNo f) then resumed (engineAt s c f) else engineAt s c f := by
  have hall : f ∈ allEng := by cases f <;> decide
  unfold wrEngCtl
  rw [foldl_resumeEngine c f _ (List.Nodup.filter _ (by decide))]
  simp only [List.mem_filter, hall, true_and]

/-- The four bits of ENG_CTL. -/
theorem engCtl_bits (m : Fin 16) : (BitVec.ofNat 64 m.val).toNat = m.val := by
  have := m.isLt
  rw [BitVec.toNat_ofNat]
  omega

/-- A reservation released changes its cluster only (R410). -/
theorem dropResv_eq (c : Nat) (x : Stream) (s : State) : ∃ k, dropResv c x s = { s with clusters := k } := by
  simp only [dropResv]
  split
  · exact ⟨_, rfl⟩
  · exact ⟨s.clusters, rfl⟩

/-- A PC written while no restart point stands. -/
theorem wrEngTrapPc_invalid {c : Nat} {e : Eng} (v : Word) {s : State} (h : (s.seqOf c e).tValid = false) :
    wrEngTrapPc c e v s = s.setSeqOf c e { s.seqOf c e with tPc := bitsAt v.toNat 8 18 } := by
  simp only [wrEngTrapPc, h, Bool.false_eq_true, if_false]

/-- A PC written while VALID: the restart point goes, and the stream stands at the new PC, with no record begun. -/
theorem wrEngTrapPc_valid {c : Nat} {e : Eng} (v : Word) {s : State} (h : (s.seqOf c e).tValid = true) :
    (wrEngTrapPc c e v s).mem = s.mem ∧ ((wrEngTrapPc c e v s).str c (engStream e)).pc = bitsAt v.toNat 8 18 ∧
    ∃ d, (wrEngTrapPc c e v s).seqOf c e = { s.seqOf c e with tPc := bitsAt v.toNat 8 18, tBeat := 0xFFE, run := none, defer := d } := by
  have written : ∀ q, let t := dropResv c (engStream e) ((s.setStr c (engStream e) { s.str c (engStream e) with pc := bitsAt v.toNat 8 18 }).setSeqOf c e q)
      t.mem = s.mem ∧ (t.str c (engStream e)).pc = bitsAt v.toNat 8 18 ∧ t.seqOf c e = q := by
    intro q
    obtain ⟨k, hk⟩ := dropResv_eq c (engStream e) ((s.setStr c (engStream e) { s.str c (engStream e) with pc := bitsAt v.toNat 8 18 }).setSeqOf c e q)
    simp only [hk]
    exact ⟨rfl, congrArg Strm.pc ((str_setSeqOf _ c e q _).trans (str_setStr s c _ _)), seqOf_setSeqOf _ c e q⟩
  simp only [wrEngTrapPc, h, if_true]
  obtain ⟨hmem, hstr, hseq⟩ := written _
  exact ⟨hmem, hstr, _, hseq⟩

/-- The field PC of ENG_TRAP, of a value made for it. -/
theorem engTrap_pc (pc : Fin 262144) : bitsAt (BitVec.ofNat 64 (pc.val * 256)).toNat 8 18 = pc := by
  have := pc.isLt
  simp only [bitsAt, BitVec.toNat_ofNat]
  omega

end Sys2Proof.Machine

namespace Sys2Proof.Proofs
open Sys2Proof.Machine Sys2Proof.Claims

/-- R6, R237: a plain register's write at a level that may write it. -/
theorem plainRegisterWrite_taken {n : Fin 4096} {v : Word} {r : Reg} {s t : State} (hp : s.powered = true) (hn : plainReg n.val = true)
    (hr : regOf n.val = some r) (hv : s.me.priv = true ∨ r.jobWr = true) (h : writeReg s.cc s.cl n.val v s = .ok t) :
    Happens (.plainRegisterWrite n v) s t := by
  have sup : (!(regOf n.val).elim false (·.jobWr)) = false ∨ s.me.priv = true := by
    rw [hr]
    exact hv.symm.imp_left fun h => by simp [h]
  unfold Happens
  rw [exec_plainRegisterWrite, execPlainRegisterWrite]
  exact regEvent_takes hp sup (by rw [hn]; exact h)

/-- R6, R237: at job level a register of the supervisor's is refused. -/
theorem plainRegisterWrite_priv {n : Fin 4096} (v : Word) {r : Reg} {s : State} (hp : s.powered = true) (hr : regOf n.val = some r)
    (hv : s.me.priv = false) (hj : r.jobWr = false) : Happens (.plainRegisterWrite n v) s (trapHere ⟨.priv, n.val⟩ 8 s) := by
  have sup : (!(regOf n.val).elim false (·.jobWr)) = true := by rw [hr]; simp [hj]
  unfold Happens
  rw [exec_plainRegisterWrite, execPlainRegisterWrite, sup]
  exact regEvent_priv hp hv

theorem engCtlResume_happens {m : Fin 16} {s : State} (hp : s.powered = true) (hv : s.me.priv = true) :
    Happens (.engCtlResume m) s (wrEngCtl s.cc (BitVec.ofNat 64 m.val) s) := by
  unfold Happens
  rw [exec_engCtlResume, execEngCtlResume]
  exact regEvent_takes hp (.inr hv) rfl

theorem engTrapPcWrite_happens {e : Eng} {pc : Fin 262144} {s : State} (hp : s.powered = true) (hv : s.me.priv = true) :
    Happens (.engTrapPcWrite e pc) s (wrEngTrapPc s.cc e (BitVec.ofNat 64 (pc.val * 256)) s) := by
  unfold Happens
  rw [exec_engTrapPcWrite, execEngTrapPcWrite]
  exact regEvent_takes hp (.inr hv) rfl

theorem engCtlResume_priv {m : Fin 16} {s : State} (hp : s.powered = true) (hv : s.me.priv = false) :
    Happens (.engCtlResume m) s (trapHere ⟨.priv, 0x107⟩ 8 s) := by
  unfold Happens
  rw [exec_engCtlResume, execEngCtlResume]
  exact regEvent_priv hp hv

theorem engTrapPcWrite_priv {e : Eng} {pc : Fin 262144} {s : State} (hp : s.powered = true) (hv : s.me.priv = false) :
    Happens (.engTrapPcWrite e pc) s (trapHere ⟨.priv, 0x108 + engNo e⟩ 8 s) := by
  unfold Happens
  rw [exec_engTrapPcWrite, execEngTrapPcWrite]
  exact regEvent_priv hp hv

/-- R366: an engine that ENG_CTL names, standing in TRAP, runs from its restart point. -/
theorem engCtl_runs {m : Fin 16} {s : State} {f : Eng} (hb : bitAt m.val (engNo f) = true) (ht : (s.str s.cc (engStream f)).st = .trap)
    (hs : (s.str s.cc (engStream f)).pstop = false) :
    engineAt (wrEngCtl s.cc (BitVec.ofNat 64 m.val) s) s.cc f =
      ({ s.str s.cc (engStream f) with st := .run, wait := .none }, { s.seqOf s.cc f with tValid := false }) := by
  rw [wrEngCtl_engineAt, engCtl_bits, if_pos hb]
  exact resumed_of_trap ht hs

/-- R366: no other engine changes. -/
theorem engCtl_keeps {m : Fin 16} {s : State} {f : Eng}
    (h : bitAt m.val (engNo f) = false ∨ (s.str s.cc (engStream f)).st ≠ .trap ∨ (s.str s.cc (engStream f)).pstop = true) :
    engineAt (wrEngCtl s.cc (BitVec.ofNat 64 m.val) s) s.cc f = engineAt s s.cc f := by
  rw [wrEngCtl_engineAt, engCtl_bits]
  rcases h with h | h
  · rw [h]
    rfl
  · rw [resumed_of_not_trap h, ite_self]

/-- Settles O43: registers by their groups, the engines one by one. -/
theorem registerWriteEventsComplete : Obligations.RegisterWriteEventsComplete := by
  unfold Obligations.RegisterWriteEventsComplete
  constructor
  · intro n v r s hp hn hr
    refine ⟨fun hv => ?_, plainRegisterWrite_priv v hp hr⟩
    by_cases hb : n.val ∈ readBackRegs
    · obtain ⟨t, hw, hm, hread⟩ := readsBack s.cc s.cl v s hb
      rw [rwPart_eq v hr] at hread
      exact ⟨t, hw, plainRegisterWrite_taken hp hn hr hv hw, hm, fun _ => hread⟩
    · obtain ⟨t, hw, hm⟩ := writeTaken_status s.cc s.cl v s ((plainReg_cases n.val hn).resolve_left hb)
      exact ⟨t, hw, plainRegisterWrite_taken hp hn hr hv hw, hm, fun h => absurd h hb⟩
  · intro m e pc s hp
    refine ⟨fun hv => ⟨engCtlResume_priv hp hv, engTrapPcWrite_priv hp hv⟩,
      fun hv => ⟨⟨_, engCtlResume_happens hp hv, wrEngCtl_mem _ _ s, fun f _ => ?_⟩, ?_, ?_⟩⟩
    · refine ⟨fun hb ht hs => ?_, fun h => Prod.mk.inj (engCtl_keeps h)⟩
      obtain ⟨hstr, hseq⟩ := Prod.mk.inj (engCtl_runs hb ht hs)
      rw [hstr, hseq]
      exact ⟨rfl, rfl, rfl, rfl⟩
    · intro hq
      have h := engTrapPcWrite_happens (e := e) (pc := pc) hp hv
      rwa [wrEngTrapPc_invalid _ hq, engTrap_pc] at h
    · intro hq
      obtain ⟨hmem, hpc, d, hseq⟩ := wrEngTrapPc_valid (BitVec.ofNat 64 (pc.val * 256)) hq
      rw [engTrap_pc] at hpc hseq
      refine ⟨_, engTrapPcWrite_happens hp hv, hmem, hpc, ?_⟩
      rw [hseq]
      exact ⟨rfl, rfl, rfl, hq⟩

end Sys2Proof.Proofs
end

section
/-! SUPPORT. Control instructions by how their effect ends, the checks of a control register's number and level, and the amax, time and
control-register forms (R65-R70, R235-R237). -/
namespace Sys2Proof.Machine

/-! ## A control instruction by its effect -/

/-- An effect that completes: the stream goes on at the next PC. -/
theorem completes_of_done {i : Instr} {gd : Guard} {len : Nat} {body : State → Eff} {s t : State} (hi : exec i = control gd len false body)
    (hr : Claims.Ready gd s) (h : body s = .done t) : Claims.Completes i len s t := by
  obtain ⟨hp, hg, hs⟩ := hr
  rw [Claims.Completes, hi, control_runs gd len false body s hp hg (.inl rfl), h]
  simp only [Eff.finish, stepTrap_none _ _ _ hs]

/-- An effect that traps, with nothing changed before. -/
theorem trapsHere_of_trap {i : Instr} {gd : Guard} {len : Nat} {body : State → Eff} {s : State} {c : Cause} {info : Nat}
    (hi : exec i = control gd len false body) (hr : Claims.Ready gd s) (h : body s = .trap s ⟨c, info⟩) : Claims.TrapsHere i len s c info := by
  obtain ⟨hp, hg, -⟩ := hr
  rw [Claims.TrapsHere, hi, control_runs gd len false body s hp hg (.inl rfl), h]
  rfl

/-- Without record or replay a value is taken as it stands (R437). -/
theorem repValue_free {s : State} (agent v : Nat) (h : repMode s = 0) : repValue agent v s = (s, v) := by simp [repValue, h]

/-! ## Control registers (R237) -/

section
variable {i : Instr} {n : Nat} {write : Bool} {r : Reg} {s t : State} {d a : SReg} {x : Trap} {v : Nat}

/-- A number that is not assigned is refused with the instruction's words. -/
theorem csrCheck_unassigned (h : regOf n = none) : csrCheck i n write s = .error ⟨.illegal, wordsInfo (encode i)⟩ := by
  unfold csrCheck
  rw [h]
  rfl

/-- A register above the level's rights is refused with its number. -/
theorem csrCheck_denied (h : regOf n = some r) (hv : s.me.priv = false) (hw : (if write then r.jobWr else r.jobRd) = false) :
    csrCheck i n write s = .error ⟨.priv, n⟩ := by
  unfold csrCheck
  simp only [h, hv, hw]
  rfl

/-- A register that the level may use passes. -/
theorem csrCheck_allowed (h : regOf n = some r) (hv : s.me.priv = true ∨ (if write then r.jobWr else r.jobRd) = true) :
    csrCheck i n write s = .ok r := by
  have hor : (s.me.priv || (if write then r.jobWr else r.jobRd)) = true := (Bool.or_eq_true _ _).mpr hv
  unfold csrCheck
  simp only [h, hor]
  rfl

/-- A write that leaves its own stream running completes. -/
theorem csrEnd_goesOn (hh : t.myStr.st ≠ .halt) (hi : t.myStr.st ≠ .idle) : csrEnd t = .done t := by simp [csrEnd, hh, hi]

theorem csrRead_refused (h : csrCheck i n false s = .error x) : csrRead i d n s = .trap s x := by
  unfold csrRead
  rw [h]
  rfl

theorem csrRead_done (h : csrCheck i n false s = .ok r) (hr : readReg s.cc s.cl n s = .ok v) :
    csrRead i d n s = .done (s.wrS d (BitVec.ofNat 64 v)) := by
  unfold csrRead
  rw [h, hr]
  rfl

theorem csrWrite_refused (h : csrCheck i n true s = .error x) : csrWrite i n a s = .trap s x := by
  unfold csrWrite
  rw [h]
  rfl

/-- A write that the register's own rules refuse takes their trap. -/
theorem csrWrite_trap (h : csrCheck i n true s = .ok r) (hw : writeReg s.cc s.cl n (s.rdS a) s = .error x) : csrWrite i n a s = .trap s x := by
  unfold csrWrite
  rw [h, hw]
  rfl

theorem csrWrite_ok (h : csrCheck i n true s = .ok r) (hw : writeReg s.cc s.cl n (s.rdS a) s = .ok t) : csrWrite i n a s = csrEnd t := by
  unfold csrWrite
  rw [h, hw]
  rfl

variable {f : Word → Word → Word → Word}

theorem csrModify_refused (h : csrCheck i n true s = .error x) : csrModify i d a n f s = .trap s x := by
  unfold csrModify
  rw [h]
  rfl

theorem csrModify_ok (h : csrCheck i n true s = .ok r) (hr : readReg s.cc s.cl n s = .ok v)
    (hw : writeReg s.cc s.cl n (f (rwMask n r s) (BitVec.ofNat 64 v) (s.rdS a)) s = .ok t) :
    csrModify i d a n f s = csrEnd (t.wrS d (BitVec.ofNat 64 v)) := by
  unfold csrModify
  rw [h, hr]
  show Eff.ofChk s (writeReg s.cc s.cl n (f (rwMask n r s) (BitVec.ofNat 64 v) (s.rdS a)) s >>= _) = _
  rw [hw]
  rfl
end

end Sys2Proof.Machine

namespace Sys2Proof.Proofs
open Sys2Proof.Machine Sys2Proof.Claims

/-! ## Amax registers and time (R65-R70, R235, R236) -/

section
variable {gd : Guard} {s : State} (d a : SReg) (x : MxIx) (hr : Ready gd s)
include hr

theorem mxRd_completes : Sets (.mxRd gd d x) 4 s d (getMx x s) := completes_of_done rfl hr rfl

/-- R70: a well-formed image is written. -/
theorem mxWr_completes (h : amaxBad (s.rdS a) = false) : Completes (.mxWr gd x a) 4 s (setMx x (s.rdS a) s) := by
  refine completes_of_done rfl hr ?_
  rw [h]
  rfl

/-- R70: a malformed image raises FORMAT. -/
theorem mxWr_traps (h : amaxBad (s.rdS a) = true) : TrapsHere (.mxWr gd x a) 4 s .format 0 := by
  refine trapsHere_of_trap rfl hr ?_
  rw [h]
  rfl

theorem mxClr_completes : Completes (.mxClr gd x) 4 s (setMx x 0 s) := completes_of_done rfl hr rfl

/-- R66: the update by the FP32 value in the low half of the register. -/
theorem mxUpd_completes : Completes (.mxUpd gd x a) 4 s (setMx x (amaxUpdate (getMx x s) (fp32.value ((s.rdS a).toNat % 2 ^ 32))) s) := by
  have low : bitsAt (s.rdS a).toNat 0 32 = (s.rdS a).toNat % 2 ^ 32 := by rw [bitsAt, pow_zero, Nat.div_one]
  rw [← low]
  exact completes_of_done rfl hr rfl

theorem timeRd_completes (h : repMode s = 0) : Sets (.timeRd gd d) 4 s d (BitVec.ofNat 64 s.time) := by
  refine completes_of_done rfl hr ?_
  rw [repValue_free _ _ h]
end

/-! ## Control registers (R237) -/

/-- The four forms at register `n`, each with whether it asks for the right to write. -/
def csrForms (gd : Guard) (d a : SReg) (n : Fin 4096) : List (Instr × Bool) :=
  [(.csrRd gd d n, false), (.csrWr gd n a, true), (.csrSet gd d a n, true), (.csrClr gd d a n, true)]

section
variable {gd : Guard} {n : Fin 4096} {s t : State} {r : Reg} (d a : SReg) (hr : Ready gd s)
include hr

/-- A form that the check of number and level refuses takes that trap. -/
theorem csrForms_refused {f : Instr × Bool} {c : Cause} {info : Nat} (hf : f ∈ csrForms gd d a n)
    (h : csrCheck f.1 n f.2 s = .error ⟨c, info⟩) : TrapsHere f.1 8 s c info := by
  simp only [csrForms, List.mem_cons, List.not_mem_nil, or_false] at hf
  rcases hf with rfl | rfl | rfl | rfl
  · exact trapsHere_of_trap rfl hr (csrRead_refused h)
  · exact trapsHere_of_trap rfl hr (csrWrite_refused h)
  · exact trapsHere_of_trap rfl hr (csrModify_refused h)
  · exact trapsHere_of_trap rfl hr (csrModify_refused h)

theorem csrRd_completes {v : Nat} (hn : regOf n.val = some r) (hv : s.me.priv = true ∨ r.jobRd = true)
    (h : readReg s.cc s.cl n.val s = .ok v) : Sets (.csrRd gd d n) 8 s d (BitVec.ofNat 64 v) :=
  completes_of_done rfl hr (csrRead_done (csrCheck_allowed hn hv) h)

section
variable (hn : regOf n.val = some r) (hv : s.me.priv = true ∨ r.jobWr = true)
include hn hv

theorem csrWr_traps {x : Trap} (h : writeReg s.cc s.cl n.val (s.rdS a) s = .error x) : TrapsHere (.csrWr gd n a) 8 s x.cause x.info :=
  trapsHere_of_trap rfl hr (csrWrite_trap (csrCheck_allowed hn hv) h)

variable (hh : t.myStr.st ≠ .halt) (hi : t.myStr.st ≠ .idle)
include hh hi

theorem csrWr_completes (h : writeReg s.cc s.cl n.val (s.rdS a) s = .ok t) : Completes (.csrWr gd n a) 8 s t :=
  completes_of_done rfl hr ((csrWrite_ok (csrCheck_allowed hn hv) h).trans (csrEnd_goesOn hh hi))

variable {v : Nat} (hread : readReg s.cc s.cl n.val s = .ok v)
include hread

/-- `csr.set` and `csr.clr`: the register takes what `f` makes of RWmask, the old value and S(A), and the destination the old value. -/
theorem csrModify_completes {i : Instr} {f : Word → Word → Word → Word} (hx : exec i = control gd 8 false (csrModify i d a n.val f))
    (h : writeReg s.cc s.cl n.val (f (rwMask n.val r s) (BitVec.ofNat 64 v) (s.rdS a)) s = .ok t) :
    Completes i 8 s (t.wrS d (BitVec.ofNat 64 v)) := by
  have strm : (t.wrS d (BitVec.ofNat 64 v)).myStr = t.myStr := setMe_myStr t _
  refine completes_of_done hx hr ((csrModify_ok (csrCheck_allowed hn hv) hread h).trans (csrEnd_goesOn ?_ ?_))
  · rwa [strm]
  · rwa [strm]
end
end

/-- Settles O27: the amax and time forms one by one, then the register forms by what the check and the register's own rules answer. -/
theorem amaxTimeAndControlRegisterFormsComplete : Obligations.AmaxTimeAndControlRegisterFormsComplete := by
  unfold Obligations.AmaxTimeAndControlRegisterFormsComplete
  constructor
  · intro gd d a x s hr
    exact ⟨mxRd_completes d x hr, mxWr_completes a x hr, mxWr_traps a x hr, mxClr_completes x hr, mxUpd_completes a x hr, timeRd_completes d hr⟩
  · intro gd d a n s hr
    refine ⟨fun hn f hf => csrForms_refused d a hr hf (csrCheck_unassigned hn), fun r hn => ⟨fun f hf hv hw => ?_, fun hv v h => ?_, fun hv => ?_⟩⟩
    · exact csrForms_refused d a hr hf (csrCheck_denied hn hv hw)
    · exact csrRd_completes d hr hn hv h
    · refine ⟨fun t h ⟨hh, hi⟩ => ?_, fun x h => csrWr_traps a hr hn hv h, fun v t hread ⟨hh, hi⟩ _ => ⟨fun h => ?_, fun h => ?_⟩⟩
      · exact csrWr_completes a hr hn hv hh hi h
      · exact csrModify_completes d a hr hn hv hh hi hread rfl h
      · exact csrModify_completes d a hr hn hv hh hi hread rfl h

end Sys2Proof.Proofs
end

section
/-! SUPPORT. Every meaning is gated by power (R95, R429). -/
namespace Sys2Proof.Machine

/-- With power a meaning answers a next state, and without it nothing (R429). -/
def AnswersWithPower (o : State → Out) : Prop :=
  ∀ s, (s.powered = true → ∃ t, o s = .next t) ∧ (s.powered = false → o s = .fault .unpowered)

theorem answersWithPower_control {gd : Guard} {len : Nat} {sup : Bool} {body : State → Eff} : AnswersWithPower (control gd len sup body) :=
  fun s => ⟨control_next gd len sup body s, control_unpowered gd len sup body s⟩

theorem answersWithPower_event {f : State → State} : AnswersWithPower (event f) :=
  fun s => ⟨fun hp => ⟨f s, event_runs f s hp⟩, event_unpowered f s⟩

theorem answersWithPower_dbgEvent {src : Option Nat} {op a0 a1 : Nat} : AnswersWithPower (dbgEvent src op a0 a1) := by
  cases src with
  | none => exact answersWithPower_event
  | some m => exact answersWithPower_event

/-- Every constructor but power-on is an instruction of a control core or an event, a record's issue among the events. -/
theorem exec_answersWithPower (i : Instr) (h : i ≠ .powerOn) : AnswersWithPower (exec i) := by
  cases i
  case powerOn => exact absurd rfl h
  case dbgHalt | dbgResume | dbgHaltAt | dbgHaltSc | dbgRdCsr | dbgRdMem | dbgRdStamp =>
    exact answersWithPower_dbgEvent
  case add | sub | mul | mulh | mulhu | div | divu | rem | remu | min | max | minu | maxu | and | or | xor | andn | sll | srl | sra | rol |
    clz | ctz | popc | brev | bswap | cmpEq | cmpNe | cmpLt | cmpGe | cmpLtu | cmpGeu | pand | por | pxor | pandn | pnot | pget | pset | sel
    | jr | jalr | addi | andi | ori | xori | slli | srli | srai | muli | cmpi | dbnz | br | call | hmov | hbind | hunb | hchk | hld | hget |
    hset | hoff | hslc | ld | st | updAdd | updMin | updMax | msaAdd | msaMax | msaMin | lpin | lunpin | tlk | tlkM | tins | tevc | gld |
    gst | gswp | gadd | gcas | semSig | semWait | semRd | tkPush | tkPop | tkCnt | barArv | barWait | barAra | licAcq | licRel | engStart |
    rdv | jend | bndMe | bndVe | bndCel | bndCes | fenceAcq | fenceRel | fenceFull | fenceMsa | mxRd | mxWr | mxClr | mxUpd | timeRd | trap
    | tret | brk | ctxSv | ctxLd | nop | li | lih | addl | ext | extu | dep | brl | calll | cmpl | ldOrd | stOrd | atomAdd | atomAnd |
    atomOr | atomXor | atomMin | atomMax | atomMinu | atomMaxu | atomSwp | atomCas | waddr | qClaim | qRing | csrRd | csrWr | csrSet |
    csrClr =>
    exact answersWithPower_control
  all_goals exact answersWithPower_event

end Sys2Proof.Machine
namespace Sys2Proof.Proofs
open Sys2Proof.Machine

/-- Settles O14: each meaning is gated by power, and power-on needs none. -/
theorem everyInstructionAnswers : Obligations.EveryInstructionAnswers := by
  intro i s
  by_cases h : i = .powerOn
  · subst h
    exact ⟨fun _ => ⟨powerOn s, rfl⟩, fun _ hne => absurd rfl hne⟩
  · obtain ⟨hon, hoff⟩ := exec_answersWithPower i h s
    exact ⟨hon, fun hp _ => hoff hp⟩

end Sys2Proof.Proofs
end

section
/-! SUPPORT. A control core's boundary by what its fetch answers (R82, R172, R378). -/
namespace Sys2Proof.Machine

/-- The step of a control core that runs, its agenda empty, is its instruction boundary. -/
theorem step_eq_settle_boundary {s : State} (ha : s.agenda = []) (hp : s.powered = true) (hr : canRun s = true) (hc : isCtl s.cur.2 = true) :
    step s = settle (boundary (latchReads s.cc s)) := by
  simp [step, ha, stepStream, hp, hr, hc, stepControl]

/-- What a boundary at which no trap is delivered and no instruction is held answers to a fetch. -/
def afterFetch (u : State) : Fetched → Out
  | .busy => .next (waitOn .other (setHeld none u))
  | .bad t => .next (trapHere t 4 (setHeld none u))
  | .got i => issue i u

theorem boundary_eq_afterFetch {u : State} (hd : deliver u.cc u.cl u = none) (hw : u.myStr.st ≠ .wait ∨ u.me.held = none) :
    boundary u = afterFetch u (fetchControl u u.cc u.pc) := by
  have hheld : (if u.myStr.st = .wait then u.me.held else none) = none := by
    split
    next h => exact hw.resolve_left (not_not_intro h)
    next => rfl
  rw [boundary, hd]
  simp only [hheld]
  cases fetchControl u u.cc u.pc with
  | busy => rfl
  | bad t => rfl
  | got i => rfl

section
variable {s : State} {c pc : Nat}

theorem fetchControl_beyond (h : 262144 ≤ pc) : fetchControl s c pc = .bad ⟨.illegal, 0⟩ := if_pos h

variable (h : pc < 262144)
include h

theorem fetchControl_loading (hl : loadingAt s c pc = true) : fetchControl s c pc = .busy := by
  simp [fetchControl, h, hl]

variable (hl : loadingAt s c pc = false)
include hl

theorem fetchControl_marked (hm : imMarked s c pc = true) : fetchControl s c pc = .bad ⟨.uncorrectable, 0⟩ := by
  simp [fetchControl, h, hl, hm]

variable (hm : imMarked s c pc = false)
include hm

theorem fetchControl_unassigned (hs : isLong (imWord s c pc) = false) (hn : decodeControl (imWord s c pc) 0 = none) :
    fetchControl s c pc = .bad ⟨.illegal, imWord s c pc⟩ := by
  simp [fetchControl, h, hl, hm, hs, hn]

/-! The second word of a long form. -/

variable (hs : isLong (imWord s c pc) = true)
include hs

theorem fetchControl_second_beyond (h' : 262144 ≤ pc + 4) : fetchControl s c pc = .bad ⟨.illegal, 0⟩ := by
  simp [fetchControl, hl, hm, hs, h.not_ge, h']

variable (h' : pc + 4 < 262144)
include h'

theorem fetchControl_second_loading (hl' : loadingAt s c (pc + 4) = true) : fetchControl s c pc = .busy := by
  simp only [fetchControl, hl, hm, hs, hl', h.not_ge, h'.not_ge]
  rfl

variable (hl' : loadingAt s c (pc + 4) = false)
include hl'

theorem fetchControl_second_marked (hm' : imMarked s c (pc + 4) = true) : fetchControl s c pc = .bad ⟨.uncorrectable, 0⟩ := by
  simp only [fetchControl, hl, hm, hs, hl', hm', h.not_ge, h'.not_ge]
  rfl

theorem fetchControl_second_unassigned (hm' : imMarked s c (pc + 4) = false)
    (hn : decodeControl (imWord s c pc) (imWord s c (pc + 4)) = none) :
    fetchControl s c pc = .bad ⟨.illegal, wordsInfo [imWord s c pc, imWord s c (pc + 4)]⟩ := by
  simp only [fetchControl, hl, hm, hs, hl', hm', hn, h.not_ge, h'.not_ge]
  rfl

end

end Sys2Proof.Machine
namespace Sys2Proof.Proofs
open Sys2Proof.Machine

/-- Settles O16: each refusal is what the fetch answers, and the boundary passes it on. -/
theorem fetchRefusals : Obligations.FetchRefusals := by
  intro s ha hp hr hc u hd hw w0 idle
  have hstep : ∀ {f : Fetched}, fetchControl u u.cc u.pc = f → step s = settle (afterFetch u f) := fun hf =>
    (step_eq_settle_boundary ha hp hr hc).trans (congrArg settle (hf ▸ boundary_eq_afterFetch hd hw))
  refine ⟨fun h => hstep (fetchControl_beyond h), fun h hl => hstep (fetchControl_loading h hl),
    fun h hl hm => hstep (fetchControl_marked h hl hm), fun h hl hm hs hn => hstep (fetchControl_unassigned h hl hm hs hn),
    fun h hl hm hs => ⟨fun h' => hstep (fetchControl_second_beyond h hl hm hs h'),
      fun h' hl' => hstep (fetchControl_second_loading h hl hm hs h' hl'),
      fun h' hl' hm' => hstep (fetchControl_second_marked h hl hm hs h' hl' hm'),
      fun h' hl' hm' hn => hstep (fetchControl_second_unassigned h hl hm hs h' hl' hm' hn)⟩⟩

end Sys2Proof.Proofs
end

section
/-! SUPPORT. Every operation of the model keeps memory canonical (R95; notes/assumptions/5.md): one rule for each, by what it answers.
`foo_mem` says that `foo` leaves memory alone, `foo_wf` that memory stays canonical; so do `keepsM_foo` of an effect, `keepsC_foo` of a checked
write, `keepsO_foo` of an act that may have to wait, `keepsE_foo` of an instruction's body, and `keepsOut_foo` of a meaning. -/
namespace Sys2Proof.Machine

/-! ## Rules for the shapes of the model's operations -/

/-- An effect that goes on from the state as it stands, which is canonical. -/
theorem KeepsM.read {β : Type} {f : State → M β} (h : ∀ s, Memory.wf s.mem = true → KeepsM (f s)) : KeepsM (MonadState.get >>= f) :=
  KeepsM.get_bind fun s hs => h s hs s hs

theorem KeepsM.set {t : State} (h : Memory.wf t.mem = true) : KeepsM (MonadStateOf.set t : M Unit) := fun _ _ => h

/-- An effect done under a condition, and what follows it in either case. -/
theorem KeepsM.when {α : Type} {p : Prop} [Decidable p] {m : M Unit} {f : Unit → M α} (hm : KeepsM m) (hf : ∀ a, KeepsM (f a)) :
    KeepsM (if p then m >>= f else f ()) := .ite (hm.bind hf) (hf ())

theorem KeepsM.map {α β : Type} {m : M α} {f : α → β} (hm : KeepsM m) : KeepsM (f <$> m) := hm.bind fun a => .pure (f a)

/-- Where an effect has ended, memory is canonical. -/
theorem KeepsM.ended {α : Type} {m : M α} {s t : State} {r : Except Stop α} (h : KeepsM m) (hs : Memory.wf s.mem = true) (e : m.go s = (r, t)) :
    Memory.wf t.mem = true := by
  have := show Memory.wf (m.go s).2.mem = true from h s hs
  rw [e] at this
  exact this

@[simp] theorem keepsM_pure {α : Type} (a : α) : KeepsM (pure a : M α) := .pure a
@[simp] theorem keepsM_ite {α : Type} {p : Prop} [Decidable p] {m n : M α} (hm : KeepsM m) (hn : KeepsM n) : KeepsM (if p then m else n) := .ite hm hn

/-- A fold of operations that leave memory alone. -/
@[simp] theorem foldl_mem_eq {α : Type} {f : State → α → State} (h : ∀ s a, (f s a).mem = s.mem) (l : List α) (s : State) :
    (l.foldl f s).mem = s.mem := foldl_mem (fun a s => f s a) (fun a s => h s a) l s

theorem foldl_wf {α : Type} {f : State → α → State} {l : List α} {s : State} (h : ∀ s a, Memory.wf s.mem = true → Memory.wf (f s a).mem = true)
    (hs : Memory.wf s.mem = true) : Memory.wf (l.foldl f s).mem = true := Keeps.foldl (fun a s hs => h s a hs) l s hs

@[simp] theorem ite_wf {p : Prop} [Decidable p] {a b : State} (ha : Memory.wf a.mem = true) (hb : Memory.wf b.mem = true) :
    Memory.wf (if p then a else b).mem = true := by
  split
  · exact ha
  · exact hb

theorem fst_wf {α : Type} {p : State × α} {t : State} {a : α} (h : Memory.wf p.1.mem = true) (e : p = (t, a)) : Memory.wf t.mem = true := by
  rw [e] at h
  exact h

/-- The state that a checked write of a register answers is canonical. -/
def KeepsC (c : Chk State) : Prop := ∀ t, c = .ok t → Memory.wf t.mem = true
/-- The state that an act answers, where it can be done, is canonical. -/
def KeepsO (o : Option State) : Prop := ∀ t, o = some t → Memory.wf t.mem = true
/-- The state in which an instruction's own effect ends. -/
def Eff.state : Eff → State
  | .done s => s
  | .jump s _ => s
  | .stay s _ => s
  | .trap s _ => s
  | .ended s => s
/-- An instruction's own effect leaves memory canonical. -/
def KeepsE (e : Eff) : Prop := Memory.wf e.state.mem = true

@[simp] theorem keepsC_ok (t : State) : KeepsC (.ok t) ↔ Memory.wf t.mem = true := ⟨fun h => h t rfl, fun h _ e => Except.ok.inj e ▸ h⟩
@[simp] theorem keepsC_pure (t : State) : KeepsC (pure t) ↔ Memory.wf t.mem = true := keepsC_ok t
@[simp] theorem keepsC_error (x : Trap) : KeepsC (.error x) := fun _ e => nomatch e
@[simp] theorem keepsC_fault (c : Cause) (n : Nat) : KeepsC (fault c n) := keepsC_error _
@[simp] theorem keepsO_some (t : State) : KeepsO (some t) ↔ Memory.wf t.mem = true := ⟨fun h => h t rfl, fun h _ e => Option.some.inj e ▸ h⟩
@[simp] theorem keepsO_none : KeepsO none := fun _ e => nomatch e
@[simp] theorem keepsE_done (s : State) : KeepsE (.done s) ↔ Memory.wf s.mem = true := .rfl
@[simp] theorem keepsE_jump (s : State) (n : Nat) : KeepsE (.jump s n) ↔ Memory.wf s.mem = true := .rfl
@[simp] theorem keepsE_stay (s : State) (w : Wait) : KeepsE (.stay s w) ↔ Memory.wf s.mem = true := .rfl
@[simp] theorem keepsE_trap (s : State) (t : Trap) : KeepsE (.trap s t) ↔ Memory.wf s.mem = true := .rfl
@[simp] theorem keepsE_ended (s : State) : KeepsE (.ended s) ↔ Memory.wf s.mem = true := .rfl

/-- The state that a meaning answers is canonical. -/
def KeepsOut (o : Out) : Prop := ∀ t, o = .next t → Memory.wf t.mem = true
@[simp] theorem keepsOut_next (t : State) : KeepsOut (.next t) ↔ Memory.wf t.mem = true := ⟨fun h => h t rfl, fun h _ e => Host.Outcome.next.inj e ▸ h⟩
@[simp] theorem keepsOut_fault (x : Fault) : KeepsOut (.fault x) := fun _ e => nomatch e

theorem KeepsC.bind {α : Type} {x : Chk α} {f : α → Chk State} (h : ∀ a, KeepsC (f a)) : KeepsC (x >>= f) := by
  cases x with
  | ok a => exact h a
  | error e => exact keepsC_error e

theorem KeepsO.bind {o : Option State} {f : State → Option State} (ho : KeepsO o) (h : ∀ t, Memory.wf t.mem = true → KeepsO (f t)) :
    KeepsO (o >>= f) := by
  cases o with
  | none => exact keepsO_none
  | some t => exact h t (ho t rfl)

theorem KeepsO.map {o : Option State} {f : State → State} (h : KeepsO o) (hf : Keeps f) : KeepsO (o.map f) := by
  cases o with
  | none => exact keepsO_none
  | some t => exact (keepsO_some _).mpr (hf t (h t rfl))

@[simp] theorem keepsE_ofChk_pure {s : State} {e : Eff} : KeepsE (Eff.ofChk s (pure e)) ↔ KeepsE e := .rfl

/-- A check before what follows it; a refusal leaves the state. -/
theorem keepsE_ofChk_bind {α : Type} {s : State} {c : Chk α} {f : α → Chk Eff} (hs : Memory.wf s.mem = true)
    (h : ∀ a, c = .ok a → KeepsE (Eff.ofChk s (f a))) : KeepsE (Eff.ofChk s (c >>= f)) := by
  cases c with
  | ok a => exact h a rfl
  | error x => exact hs

/-! The shared operations over memory, as rules for `simp`. -/

section
variable {s : State} (h : Memory.wf s.mem = true)
include h

@[simp] theorem physWr_wf {view a b} : Memory.wf (physWr s view a b).mem = true := keeps_physWr view a b s h
@[simp] theorem physStore_wf {view bs a} : Memory.wf (physStore s view a bs).mem = true := keeps_physStore view bs a s h

@[simp] theorem mergeElem_wf {u line e} : Memory.wf (mergeElem u line s e).mem = true := keeps_mergeElem u line e s h
@[simp] theorem mergeLine_wf {t line} : Memory.wf (mergeLine t line s).mem = true := keeps_mergeLine t line s h
@[simp] theorem recallHolders_wf {line} : Memory.wf (recallHolders line s).mem = true := keeps_recallHolders line s h
@[simp] theorem writeBack_wf {t line} : Memory.wf (writeBack t line s).mem = true := keeps_writeBack t line s h
@[simp] theorem dropLine_wf {t line} : Memory.wf (dropLine t line s).mem = true := keeps_dropLine t line s h
@[simp] theorem evictLine_wf {t line} : Memory.wf (evictLine t line s).mem = true := keeps_evictLine t line s h
@[simp] theorem writeBackAll_wf {t} : Memory.wf (writeBackAll t s).mem = true := keeps_writeBackAll t s h
@[simp] theorem dropAll_wf {t} : Memory.wf (dropAll t s).mem = true := keeps_dropAll t s h
@[simp] theorem makeRoom_wf {t line has} : Memory.wf (makeRoom t line has s).mem = true := keeps_makeRoom t line has s h
@[simp] theorem fillLine_wf {t line view} : Memory.wf (fillLine t line view s).mem = true := keeps_fillLine t line view s h

@[simp] theorem toHome_wf {t flat} : Memory.wf (toHome t flat s).mem = true := keeps_toHome t flat s h
@[simp] theorem landOne_wf {c r} : Memory.wf (landOne c r s).mem = true := keeps_landOne c r s h
@[simp] theorem landEng_wf {c n} : Memory.wf (landEng c n s).mem = true := keeps_landEng c n s h

@[simp] theorem landFirst_wf {c} : Memory.wf (landFirst c s).mem = true := keeps_landFirst c s h

end

/-! ## The operations -/

/-! ### Control, effects and traps -/

@[simp] theorem setStr_mem (s : State) (c : Nat) (x : Stream) (t : Strm) : (s.setStr c x t).mem = s.mem := rfl
@[simp] theorem setCtlOf_mem (s : State) (c : Nat) (l : Leader) (t : Ctl) : (s.setCtlOf c l t).mem = s.mem := rfl
@[simp] theorem setSeqOf_mem (s : State) (c : Nat) (e : Eng) (t : Seq) : (s.setSeqOf c e t).mem = s.mem := rfl
@[simp] theorem setMyCore_mem (s : State) (k : Core) : (s.setMyCore k).mem = s.mem := rfl
@[simp] theorem note_mem (s : State) (src kind payload : Nat) : (s.note src kind payload).mem = s.mem := by unfold State.note; split <;> rfl
@[simp] theorem noteOpen_mem (s : State) (src kind : Nat) : (s.noteOpen src kind).mem = s.mem := by simp [State.noteOpen]
@[simp] theorem cutOpen_mem (a n : Nat) (s : State) : (cutOpen a n s).mem = s.mem := rfl
@[simp] theorem leaveOpen_mem (a n : Nat) (s : State) : (leaveOpen a n s).mem = s.mem := rfl
@[simp] theorem actBy_mem (s : State) (key agent : Nat) : (s.actBy key agent).mem = s.mem := rfl
@[simp] theorem logEv_mem (s : State) (e : RepEv) : (s.logEv e).mem = s.mem := rfl
@[simp] theorem unlogEv_mem (s : State) (e : RepEv) : (s.unlogEv e).mem = s.mem := rfl

@[simp] theorem keepsO_repTurn {key agent : Nat} {s : State} (h : Memory.wf s.mem = true) : KeepsO (repTurn key agent s) := by
  unfold repTurn
  repeat' split
  all_goals simp [h]

@[simp] theorem keepsO_actTurn {key agent : Nat} {s : State} (h : Memory.wf s.mem = true) : KeepsO (actTurn key agent s) := by
  unfold actTurn
  exact .map (by simp [h]) fun s hs => hs

@[simp] theorem repValue_wf {agent v : Nat} {s : State} (h : Memory.wf s.mem = true) : Memory.wf (repValue agent v s).1.mem = true := by
  unfold repValue
  repeat' split
  all_goals simp [h]

@[simp] theorem keepsO_repArrival {e : RepEv} {chan : RepEv → Bool} {s : State} (h : Memory.wf s.mem = true) : KeepsO (repArrival e chan s) := by
  unfold repArrival
  repeat' split
  all_goals simp [h]

@[simp] theorem takeTrap_mem (c : Nat) (l : Leader) (t : Trap) (stream : Nat) (eng : Bool) (pc next : Nat) (s : State) :
    (takeTrap c l t stream eng pc next s).mem = s.mem := by simp only [takeTrap]; split <;> simp

@[simp] theorem tretTo_mem (s : State) : (tretTo s).mem = s.mem := rfl

@[simp] theorem engineTrap_mem (c : Nat) (e : Eng) (t : Trap) (pc beat : Nat) (rst : List Nat) (s : State) :
    (engineTrap c e t pc beat rst s).mem = s.mem := by simp [engineTrap]

@[simp] theorem noWant_mem (c : Nat) (s : State) : (noWant c s).mem = s.mem := rfl

@[simp] theorem dropWant_mem (c : Nat) (x : Stream) (w : Wait) (s : State) : (dropWant c x w s).mem = s.mem := by
  simp only [dropWant]
  repeat' split
  all_goals simp

@[simp] theorem endWait_mem (c : Nat) (x : Stream) (abandoned : Bool) (s : State) : (endWait c x abandoned s).mem = s.mem := by
  simp only [endWait]
  repeat' split
  all_goals simp

@[simp] theorem keepsO_deliver {c : Nat} {l : Leader} {s : State} (h : Memory.wf s.mem = true) : KeepsO (deliver c l s) := by
  simp only [deliver]
  repeat' split
  all_goals simp [h]

@[simp] theorem waitOn_mem (w : Wait) (s : State) : (waitOn w s).mem = s.mem := rfl
@[simp] theorem trapHere_mem (t : Trap) (len : Nat) (s : State) : (trapHere t len s).mem = s.mem := by simp [trapHere]
@[simp] theorem stepTrap_mem (was : Ctl) (pc : Nat) (s : State) : (stepTrap was pc s).mem = s.mem := by unfold stepTrap; split <;> simp

@[simp] theorem finish_wf {was : Ctl} {pc len : Nat} {e : Eff} (h : KeepsE e) : Memory.wf (e.finish was pc len).mem = true := by
  cases e <;> simpa [Eff.finish, KeepsE, Eff.state] using h

@[simp] theorem keepsM_needM (ok : Bool) (c : Cause) (info : Nat) : KeepsM (needM ok c info) := by
  unfold needM
  exact .ite (.pure _) (.trapM _ _)

@[simp] theorem keepsM_repM (k : ObjKind) (n agent : Nat) (act : Bool) : KeepsM (repM k n agent act) := by
  unfold repM
  refine .read fun s hs => ?_
  split
  next t e =>
    split at e
    · exact .set (keepsO_actTurn hs _ e)
    · exact .set (keepsO_repTurn hs _ e)
  · exact .waitM _

@[simp] theorem releaseLinks_mem (s : State) : (releaseLinks s).mem = s.mem := by unfold releaseLinks; split <;> simp

@[simp] theorem sendAsk_mem (c : Nat) (x : Stream) (m : Option Msg) (remote : Option Nat) (s : State) : (sendAsk c x m remote s).mem = s.mem := by
  cases m with
  | none => rfl
  | some m => exact emit_mem m s

theorem keepsE_ofM {m : M Unit} {s : State} (hm : KeepsM m) (h : Memory.wf s.mem = true) : KeepsE (Eff.ofM m s) := by
  unfold Eff.ofM
  split
  next e => exact hm.ended h e
  next e => exact hm.ended h e
  next e => exact hm.ended h e
  next t e =>
    have ht := hm.ended h e
    simp [ht]

theorem keepsOut_control {gd : Guard} {len : Nat} {sup : Bool} {body : State → Eff} {s : State} (h : Memory.wf s.mem = true) (hb : KeepsE (body s)) :
    KeepsOut (control gd len sup body s) := by
  unfold control
  split
  · simp
  · split
    · simp [h]
    · split
      · simp [h]
      · simp [hb]

theorem keepsOut_event {f : State → State} {s : State} (h : Memory.wf (f s).mem = true) : KeepsOut (event f s) := by
  unfold event
  split <;> simp [h]

@[simp] theorem asStream_wf {c : Nat} {x : Stream} {f : State → State} {s : State} (hf : Keeps f) (h : Memory.wf s.mem = true) :
    Memory.wf (asStream c x f s).mem = true := hf _ h

@[simp] theorem pass_mem (n : Nat) (s : State) : (pass n s).mem = s.mem := rfl

/-! ### Arith -/

@[simp] theorem keepsOut_setReg {gd : Guard} {len : Nat} {d : SReg} {f : State → Word} {s : State} (h : Memory.wf s.mem = true) :
    KeepsOut (setReg gd len d f s) := keepsOut_control h (by simp [h])

/-! ### Operands and their places -/

@[simp] theorem cacheLt_mem (s : State) (w : Who) (n : Nat) (e : Entry) : (cacheLt s w n e).mem = s.mem := rfl
@[simp] theorem cacheTr_mem (s : State) (tower root va : Nat) (x : Nat × Nat) : (cacheTr s tower root va x).mem = s.mem := rfl

/-! ### Accesses, results in flight and caches -/

@[simp] theorem clearRels_mem (flat n : Nat) (s : State) : (clearRels flat n s).mem = s.mem := rfl
@[simp] theorem countErr_mem (level l : Nat) (s : State) : (countErr level l s).mem = s.mem := rfl

@[simp] theorem setClock_mem (s : State) (agent : Nat) (k : Clock) : (setClock s agent k).mem = s.mem := by
  simp only [setClock]
  repeat' split
  all_goals simp

@[simp] theorem claimAll_mem (s : State) (line b : Nat) (k : Clock) (dom : Nat) : (claimAll s line b k dom).mem = s.mem := rfl

@[simp] theorem keepsM_raceCheck (w : Who) (p : Place) (flat : Nat) (view : Option (Nat × Nat)) (write : Bool) :
    KeepsM (raceCheck w p flat view write) := by
  unfold raceCheck
  refine .ite (.pure _) (.read fun s hs => .ite ?_ ?_)
  · split
    · exact keepsM_raised _ _ _
    · exact .set hs
  · extract_lets -underBinder line guest miss checked
    have hc : ∀ u, KeepsM (checked u) := fun u => by
      refine .read fun s hs => ?_
      extract_lets -underBinder s1 own v key claim
      have h1 : Memory.wf s1.mem = true := ite_wf (fillLine_wf hs) hs
      clear_value s1 own claim
      split
      split
      · exact keepsM_raised _ _ _
      · refine .ite ?_ (.set (by simp [h1]))
        extract_lets -underBinder src t
        cases find t.guest line with
        | none => exact .set (by simp [h1])
        | some gl => exact .set (by simp [h1])
    clear_value checked
    refine .ite ?_ (hc _)
    split
    · exact (keepsM_raised _ _ _).bind hc
    · exact (KeepsM.pure _).bind hc

@[simp] theorem resetStamps_mem (s : State) : (resetStamps s).mem = s.mem := rfl

@[simp] theorem undoStamp_mem (e : Option Nat × Nat × Stamp × Stamp) (s : State) : (undoStamp e s).mem = s.mem := by
  simp only [undoStamp]
  repeat' split
  all_goals simp

@[simp] theorem acquireRels_mem (agent : Nat) (e : Scope) (rels : List Rel) (s : State) :
    (acquireRels agent e rels s).mem = s.mem := by simp [acquireRels]

@[simp] theorem releasePass_wf {agent : Nat} {s : State} (h : Memory.wf s.mem = true) : Memory.wf (releasePass agent s).1.mem = true := by
  unfold releasePass
  simp [h]

@[simp] theorem handOn_wf {agent : Nat} {kept : Option Pass} {s : State} (h : Memory.wf s.mem = true) :
    Memory.wf (handOn agent kept s).1.mem = true := by
  unfold handOn
  repeat' split
  all_goals simp [h]

@[simp] theorem keepsM_readElem (w : Who) (l : Loc) : KeepsM (readElem w l) := by
  unfold readElem
  exact .bind (keepsM_raceCheck _ _ _ _ _) fun _ => .bind (keepsM_readLoc _ _ _) fun bs => .pure _

@[simp] theorem keepsM_resolve (w : Who) (p : Place) (a : Acc) : KeepsM (resolve w p a) := by
  unfold resolve
  refine .read fun s hs => .ite (keepsM_pastDump _ _) ?_
  refine .ite (keepsM_pastDump _ _) ?_
  split
  · exact keepsM_pastDump _ _
  · refine .ite ?_ ?_
    · refine .bind (.waitM _) fun _ => ?_
      split
      · exact .trapM _ _
      · refine .bind (.set hs) fun _ => .bind (.needM _ _ _) fun _ => ?_
        exact .bind (.needM _ _ _) fun _ => .ite (.bind (.waitM _) fun _ => keepsM_pastDump _ _) (keepsM_pastDump _ _)
    · split
      · exact .trapM _ _
      · refine .bind (.set hs) fun _ => .bind (.needM _ _ _) fun _ => ?_
        exact .bind (.needM _ _ _) fun _ => .ite (.bind (.waitM _) fun _ => keepsM_pastDump _ _) (keepsM_pastDump _ _)

@[simp] theorem keepsM_locate (w : Who) (h : Handle) (c : Coord) (a : Acc) (opq : Bool) (okTag spaces : Nat → Bool) :
    KeepsM (locate w h c a opq okTag spaces) := by
  unfold locate
  exact .read fun s hs => .bind (.liftC _) fun p => .bind (.modify fun s hs => hs) fun _ => .ite (.pure _) (keepsM_resolve _ _ _)

@[simp] theorem dropPin_mem (r : Result) (s : State) : (dropPin r s).mem = s.mem := by unfold dropPin; split <;> rfl
@[simp] theorem pend_mem (c n : Nat) (d : Dest) (s : State) : (pend c n d s).mem = s.mem := rfl

@[simp] theorem keepsM_pendElem (w : Who) (l : Loc) (x : Nat) : KeepsM (pendElem w l x) := by
  unfold pendElem
  exact .bind (keepsM_elemBytes _ _ _) fun _ => .modify fun s hs => foldl_wf (fun s a hs => hs) hs

theorem keepsM_whole {α : Type} {m : M α} (h : KeepsM m) : KeepsM (whole m) := fun s hs => by
  show Memory.wf (whole m s).2.mem = true
  unfold whole
  split
  next e => exact h.ended hs e
  next => exact hs
  next => exact hs
  next => exact foldl_wf (fun s a hs => by simp [hs]) hs

/-! ### Semaphores, tokens and objects -/

@[simp] theorem holdHost_mem (flat : Nat) (s : State) : (holdHost flat s).mem = s.mem := by unfold holdHost; split <;> rfl

@[simp] theorem keepsM_hostGate (w : Who) (l : Loc) (atomic reply : Bool) : KeepsM (hostGate w l atomic reply) := by
  unfold hostGate
  refine .read fun s hs => .ite (.pure _) ?_
  refine .ite ?_ ?_
  · split
    · exact .ite (.pure _) (.throw _)
    · exact .ite (.pure _) (.ite (.throw _) (.waitM _))
    · exact .pure _
    · refine .ite ?_ (.ite (.pure _) (.throw _))
      split
      · exact .modify fun s hs => (by simp [hs])
      · exact .trapM _ _
      · exact .trapM _ _
  · refine .ite (.pure _) ?_
    split
    · exact .throw _
    · refine .ite ?_ (.throw _)
      split
      · exact .trapM _ _
      · exact .pure _
    · exact .waitM _

@[simp] theorem keepsM_plainLoad (w : Who) (l : Loc) : KeepsM (plainLoad w l) := by
  unfold plainLoad
  exact .bind (keepsM_hostGate _ _ _ _) fun _ => keepsM_readElem _ _

@[simp] theorem keepsM_plainStore (w : Who) (l : Loc) (x : Nat) : KeepsM (plainStore w l x) := by
  unfold plainStore
  refine .read fun s hs => .bind (keepsM_hostGate _ _ _ _) fun _ => .bind (keepsM_raceCheck _ _ _ _ _) fun _ => ?_
  exact .bind (keepsM_elemBytes _ _ _) fun bs => .bind (keepsM_writeLoc _ _ _) fun _ => keepsM_posted _ _ _

@[simp] theorem keepsM_remoteTrap {α : Type} (p : Place) (status : Nat) : KeepsM (remoteTrap p status : M α) := .trapM _ _

@[simp] theorem keepsM_remoteDo (w : Who) (p : Place) (rel : Bool) (msg : RemoteAcc → Msg) (bs : List Byte) (slot : Nat) :
    KeepsM (remoteDo w p rel msg bs slot) := by
  have answered (s : State) : KeepsM (match ansOf s w.agent with
      | .remote 0 => pure ()
      | .remote 0x10 => trapM .tokenExpired (slot % 16 + ePeer p.entry * 2 ^ 4)
      | .remote st => remoteTrap p st
      | _ => waitM (.own 1)) := by
    split
    · exact .pure _
    · exact .trapM _ _
    · exact keepsM_remoteTrap _ _
    · exact .waitM _
  unfold remoteDo
  refine .read fun s _ => .ite (.ite ((KeepsM.waitM _).bind fun _ => ?_) ?_) (answered s)
  · exact (KeepsM.throw _).bind fun _ => answered s
  · exact (KeepsM.throw _).bind fun _ => answered s

@[simp] theorem setRels_mem (t flat : Nat) (rs : List Rel) (s : State) : (setRels t flat rs s).mem = s.mem := by
  simp only [setRels]
  repeat' split
  all_goals simp

@[simp] theorem setHomeRels_mem (flat : Nat) (rs : List Rel) (s : State) : (setHomeRels flat rs s).mem = s.mem := rfl
@[simp] theorem mapStr_mem (agent : Nat) (f : Strm → Strm) (s : State) : (mapStr agent f s).mem = s.mem := by unfold mapStr; split <;> rfl
@[simp] theorem saw_mem (agent : Nat) (rs : List Rel) (s : State) : (saw agent rs s).mem = s.mem := by simp [saw]

@[simp] theorem keepsM_takeRels (agent : Nat) (o : Ord) (e : Scope) (rs : List Rel) : KeepsM (takeRels agent o e rs) := by
  unfold takeRels
  refine .modify fun s hs => ?_
  split
  · simp [hs]
  · split
    · exact hs
    · simp [hs]

@[simp] theorem freshLine_wf {t flat : Nat} {s : State} (h : Memory.wf s.mem = true) : Memory.wf (freshLine t flat s).mem = true := by
  unfold freshLine
  repeat' split
  all_goals simp [h]

@[simp] theorem keepsM_loadOrd (w : Who) (l : Loc) (o : Ord) (e : Scope) : KeepsM (loadOrd w l o e) := by
  unfold loadOrd
  refine .bind (keepsM_hostGate _ _ _ _) fun _ => .ite ?_ ?_
  · refine .bind (keepsM_performAcquire _ _) fun _ => .ite ?_ ?_
    · refine .bind (.modify fun s hs => (by simp [hs])) fun _ => .bind (keepsM_repM _ _ _ _) fun _ => ?_
      exact .bind (keepsM_readLoc _ _ _) fun bs => .read fun s hs => .bind (keepsM_takeRels _ _ _ _) fun _ => .pure _
    · refine .bind (keepsM_repM _ _ _ _) fun _ => ?_
      exact .bind (keepsM_readLoc _ _ _) fun bs => .read fun s hs => .bind (keepsM_takeRels _ _ _ _) fun _ => .pure _
  · refine .ite ?_ ?_
    · refine .bind (.modify fun s hs => (by simp [hs])) fun _ => .bind (keepsM_repM _ _ _ _) fun _ => ?_
      exact .bind (keepsM_readLoc _ _ _) fun bs => .read fun s hs => .bind (keepsM_takeRels _ _ _ _) fun _ => .pure _
    · refine .bind (keepsM_repM _ _ _ _) fun _ => ?_
      exact .bind (keepsM_readLoc _ _ _) fun bs => .read fun s hs => .bind (keepsM_takeRels _ _ _ _) fun _ => .pure _

@[simp] theorem keepsM_performIf (w : Who) (x1 : Option Scope) : KeepsM (performIf w x1) := by
  unfold performIf
  split
  · exact keepsM_performRelease _ _
  · exact .pure _

@[simp] theorem withRel_wf {agent : Nat} {e : Option Scope} {rs : List Rel} {kept : Option Pass} {s : State} (h : Memory.wf s.mem = true) :
    Memory.wf (withRel agent e rs s kept).1.mem = true := by
  simp only [withRel]
  repeat' split
  all_goals simp [h]

@[simp] theorem keepsM_storeOrd (w : Who) (l : Loc) (o : Ord) (e : Scope) (x : Nat) : KeepsM (storeOrd w l o e x) := by
  unfold storeOrd
  refine .read fun s hs => .bind (keepsM_performIf _ _) fun _ => .read fun s1 hs1 => .bind (keepsM_hostGate _ _ _ _) fun _ => ?_
  refine .bind (keepsM_repM _ _ _ _) fun _ => .read fun s2 hs2 => .bind (keepsM_elemBytes _ _ _) fun bs => .bind (keepsM_writeLoc _ _ _) fun _ => ?_
  refine .bind (keepsM_posted _ _ _) fun _ => .bind (.modify fun s hs => (by simp [hs])) fun _ => ?_
  exact .ite (.modify fun s hs => (by simp [hs])) (.pure _)

@[simp] theorem keepsM_homeRead (w : Who) (l : Loc) (n : Nat) : KeepsM (homeRead w l n) := by
  unfold homeRead
  refine .bind ?_ fun _ => .read fun s hs => .bind (.needM _ _ _) fun _ => .pure _
  refine .modify fun s hs => ?_
  split
  · exact hs
  · simp [hs]

@[simp] theorem keepsM_homeWrite (l : Loc) (n x : Nat) : KeepsM (homeWrite l n x) := .modify fun s hs => by
  simp only
  split
  · exact memStore_wf _ _ _ (by simp [hs])
  · exact physStore_wf (by simp [hs])

@[simp] theorem keepsM_atomicAt (w : Who) (l : Loc) (o : Ord) (e : Scope) (f : Nat → Option Nat) (kept : Option Pass) :
    KeepsM (atomicAt w l o e f kept) := by
  unfold atomicAt
  refine .read fun s hs => .bind (keepsM_performIf _ _) fun _ => .bind (keepsM_hostGate _ _ _ _) fun _ => .ite ?_ ?_
  · refine .bind (keepsM_performAcquire _ _) fun _ => .bind (keepsM_repM _ _ _ _) fun _ => .bind (keepsM_homeRead _ _ _) fun old => ?_
    refine .read fun s1 hs1 => .bind (keepsM_takeRels _ _ _ _) fun _ => ?_
    split
    · exact .pure _
    · exact .bind (keepsM_homeWrite _ _ _) fun _ => .bind (.modify fun s hs => (by simp [hs])) fun _ => .pure _
  · refine .bind (keepsM_repM _ _ _ _) fun _ => .bind (keepsM_homeRead _ _ _) fun old => .read fun s1 hs1 => ?_
    refine .bind (keepsM_takeRels _ _ _ _) fun _ => ?_
    split
    · exact .pure _
    · exact .bind (keepsM_homeWrite _ _ _) fun _ => .bind (.modify fun s hs => (by simp [hs])) fun _ => .pure _

@[simp] theorem updateNow_wf {w : Who} {l : Loc} {op : UOp} {x : Nat} {s : State} (h : Memory.wf s.mem = true) :
    Memory.wf (updateNow w l op x s).mem = true := by
  unfold updateNow
  extract_lets -underBinder line s1 same s2 s3 t u k v s4
  have h1 : Memory.wf s1.mem = true := ite_wf (dropLine_wf h) h
  have h2 : Memory.wf s2.mem = true := ite_wf h1 (mergeLine_wf h1)
  have h4 : Memory.wf s4.mem = true := makeRoom_wf h2
  exact ite_wf (mergeLine_wf h4) h4

@[simp] theorem keepsM_updateAt (w : Who) (l : Loc) (op : UOp) (x : Nat) : KeepsM (updateAt w l op x) := by
  unfold updateAt
  exact .read fun s hs => .ite (.bind (.waitM _) fun _ => .set (by simp [hs])) (.set (by simp [hs]))

@[simp] theorem keepsM_msaAt (w : Who) (l : Loc) (op : UOp) (x : Nat) : KeepsM (msaAt w l op x) := by
  unfold msaAt
  exact .modify fun s hs => (by simp [hs])

@[simp] theorem unpinEntry_mem (key : Nat) (s : State) : (unpinEntry key s).mem = s.mem := rfl

@[simp] theorem setLinePins_mem (t line n : Nat) (s : State) : (setLinePins t line n s).mem = s.mem := by
  simp only [setLinePins]
  repeat' split
  all_goals simp

@[simp] theorem keepsM_cachePlace (w : Who) (h : Handle) (c : Coord) : KeepsM (cachePlace w h c) := by
  unfold cachePlace
  exact .read fun s hs => .bind (.liftC _) fun p => .bind (.modify fun s hs => hs) fun _ => .bind (.needM _ _ _) fun _ => .pure _

/-! ### Barriers -/

@[simp] theorem takePass_mem (agent : Nat) (p : Pass) (s : State) : (takePass agent p s).mem = s.mem := by simp [takePass]
@[simp] theorem takeFrontier_mem (agent : Nat) (f : Frontier) (s : State) : (takeFrontier agent f s).mem = s.mem := by simp [takeFrontier]

@[simp] theorem keepsO_tokenPush {c agent k : Nat} {kept : Option Pass} {s : State} (h : Memory.wf s.mem = true) :
    KeepsO (tokenPush c agent k s kept) := by
  unfold tokenPush
  split
  · simp
  · exact .bind (by simp [h]) fun t ht => (by simp [ht])

@[simp] theorem keepsO_tokenPop {c agent k : Nat} {s : State} (h : Memory.wf s.mem = true) : KeepsO (tokenPop c agent k s) := by
  unfold tokenPop
  split
  · simp
  · exact .bind (by simp [h]) fun t ht => (by simp [ht])

@[simp] theorem keepsO_semSignal {c agent k n : Nat} {kept : Option Pass} {s : State} (h : Memory.wf s.mem = true) :
    KeepsO (semSignal c agent k n s kept) := by
  unfold semSignal
  split
  · simp
  · exact .bind (by simp [h]) fun t ht => (by simp [ht])

@[simp] theorem keepsO_semTake {c agent k n : Nat} {s : State} (h : Memory.wf s.mem = true) : KeepsO (semTake c agent k n s) := by
  unfold semTake
  dsimp only
  split
  · simp
  · exact .bind (by simp [h]) fun t ht => (by simp [ht])

@[simp] theorem bumpDgen_mem (s : State) (lvl inst : Nat) : (bumpDgen s lvl inst).mem = s.mem := by simp only [bumpDgen]; split <;> simp
@[simp] theorem advanceDgen_mem (lvl inst : Nat) (s : State) : (advanceDgen lvl inst s).mem = s.mem := by simp [advanceDgen]
@[simp] theorem completeGroup_mem (n : Nat) (s : State) : (completeGroup n s).mem = s.mem := by simp only [completeGroup]; split <;> simp
@[simp] theorem completeTree_mem (n : Nat) (s : State) : (completeTree n s).mem = s.mem := by simp [completeTree]

@[simp] theorem tryComplete_mem (n : Nat) (s : State) : (tryComplete n s).mem = s.mem := by
  simp only [tryComplete]
  repeat' split
  all_goals simp

@[simp] theorem keepsM_needMember (n half : Nat) : KeepsM (needMember n half) := by
  unfold needMember
  exact .read fun s hs => .needM _ _ _

@[simp] theorem keepsM_arriveGroup (n : Nat) : KeepsM (arriveGroup n) := by
  unfold arriveGroup
  refine .bind (keepsM_needMember _ _) fun _ => .read fun s hs => .ite ?_ ?_
  · exact .bind (.waitM _) fun _ => .bind (keepsM_performRelease _ _) fun _ => .bind (keepsM_repM _ _ _ _) fun _ => .modify fun s hs => (by simp [hs])
  · exact .bind (keepsM_performRelease _ _) fun _ => .bind (keepsM_repM _ _ _ _) fun _ => .modify fun s hs => (by simp [hs])

@[simp] theorem keepsM_waitGroup (n : Nat) : KeepsM (waitGroup n) := by
  unfold waitGroup
  refine .bind (keepsM_needMember _ _) fun _ => .read fun s hs => ?_
  refine .ite (.bind (.waitM _) fun _ => .bind (keepsM_performAcquire _ _) fun _ => .modify fun s hs => hs) ?_
  exact .bind (keepsM_performAcquire _ _) fun _ => .modify fun s hs => hs

/-! ### Jobs and licences -/

@[simp] theorem releaseFrom_wf {agent t : Nat} {s : State} (h : Memory.wf s.mem = true) : Memory.wf (releaseFrom agent t s).1.mem = true := by
  unfold releaseFrom
  simp [h]

@[simp] theorem startNow_wf {a : Start} {s : State} (h : Memory.wf s.mem = true) : Memory.wf (startNow a s).mem = true := by
  simp only [startNow]
  rw [noteOpen_mem, setCore_mem]
  split
  · rw [startTable_mem]
    simp [h]
  · simp [h]

@[simp] theorem startOrKeep_wf {a : Start} {s : State} (h : Memory.wf s.mem = true) : Memory.wf (startOrKeep a s).mem = true := by
  unfold startOrKeep
  repeat' split
  all_goals simp [h]

@[simp] theorem report_wf {c : Nat} {l : Leader} {faulted : Bool} {s : State} (h : Memory.wf s.mem = true) :
    Memory.wf (report c l faulted s).mem = true := by
  simp only [report]
  repeat' split
  all_goals simp [h]

@[simp] theorem lapse_mem (c : Nat) (s : State) : (lapse c s).mem = s.mem := by simp only [lapse]; split <;> simp
@[simp] theorem lapseAll_mem (s : State) : (lapseAll s).mem = s.mem := by simp [lapseAll]

@[simp] theorem endJob_wf {c : Nat} {l : Leader} {faulted : Bool} {s : State} (h : Memory.wf s.mem = true) :
    Memory.wf (endJob c l faulted s).mem = true := by
  unfold endJob
  simp [h]

@[simp] theorem keepsM_claimGussets : KeepsM (claimGussets) := by
  unfold claimGussets
  exact .read fun s hs => .ite (.set hs) (.needM _ _ _)

@[simp] theorem keepsM_gussetRead (g : Nat) : KeepsM (gussetRead g) := by
  unfold gussetRead
  refine .read fun s hs => ?_
  split
  dsimp only
  split
  · exact .bind (.set (by simp [hs])) fun _ => .pure _
  · exact .pure _

@[simp] theorem keepsM_gussetWrite (g : Nat) (v : Word) : KeepsM (gussetWrite g v) := by
  unfold gussetWrite
  exact .modify fun s hs => (by simp [hs])

@[simp] theorem denyWaits_mem (c : Nat) (s : State) : (denyWaits c s).mem = s.mem := by
  simp only [denyWaits]
  rw [foldl_mem (fun x s => _)]
  · simp
  · intro x s
    split
    · simp
    · split <;> simp

@[simp] theorem serveFree_mem (p : Nat) (s : State) : (serveFree p s).mem = s.mem := by
  simp only [serveFree]
  split
  · rfl
  · split
    · simp
    · split <;> simp

@[simp] theorem wantLic_mem (c : Nat) (s : State) : (wantLic c s).mem = s.mem := by simp [wantLic]
@[simp] theorem setDisable_mem (p : Nat) (b : Bool) (s : State) : (setDisable p b s).mem = s.mem := by simp [setDisable]

@[simp] theorem reinject_mem (c n : Nat) (s : State) : (reinject c n s).mem = s.mem := by
  simp only [reinject]
  repeat' split
  all_goals simp

@[simp] theorem dropWants_mem (c : Nat) (x : Stream) (s : State) : (dropWants c x s).mem = s.mem := by simp only [dropWants]; split <;> simp
@[simp] theorem dropResv_mem (c : Nat) (x : Stream) (s : State) : (dropResv c x s).mem = s.mem := by simp only [dropResv]; split <;> simp

@[simp] theorem unlicensed_mem (c : Nat) (s : State) : (unlicensed c s).mem = s.mem := by
  simp only [unlicensed]
  repeat' split
  all_goals simp

@[simp] theorem releaseLic_mem (c : Nat) (s : State) : (releaseLic c s).mem = s.mem := by
  simp only [releaseLic]
  repeat' split
  all_goals simp

@[simp] theorem drainEnd_wf {p : Nat} {s : State} (h : Memory.wf s.mem = true) : Memory.wf (drainEnd p s).mem = true := by
  simp only [drainEnd]
  repeat' split
  all_goals simp [h]

@[simp] theorem handoverEnd_mem (p : Nat) (s : State) : (handoverEnd p s).mem = s.mem := by simp only [handoverEnd]; split <;> simp

/-! ### Gussets and the bobbin -/

theorem keepsOut_regEvent {n : Nat} {sup : Bool} {f : State → Chk State} {s : State} (h : Memory.wf s.mem = true) (hf : KeepsC (f s)) :
    KeepsOut (regEvent n sup f s) := by
  refine keepsOut_event ?_
  split
  · simp [h]
  · split
    next t e => exact hf t e
    next => simp [h]

@[simp] theorem setObj_mem (d k : Nat) (o : Obj) (s : State) : (setObj d k o s).mem = s.mem := rfl
@[simp] theorem freeObj_mem (d k : Nat) (s : State) : (freeObj d k s).mem = s.mem := rfl

@[simp] theorem repValue_mem (agent v : Nat) (s : State) : (repValue agent v s).1.mem = s.mem := by
  unfold repValue
  split
  · simp
  · split
    · split <;> simp
    · rfl

@[simp] theorem offload_mem (d k : Nat) (s : State) : (offload d k s).mem = s.mem := by
  unfold offload
  split
  · simp
  · rfl

@[simp] theorem bobbinMove_mem (d : Nat) (s : State) : (bobbinMove d s).mem = s.mem := by
  simp only [bobbinMove]
  repeat' split
  all_goals simp

@[simp] theorem prefetchKey_mem (d k : Nat) (s : State) : (prefetchKey d k s).mem = s.mem := by
  simp only [prefetchKey]
  repeat' split
  all_goals simp

@[simp] theorem prefetchTag_mem (d tag : Nat) (s : State) : (prefetchTag d tag s).mem = s.mem := by simp [prefetchTag]

@[simp] theorem keepsC_wrBobKeep {d : Nat} {v : Word} {s : State} (h : Memory.wf s.mem = true) : KeepsC (wrBobKeep d v s) := by
  unfold wrBobKeep
  dsimp only
  exact .bind fun a => .bind fun a => .bind fun a => (by simp [h])

@[simp] theorem keepsC_wrBobSpill {d : Nat} {v : Word} {s : State} (h : Memory.wf s.mem = true) : KeepsC (wrBobSpill d v s) := by
  unfold wrBobSpill
  dsimp only
  exact .bind fun a => .bind fun a => .bind fun a => (by simp [h])

@[simp] theorem keepsC_wrBobThr {d : Nat} {v : Word} {s : State} (h : Memory.wf s.mem = true) : KeepsC (wrBobThr d v s) := by
  unfold wrBobThr
  exact .bind fun a => (by simp [h])

/-! ### Predicates -/

@[simp] theorem keepsOut_setPred {gd : Guard} {len : Nat} {d : PReg} {f : State → Bool} {s : State} (h : Memory.wf s.mem = true) :
    KeepsOut (setPred gd len d f s) := keepsOut_control h (by simp [h])

/-! ### Branches -/

@[simp] theorem keepsE_branchTo {i : Instr} {t : Int} {link : Option (SReg × Nat)} {s : State} (h : Memory.wf s.mem = true) :
    KeepsE (branchTo i t link s) := by
  unfold branchTo
  cases checkTarget i t with
  | error x => exact h
  | ok t => cases link with
    | none => exact h
    | some l => exact h

/-! ### Streams -/

@[simp] theorem focus_mem (c : Nat) (x : Stream) (s : State) : (focus c x s).mem = s.mem := rfl

/-! ### Records as they run -/

@[simp] theorem keepsM_engRead (w : Who) (h : Handle) (c : Coord) (opq : Bool) (spaces : Nat → Bool) : KeepsM (engRead w h c opq spaces) := by
  unfold engRead
  exact .bind (keepsM_locate _ _ _ _ _ _ _) fun l => .bind (keepsM_hostGate _ _ _ _) fun _ => .bind (keepsM_readElem _ _) fun x => .pure _

@[simp] theorem keepsM_scaleOf (w : Who) (h : Handle) (i : List Nat) : KeepsM (scaleOf w h i) := by
  unfold scaleOf
  refine .ite (.pure _) ?_
  refine .read fun s hs => .bind (.liftC _) fun p => .bind (keepsM_resolve _ _ _) fun l => ?_
  exact .bind (keepsM_hostGate _ _ _ _) fun _ => .bind (keepsM_readElem _ _) fun x => .pure _

@[simp] theorem keepsM_engWrite (w : Who) (h : Handle) (c : Coord) (x : Nat) (spaces : Nat → Bool) : KeepsM (engWrite w h c x spaces) := by
  unfold engWrite
  refine .bind (keepsM_locate _ _ _ _ _ _ _) fun l => ?_
  exact .read fun s hs => .bind (keepsM_hostGate _ _ _ _) fun _ => .bind (keepsM_raceCheck _ _ _ _ _) fun _ => keepsM_pendElem _ _ _

@[simp] theorem setQueue_mem (c k : Nat) (l : List QElem) (s : State) : (setQueue c k l s).mem = s.mem := rfl

@[simp] theorem keepsM_queueElem (c k n : Nat) : KeepsM (queueElem c k n) := by
  unfold queueElem
  refine .read fun s hs => ?_
  split
  · exact .pure _
  · exact .waitM _

@[simp] theorem keepsM_queuePeek (c k n : Nat) : KeepsM (queuePeek c k n) := by
  unfold queuePeek
  exact .bind (keepsM_queueElem _ _ _) fun q => .bind (.needM _ _ _) fun _ => .pure _

@[simp] theorem keepsM_queuePop (c k agent n : Nat) : KeepsM (queuePop c k agent n) := by
  induction n with
  | zero => exact .pure _
  | succ n ih => exact (keepsM_queuePeek _ _ _).bind fun q => (KeepsM.modify fun s hs => by simp [hs]).bind fun _ => ih

@[simp] theorem setRun_mem (c : Nat) (e : Eng) (u : Option Run) (s : State) : (setRun c e u s).mem = s.mem := rfl

@[simp] theorem askRun_mem (c : Nat) (e : Eng) (q : Option Msg) (r : Option Nat) (sp : Spot) (got : List Spot) (s : State) :
    (askRun c e q r sp got s).mem = s.mem := by unfold askRun; split <;> simp

@[simp] theorem engRun_mem (c : Nat) (e : Eng) (s : State) : (engRun c e s).mem = s.mem := by simp [engRun]
@[simp] theorem engWait_mem (c : Nat) (e : Eng) (w : Wait) (s : State) : (engWait c e w s).mem = s.mem := rfl

theorem foldr_undoStamp_mem (l : List (Option Nat × Nat × Stamp × Stamp)) (s : State) : (l.foldr undoStamp s).mem = s.mem := by
  induction l with
  | nil => rfl
  | cons e l ih => exact (undoStamp_mem e _).trans ih

@[simp] theorem runTrap_wf {c : Nat} {e : Eng} {t : Trap} {s : State} (h : Memory.wf s.mem = true) : Memory.wf (runTrap c e t s).mem = true := by
  unfold runTrap
  dsimp only
  split <;> simp [h, foldr_undoStamp_mem]

theorem runM_wf {c : Nat} {e : Eng} {m : Run → M Run} {s : State} (hm : ∀ u, KeepsM (m u)) (h : Memory.wf s.mem = true) :
    Memory.wf (runM c e m s).mem = true := by
  unfold runM
  split
  · exact h
  next u _ =>
    split
    next e =>
      have ht := (hm u).ended h e
      simp [ht]
    next e =>
      have ht := (hm u).ended h e
      simp [ht]
    next e =>
      have ht := (hm u).ended h e
      simp [ht]
    next e =>
      have ht := (hm u).ended h e
      simp [ht]

theorem keepsOut_issueOp {i : Instr} {f : Nat → Eng → Run → M Run} {s : State} (hf : ∀ c e u, KeepsM (f c e u)) (h : Memory.wf s.mem = true) :
    KeepsOut (issueOp i f s) := by
  refine keepsOut_event ?_
  refine runM_wf (fun u => .ite (.pure _) (hf _ _ u)) ?_
  split
  · exact ite_wf (landEng_wf h) (by simp [h])
  · simp [h]

/-! ### The copy engines and the stash -/

theorem keepsM_dry {m : M Unit} (h : KeepsM m) : KeepsM (dry m) := fun s hs => by
  show Memory.wf (dry m s).2.mem = true
  unfold dry
  split
  · exact hs
  · exact keepsM_whole h s hs

theorem keepsM_beatStep {u : Run} {w : Int} {bits : Nat} {check : Nat → M Unit} {move : List Nat → M Unit} (hc : ∀ j, KeepsM (check j))
    (hm : ∀ js, KeepsM (move js)) : KeepsM (beatStep u w bits check move) := by
  unfold beatStep
  refine .bind (.needM _ _ _) fun _ => ?_
  exact .ite ((keepsM_dry (.forList hc _)).bind fun _ => (hm _).bind fun _ => .ite (.pure _) (.pure _)) (.ite (.pure _) (.pure _))

@[simp] theorem keepsM_haloLoc (w : Who) (h : Handle) (c : Coord) (tag : Nat) (halo : Bool) (spaces : Nat → Bool) :
    KeepsM (haloLoc w h c tag halo spaces) := by
  unfold haloLoc
  refine .read fun s hs => ?_
  split
  · exact .ite (.pure _) (.throw _)
  · exact .bind (.modify fun s hs => hs) fun _ => .bind (keepsM_resolve _ _ _) fun l => .pure _

@[simp] theorem keepsM_checkRead (w : Who) (h : Handle) (c : Coord) (tag : Nat) (halo : Bool) (spaces : Nat → Bool) :
    KeepsM (checkRead w h c tag halo spaces) := by
  unfold checkRead
  refine .bind (keepsM_haloLoc _ _ _ _ _ _) fun _ => ?_
  split
  · exact keepsM_raceCheck _ _ _ _ _
  · exact .pure _

@[simp] theorem keepsM_checkWrite (w : Who) (h : Handle) (c : Coord) (tag : Nat) (spaces : Nat → Bool) : KeepsM (checkWrite w h c tag spaces) := by
  unfold checkWrite
  exact .bind (keepsM_locate _ _ _ _ _ _ _) fun l => keepsM_raceCheck _ _ _ _ _

@[simp] theorem keepsM_copyRead (w : Who) (h : Handle) (c : Coord) (tag : Nat) (halo conj : Bool) (spaces : Nat → Bool) :
    KeepsM (copyRead w h c tag halo conj spaces) := by
  unfold copyRead
  refine .bind (keepsM_haloLoc _ _ _ _ _ _) fun _ => ?_
  split
  · exact .pure _
  · exact .bind (keepsM_hostGate _ _ _ _) fun _ => .bind (keepsM_readElem _ _) fun x => .pure _

@[simp] theorem keepsM_needConj (conj : Bool) (tag : Nat) : KeepsM (needConj conj tag) := by
  unfold needConj
  exact .needM _ _ _

@[simp] theorem keepsM_copyIssue (r : Rec) (wd wa : Who) (u : Run) : KeepsM (copyIssue r wd wa u) := by
  unfold copyIssue
  refine keepsM_whole ?_
  refine .bind (keepsM_needConj _ _) fun _ => keepsM_beatStep (fun j => .bind (keepsM_checkRead _ _ _ _ _ _) fun _ => keepsM_checkWrite _ _ _ _ _) ?_
  intro js
  exact .bind (.mapList (fun x => (keepsM_copyRead _ _ _ _ _ _ _)) _) fun xs => .forList (fun x => (keepsM_engWrite _ _ _ _ _)) _

@[simp] theorem keepsM_ceCpIssue (r : Rec) (c : Nat) (e : Eng) (u : Run) : KeepsM (ceCpIssue r c e u) := by
  unfold ceCpIssue
  exact .read fun s hs => keepsM_copyIssue _ _ _ _

@[simp] theorem keepsM_ceCpxIssue (r : Rec) (c : Nat) (e : Eng) (u : Run) : KeepsM (ceCpxIssue r c e u) := by
  unfold ceCpxIssue
  exact .read fun s hs => keepsM_copyIssue _ _ _ _

@[simp] theorem keepsM_ceCpxEntry (r : Rec) (c : Nat) (e : Eng) (u : Run) : KeepsM (ceCpxEntry r c e u) := by
  unfold ceCpxEntry
  exact .read fun s hs => .bind (.needM _ _ _) fun _ => .pure _

@[simp] theorem keepsM_ceLqIssue (r : Rec) (c : Nat) (e : Eng) (u : Run) : KeepsM (ceLqIssue r c e u) := by
  unfold ceLqIssue
  refine keepsM_whole ?_
  refine .read fun s hs => .bind (keepsM_needConj _ _) fun _ => .bind (.needM _ _ _) fun _ => ?_
  refine .bind (keepsM_dry (.forList (fun x => (keepsM_checkRead _ _ _ _ _ _)) _)) fun _ => .read fun s hs => .ite ?_ ?_
  · refine .bind (.waitM _) fun _ => .bind (.mapList (fun x => (keepsM_copyRead _ _ _ _ _ _ _)) _) fun xs => ?_
    exact .bind (.modify fun s hs => (by simp [hs])) fun _ => .pure _
  · exact .bind (.mapList (fun x => (keepsM_copyRead _ _ _ _ _ _ _)) _) fun xs => .bind (.modify fun s hs => (by simp [hs])) fun _ => .pure _

@[simp] theorem keepsM_ceFillIssue (r : Rec) (c : Nat) (e : Eng) (u : Run) : KeepsM (ceFillIssue r c e u) := by
  unfold ceFillIssue
  refine keepsM_whole ?_
  refine .read fun s hs => keepsM_beatStep (fun j => keepsM_checkWrite _ _ _ _ _) ?_
  exact fun js => .forList (fun x => (keepsM_engWrite _ _ _ _ _)) _

@[simp] theorem keepsM_ceOvlEntry (r : Rec) (c : Nat) (e : Eng) (u : Run) : KeepsM (ceOvlEntry r c e u) := by
  unfold ceOvlEntry
  exact .bind (.needM _ _ _) fun _ => .pure _

@[simp] theorem keepsM_ceOvlIssue (r : Rec) (c : Nat) (e : Eng) (u : Run) : KeepsM (ceOvlIssue r c e u) := by
  unfold ceOvlIssue
  refine .read fun s hs => .when (.waitM _) fun _ => .bind (.modify fun s hs => by simp [hs]) fun _ => keepsM_whole (keepsM_beatStep ?_ ?_)
  · exact fun j => keepsM_checkRead _ _ _ _ _ _
  · exact fun js => .bind (.mapList (fun x => keepsM_copyRead _ _ _ _ _ _ _) _) fun xs => .modify fun s hs => memStore_wf _ _ _ hs

@[simp] theorem keepsM_ceOvlDone (r : Rec) (c : Nat) (e : Eng) (u : Run) : KeepsM (ceOvlDone r c e u) := by
  unfold ceOvlDone
  exact .bind (.modify fun s hs => hs) fun _ => .pure _

@[simp] theorem keepsM_flagAdd (w : Who) (l : Loc) (n : Nat) (kept : Option Pass) : KeepsM (flagAdd w l n kept) := by
  unfold flagAdd
  exact .bind (keepsM_atomicAt _ _ _ _ _ _) fun _ => .pure _

@[simp] theorem keepsM_ceFlagIssue (r : Rec) (c : Nat) (e : Eng) (u : Run) : KeepsM (ceFlagIssue r c e u) := by
  unfold ceFlagIssue
  exact keepsM_whole (.read fun s hs => .bind (keepsM_locate _ _ _ _ _ _ _) fun l => .bind (keepsM_flagAdd _ _ _ _) fun _ => .pure _)

@[simp] theorem keepsM_stashKey (r : Rec) (c : Nat) (e : Eng) : KeepsM (stashKey r c e) := by
  unfold stashKey
  exact .read fun s hs => .bind (.needM _ _ _) fun _ => .pure _

@[simp] theorem keepsM_stashPutEntry (r : Rec) (c : Nat) (e : Eng) (u : Run) : KeepsM (stashPutEntry r c e u) := by
  unfold stashPutEntry
  refine .bind (keepsM_stashKey _ _ _) fun k => .read fun s hs => .bind (.needM _ _ _) fun _ => .bind (.needM _ _ _) fun _ => ?_
  refine .bind (.needM _ _ _) fun _ => .ite (.pure _) ?_
  refine .bind (keepsM_repM _ _ _ _) fun _ => .read fun s1 hs1 => ?_
  split
  next x1 t2 x3 e4 =>
    have ht2 := fst_wf (repValue_wf hs1) e4
    exact .bind (.set (by simp [ht2])) fun _ => .pure _

@[simp] theorem keepsM_stashLoc (w : Who) (h : Handle) (c : Coord) (a : Acc) : KeepsM (stashLoc w h c a) := by
  unfold stashLoc
  exact keepsM_locate _ _ _ _ _ _ _

@[simp] theorem keepsM_stashPutIssue (r : Rec) (c : Nat) (e : Eng) (u : Run) : KeepsM (stashPutIssue r c e u) := by
  unfold stashPutIssue
  refine keepsM_whole ?_
  refine .bind (keepsM_stashKey _ _ _) fun k => .read fun s hs => keepsM_beatStep (fun j => .bind (keepsM_stashLoc _ _ _ _) fun _ => .pure _) ?_
  intro js
  refine .bind (.mapList (fun x => (.bind (keepsM_stashLoc _ _ _ _) fun l => .bind (keepsM_readLoc _ _ _) fun bs => .pure _)) _) fun xs => ?_
  refine .modify fun s hs => ?_
  split
  · exact hs
  · exact hs

@[simp] theorem keepsM_stashStatus (r : Rec) (c : Nat) (e : Eng) (u : Run) (code : Nat) : KeepsM (stashStatus r c e u code) := by
  unfold stashStatus
  refine .ite ?_ (.pure _)
  refine .read fun s hs => .bind (keepsM_locate _ _ _ _ _ _ _) fun l => ?_
  exact .read fun s1 hs1 => .bind (keepsM_hostGate _ _ _ _) fun _ => .bind (keepsM_writeLoc _ _ _) fun _ => keepsM_posted _ _ _

@[simp] theorem keepsM_stashPutDone (r : Rec) (c : Nat) (e : Eng) (u : Run) : KeepsM (stashPutDone r c e u) := by
  unfold stashPutDone
  refine keepsM_whole ?_
  refine .bind (keepsM_stashStatus _ _ _ _ _) fun _ => .bind (keepsM_stashKey _ _ _) fun k => .ite ?_ (.pure _)
  refine .bind ?_ fun _ => .pure _
  refine .modify fun s hs => ?_
  split
  · simp [hs]
  · exact hs

@[simp] theorem keepsM_stashGetEntry (r : Rec) (c : Nat) (e : Eng) (u : Run) : KeepsM (stashGetEntry r c e u) := by
  unfold stashGetEntry
  refine .bind (keepsM_stashKey _ _ _) fun k => .read fun s hs => ?_
  dsimp only
  split
  · exact .ite (.bind (.needM _ _ _) fun _ => .bind (.needM _ _ _) fun _ => .pure _) (.pure _)
  · exact .pure _

@[simp] theorem keepsM_stashGetIssue (r : Rec) (c : Nat) (e : Eng) (u : Run) : KeepsM (stashGetIssue r c e u) := by
  unfold stashGetIssue
  refine keepsM_whole ?_
  refine .read fun s hs => keepsM_beatStep (fun j => .bind (keepsM_stashLoc _ _ _ _) fun _ => .pure _) ?_
  exact fun js => .forList (fun x => (.bind (keepsM_stashLoc _ _ _ _) fun l => keepsM_pendElem _ _ _)) _

@[simp] theorem freeKept_mem (d k : Nat) (s : State) : (freeKept d k s).mem = s.mem := by unfold freeKept; split <;> rfl

@[simp] theorem keepsM_stashGetDone (r : Rec) (c : Nat) (e : Eng) (u : Run) : KeepsM (stashGetDone r c e u) := by
  unfold stashGetDone
  refine keepsM_whole ?_
  refine .bind (keepsM_stashStatus _ _ _ _ _) fun _ => .bind (keepsM_stashKey _ _ _) fun k => ?_
  exact .ite (.bind (.modify fun s hs => (by simp [hs])) fun _ => .pure _) (.pure _)

@[simp] theorem keepsM_stashDropEntry (r : Rec) (c : Nat) (e : Eng) (u : Run) : KeepsM (stashDropEntry r c e u) := by
  unfold stashDropEntry
  exact .bind (keepsM_stashKey _ _ _) fun k => .read fun s hs => .pure _

@[simp] theorem keepsM_stashDropIssue (r : Rec) (c : Nat) (e : Eng) (u : Run) : KeepsM (stashDropIssue r c e u) := by
  unfold stashDropIssue
  refine keepsM_whole ?_
  exact .bind (keepsM_stashKey _ _ _) fun k => .read fun s hs => .ite (.bind (.modify fun s hs => (by simp [hs])) fun _ => .pure _) (.pure _)

@[simp] theorem keepsM_stashDropDone (r : Rec) (c : Nat) (e : Eng) (u : Run) : KeepsM (stashDropDone r c e u) := by
  unfold stashDropDone
  exact keepsM_whole (.bind (keepsM_stashStatus _ _ _ _ _) fun _ => .pure _)

@[simp] theorem keepsM_stashPfIssue (r : Rec) (c : Nat) (e : Eng) (u : Run) : KeepsM (stashPfIssue r c e u) := by
  unfold stashPfIssue
  exact .read fun s hs => .ite (.bind (.modify fun s hs => (by simp [hs])) fun _ => .pure _) (.pure _)

/-! ### Command processors -/

@[simp] theorem keepsC_wrLstart {v : Word} {s : State} (h : Memory.wf s.mem = true) : KeepsC (wrLstart v s) := by
  unfold wrLstart
  dsimp only
  exact .bind fun a => .bind fun a => .bind fun a => (by simp [h])

@[simp] theorem setQ_mem (t q : Nat) (d : Cpq) (s : State) : (setQ t q d s).mem = s.mem := rfl

@[simp] theorem keepsM_cpDone (t q : Nat) : KeepsM (cpDone t q) := by
  unfold cpDone
  exact .modify fun s hs => hs

@[simp] theorem keepsM_wordLoc (w : Who) (lt i : Nat) (a : Acc) : KeepsM (wordLoc w lt i a) := by
  unfold wordLoc
  refine .read fun s hs => .bind (.needM _ _ _) fun _ => .bind (.needM _ _ _) fun _ => ?_
  exact .bind (.liftC _) fun p => .bind (.modify fun s hs => hs) fun _ => keepsM_resolve _ _ _

@[simp] theorem keepsM_acqWord (w : Who) (lt i : Nat) : KeepsM (acqWord w lt i) := by
  unfold acqWord
  exact .bind (keepsM_wordLoc _ _ _ _) fun l => keepsM_loadOrd _ _ _ _

@[simp] theorem keepsM_plainWord (w : Who) (lt i : Nat) : KeepsM (plainWord w lt i) := by
  unfold plainWord
  exact .bind (keepsM_wordLoc _ _ _ _) fun l => keepsM_plainLoad _ _

@[simp] theorem keepsM_addWord (w : Who) (lt i n : Nat) : KeepsM (addWord w lt i n) := by
  unfold addWord
  exact .bind (keepsM_wordLoc _ _ _ _) fun l => .bind (keepsM_atomicAt _ _ _ _ _ _) fun _ => .pure _

@[simp] theorem mapPkt_mem (t q n : Nat) (f : Pkt → Pkt) (s : State) : (mapPkt t q n f s).mem = s.mem := rfl

@[simp] theorem keepsM_retire (t q n : Nat) : KeepsM (retire t q n) := by
  induction n with
  | zero => exact .pure _
  | succ n ih =>
    refine .read fun s _ => ?_
    dsimp only
    split
    · refine .ite ?_ (.pure _)
      exact (keepsM_addWord _ _ _ _).bind fun _ => (KeepsM.modify fun s hs => by simp [hs]).bind fun _ => ih
    · exact .pure _

@[simp] theorem keepsM_stepPkt (t q n step : Nat) : KeepsM (stepPkt t q n step) := by
  unfold stepPkt
  exact .bind (keepsM_cpDone _ _) fun _ => .modify fun s hs => hs

@[simp] theorem keepsM_completeActs (t q : Nat) (k : Pkt) : KeepsM (completeActs t q k) := by
  unfold completeActs
  refine .read fun s hs => .ite ?_ ?_
  · refine .bind (keepsM_wordLoc _ _ _ _) fun l => .bind (keepsM_plainStore _ _ _) fun _ => .bind (keepsM_stepPkt _ _ _ _) fun _ => ?_
    refine .ite ?_ (.when (.modify fun s hs => (by simp [hs])) fun _ => .modify fun s hs => hs)
    refine .bind (keepsM_addWord _ _ _ _) fun _ => .bind (keepsM_stepPkt _ _ _ _) fun _ => ?_
    exact .when (.modify fun s hs => (by simp [hs])) fun _ => .modify fun s hs => hs
  · refine .ite ?_ (.when (.modify fun s hs => (by simp [hs])) fun _ => .modify fun s hs => hs)
    refine .bind (keepsM_addWord _ _ _ _) fun _ => .bind (keepsM_stepPkt _ _ _ _) fun _ => ?_
    exact .when (.modify fun s hs => (by simp [hs])) fun _ => .modify fun s hs => hs

@[simp] theorem keepsM_settleQueue (t q : Nat) : KeepsM (settleQueue t q) := by
  unfold settleQueue
  refine .read fun s hs => .bind (.forList (fun x => (.ite (keepsM_completeActs _ _ _) (.pure _))) _) fun _ => ?_
  exact .bind (keepsM_retire _ _ _) fun _ => .modify fun s hs => (by simp [hs])

@[simp] theorem setGang_mem (g : Nat) (x : Gang) (s : State) : (setGang g x s).mem = s.mem := rfl

@[simp] theorem applyDecision_mem (g id : Nat) (commit : Bool) (s : State) : (applyDecision g id commit s).mem = s.mem := by
  unfold applyDecision
  refine foldl_mem (fun (t : Nat × Tower) s => _) (fun t s => ?_) _ _
  refine foldl_mem (fun (q : Nat × Cpq) s => _) (fun q s => ?_) _ _
  refine foldl_mem (fun (k : Pkt) s => _) (fun k s => ?_) _ _
  split
  · refine (foldl_mem (fun (x : Nat × Leader) s => _) (fun x s => ?_) _ _).trans (mapPkt_mem _ _ _ _ _)
    dsimp only
    repeat' split
    all_goals simp
  · rfl

@[simp] theorem decide'_mem (g id : Nat) (commit : Bool) (s : State) : (decide' g id commit s).mem = s.mem := by simp [decide']

@[simp] theorem tryGang_mem (g id : Nat) (s : State) : (tryGang g id s).mem = s.mem := by
  simp only [tryGang]
  repeat' split
  all_goals simp

@[simp] theorem preparedFrom_mem (g id src : Nat) (s : State) : (preparedFrom g id src s).mem = s.mem := by
  simp only [preparedFrom]
  repeat' split
  all_goals simp

@[simp] theorem prepare_mem (t q n : Nat) (s : State) : (prepare t q n s).mem = s.mem := by unfold prepare; split <;> simp

@[simp] theorem startGroup_wf {g : List Start} {s : State} (h : Memory.wf s.mem = true) : Memory.wf (startGroup g s).mem = true := by
  unfold startGroup
  split
  · exact h
  · split
    · split
      next x1 t2 x3 e4 =>
        have ht2 := fst_wf (releaseFrom_wf h) e4
        rw [prepare_mem]
        exact foldl_wf (fun s a hs => (by simp [hs])) ht2
    · exact foldl_wf (fun s a hs => (by simp [hs])) h

@[simp] theorem startAll_wf {g : List Start} {s : State} (h : Memory.wf s.mem = true) : Memory.wf (startAll g s).mem = true := by
  unfold startAll
  simp [h]

@[simp] theorem leaderStart_wf {c : Nat} {l : Leader} {s : State} (h : Memory.wf s.mem = true) : Memory.wf (leaderStart c l s).mem = true := by
  unfold leaderStart
  repeat' split
  all_goals simp [h]

@[simp] theorem consume_mem (t q pos : Nat) (p : List Word) (gang : Nat) (s : State) : (consume t q pos p gang s).mem = s.mem := rfl

@[simp] theorem keepsM_completeNow (t q pos : Nat) (p : List Word) (status : Nat) : KeepsM (completeNow t q pos p status) := by
  unfold completeNow
  exact .bind (.modify fun s hs => hs) fun _ => keepsM_settleQueue _ _

@[simp] theorem keepsM_headerWords (w : Who) (lt : Nat) : KeepsM (headerWords w lt) := by
  unfold headerWords
  refine .bind (keepsM_wordLoc _ _ _ _) fun l => .bind (.needM _ _ _) fun _ => .bind (keepsM_loadOrd _ _ _ _) fun wix => ?_
  exact .bind (keepsM_acqWord _ _ _) fun cap => .bind (keepsM_acqWord _ _ _) fun z => .bind (.needM _ _ _) fun _ => .pure _

@[simp] theorem keepsM_serveOne (t q : Nat) : KeepsM (serveOne t q) := by
  unfold serveOne
  refine .read fun s hs => .bind (keepsM_headerWords _ _) fun _ => ?_
  split
  refine .ite (.pure _) ?_
  refine .bind (keepsM_acqWord _ _ _) fun w0 => .ite (.pure _) ?_
  refine .bind (.mapList (fun x => (keepsM_plainWord _ _ _)) _) fun ws => .read fun s hs => ?_
  refine .ite (.bind (keepsM_completeNow _ _ _ _ _) fun _ => .pure _) ?_
  refine .ite (.pure _) ?_
  split
  · exact .bind (keepsM_completeNow _ _ _ _ _) fun _ => .pure _
  · exact .bind (keepsM_acqWord _ _ _) fun v => .ite (.bind (keepsM_completeNow _ _ _ _ _) fun _ => .pure _) (.pure _)
  · exact .bind (.modify fun s hs => (by simp [hs])) fun _ => .bind (keepsM_cpDone _ _) fun _ => .pure _

@[simp] theorem keepsM_serveLoop (t q n : Nat) : KeepsM (serveLoop t q n) := by
  induction n with
  | zero => exact .pure _
  | succ n ih =>
    refine .bind (keepsM_serveOne _ _) fun x => ?_
    cases x with
    | next => exact ih
    | _ => exact .pure _

theorem cpAct_wf {t q : Nat} {m : M Unit} {s : State} (hm : KeepsM m) (h : Memory.wf s.mem = true) : Memory.wf (cpAct t q m s).mem = true := by
  have hd : KeepsM (do m; cpDone t q : M Unit) := hm.bind fun _ => keepsM_cpDone _ _
  unfold cpAct
  split
  next e => exact hd.ended h e
  next e =>
    have ht := hd.ended h e
    simp [ht]
  next e =>
    have ht := hd.ended h e
    simp [ht]
  next m _ _ _ t e =>
    have ht := hd.ended h e
    cases m <;> simp [ht]

@[simp] theorem keepsM_openQueue (t q : Nat) : KeepsM (openQueue t q) := by
  unfold openQueue
  refine .read fun s hs => .bind (keepsM_wordLoc _ _ _ _) fun l => .bind (.needM _ _ _) fun _ => .bind (.modify fun s hs => hs) fun _ => ?_
  exact .bind (keepsM_settleQueue _ _) fun _ => .bind (keepsM_acqWord _ _ _) fun rix => .modify fun s hs => hs

@[simp] theorem keepsM_serveQueue (t q : Nat) : KeepsM (serveQueue t q) := by
  unfold serveQueue
  refine .bind (keepsM_settleQueue _ _) fun _ => .read fun s hs => ?_
  refine .ite (.bind (.modify fun s hs => hs) fun _ => .bind (keepsM_serveLoop _ _ _) fun x => .modify fun s hs => hs) ?_
  exact .pure _

@[simp] theorem takeNotices_mem (t q : Nat) (s : State) : (takeNotices t q s).mem = s.mem := rfl

@[simp] theorem serve_wf {t q : Nat} {s : State} (h : Memory.wf s.mem = true) : Memory.wf (serve t q s).mem = true := by
  unfold serve
  extract_lets -underBinder s1 s2 d
  have h1 : Memory.wf s1.mem = true := by simp [s1, h]
  have h2 : Memory.wf s2.mem = true := ite_wf (cpAct_wf (keepsM_openQueue _ _) h1) h1
  exact ite_wf (cpAct_wf (keepsM_serveQueue _ _) h2) h2

@[simp] theorem packetComplete_wf {t q n : Nat} {s : State} (h : Memory.wf s.mem = true) : Memory.wf (packetComplete t q n s).mem = true := by
  unfold packetComplete
  simp [h]

@[simp] theorem enableQueue_wf {t q : Nat} {s : State} (h : Memory.wf s.mem = true) : Memory.wf (enableQueue t q s).mem = true :=
  cpAct_wf (keepsM_openQueue _ _) (by simp [h])

@[simp] theorem setRefused_mem (c n : Nat) (s : State) : (setRefused c n s).mem = s.mem := rfl

@[simp] theorem wrCpq_wf {c : Nat} {v : Word} {s : State} (h : Memory.wf s.mem = true) : Memory.wf (wrCpq c v s).mem = true := by
  simp only [wrCpq]
  repeat' split
  all_goals simp [h]

@[simp] theorem gangRootTimeout_mem (g id : Nat) (s : State) : (gangRootTimeout g id s).mem = s.mem := by unfold gangRootTimeout; split <;> simp

@[simp] theorem gangMemberTimeout_mem (g id : Nat) (s : State) :
    (gangMemberTimeout g id s).mem = s.mem := by simp only [gangMemberTimeout]; split <;> simp

/-! ### The scheduler -/

@[simp] theorem setStage_mem (k : Nat) (g : Stage) (s : State) : (setStage k g s).mem = s.mem := rfl

@[simp] theorem mbsEnqueue_mem (k cls tag : Nat) (chan : Option Nat) (p : Pass) (s : State) :
    (mbsEnqueue k cls tag chan p s).mem = s.mem := by unfold mbsEnqueue; split <;> simp

@[simp] theorem keepsC_wrMbsEnq {v : Word} {s : State} (h : Memory.wf s.mem = true) : KeepsC (wrMbsEnq v s) := by
  unfold wrMbsEnq
  dsimp only
  exact .bind fun a => (by simp [h])

@[simp] theorem keepsC_wrMbsVer {v : Word} {s : State} (h : Memory.wf s.mem = true) : KeepsC (wrMbsVer v s) := by
  unfold wrMbsVer
  split
  · simp
  · dsimp only
    exact .bind fun a => .bind fun a => (by simp [h])

@[simp] theorem setChan_mem (n : Nat) (x : Chan) (s : State) : (setChan n x s).mem = s.mem := rfl

@[simp] theorem keepsM_chanLoc (n : Nat) (a : Acc) : KeepsM (chanLoc n a) := by
  unfold chanLoc
  exact .read fun s hs => keepsM_wordLoc _ _ _ _

@[simp] theorem keepsM_storeWindow (n : Nat) : KeepsM (storeWindow n) := by
  unfold storeWindow
  exact .read fun s hs => .bind (keepsM_chanLoc _ _) fun l => keepsM_storeOrd _ _ _ _ _

@[simp] theorem keepsM_addCredit (n src : Nat) : KeepsM (addCredit n src) := by
  unfold addCredit
  exact .read fun s hs => .bind (keepsM_chanLoc _ _) fun l => .bind (keepsM_atomicAt _ _ _ _ _ _) fun _ => .pure _

@[simp] theorem keepsM_giveCredit (n : Nat) : KeepsM (giveCredit n) := by
  unfold giveCredit
  exact .read fun s hs => .ite (.bind (.waitM _) fun _ => .set (by simp [hs])) (.set (by simp [hs]))

@[simp] theorem keepsM_creditAct (a : MbsAct) : KeepsM (creditAct a) := by
  unfold creditAct
  split
  · exact keepsM_storeWindow _
  · exact .bind (keepsM_addCredit _ _) fun _ => .modify fun s hs => (by simp [hs])
  · exact keepsM_giveCredit _

@[simp] theorem creditFails_mem (a : MbsAct) (t : Trap) (s : State) : (creditFails a t s).mem = s.mem := by unfold creditFails; split <;> simp

@[simp] theorem creditLoop_wf {l kept : List MbsAct} {s : State} (h : Memory.wf s.mem = true) : Memory.wf (creditLoop l kept s).mem = true := by
  induction l generalizing kept s with
  | nil => exact h
  | cons a l ih =>
    unfold creditLoop
    split
    next e =>
      have ht := (keepsM_creditAct a).ended h e
      exact ih ht
    next e =>
      have ht := (keepsM_creditAct a).ended h e
      exact ih (by simp [ht])
    next e =>
      have ht := (keepsM_creditAct a).ended h e
      exact ite_wf (ih ht) ht
    next m _ _ _ t e =>
      have ht := (keepsM_creditAct a).ended h e
      cases m <;> simp [ht]

@[simp] theorem retryCredits_wf {s : State} (h : Memory.wf s.mem = true) : Memory.wf (retryCredits s).mem = true := by
  unfold retryCredits
  simp [h]

@[simp] theorem mbsDo_wf {a : MbsAct} {s : State} (h : Memory.wf s.mem = true) : Memory.wf (mbsDo a s).mem = true := by
  unfold mbsDo
  simp [h]

@[simp] theorem keepsC_chanDeliver {n v : Nat} {p : Pass} {s : State} (h : Memory.wf s.mem = true) : KeepsC (chanDeliver n v p s) := by
  unfold chanDeliver
  dsimp only
  exact .bind fun a => (by simp [h])

@[simp] theorem wrMbs_wf {c : Nat} {v : Word} {s : State} (h : Memory.wf s.mem = true) : Memory.wf (wrMbs c v s).mem = true := by
  simp only [wrMbs]
  repeat' split
  all_goals simp [h]

@[simp] theorem prefetchSecond_mem (k : Nat) (s : State) : (prefetchSecond k s).mem = s.mem := by
  simp only [prefetchSecond]
  repeat' split
  all_goals simp

@[simp] theorem mbsStart_wf {k cls : Nat} {s : State} (h : Memory.wf s.mem = true) : Memory.wf (mbsStart k cls s).mem = true := by
  simp only [mbsStart]
  split
  · exact h
  · exact h
  next x1 x2 x3 x4 t5 x6 e7 =>
    have ht5 := keepsO_repTurn h _ e7
    split
    · rw [prefetchSecond_mem, noteOpen_mem]
      exact foldl_wf (fun s a hs => (by simp [hs])) ht5
    · rw [noteOpen_mem]
      exact foldl_wf (fun s a hs => (by simp [hs])) ht5

@[simp] theorem agePass_wf {l : List (Nat × Nat × Nat)} {done : List Nat} {s : State} (h : Memory.wf s.mem = true) :
    Memory.wf (agePass l done s).mem = true := by
  induction l generalizing done s with
  | nil => exact h
  | cons a l ih => exact ite_wf (ih (mbsStart_wf h)) (ih h)

@[simp] theorem rulePass_wf {k : Nat} {l : List Nat} {s : State} (h : Memory.wf s.mem = true) : Memory.wf (rulePass k l s).mem = true := by
  induction l with
  | nil => exact h
  | cons n l ih => exact ite_wf (ite_wf h (ite_wf (mbsStart_wf h) ih)) ih

@[simp] theorem mbsEvaluate_wf {s : State} (h : Memory.wf s.mem = true) : Memory.wf (mbsEvaluate s).mem = true := by
  simp only [mbsEvaluate]
  exact foldl_wf (fun s a hs => (by simp [hs])) (by simp [h])

@[simp] theorem returnCredit_wf {n : Nat} {s : State} (h : Memory.wf s.mem = true) : Memory.wf (returnCredit n s).mem = true := by
  unfold returnCredit
  simp [h]

@[simp] theorem mbsJobEnd_wf {k cls tag : Nat} {s : State} (h : Memory.wf s.mem = true) : Memory.wf (mbsJobEnd k cls tag s).mem = true := by
  simp only [mbsJobEnd]
  split
  · exact h
  · split
    · rw [mbsEnqueue_mem]
      refine releasePass_wf ?_
      split
      · simp [h]
      · exact h
    · split
      · simp [h]
      · exact h

/-! ### The fabric -/

@[simp] theorem setSlot_mem (c k : Nat) (x : Slot) (s : State) : (setSlot c k x s).mem = s.mem := rfl
@[simp] theorem freeSlot_mem (c k : Nat) (s : State) : (freeSlot c k s).mem = s.mem := rfl
@[simp] theorem sendIntents_mem (c k : Nat) (mods : List Nat) (s : State) : (sendIntents c k mods s).mem = s.mem := by simp [sendIntents]
@[simp] theorem announce_mem (c k : Nat) (x : Slot) (s : State) : (announce c k x s).mem = s.mem := by simp [announce]

@[simp] theorem keepsM_withdrawn {α : Type} (c k m : Nat) : KeepsM (withdrawn c k m : M α) :=
  (KeepsM.modify fun s hs => by simp [hs]).bind fun _ => .trapM _ _

@[simp] theorem keepsM_fabPintEntry (r : Rec) (c : Nat) (e : Eng) (u : Run) : KeepsM (fabPintEntry r c e u) := by
  unfold fabPintEntry
  exact .read fun s hs => .bind (.needM _ _ _) fun _ => .pure _

@[simp] theorem keepsM_fabPintIssue (r : Rec) (c : Nat) (e : Eng) (u : Run) : KeepsM (fabPintIssue r c e u) := by
  unfold fabPintIssue
  refine keepsM_whole ?_
  refine .read fun s hs => .bind (keepsM_locate _ _ _ _ _ _ _) fun l => ?_
  exact .read fun s1 hs1 => .bind (.needM _ _ _) fun _ => .bind (.modify fun s hs => (by simp [hs])) fun _ => .pure _

@[simp] theorem keepsM_fabSendEntry (r : Rec) (c : Nat) (e : Eng) (u : Run) : KeepsM (fabSendEntry r c e u) := by
  unfold fabSendEntry
  refine .read fun s hs => ?_
  dsimp only
  split
  · exact .bind (.set (by simp [hs])) fun _ => .pure _
  · exact .bind (.needM _ _ _) fun _ => .bind (.needM _ _ _) fun _ => .bind (.set hs) fun _ => .pure _
  · exact keepsM_withdrawn _ _ _
  · exact .trapM _ _

@[simp] theorem keepsM_needToken (c k n : Nat) : KeepsM (needToken c k n) := by
  unfold needToken
  exact .read fun s hs => .ite (.pure _) (.waitM _)

@[simp] theorem keepsM_useToken (c k n : Nat) : KeepsM (useToken c k n) := by
  unfold useToken
  exact .bind (keepsM_needToken _ _ _) fun _ => .modify fun s hs => (by simp [hs])

@[simp] theorem keepsM_beatBytes (w : Who) (h : Handle) (ca : Coord) (tag : Nat) (js : List Nat) : KeepsM (beatBytes w h ca tag js) := by
  unfold beatBytes
  exact keepsM_whole (.bind (.mapList (fun x => (keepsM_copyRead _ _ _ _ _ _ _)) _) fun xs => .pure _)

@[simp] theorem keepsM_checkSend (w : Who) (ha hd : Handle) (ca cd : Coord) (j : Nat) : KeepsM (checkSend w ha hd ca cd j) := by
  unfold checkSend
  exact .bind (keepsM_checkRead _ _ _ _ _ _) fun _ => .bind (keepsM_locate _ _ _ _ _ _ _) fun _ => .pure _

@[simp] theorem mapRun_mem (c : Nat) (e : Eng) (f : Run → Run) (s : State) : (mapRun c e f s).mem = s.mem := by unfold mapRun; split <;> rfl

theorem keepsM_beatRead {c : Nat} {e : Eng} {bytes : M (List Byte)} (hbytes : KeepsM bytes) : KeepsM (beatRead c e bytes) := by
  unfold beatRead
  exact .read fun s hs => .bind hbytes fun bs => .bind (.modify fun s hs => (by simp [hs])) fun _ => .pure _

theorem keepsM_sendParts {c : Nat} {e : Eng} {send : Run → Option Nat → List Nat → M Unit} {i : Nat} {l : List (Option Nat × List Nat)}
    (hsend : ∀ v n js, KeepsM (send v n js)) : KeepsM (sendParts c e send i l) := by
  induction l generalizing i with
  | nil => exact .pure _
  | cons x l ih =>
    refine .read fun s _ => ?_
    split
    · exact .pure _
    · exact .ite ((hsend _ _ _).bind fun _ => (KeepsM.modify fun s hs => by simp [hs]).bind fun _ => ih) ih

theorem keepsM_sendPart {c : Nat} {e : Eng} {k : Nat} {w : Who} {p : Place} {bytes : M (List Byte)} {last : Bool} {v : Run} {n : Option Nat}
    (hbytes : KeepsM bytes) : KeepsM (sendPart c e k w p bytes last v n) := by
  unfold sendPart
  extract_lets -underBinder g
  refine .read fun s _ => ?_
  extract_lets -underBinder x fresh reading
  have hreading : ∀ u, KeepsM (reading u) := fun u => by
    unfold reading
    extract_lets -underBinder taking
    have htaking : ∀ bs, KeepsM (taking bs) := fun bs => by
      unfold taking
      extract_lets -underBinder asking
      have hasking : ∀ u, KeepsM (asking u) := fun u => by
        unfold asking
        split <;> exact keepsM_remoteDo _ _ _ _ _ _
      refine .ite ?_ (hasking ())
      split
      · exact .when (keepsM_useToken _ _ _) fun _ => (KeepsM.modify fun s hs => by simp [hs]).bind hasking
      · exact hasking ()
    exact .ite ((keepsM_beatRead hbytes).bind htaking) ((KeepsM.pure _).bind htaking)
  clear_value reading
  refine .ite (.when (keepsM_withdrawn _ _ _) fun _ => (KeepsM.needM _ _ _).bind fun _ => ?_) (hreading ())
  split
  · exact .when (keepsM_needToken _ _ _) hreading
  · exact hreading ()

@[simp] theorem keepsM_fabSendIssue (r : Rec) (c : Nat) (e : Eng) (u : Run) : KeepsM (fabSendIssue r c e u) := by
  unfold fabSendIssue
  refine .read fun s hs => .read fun s1 hs1 => .bind (.modify fun s hs => (by simp [hs])) fun _ => ?_
  refine .bind ?_ fun v => .read fun s2 hs2 => .bind (.modify fun s hs => (by simp [hs])) fun _ => .pure _
  refine keepsM_beatStep (fun j => keepsM_checkSend _ _ _ _ _ _) ?_
  exact fun js => keepsM_sendParts (fun v => fun n => fun js => .bind (keepsM_locate _ _ _ _ _ _ _) fun l =>
    keepsM_sendPart (keepsM_beatBytes _ _ _ _ _))

@[simp] theorem keepsM_fabSlotDone (r : Rec) (c : Nat) (e : Eng) (u : Run) : KeepsM (fabSlotDone r c e u) := by
  unfold fabSlotDone
  exact .read fun s hs => .ite (.bind (.modify fun s hs => hs) fun _ => .pure _) (.pure _)

@[simp] theorem keepsM_fabMcastEntry (r : Rec) (c : Nat) (e : Eng) (u : Run) : KeepsM (fabMcastEntry r c e u) := by
  unfold fabMcastEntry
  refine .read fun s hs => .bind (.needM _ _ _) fun _ => .bind (.set ?_) fun _ => .pure _
  rw [announce_mem]
  exact ite_wf hs (by simp [hs])

@[simp] theorem sendAll_mem (c : Nat) (e : Eng) (mods : List Nat) (msg : List (Nat × Nat) → Msg) (s : State) :
    (sendAll c e mods msg s).mem = s.mem := by simp [sendAll]

theorem keepsM_mcastPart {c : Nat} {e : Eng} {k : Nat} {w : Who} {p : Place} {bytes : M (List Byte)} {last : Bool} {v : Run} {n : Nat} (hbytes :
    KeepsM bytes) : KeepsM (mcastPart c e k w p bytes last v n) := by
  unfold mcastPart
  refine .read fun s hs => .ite ?_ ?_
  · refine .bind (keepsM_needToken _ _ _) fun _ => .bind (keepsM_beatRead hbytes) fun bs => .bind (keepsM_useToken _ _ _) fun _ => ?_
    refine .bind (.modify fun s hs => (by simp [hs])) fun _ => .bind (.waitM _) fun _ => ?_
    split
    · exact .pure _
    · exact .trapM _ _
    · exact keepsM_remoteTrap _ _
    · exact .waitM _
  · split
    · exact .pure _
    · exact .trapM _ _
    · exact keepsM_remoteTrap _ _
    · exact .waitM _

@[simp] theorem keepsM_fabMcastIssue (r : Rec) (c : Nat) (e : Eng) (u : Run) : KeepsM (fabMcastIssue r c e u) := by
  unfold fabMcastIssue
  refine .read fun s hs => .read fun s1 hs1 => .ite ?_ ?_
  · refine .bind (.modify fun s hs => hs) fun _ => .bind (.trapM _ _) fun _ => .when (.modify fun s hs => (by simp [hs])) fun _ => ?_
    refine .read fun s2 hs2 => .bind ?_ fun v => .bind (.modify fun s hs => hs) fun _ => .pure _
    refine keepsM_beatStep (fun j => keepsM_checkSend _ _ _ _ _ _) ?_
    exact fun js => keepsM_sendParts (fun v => fun n => fun js => .bind (keepsM_locate _ _ _ _ _ _ _) fun l =>
      keepsM_mcastPart (keepsM_beatBytes _ _ _ _ _))
  · refine .when (.modify fun s hs => (by simp [hs])) fun _ => .read fun s2 hs2 => ?_
    refine .bind ?_ fun v => .bind (.modify fun s hs => hs) fun _ => .pure _
    refine keepsM_beatStep (fun j => keepsM_checkSend _ _ _ _ _ _) ?_
    exact fun js => keepsM_sendParts (fun v => fun n => fun js => .bind (keepsM_locate _ _ _ _ _ _ _) fun l =>
      keepsM_mcastPart (keepsM_beatBytes _ _ _ _ _))

@[simp] theorem keepsM_fabMcastDone (r : Rec) (c : Nat) (e : Eng) (u : Run) : KeepsM (fabMcastDone r c e u) := by
  unfold fabMcastDone
  exact .bind (.modify fun s hs => hs) fun _ => .pure _

@[simp] theorem keepsM_fabPrioIssue (r : Rec) (c : Nat) (e : Eng) (u : Run) : KeepsM (fabPrioIssue r c e u) := by
  unfold fabPrioIssue
  exact .bind (.needM _ _ _) fun _ => .bind (.modify fun s hs => hs) fun _ => .pure _

@[simp] theorem takeBack_mem (c k : Nat) (s : State) : (takeBack c k s).mem = s.mem := by simp [takeBack]

@[simp] theorem keepsM_fabTkrIssue (r : Rec) (c : Nat) (e : Eng) (u : Run) : KeepsM (fabTkrIssue r c e u) := by
  unfold fabTkrIssue
  refine .bind ?_ fun _ => .pure _
  refine .modify fun s hs => ?_
  split
  · exact hs
  · simp [hs]

@[simp] theorem keepsM_fabWrIssue (r : Rec) (c : Nat) (e : Eng) (u : Run) : KeepsM (fabWrIssue r c e u) := by
  unfold fabWrIssue
  refine keepsM_whole ?_
  refine .read fun s hs => .bind (.needM _ _ _) fun _ => keepsM_beatStep (fun j => keepsM_checkSend _ _ _ _ _ _) ?_
  intro js
  exact .bind (keepsM_beatBytes _ _ _ _ _) fun bs => .bind (keepsM_locate _ _ _ _ _ _ _) fun l => keepsM_remoteDo _ _ _ _ _ _

@[simp] theorem keepsM_atomOperand (w : Who) (r : Rec) (u : Run) : KeepsM (atomOperand w r u) := by
  unfold atomOperand
  refine .ite ?_ (.pure _)
  refine .bind (keepsM_engRead _ _ _ _ _) fun _ => ?_
  split
  exact .pure _

@[simp] theorem keepsM_fabAtomIssue (r : Rec) (c : Nat) (e : Eng) (u : Run) : KeepsM (fabAtomIssue r c e u) := by
  unfold fabAtomIssue
  refine keepsM_whole ?_
  refine .read fun s hs => .bind (keepsM_locate _ _ _ _ _ _ _) fun l => .ite ?_ ?_
  · refine .bind (keepsM_atomOperand _ _ _) fun x => .when (keepsM_performRelease _ _) fun _ => ?_
    exact .bind (keepsM_remoteDo _ _ _ _ _ _) fun _ => .bind (.modify fun s hs => (by simp [hs])) fun _ => .pure _
  · refine .bind (.pure _) fun x => .when (keepsM_performRelease _ _) fun _ => ?_
    exact .bind (keepsM_remoteDo _ _ _ _ _ _) fun _ => .bind (.modify fun s hs => (by simp [hs])) fun _ => .pure _

@[simp] theorem takeSeq_mem (c : Nat) (e : Eng) (s : State) : (takeSeq c e s).mem = s.mem := by simp [takeSeq]

@[simp] theorem keepsM_fabReqIssue (r : Rec) (c : Nat) (e : Eng) (u : Run) : KeepsM (fabReqIssue r c e u) := by
  unfold fabReqIssue
  refine .read fun s hs => .bind (keepsM_locate _ _ _ _ _ _ _) fun l => .bind (.needM _ _ _) fun _ => .ite ?_ ?_
  · refine .ite ?_ ?_
    · refine .bind (keepsM_dry (.forList (fun x => (keepsM_checkRead _ _ _ _ _ _)) _)) fun _ => .bind (keepsM_beatBytes _ _ _ _ _) fun bs => ?_
      exact .when (.modify fun s hs => (by simp [hs])) fun _ => .read fun s1 hs1 => .bind (keepsM_remoteDo _ _ _ _ _ _) fun _ => .pure _
    · refine .bind (.pure _) fun bs => .when (.modify fun s hs => (by simp [hs])) fun _ => ?_
      exact .read fun s1 hs1 => .bind (keepsM_remoteDo _ _ _ _ _ _) fun _ => .pure _
  · refine .when (keepsM_performRelease _ _) fun _ => ?_
    exact .read fun s hs => .bind (keepsM_remoteDo _ _ _ _ _ _) fun _ => .bind (.modify fun s hs => (by simp [hs])) fun _ => .pure _

@[simp] theorem setChunk_mem (k : Nat) (x : Chunk) (s : State) : (setChunk k x s).mem = s.mem := rfl

@[simp] theorem keepsM_fabCollEntry (r : Rec) (c : Nat) (e : Eng) (u : Run) : KeepsM (fabCollEntry r c e u) := by
  unfold fabCollEntry
  refine .ite ?_ (.pure _)
  exact .read fun s hs => .when (keepsM_withdrawn _ _ _) fun _ => .bind (.needM _ _ _) fun _ => .bind (.set (by simp [hs])) fun _ => .pure _

@[simp] theorem keepsM_collChecks (r : Rec) (u : Run) (w : ℤ) (bits : Nat) : KeepsM (collChecks r u w bits) := by
  unfold collChecks
  exact .bind (.needM _ _ _) fun _ => .needM _ _ _

@[simp] theorem keepsM_collCopy (r : Rec) (c : Nat) (e : Eng) (u : Run) : KeepsM (collCopy r c e u) := by
  unfold collCopy
  refine .read fun s hs => keepsM_beatStep ?_ ?_
  · intro j
    exact .bind (keepsM_locate _ _ _ _ _ _ _) fun _ => .bind (keepsM_checkRead _ _ _ _ _ _) fun _ => keepsM_checkWrite _ _ _ _ _
  · intro js
    exact .bind (.mapList (fun x => (keepsM_copyRead _ _ _ _ _ _ _)) _) fun xs => .forList (fun x => (keepsM_engWrite _ _ _ _ _)) _

@[simp] theorem keepsM_fabCollSeedIssue (r : Rec) (c : Nat) (e : Eng) (u : Run) : KeepsM (fabCollSeedIssue r c e u) := by
  unfold fabCollSeedIssue
  refine keepsM_whole ?_
  refine .bind (keepsM_collChecks _ _ _ _) fun _ => ?_
  exact .ite (.pure _) (.bind (keepsM_collCopy _ _ _ _) fun v => .when (.modify fun s hs => hs) fun _ => .pure _)

@[simp] theorem keepsM_sentMap (c : Nat) (e : Eng) (ck member : Nat) (v : Run) : KeepsM (sentMap c e ck member v) := by
  unfold sentMap
  refine .ite (.pure _) ?_
  exact .read fun s hs => .bind (.needM _ _ _) fun _ => .bind (.modify fun s hs => (by simp [hs])) fun _ => .pure _

@[simp] theorem keepsM_collSend (r : Rec) (c : Nat) (e : Eng) (u : Run) : KeepsM (collSend r c e u) := by
  unfold collSend
  refine .read fun s hs => .bind (keepsM_collChecks _ _ _ _) fun _ => ?_
  refine .bind ?_ fun v => .read fun s1 hs1 => .bind (.modify fun s hs => (by simp [hs])) fun _ => .pure _
  refine keepsM_beatStep (fun j => .bind (keepsM_locate _ _ _ _ _ _ _) fun _ => keepsM_checkSend _ _ _ _ _ _) ?_
  intro js
  refine .read fun s1 hs1 => .ite ?_ ?_
  · refine .when (keepsM_withdrawn _ _ _) fun _ => .read fun s2 hs2 => .bind (.needM _ _ _) fun _ => .when (keepsM_needToken _ _ _) fun _ => ?_
    refine .ite ?_ ?_
    · refine .bind (keepsM_beatRead (keepsM_beatBytes _ _ _ _ _)) fun bs => .read fun s3 hs3 => .bind (keepsM_sentMap _ _ _ _ _) fun g => ?_
      refine .ite ?_ (.bind (keepsM_locate _ _ _ _ _ _ _) fun l => keepsM_remoteDo _ _ _ _ _ _)
      refine .when (keepsM_useToken _ _ _) fun _ => .bind (.modify fun s hs => (by simp [hs])) fun _ => ?_
      exact .bind (keepsM_locate _ _ _ _ _ _ _) fun l => keepsM_remoteDo _ _ _ _ _ _
    · refine .bind (.pure _) fun bs => .read fun s3 hs3 => .bind (keepsM_sentMap _ _ _ _ _) fun g => ?_
      refine .ite ?_ (.bind (keepsM_locate _ _ _ _ _ _ _) fun l => keepsM_remoteDo _ _ _ _ _ _)
      refine .when (keepsM_useToken _ _ _) fun _ => .bind (.modify fun s hs => (by simp [hs])) fun _ => ?_
      exact .bind (keepsM_locate _ _ _ _ _ _ _) fun l => keepsM_remoteDo _ _ _ _ _ _
  · refine .ite ?_ ?_
    · refine .bind (keepsM_beatRead (keepsM_beatBytes _ _ _ _ _)) fun bs => .read fun s2 hs2 => .bind (keepsM_sentMap _ _ _ _ _) fun g => ?_
      refine .ite ?_ (.bind (keepsM_locate _ _ _ _ _ _ _) fun l => keepsM_remoteDo _ _ _ _ _ _)
      refine .when (keepsM_useToken _ _ _) fun _ => .bind (.modify fun s hs => (by simp [hs])) fun _ => ?_
      exact .bind (keepsM_locate _ _ _ _ _ _ _) fun l => keepsM_remoteDo _ _ _ _ _ _
    · refine .bind (.pure _) fun bs => .read fun s2 hs2 => .bind (keepsM_sentMap _ _ _ _ _) fun g => ?_
      refine .ite ?_ (.bind (keepsM_locate _ _ _ _ _ _ _) fun l => keepsM_remoteDo _ _ _ _ _ _)
      refine .when (keepsM_useToken _ _ _) fun _ => .bind (.modify fun s hs => (by simp [hs])) fun _ => ?_
      exact .bind (keepsM_locate _ _ _ _ _ _ _) fun l => keepsM_remoteDo _ _ _ _ _ _

@[simp] theorem keepsM_fabCollCommitIssue (r : Rec) (c : Nat) (e : Eng) (u : Run) : KeepsM (fabCollCommitIssue r c e u) := by
  unfold fabCollCommitIssue
  refine keepsM_whole (.bind (keepsM_collChecks _ _ _ _) fun _ => .ite (.pure _) (.read fun s hs => ?_))
  extract_lets -underBinder k x
  exact .ite (keepsM_collCopy _ _ _ _) (.pure _)

@[simp] theorem keepsM_fabCollCommitDone (r : Rec) (c : Nat) (e : Eng) (u : Run) : KeepsM (fabCollCommitDone r c e u) := by
  unfold fabCollCommitDone
  exact .ite (.bind (.modify fun s hs => hs) fun _ => .bind (.trapM _ _) fun _ => .pure _) (.pure _)

@[simp] theorem setSeam_mem (c : Nat) (a : Seam) (s : State) : (setSeam c a s).mem = s.mem := rfl

@[simp] theorem keepsM_fabSeamAccumIssue (r : Rec) (c : Nat) (e : Eng) (u : Run) : KeepsM (fabSeamAccumIssue r c e u) := by
  unfold fabSeamAccumIssue
  refine keepsM_whole ?_
  refine .read fun s hs => .bind (.needM _ _ _) fun _ => .bind (keepsM_dry (.forList (fun x => (keepsM_checkRead _ _ _ _ _ _)) _)) fun _ => ?_
  exact .bind (.mapList (fun x => (keepsM_copyRead _ _ _ _ _ _ _)) _) fun xs => .bind (.modify fun s hs => hs) fun _ => .pure _

@[simp] theorem keepsM_fabSeamEntry (r : Rec) (c : Nat) (e : Eng) (u : Run) : KeepsM (fabSeamEntry r c e u) := by
  unfold fabSeamEntry
  exact .read fun s hs => .bind (.needM _ _ _) fun _ => .pure _

@[simp] theorem keepsM_fabSeamVoteIssue (r : Rec) (c : Nat) (e : Eng) (u : Run) : KeepsM (fabSeamVoteIssue r c e u) := by
  unfold fabSeamVoteIssue
  refine .read fun s hs => .ite ?_ ?_
  · refine .when (.waitM _) fun _ => .bind (keepsM_dry (.forList (fun x => (keepsM_checkRead _ _ _ _ _ _)) _)) fun _ => ?_
    refine .bind (.mapList (fun x => (keepsM_copyRead _ _ _ _ _ _ _)) _) fun xs => .read fun s1 hs1 => ?_
    split
    exact .bind (.modify fun s hs => (by simp [hs])) fun _ => .waitM _
  · split
    · exact .waitM _
    · refine .when (.waitM _) fun _ => .bind (.set hs) fun _ => ?_
      split
      · exact .pure _
      · exact .pure _
      · exact .pure _

@[simp] theorem keepsM_fabSeamVoteDone (r : Rec) (c : Nat) (e : Eng) (u : Run) : KeepsM (fabSeamVoteDone r c e u) := by
  unfold fabSeamVoteDone
  split
  · exact .pure _
  · exact .trapM _ _
  · exact .trapM _ _

/-! ### The matrix engine -/

@[simp] theorem tagUnits_mem (c t f : Nat) (s : State) :
    (tagUnits c t f s).mem = s.mem := foldl_mem (fun u s => pend c 2 (.tag u f) s) (fun _ _ => pend_mem ..) _ _

@[simp] theorem keepsM_unmarked (a n : Nat) : KeepsM (unmarked a n) := by
  unfold unmarked
  exact .read fun s hs => .needM _ _ _

@[simp] theorem keepsM_accRead (c : Nat) (p : TilePos) (m n : Nat) : KeepsM (accRead c p m n) := by
  unfold accRead
  refine .bind ?_ fun _ => .forList (fun x => (keepsM_unmarked _ _)) _
  refine .modify fun s hs => ?_
  split
  · exact hs
  · simp [hs]

@[simp] theorem accWrite_mem (c : Nat) (p : TilePos) (codes : List Nat) (s : State) : (accWrite c p codes s).mem = s.mem := rfl
@[simp] theorem setMeFlags_mem (c : Nat) (e : Ev) (s : State) : (setMeFlags c e s).mem = s.mem := rfl

@[simp] theorem keepsM_needLicence (c : Nat) : KeepsM (needLicence c) := by
  unfold needLicence
  exact .read fun s hs => .ite (.pure _) (.ite (.trapM _ _) (.waitM _))

@[simp] theorem keepsM_scaleCode (w : Who) (h : Handle) (i : List Nat) : KeepsM (scaleCode w h i) := by
  unfold scaleCode
  refine .ite (.pure _) ?_
  exact .read fun s hs => .bind (.liftC _) fun p => .bind (keepsM_resolve _ _ _) fun l => .bind (keepsM_hostGate _ _ _ _) fun _ => keepsM_readElem _ _

/-- Two byte strings stored, and their marks cleared. -/
theorem storeTwo_wf {s : State} {p q p' q' i j a b : Nat} {x y : List Byte} (hs : Memory.wf s.mem = true) :
    Memory.wf (clearMarks p q i a (clearMarks p' q' j b { s with mem := memStore (memStore s.mem i x) j y })).mem = true := by
  rw [clearMarks_mem, clearMarks_mem]
  exact memStore_wf y _ _ (memStore_wf x _ _ hs)

@[simp] theorem keepsM_bldElem (c : Nat) (w : Who) (h : Handle) (conj : Bool) (b k n : Nat) (cB : Coord) : KeepsM (bldElem c w h conj b k n cB) := by
  unfold bldElem
  refine .bind (keepsM_locate _ _ _ _ _ _ _) fun l => .bind (.needM _ _ _) fun _ => .bind (keepsM_readElem _ _) fun x => ?_
  refine .bind (keepsM_scaleCode _ _ _) fun sc => ?_
  extract_lets -underBinder y
  exact .modify fun s hs => storeTwo_wf hs

@[simp] theorem keepsM_meBldIssue (r : Rec) (c : Nat) (e : Eng) (u : Run) : KeepsM (meBldIssue r c e u) := by
  unfold meBldIssue
  refine keepsM_whole ?_
  refine .bind (keepsM_needLicence _) fun _ => .read fun s hs => ?_
  refine .bind (.forList (fun x => (.forList (fun x => (keepsM_bldElem _ _ _ _ _ _ _ _)) _)) _) fun _ => ?_
  exact .bind (.needM _ _ _) fun _ => .bind (.modify fun s hs => hs) fun _ => .pure _

@[simp] theorem keepsM_memRow (w : Who) (r : Rec) (h : Handle) (cA : Coord) (n : Nat) : KeepsM (memRow w r h cA n) := by
  unfold memRow
  refine .mapList (fun x => ?_) _
  refine .bind (keepsM_engRead _ _ _ _ _) fun _ => ?_
  split
  exact .bind (keepsM_scaleOf _ _ _) fun sc => .pure _

@[simp] theorem keepsM_queueRow (c q pos : Nat) : KeepsM (queueRow c q pos) := by
  unfold queueRow
  refine .bind (keepsM_queuePeek _ _ _) fun x => .ite (.pure _) ?_
  exact .bind (.mapList (fun x => (keepsM_queuePeek _ _ _)) _) fun xs => .bind (.needM _ _ _) fun _ => .pure _

@[simp] theorem keepsM_mulIssue (cplx : Bool) (r : Rec) (c : Nat) (e : Eng) (u : Run) : KeepsM (mulIssue cplx r c e u) := by
  unfold mulIssue
  refine keepsM_whole ?_
  refine .bind (keepsM_needLicence _) fun _ => .read fun s hs => .ite (.when (keepsM_queuePop _ _ _ _) fun _ => .pure _) ?_
  refine .bind (.liftC _) fun p => .ite ?_ ?_
  · refine .bind (.bind (keepsM_queueRow _ _ _) fun x => .pure _) fun row => .bind (.needM _ _ _) fun _ => ?_
    refine .ite (.when (keepsM_queuePop _ _ _ _) fun _ => .pure _) ?_
    dsimp only
    split
    · refine .bind (.pure _) fun as => .when (keepsM_accRead _ _ _ _) fun _ => .bind (.forList (fun x => (keepsM_unmarked _ _)) _) fun _ => ?_
      refine .when (.forList (fun x => (keepsM_unmarked _ _)) _) fun _ => .read fun s hs => .bind (.modify fun s hs => (by simp [hs])) fun _ => ?_
      split
      · exact .pure _
      · exact .bind (keepsM_queuePop _ _ _ _) fun _ => .pure _
    · refine .bind (keepsM_memRow _ _ _ _ _) fun as => .when (keepsM_accRead _ _ _ _) fun _ => ?_
      refine .bind (.forList (fun x => (keepsM_unmarked _ _)) _) fun _ => .when (.forList (fun x => (keepsM_unmarked _ _)) _) fun _ => ?_
      refine .read fun s hs => .bind (.modify fun s hs => (by simp [hs])) fun _ => ?_
      split
      · exact .pure _
      · exact .bind (keepsM_queuePop _ _ _ _) fun _ => .pure _
  · refine .bind (.pure _) fun row => .bind (.needM _ _ _) fun _ => .ite (.when (keepsM_queuePop _ _ _ _) fun _ => .pure _) ?_
    dsimp only
    split
    · refine .bind (.pure _) fun as => .when (keepsM_accRead _ _ _ _) fun _ => .bind (.forList (fun x => (keepsM_unmarked _ _)) _) fun _ => ?_
      refine .when (.forList (fun x => (keepsM_unmarked _ _)) _) fun _ => .read fun s hs => .bind (.modify fun s hs => (by simp [hs])) fun _ => ?_
      split
      · exact .pure _
      · exact .bind (keepsM_queuePop _ _ _ _) fun _ => .pure _
    · refine .bind (keepsM_memRow _ _ _ _ _) fun as => .when (keepsM_accRead _ _ _ _) fun _ => ?_
      refine .bind (.forList (fun x => (keepsM_unmarked _ _)) _) fun _ => .when (.forList (fun x => (keepsM_unmarked _ _)) _) fun _ => ?_
      refine .read fun s hs => .bind (.modify fun s hs => (by simp [hs])) fun _ => ?_
      split
      · exact .pure _
      · exact .bind (keepsM_queuePop _ _ _ _) fun _ => .pure _

@[simp] theorem keepsM_meClrIssue (r : Rec) (c : Nat) (e : Eng) (u : Run) : KeepsM (meClrIssue r c e u) := by
  unfold meClrIssue
  refine keepsM_whole (.bind (keepsM_needLicence _) fun _ => .read fun s _ => ?_)
  extract_lets -underBinder f
  refine .bind (.liftC _) fun p => .bind (.modify fun s hs => ?_) fun _ => .pure _
  rw [tagUnits_mem]
  exact foldl_wf (fun s k hs => by rw [pend_mem]; exact hs) hs

@[simp] theorem keepsM_meAldIssue (r : Rec) (c : Nat) (e : Eng) (u : Run) : KeepsM (meAldIssue r c e u) := by
  unfold meAldIssue
  refine keepsM_whole ?_
  refine .bind (keepsM_needLicence _) fun _ => .read fun s hs => .bind (.needM _ _ _) fun _ => .bind (.liftC _) fun p => ?_
  refine .bind ?_ fun xs => .bind (.modify fun s hs => (by simp [hs])) fun _ => .pure _
  refine .mapList (fun x => ?_) _
  refine .bind (keepsM_engRead _ _ _ _ _) fun _ => ?_
  split
  exact .pure _

@[simp] theorem keepsM_meAstIssue (r : Rec) (c : Nat) (e : Eng) (u : Run) : KeepsM (meAstIssue r c e u) := by
  unfold meAstIssue
  refine keepsM_whole ?_
  refine .bind (keepsM_needLicence _) fun _ => .read fun s hs => .bind (.liftC _) fun p => .bind (.needM _ _ _) fun _ => ?_
  exact .bind (keepsM_accRead _ _ _ _) fun _ => .bind (.forList (fun x => (keepsM_engWrite _ _ _ _ _)) _) fun _ => .pure _

@[simp] theorem keepsM_drawMe (c : Nat) : KeepsM (drawMe c) := by
  unfold drawMe
  exact .read fun s hs => .bind (.set hs) fun _ => .pure _

@[simp] theorem keepsM_drainPart (c tag : Nat) (rnd : Rnd) (sat nanIn : Bool) (v : Val) : KeepsM (drainPart c tag rnd sat nanIn v) := by
  unfold drainPart
  extract_lets -underBinder jp
  have hjp : ∀ d, KeepsM (jp d) := fun d => by
    unfold jp
    cases fencode tag ⟨v, false⟩ rnd sat d
    exact .bind (.modify fun s hs => by simp [hs]) fun _ => .pure _
  exact .ite ((keepsM_drawMe c).bind hjp) (hjp 0)

@[simp] theorem keepsM_amaxPend (c n k : Nat) (v : Val) : KeepsM (amaxPend c n k v) := by
  unfold amaxPend
  exact .read fun s hs => .bind (.needM _ _ _) fun _ => .modify fun s hs => hs

@[simp] theorem keepsM_drainAmax (c opx : Nat) (y v : Val) : KeepsM (drainAmax c opx y v) := by
  unfold drainAmax
  exact .ite (keepsM_amaxPend _ _ _ _) (.pure _)

@[simp] theorem keepsM_meDrnIssue (r : Rec) (c : Nat) (e : Eng) (u : Run) : KeepsM (meDrnIssue r c e u) := by
  unfold meDrnIssue
  refine keepsM_whole ?_
  refine .bind (keepsM_needLicence _) fun _ => .read fun s hs => .bind (.liftC _) fun p => .bind (.needM _ _ _) fun _ => ?_
  refine .bind (.needM _ _ _) fun _ => .bind (keepsM_accRead _ _ _ _) fun _ => .bind ?_ fun _ => .pure _
  refine .forList (fun x => ?_) _
  refine .bind (.forList (fun x => (keepsM_drainAmax _ _ _ _)) _) fun _ => ?_
  exact .bind (.mapList (fun x => (keepsM_drainPart _ _ _ _ _ _)) _) fun cs => keepsM_engWrite _ _ _ _ _

@[simp] theorem keepsM_scaleLoc (w : Who) (h : Handle) (i : List Nat) : KeepsM (scaleLoc w h i) := by
  unfold scaleLoc
  refine .read fun s hs => .bind (.liftC _) fun p => .bind (.needM _ _ _) fun _ => .bind (keepsM_resolve _ _ _) fun l => ?_
  exact .read fun s1 hs1 => .bind (keepsM_hostGate _ _ _ _) fun _ => .bind (keepsM_raceCheck _ _ _ _ _) fun _ => .pure _

@[simp] theorem keepsM_writeScale (w : Who) (h : Handle) (i : List Nat) (x : Nat) : KeepsM (writeScale w h i x) := by
  unfold writeScale
  exact .bind (keepsM_scaleLoc _ _ _) fun l => keepsM_pendElem _ _ _

@[simp] theorem keepsM_meDrqIssue (r : Rec) (c : Nat) (e : Eng) (u : Run) : KeepsM (meDrqIssue r c e u) := by
  unfold meDrqIssue
  refine keepsM_whole ?_
  refine .bind (keepsM_needLicence _) fun _ => .read fun s hs => .bind (.liftC _) fun p => .bind (.needM _ _ _) fun _ => ?_
  refine .bind (.needM _ _ _) fun _ => .bind (.needM _ _ _) fun _ => .bind (keepsM_accRead _ _ _ _) fun _ => .read fun s hs => ?_
  refine .bind ?_ fun _ => .bind (keepsM_writeScale _ _ _ _) fun _ => .pure _
  refine .forList (fun x => ?_) _
  exact .bind (keepsM_drainAmax _ _ _ _) fun _ => .bind (keepsM_drainPart _ _ _ _ _ _) fun code => keepsM_engWrite _ _ _ _ _

@[simp] theorem keepsM_meLendIssue (r : Rec) (c : Nat) (e : Eng) (u : Run) : KeepsM (meLendIssue r c e u) := by
  unfold meLendIssue
  exact .bind (keepsM_needLicence _) fun _ => .bind (.modify fun s hs => (by simp [hs])) fun _ => .pure _

@[simp] theorem keepsM_meReclaimIssue (r : Rec) (c : Nat) (e : Eng) (u : Run) : KeepsM (meReclaimIssue r c e u) := by
  unfold meReclaimIssue
  refine .bind (keepsM_needLicence _) fun _ => .read fun s hs => .ite (.bind (.set hs) fun _ => .waitM _) ?_
  refine .bind ?_ fun _ => .pure _
  refine .set ?_
  rw [setCore_mem]
  split
  · split
    · split
      · split
        · simp [hs]
        · exact hs
      · exact hs
    · exact hs
  · split
    · simp [hs]
    · exact hs

@[simp] theorem keepsM_meSbwIssue (r : Rec) (c : Nat) (e : Eng) (u : Run) : KeepsM (meSbwIssue r c e u) := by
  unfold meSbwIssue
  exact .bind (keepsM_needLicence _) fun _ => .pure _

/-! ### Power and thermal control -/

@[simp] theorem arbitrate_mem (n : Nat) (s : State) : (arbitrate n s).mem = s.mem := by simp only [arbitrate]; split <;> simp
@[simp] theorem noteHeldBack_mem (s : State) (e : Nat × Cluster) : (noteHeldBack s e).mem = s.mem := by simp [noteHeldBack]
@[simp] theorem arbitrateAll_mem (s : State) : (arbitrateAll s).mem = s.mem := by simp [arbitrateAll]
@[simp] theorem reserve_mem (c : Nat) (x : Stream) (units : Nat) (s : State) : (reserve c x units s).mem = s.mem := rfl
@[simp] theorem changePoint_mem (d : Nat) (s : State) : (changePoint d s).mem = s.mem := by simp only [changePoint]; split <;> simp

@[simp] theorem noteClock_mem (c since : Nat) (s : State) (x : Nat × Strm) :
    (noteClock c since s x).mem = s.mem := by simp only [noteClock]; split <;> simp

@[simp] theorem transitionEnd_mem (d : Nat) (s : State) : (transitionEnd d s).mem = s.mem := by simp only [transitionEnd]; split <;> simp

@[simp] theorem keepsC_wrDvfs {d : Nat} {v : Word} {s : State} (h : Memory.wf s.mem = true) : KeepsC (wrDvfs d v s) := by
  unfold wrDvfs
  exact .bind fun a => (by simp [h])

@[simp] theorem governorSample_mem (p10 p1s : Nat) (s : State) : (governorSample p10 p1s s).mem = s.mem :=
  foldl_mem (fun k s => s.setCluster k { s.cluster k with budget := Nat.min (look 0 (shareBudgets _ _ _).budget k) 2047 }) (fun _ _ => rfl) _ _

@[simp] theorem keepsC_wrPwrCap {v : Word} {s : State} (h : Memory.wf s.mem = true) : KeepsC (wrPwrCap v s) := by
  unfold wrPwrCap
  dsimp only
  exact .bind fun a => (by simp [h])

@[simp] theorem wrPcls_mem (k : Nat) (v : Word) (s : State) : (wrPcls k v s).mem = s.mem := rfl
@[simp] theorem thSet_mem (t bit : Nat) (s : State) : (thSet t bit s).mem = s.mem := by simp only [thSet]; split <;> simp

@[simp] theorem thermalDie_mem (t d : Nat) (rs : List Nat) (s : State) : (thermalDie t d rs s).mem = s.mem := by
  simp only [thermalDie]
  repeat' split
  all_goals simp

@[simp] theorem thermalPair_mem (t k : Nat) (x : Nat × Nat) (s : State) : (thermalPair t k x s).mem = s.mem := by
  simp only [thermalPair]
  repeat' split
  all_goals simp

@[simp] theorem thermalArea_mem (t n : Nat) (rd : List (Nat × Nat)) (s : State) : (thermalArea t n rd s).mem = s.mem := by
  simp only [thermalArea]
  repeat' split
  all_goals simp

@[simp] theorem thermalSample_mem (t : Nat) (rd : List (Nat × Nat)) (s : State) :
    (thermalSample t rd s).mem = s.mem := by simp [thermalSample]

@[simp] theorem keepsC_wrThCtl {v : Word} {s : State} (h : Memory.wf s.mem = true) : KeepsC (wrThCtl v s) := by
  unfold wrThCtl
  exact .bind fun a => (by simp [h])

@[simp] theorem wrLicCtl_mem (c : Nat) (v : Word) (s : State) : (wrLicCtl c v s).mem = s.mem := by simp only [wrLicCtl]; split <;> simp

/-! ### Memory instructions -/

@[simp] theorem keepsM_myLoc (s : State) (m : MOp) (a : Acc) (okTag : Nat → Bool) : KeepsM (myLoc s m a okTag) := by
  unfold myLoc
  exact keepsM_locate _ _ _ _ _ _ _

@[simp] theorem keepsM_remoteStore (w : Who) (p : Place) (rlx rel : Bool) (e : Scope) (x : Nat) : KeepsM (remoteStore w p rlx rel e x) := by
  unfold remoteStore
  refine .bind (.needM _ _ _) fun _ => .read fun s hs => .when (keepsM_performRelease _ _) fun _ => ?_
  exact .bind (keepsM_remoteDo _ _ _ _ _ _) fun _ => .ite (.modify fun s hs => (by simp [hs])) (.pure _)

@[simp] theorem keepsM_loadBody (d : SReg) (m : MOp) (s : State) : KeepsM (loadBody d m s) := by
  unfold loadBody
  exact .bind (keepsM_myLoc _ _ _ _) fun l => .bind (keepsM_plainLoad _ _) fun x => .modify fun s hs => hs

@[simp] theorem keepsM_storeBody (d : SReg) (m : MOp) (s : State) : KeepsM (storeBody d m s) := by
  unfold storeBody
  refine .bind (keepsM_myLoc _ _ _ _) fun l => ?_
  extract_lets -underBinder x
  exact .ite (keepsM_remoteStore _ _ _ _ _ _) (keepsM_plainStore _ _ _)

@[simp] theorem keepsM_loadOrdBody (o : Ord) (e : Scope) (d : SReg) (m : MOp) (s : State) : KeepsM (loadOrdBody o e d m s) := by
  unfold loadOrdBody
  exact .bind (keepsM_myLoc _ _ _ _) fun l => .bind (keepsM_loadOrd _ _ _ _) fun x => .modify fun s hs => hs

@[simp] theorem keepsM_storeOrdBody (o : Ord) (e : Scope) (m : MOp) (a : SReg) (s : State) : KeepsM (storeOrdBody o e m a s) := by
  unfold storeOrdBody
  refine .bind (keepsM_myLoc _ _ _ _) fun l => ?_
  extract_lets -underBinder x
  refine .ite (.bind (.needM _ _ _) fun _ => .read fun s _ => ?_) (keepsM_storeOrd _ _ _ _ _)
  extract_lets -underBinder sc
  exact keepsM_remoteStore _ _ _ _ _ _

@[simp] theorem keepsM_atomBody (op : Nat) (o : Ord) (e : Scope) (d : SReg) (m : MOp) (x y : Word) (f : Nat → Nat → Option Nat) (s : State) :
    KeepsM (atomBody op o e d m x y f s) := by
  unfold atomBody
  refine .bind (keepsM_myLoc _ _ _ _) fun l => ?_
  refine .ite ?_ (.bind (.needM _ _ _) fun _ => .bind (keepsM_atomicAt _ _ _ _ _ _) fun old => .modify fun s hs => hs)
  refine .bind (.needM _ _ _) fun _ => .bind (.needM _ _ _) fun _ => .read fun s hs => .read fun s1 hs1 => .when (keepsM_performIf _ _) fun _ => ?_
  exact .bind (keepsM_remoteDo _ _ _ _ _ _) fun _ => .when (.modify fun s hs => (by simp [hs])) fun _ => .modify fun s hs => hs

@[simp] theorem keepsOut_atom2 {op : Nat} {gd : Guard} {o : Ord} {e : Scope} {d : SReg} {m : MOp} {a : SReg} {s : State} (h : Memory.wf s.mem = true)
    :
    KeepsOut (atom2 op gd o e d m a s) := keepsOut_control h (keepsE_ofM (keepsM_atomBody _ _ _ _ _ _ _ _ _) h)

@[simp] theorem keepsM_updBody (op : UOp) (d : SReg) (m : MOp) (s : State) : KeepsM (updBody op d m s) := by
  unfold updBody
  exact .bind (keepsM_myLoc _ _ _ _) fun l => keepsM_updateAt _ _ _ _

@[simp] theorem keepsM_msaBody (op : UOp) (d : SReg) (m : MOp) (s : State) : KeepsM (msaBody op d m s) := by
  unfold msaBody
  exact .bind (keepsM_myLoc _ _ _ _) fun l => keepsM_msaAt _ _ _ _

@[simp] theorem keepsM_pinLoc (s : State) (m : MOp) : KeepsM (pinLoc s m) := by
  unfold pinLoc
  exact .bind (keepsM_cachePlace _ _ _) fun p => keepsM_resolve _ _ _

@[simp] theorem pinEntry_mem (root n : Nat) (e : Entry) (s : State) : (pinEntry root n e s).1.mem = s.mem := by
  simp only [pinEntry]
  repeat' split
  all_goals rfl

@[simp] theorem keepsM_lpinBody (d : SReg) (m : MOp) (s : State) : KeepsM (lpinBody d m s) := by
  unfold lpinBody
  refine .bind (keepsM_cachePlace _ _ _) fun p => .read fun s1 _ => .ite (.modify fun s hs => by simp [hs]) (.bind (keepsM_resolve _ _ _) fun l => ?_)
  extract_lets -underBinder t line
  refine .modify fun s hs => ?_
  extract_lets -underBinder k
  split
  next s' st e =>
    have hs' : Memory.wf s'.mem = true := fst_wf (by simp [hs]) e
    have hr := makeRoom_wf (t := t) (line := line) (has := decide (0 < k)) (mergeLine_wf (t := t) (line := line) hs')
    refine ite_wf (by simp [hs]) (ite_wf (by simp [hs]) (ite_wf (by simp [hs]) ?_))
    rw [wrS_mem, setLinePins_mem]
    exact ite_wf (fillLine_wf hr) hr

@[simp] theorem keepsM_lunpinBody (d : SReg) (m : MOp) (s : State) : KeepsM (lunpinBody d m s) := by
  unfold lunpinBody
  refine .bind (keepsM_pinLoc _ _) fun l => .modify fun s hs => ?_
  split
  · exact hs
  · simp [hs]

@[simp] theorem keepsM_tlkBody (mark : Bool) (d : SReg) (m : MOp) (s : State) : KeepsM (tlkBody mark d m s) := by
  unfold tlkBody
  exact .bind (keepsM_cachePlace _ _ _) fun p => .modify fun s hs => (by simp [hs])

@[simp] theorem keepsM_tinsBodySet (d : SReg) {s : State} {n : Nat} (hs : Memory.wf s.mem = true) :
    KeepsM (tinsBody.set' d s n) := .set (by simp [hs])

@[simp] theorem keepsM_tinsBody (d : SReg) (m : MOp) (s : State) : KeepsM (tinsBody d m s) := by
  unfold tinsBody
  extract_lets -underBinder slot c
  refine .bind (.needM _ _ _) fun _ => .bind (.needM _ _ _) fun _ => .bind (keepsM_cachePlace _ _ _) fun p => .read fun s hs => ?_
  extract_lets -underBinder k block set
  refine .bind (.needM _ _ _) fun _ => .ite (keepsM_tinsBodySet _ hs) (.ite (keepsM_tinsBodySet _ hs) ?_)
  split
  next s' st e =>
    have hs' : Memory.wf s'.mem = true := fst_wf (by simp [hs]) e
    exact .ite (keepsM_tinsBodySet _ hs) (keepsM_tinsBodySet _ (by simp [hs']))

@[simp] theorem keepsM_tevcBody (d a : SReg) {s : State} (hs : Memory.wf s.mem = true) : KeepsM (tevcBody d a s) := by
  unfold tevcBody
  extract_lets -underBinder slot k
  refine .bind (.needM _ _ _) fun _ => .bind (.needM _ _ _) fun _ => ?_
  extract_lets -underBinder e t
  exact .ite (.set (by simp [hs])) (.set (by simp [t, hs]))

@[simp] theorem keepsM_waddrEval (h : Nat) (k : Cond) (e : Scope) (d a : Nat) (l : Loc) : KeepsM (waddrEval h k e d a l) := by
  unfold waddrEval
  refine .read fun s hs => .bind (keepsM_loadOrd _ _ _ _) fun x => ?_
  exact .ite (.modify fun s hs => hs) (.bind (.modify fun s hs => (by simp [hs])) fun _ => .waitM _)

@[simp] theorem keepsM_waddrBody (k : Cond) (e : Scope) (d : SReg) (m : MOp) (a : SReg) (s : State) : KeepsM (waddrBody k e d m a s) := by
  unfold waddrBody
  split
  · exact keepsM_waddrEval _ _ _ _ _ _
  · exact .bind (keepsM_myLoc _ _ _ _) fun l => keepsM_waddrEval _ _ _ _ _ _

@[simp] theorem keepsM_qClaimBody (e : Scope) (d : SReg) (m : MOp) (a : SReg) (s : State) : KeepsM (qClaimBody e d m a s) := by
  unfold qClaimBody
  refine .bind (keepsM_locate _ _ _ _ _ _ _) fun l => .bind (.needM _ _ _) fun _ => .bind (.needM _ _ _) fun _ => ?_
  refine .bind (keepsM_performRelease _ _) fun _ => .bind (keepsM_hostGate _ _ _ _) fun _ => .bind (keepsM_performAcquire _ _) fun _ => ?_
  refine .bind (keepsM_homeRead _ _ _) fun x => .bind (.needM _ _ _) fun _ => .bind (.needM _ _ _) fun _ => .read fun s hs => ?_
  refine .bind (keepsM_takeRels _ _ _ _) fun _ => .ite ?_ (.modify fun s hs => hs)
  exact .bind (keepsM_homeWrite _ _ _) fun _ => .bind (.modify fun s hs => (by simp [hs])) fun _ => .modify fun s hs => hs

@[simp] theorem keepsM_qRingBody (e : Scope) (m : MOp) (a : SReg) (s : State) : KeepsM (qRingBody e m a s) := by
  unfold qRingBody
  refine .bind (keepsM_myLoc _ _ _ _) fun l => .bind (.needM _ _ _) fun _ => .bind (.needM _ _ _) fun _ => .ite ?_ ?_
  · refine .bind (keepsM_storeOrd _ _ _ _ _) fun _ => .bind (.modify fun s hs => (by simp [hs])) fun _ => .read fun s hs => .ite ?_ ?_
    · refine .bind (.modify fun s hs => (by simp [hs])) fun _ => .bind (.waitM _) fun _ => .modify fun s hs => ?_
      rw [ringBells_mem]
      exact hs
    · refine .modify fun s hs => ?_
      rw [ringBells_mem]
      exact hs
  · refine .bind (.modify fun s hs => (by simp [hs])) fun _ => .read fun s hs => .ite ?_ ?_
    · refine .bind (.modify fun s hs => (by simp [hs])) fun _ => .bind (.waitM _) fun _ => .modify fun s hs => ?_
      rw [ringBells_mem]
      exact hs
    · refine .modify fun s hs => ?_
      rw [ringBells_mem]
      exact hs

/-! ### The vector engine -/

@[simp] theorem keepsM_srcOf (c : Nat) (u : Run) (slot : Nat) (d : Desc) (how : Nat) : KeepsM (srcOf c u slot d how) := by
  unfold srcOf
  split
  · exact .ite (.pure _) (.ite (.pure _) (.pure _))
  · exact .bind (keepsM_queueElem _ _ _) fun q => .pure _
  · exact .read fun s hs => .pure _
  · exact .pure _
  · exact .pure _

@[simp] theorem keepsM_dstOf (c : Nat) (u : Run) (d : Desc) : KeepsM (dstOf c u d) := by
  unfold dstOf
  split
  · exact .read fun s hs => .pure _
  · exact .pure _

@[simp] theorem keepsM_readLane (c : Nat) (w : Who) (adm : Handle → Nat → Bool) (x : Src) (t j : Nat) : KeepsM (readLane c w adm x t j) := by
  unfold readLane
  split
  · exact .bind (keepsM_locate _ _ _ _ _ _ _) fun l => .bind (keepsM_hostGate _ _ _ _) fun _ => .bind (keepsM_readElem _ _) fun v => .pure _
  · exact .bind (keepsM_locate _ _ _ _ _ _ _) fun l => .bind (keepsM_hostGate _ _ _ _) fun _ => .bind (keepsM_readElem _ _) fun v => .pure _
  · exact .bind (keepsM_locate _ _ _ _ _ _ _) fun l => .bind (keepsM_hostGate _ _ _ _) fun _ => .bind (keepsM_readElem _ _) fun v => .pure _
  · exact .bind (keepsM_queuePeek _ _ _) fun e => .bind (.needM _ _ _) fun _ => .pure _
  · refine .bind (.needM _ _ _) fun _ => .bind (.needM _ _ _) fun _ => .bind (.modify fun s hs => (by simp [hs])) fun _ => ?_
    exact .bind (keepsM_unmarked _ _) fun _ => .read fun s hs => .pure _
  · exact .throw _
  · exact .bind (.needM _ _ _) fun _ => .pure _
  · exact .pure _

@[simp] theorem keepsM_popSrc (c : Nat) (w : Who) (x : Src) (n : Nat) : KeepsM (popSrc c w x n) := by
  unfold popSrc
  split
  · exact keepsM_queuePop _ _ _ _
  · exact .pure _

@[simp] theorem keepsM_needBeats (c : Nat) (x : Src) (n : Nat) : KeepsM (needBeats c x n) := by
  unfold needBeats
  split
  · exact .bind (keepsM_queueElem _ _ _) fun _ => .pure _
  · exact .pure _

@[simp] theorem keepsM_putAt (w : Who) (wp : Nat) (adm : Handle → Nat → Bool) (h : Handle) (k : Coord) : KeepsM (putAt w wp adm h k) := by
  unfold putAt
  refine .ite ?_ ?_
  · refine .bind (keepsM_locate _ _ _ _ _ _ _) fun l => ?_
    exact .read fun s hs => .bind (keepsM_hostGate _ _ _ _) fun _ => .bind (keepsM_raceCheck _ _ _ _ _) fun _ => .pure _
  · refine .read fun s hs => .ite (.bind (keepsM_locate _ _ _ _ _ _ _) fun l => .pure _) ?_
    exact .bind (keepsM_locate _ _ _ _ _ _ _) fun l => .pure _

@[simp] theorem keepsM_putLane (w : Who) (wp : Nat) (adm : Handle → Nat → Bool) (d : Dst) (j : Nat) : KeepsM (putLane w wp adm d j) := by
  unfold putLane
  split
  · exact keepsM_putAt _ _ _ _ _
  · exact .bind (.needM _ _ _) fun _ => .bind (.needM _ _ _) fun _ => .bind (.needM _ _ _) fun _ => .pure _
  · exact .throw _

@[simp] theorem keepsM_putCode (c : Nat) (w : Who) (wp : Nat) (x : Put × Nat) : KeepsM (putCode c w wp x) := by
  unfold putCode
  split
  · exact keepsM_pendElem _ _ _
  · exact keepsM_updateAt _ _ _ _
  · exact keepsM_msaAt _ _ _ _
  · exact .modify fun s hs => hs

@[simp] theorem keepsM_drawVe (c : Nat) : KeepsM (drawVe c) := by
  unfold drawVe
  exact .read fun s hs => .bind (.set hs) fun _ => .pure _

@[simp] theorem keepsM_drawIf (c : Nat) (rnd : Rnd) : KeepsM (drawIf c rnd) := by
  unfold drawIf
  exact .ite (keepsM_drawVe _) (.pure _)

@[simp] theorem keepsM_setVeFlags (c : Nat) (e : Ev) : KeepsM (setVeFlags c e) := by
  unfold setVeFlags
  exact .ite (.pure _) (.modify fun s hs => hs)

@[simp] theorem keepsM_encodeVe (c tag : Nat) (r : Rec) (nanIn : Bool) (v : Real) : KeepsM (encodeVe c tag r nanIn v) := by
  unfold encodeVe
  refine .bind (keepsM_drawIf _ _) fun d => ?_
  split
  exact .bind (keepsM_setVeFlags _ _) fun _ => .pure _

theorem trapsOf_wf {l : List (M Got)} {s : State} (hl : ∀ m ∈ l, KeepsM m) (h : Memory.wf s.mem = true) :
    ∀ x ∈ trapsOf s l, Memory.wf x.2.mem = true := by
  induction l with
  | nil => exact fun x hx => nomatch hx
  | cons m l ih =>
    have ih := ih fun m hm => hl m (List.mem_cons_of_mem _ hm)
    unfold trapsOf
    split
    next e => exact List.forall_mem_cons.mpr ⟨(hl m List.mem_cons_self).ended h e, ih⟩
    next => exact ih

theorem leastTrap_wf {b : Trap × State} {l : List (Trap × State)} (hb : Memory.wf b.2.mem = true) (hl : ∀ x ∈ l, Memory.wf x.2.mem = true) :
    Memory.wf (leastTrap b l).2.mem = true := by
  induction l generalizing b with
  | nil => exact hb
  | cons a l ih =>
    refine ih ?_ fun x hx => hl x (List.mem_cons_of_mem _ hx)
    split
    · exact hl a List.mem_cons_self
    · exact hb

theorem keepsM_laneSet {l : List (M Got)} (hl : ∀ m ∈ l, KeepsM m) : KeepsM (laneSet l) := by
  induction l with
  | nil => exact .pure _
  | cons m l ih =>
    intro s hs
    have hm := hl m List.mem_cons_self
    have hr : ∀ x ∈ l, KeepsM x := fun x hx => hl x (List.mem_cons_of_mem _ hx)
    show Memory.wf (laneSet (m :: l) s).2.mem = true
    unfold laneSet
    split
    next e =>
      have h1 := hm.ended hs e
      split
      next e => exact (ih hr).ended h1 e
      next e => exact (ih hr).ended h1 e
    next e => exact leastTrap_wf (hm.ended hs e) (trapsOf_wf hr hs)
    next e => exact hm.ended hs e

theorem keepsM_lanesOf {n : Nat} {f : Nat → List (M Got)} (hf : ∀ j, ∀ m ∈ f j, KeepsM m) : KeepsM (lanesOf n f) :=
  .mapList (fun j => keepsM_laneSet (hf j)) _

@[simp] theorem keepsM_gotCode (c : Nat) (w : Who) (adm : Handle → Nat → Bool) (x : Src) (t j : Nat) : KeepsM (gotCode c w adm x t j) := by
  unfold gotCode
  exact .bind (keepsM_readLane _ _ _ _ _ _) fun v => .pure _

@[simp] theorem keepsM_gotDest (w : Who) (wp : Nat) (adm : Handle → Nat → Bool) (d : Dst) (j : Nat) : KeepsM (gotDest w wp adm d j) := by
  unfold gotDest
  exact .bind (keepsM_putLane _ _ _ _ _) fun p => .pure _

@[simp] theorem keepsM_gotPut (w : Who) (wp : Nat) (adm : Handle → Nat → Bool) (h : Handle) (k : Coord) : KeepsM (gotPut w wp adm h k) := by
  unfold gotPut
  exact .bind (keepsM_putAt _ _ _ _ _) fun p => .pure _

@[simp] theorem keepsM_gotScale (w : Who) (x : Src) (j : Nat) : KeepsM (gotScale w x j) := by
  unfold gotScale
  split
  · exact .bind (keepsM_scaleOf _ _ _) fun v => .pure _
  · exact .pure _

theorem keepsM_laneOp {adm : Nat → Bool} {bs : Bool} {f : Nat → Nat → Nat → Nat → M Nat} {r : Rec} {c : Nat} {e : Eng} {u : Run}
    (hf : ∀ t x y z, KeepsM (f t x y z)) : KeepsM (laneOp adm bs f r c e u) := by
  unfold laneOp
  refine keepsM_whole (.read fun s _ => ?_)
  extract_lets -underBinder w
  refine .bind (keepsM_srcOf _ _ _ _ _) fun a => .bind (keepsM_srcOf _ _ _ _ _) fun b => ?_
  refine .bind (keepsM_srcOf _ _ _ _ _) fun cc => .bind (keepsM_dstOf _ _ _) fun d => ?_
  extract_lets -underBinder t ok b' c' l n
  refine .bind (keepsM_needBeats _ _ _) fun _ => .bind (keepsM_needBeats _ _ _) fun _ => .bind (keepsM_needBeats _ _ _) fun _ => ?_
  refine .bind (keepsM_lanesOf (by simp)) fun ins => .bind (.mapList (fun g => (hf _ _ _ _).bind fun v => .pure _) _) fun outs => ?_
  refine .bind (.forList (fun o => keepsM_putCode _ _ _ _) _) fun _ => .bind (keepsM_popSrc _ _ _ _) fun _ => ?_
  exact .bind (keepsM_popSrc _ _ _ _) fun _ => .bind (keepsM_popSrc _ _ _ _) fun _ => .pure _

@[simp] theorem keepsM_intResult (c t : Nat) (sat : Bool) (i : ℤ) : KeepsM (intResult c t sat i) := by
  unfold intResult
  split
  exact .bind (keepsM_setVeFlags _ _) fun _ => .pure _

@[simp] theorem keepsM_intLane (op : Nat) (r : Rec) (c t x y _z : Nat) : KeepsM (intLane op r c t x y _z) := by
  unfold intLane
  dsimp only
  split
  · exact keepsM_intResult _ _ _ _
  · exact keepsM_intResult _ _ _ _
  · exact keepsM_intResult _ _ _ _
  · exact .pure _
  · exact .pure _
  · exact .pure _
  · exact .pure _
  · exact .pure _
  · exact .pure _
  · exact .pure _
  · exact keepsM_intResult _ _ _ _

@[simp] theorem keepsM_intIssue (op : Nat) (r : Rec) (c : Nat) (e : Eng) (u : Run) :
    KeepsM (intIssue op r c e u) := keepsM_laneOp fun _ _ _ _ => by simp

@[simp] theorem keepsM_floatLane (op : Nat) (r : Rec) (c t x y z : Nat) : KeepsM (floatLane op r c t x y z) := by
  unfold floatLane
  refine .ite (.bind (keepsM_drawIf _ _) fun d => .ite (.bind (keepsM_setVeFlags _ _) fun _ => .pure _) (.pure _)) ?_
  refine .ite (.ite (.bind (keepsM_setVeFlags _ _) fun _ => .pure _) (.pure _)) ?_
  exact .bind (.mapList (fun x => (keepsM_encodeVe _ _ _ _ _)) _) fun cs => .pure _

@[simp] theorem keepsM_floatIssue (op : Nat) (r : Rec) (c : Nat) (e : Eng) (u : Run) :
    KeepsM (floatIssue op r c e u) := keepsM_laneOp fun _ _ _ _ => by simp

@[simp] theorem keepsM_transLane (op : Nat) (r : Rec) (c t x _y _z : Nat) : KeepsM (transLane op r c t x _y _z) := by
  unfold transLane
  split
  refine .bind (keepsM_drawIf _ _) fun d => ?_
  split
  exact .bind (keepsM_setVeFlags _ _) fun _ => .pure _

@[simp] theorem keepsM_transIssue (op : Nat) (r : Rec) (c : Nat) (e : Eng) (u : Run) :
    KeepsM (transIssue op r c e u) := keepsM_laneOp fun _ _ _ _ => by simp

@[simp] theorem keepsM_veAmax (c opx : Nat) (v : Val) : KeepsM (veAmax c opx v) := by
  unfold veAmax
  exact keepsM_amaxPend _ _ _ _

@[simp] theorem keepsM_cvtIssue (deq : Bool) (r : Rec) (c : Nat) (e : Eng) (u : Run) : KeepsM (cvtIssue deq r c e u) := by
  unfold cvtIssue
  refine keepsM_whole (.read fun s _ => ?_)
  extract_lets -underBinder w
  refine .bind (keepsM_srcOf _ _ _ _ _) fun a => .bind (keepsM_dstOf _ _ _) fun d => ?_
  extract_lets -underBinder ta td pair mem okA okD g n m beats
  refine .bind (keepsM_needBeats _ _ _) fun _ => .bind (keepsM_lanesOf (by simp [KeepsM.map, KeepsM.needM])) fun ins => ?_
  refine .bind (.mapList (fun i => ?_) _) fun outs => .bind (.forList (fun _ => (keepsM_putCode _ _ _ _)) _) fun _ =>
    .bind (keepsM_popSrc _ _ _ _) fun _ => .pure _
  extract_lets -underBinder sc raw ys vs
  exact .bind (.forList (fun z => by simp) _) fun _ => .bind (.mapList (fun z => by simp) _) fun _ => .pure _

@[simp] theorem keepsM_quantIssue (r : Rec) (c : Nat) (e : Eng) (u : Run) : KeepsM (quantIssue r c e u) := by
  unfold quantIssue
  refine keepsM_whole (.read fun s _ => ?_)
  extract_lets -underBinder w
  refine .bind (keepsM_srcOf _ _ _ _ _) fun a => ?_
  extract_lets -underBinder ta h td g n beats
  refine .bind (keepsM_needBeats _ _ _) fun _ => ?_
  extract_lets -underBinder okD scalar
  have hscalar : KeepsM scalar := (keepsM_gotCode _ _ _ _ _ _)
  refine .bind (keepsM_lanesOf (by simp [KeepsM.map, hscalar])) fun ins => ?_
  extract_lets -underBinder ar sc sv
  refine .bind (.mapList (fun i => ?_) _) fun outs => .bind (.forList (fun _ => (keepsM_putCode _ _ _ _)) _) fun _ => 
     .bind (keepsM_putCode _ _ _ _) fun _ => .bind (keepsM_popSrc _ _ _ _) fun _ => .pure _
  extract_lets -underBinder v jp
  have hjp : ∀ x, KeepsM (jp x) := fun x => .bind (keepsM_encodeVe _ _ _ _ _) fun _ => .pure _
  exact .ite (.bind (keepsM_veAmax _ _ _) hjp) (hjp ())

@[simp] theorem keepsM_amaxIssue (r : Rec) (c : Nat) (e : Eng) (u : Run) : KeepsM (amaxIssue r c e u) := by
  unfold amaxIssue
  refine keepsM_whole ?_
  refine .read fun s hs => .bind (keepsM_srcOf _ _ _ _ _) fun a => .bind (keepsM_needBeats _ _ _) fun _ => ?_
  refine .bind (keepsM_lanesOf (by simp)) fun ins => .bind (.forList (fun x => (.forList (fun x => (keepsM_veAmax _ _ _)) _)) _) fun _ => ?_
  exact .bind (keepsM_popSrc _ _ _ _) fun _ => .pure _

@[simp] theorem keepsM_reduceIssue (op : Nat) (r : Rec) (c : Nat) (e : Eng) (u : Run) : KeepsM (reduceIssue op r c e u) := by
  unfold reduceIssue
  refine keepsM_whole ?_
  refine .read fun s hs => .bind (keepsM_srcOf _ _ _ _ _) fun a => .bind (keepsM_needBeats _ _ _) fun _ => ?_
  refine .bind (keepsM_lanesOf (by simp)) fun ins => .bind (.mapList (fun x => (keepsM_encodeVe _ _ _ _ _)) _) fun cs => ?_
  exact .bind (keepsM_putCode _ _ _ _) fun _ => .bind (keepsM_popSrc _ _ _ _) fun _ => .pure _

@[simp] theorem keepsM_scanIssue (r : Rec) (c : Nat) (e : Eng) (u : Run) : KeepsM (scanIssue r c e u) := by
  unfold scanIssue
  refine keepsM_whole ?_
  refine .read fun s hs => .bind (keepsM_srcOf _ _ _ _ _) fun a => .bind (keepsM_dstOf _ _ _) fun d => .bind (keepsM_needBeats _ _ _) fun _ => ?_
  refine .bind (keepsM_lanesOf (by simp)) fun got => ?_
  refine .bind (.mapList (fun x => (.bind (keepsM_encodeVe _ _ _ _ _) fun code => .pure _)) _) fun outs => ?_
  exact .bind (.forList (fun x => (keepsM_putCode _ _ _ _)) _) fun _ => .bind (keepsM_popSrc _ _ _ _) fun _ => .pure _

@[simp] theorem keepsM_maskPuts (w : Who) (h : Handle) (k : Coord) (n : Nat) : KeepsM (maskPuts w h k n) := by
  unfold maskPuts
  exact .mapList (fun x => (keepsM_putAt _ _ _ _ _)) _

@[simp] theorem keepsM_cmpIssue (r : Rec) (c : Nat) (e : Eng) (u : Run) : KeepsM (cmpIssue r c e u) := by
  unfold cmpIssue
  refine keepsM_whole ?_
  refine .read fun s hs => .bind (keepsM_srcOf _ _ _ _ _) fun a => .bind (keepsM_srcOf _ _ _ _ _) fun b0 => ?_
  refine .bind (keepsM_srcOf _ _ _ _ _) fun c0 => .bind (keepsM_needBeats _ _ _) fun _ => .bind (keepsM_needBeats _ _ _) fun _ => ?_
  refine .bind (keepsM_lanesOf (by simp)) fun got => .bind (.mapList (fun x => (.when (keepsM_setVeFlags _ _) fun _ => .pure _)) _) fun bits => ?_
  refine .bind (.forList (fun x => (keepsM_putCode _ _ _ _)) _) fun _ => ?_
  exact .bind (keepsM_popSrc _ _ _ _) fun _ => .bind (keepsM_popSrc _ _ _ _) fun _ => .pure _

@[simp] theorem keepsM_selIssue (r : Rec) (c : Nat) (e : Eng) (u : Run) : KeepsM (selIssue r c e u) := by
  unfold selIssue
  refine keepsM_whole ?_
  refine .read fun s hs => .bind (keepsM_srcOf _ _ _ _ _) fun a => .bind (keepsM_srcOf _ _ _ _ _) fun b => .bind (keepsM_dstOf _ _ _) fun d => ?_
  refine .bind (keepsM_needBeats _ _ _) fun _ => .bind (keepsM_needBeats _ _ _) fun _ => .bind (keepsM_lanesOf (by simp)) fun got => ?_
  refine .bind (.forList (fun x => (keepsM_putCode _ _ _ _)) _) fun _ => ?_
  exact .bind (keepsM_popSrc _ _ _ _) fun _ => .bind (keepsM_popSrc _ _ _ _) fun _ => .pure _

@[simp] theorem keepsM_acsLane (r : Rec) (c t x y z : Nat) : KeepsM (acsLane r c t x y z) := by
  unfold acsLane
  refine .ite ?_ ?_
  · refine .bind (.bind (keepsM_drawIf _ _) fun _ => keepsM_intResult _ _ _ _) fun code => ?_
    exact .ite (.bind (keepsM_setVeFlags _ _) fun _ => .ite (.pure _) (.pure _)) (.ite (.pure _) (.pure _))
  · refine .bind (keepsM_encodeVe _ _ _ _ _) fun code => ?_
    exact .ite (.bind (keepsM_setVeFlags _ _) fun _ => .ite (.pure _) (.pure _)) (.ite (.pure _) (.pure _))

@[simp] theorem keepsM_gotIndex (c : Nat) (w : Who) (b : Src) (j : Nat) : KeepsM (gotIndex c w b j) := by
  unfold gotIndex
  exact keepsM_gotCode _ _ _ _ _ _

@[simp] theorem keepsM_permIssue (r : Rec) (c : Nat) (e : Eng) (u : Run) : KeepsM (permIssue r c e u) := by
  unfold permIssue
  refine keepsM_whole (.read fun s _ => ?_)
  extract_lets -underBinder w
  refine .bind (keepsM_srcOf _ _ _ _ _) fun a => .bind (keepsM_srcOf _ _ _ _ _) fun b => .bind (keepsM_dstOf _ _ _) fun d => ?_
  extract_lets -underBinder t ok l n
  refine .bind (keepsM_needBeats _ _ _) fun _ => .bind (keepsM_needBeats _ _ _) fun _ => ?_
  refine .bind (keepsM_lanesOf (by simp [KeepsM.bind, KeepsM.map, KeepsM.needM])) fun ins => .bind (.forList (fun _ =>
    (keepsM_putCode _ _ _ _)) _) fun _ => ?_
  exact .bind (keepsM_popSrc _ _ _ _) fun _ => .bind (keepsM_popSrc _ _ _ _) fun _ => .pure _

@[simp] theorem keepsM_bcastIssue (r : Rec) (c : Nat) (e : Eng) (u : Run) : KeepsM (bcastIssue r c e u) := by
  unfold bcastIssue
  refine keepsM_whole ?_
  refine .read fun s hs => .bind (keepsM_srcOf _ _ _ _ _) fun a0 => .bind (keepsM_dstOf _ _ _) fun d => .bind (keepsM_lanesOf (by simp)) fun got => ?_
  exact .bind (.forList (fun x => (keepsM_putCode _ _ _ _)) _) fun _ => .pure _

@[simp] theorem keepsM_gathIssue (r : Rec) (c : Nat) (e : Eng) (u : Run) : KeepsM (gathIssue r c e u) := by
  unfold gathIssue
  refine keepsM_whole (.read fun s _ => ?_)
  extract_lets -underBinder w h
  refine .bind (keepsM_srcOf _ _ _ _ _) fun b => .bind (keepsM_dstOf _ _ _) fun d => ?_
  extract_lets -underBinder t ok l n
  refine .bind (keepsM_needBeats _ _ _) fun _ => .bind (keepsM_lanesOf (by simp [KeepsM.bind])) fun outs => ?_
  exact .bind (.forList (fun _ => (keepsM_putCode _ _ _ _)) _) fun _ => .bind (keepsM_popSrc _ _ _ _) fun _ => .pure _

@[simp] theorem keepsM_scatIssue (r : Rec) (c : Nat) (e : Eng) (u : Run) : KeepsM (scatIssue r c e u) := by
  unfold scatIssue
  refine keepsM_whole (.read fun s _ => ?_)
  extract_lets -underBinder w
  refine .bind (keepsM_srcOf _ _ _ _ _) fun a => .bind (keepsM_srcOf _ _ _ _ _) fun b => ?_
  extract_lets -underBinder h t ok l n
  refine .bind (keepsM_needBeats _ _ _) fun _ => .bind (keepsM_needBeats _ _ _) fun _ => ?_
  refine .bind (keepsM_lanesOf (by simp [KeepsM.bind])) fun outs => .bind (.forList (fun _ =>
    (keepsM_putCode _ _ _ _)) _) fun _ => ?_
  exact .bind (keepsM_popSrc _ _ _ _) fun _ => .bind (keepsM_popSrc _ _ _ _) fun _ => .pure _

@[simp] theorem keepsM_trnIssue (r : Rec) (c : Nat) (e : Eng) (u : Run) : KeepsM (trnIssue r c e u) := by
  unfold trnIssue
  refine keepsM_whole ?_
  refine .read fun s hs => .bind (.mapList (fun x => (.bind (keepsM_laneSet (by simp)) fun g => .pure _)) _) fun outs => ?_
  exact .bind (.forList (fun x => (keepsM_putCode _ _ _ _)) _) fun _ => .pure _

@[simp] theorem keepsM_rngIssue (r : Rec) (c : Nat) (e : Eng) (u : Run) : KeepsM (rngIssue r c e u) := by
  unfold rngIssue
  refine keepsM_whole ?_
  refine .read fun s hs => .ite ?_ ?_
  · refine .bind (keepsM_dstOf _ _ _) fun d => ?_
    dsimp only
    split
    · refine .bind (.trapM _ _) fun _ => .bind (keepsM_maskPuts _ _ _ _) fun ps => ?_
      refine .bind (.mapList (fun x => (.bind (keepsM_drawVe _) fun d => .pure _)) _) fun bits => ?_
      exact .bind (.forList (fun x => (keepsM_putCode _ _ _ _)) _) fun _ => .pure _
    · refine .bind (.throw _) fun _ => .bind (keepsM_maskPuts _ _ _ _) fun ps => ?_
      refine .bind (.mapList (fun x => (.bind (keepsM_drawVe _) fun d => .pure _)) _) fun bits => ?_
      exact .bind (.forList (fun x => (keepsM_putCode _ _ _ _)) _) fun _ => .pure _
    · refine .bind (keepsM_maskPuts _ _ _ _) fun ps => .bind (.mapList (fun x => (.bind (keepsM_drawVe _) fun d => .pure _)) _) fun bits => ?_
      exact .bind (.forList (fun x => (keepsM_putCode _ _ _ _)) _) fun _ => .pure _
  · refine .bind (keepsM_dstOf _ _ _) fun d => .bind (.mapList (fun x => (keepsM_putLane _ _ _ _ _)) _) fun ps => .bind ?_ fun _ => .pure _
    refine .forList (fun x => ?_) _
    refine .bind (keepsM_drawVe _) fun x => .ite (keepsM_putCode _ _ _ _) ?_
    split
    exact .bind (keepsM_setVeFlags _ _) fun _ => keepsM_putCode _ _ _ _

@[simp] theorem keepsM_iotaIssue (r : Rec) (c : Nat) (e : Eng) (u : Run) : KeepsM (iotaIssue r c e u) := by
  unfold iotaIssue
  refine keepsM_whole ?_
  refine .read fun s hs => .bind (keepsM_dstOf _ _ _) fun d => .bind (.mapList (fun x => (keepsM_putLane _ _ _ _ _)) _) fun ps => ?_
  refine .bind (.mapList (fun x => (.bind (keepsM_encodeVe _ _ _ _ _) fun code => .pure _)) _) fun outs => ?_
  exact .bind (.forList (fun x => (keepsM_putCode _ _ _ _)) _) fun _ => .pure _

@[simp] theorem keepsM_veAcsIssue (r : Rec) (c : Nat) (e : Eng) (u : Run) : KeepsM (veAcsIssue r c e u) := by
  unfold veAcsIssue
  exact keepsM_laneOp (by simp)

/-! ### A record's phases -/

@[simp] theorem keepsM_issueFn (i : Instr) (c : Nat) (e : Eng) (u : Run) : KeepsM (issueFn i c e u) := by
  cases i
  case meMma | meCmma => exact keepsM_mulIssue _ _ _ _ _
  case veAdd | veSub | veMul | veMin | veMax | veAnd | veOr | veXor | veShl | veShr | veAbs => exact keepsM_intIssue _ _ _ _ _
  case veFadd | veFsub | veFmul | veFma | veFmin | veFmax | veFabs | veFneg => exact keepsM_floatIssue _ _ _ _ _
  case veExp2 | veLog2 | veRcp | veRsqrt | veSqrt | veTanh | veSin | veCos => exact keepsM_transIssue _ _ _ _ _
  case veCvt | veDequant => exact keepsM_cvtIssue _ _ _ _ _
  case veQuant => exact keepsM_quantIssue _ _ _ _
  case veAmax => exact keepsM_amaxIssue _ _ _ _
  case veRsum | veRmax | veRmin | veRsumsq => exact keepsM_reduceIssue _ _ _ _ _
  case veScan => exact keepsM_scanIssue _ _ _ _
  case veCmp => exact keepsM_cmpIssue _ _ _ _
  case veSel => exact keepsM_selIssue _ _ _ _
  case vePerm => exact keepsM_permIssue _ _ _ _
  case veTrn => simp [issueFn, veTrnIssue]
  case veBcast => exact keepsM_bcastIssue _ _ _ _
  case veGath => exact keepsM_gathIssue _ _ _ _
  case veScat => exact keepsM_scatIssue _ _ _ _
  case veRng => exact keepsM_rngIssue _ _ _ _
  case veIota => exact keepsM_iotaIssue _ _ _ _
  case fabCollReduce | fabCollPut => exact keepsM_collSend _ _ _ _
  case meClr | meBld | meDrn | meDrq | meFragLend | meFragReclaim | meAld | meAst | meSbw | veAcs | ceCp | ceLq | ceFill | ceOvl | ceFlag | ceCpx |
    fabPint | fabSend | fabWr | fabAtom | fabReq | fabCollSeed | fabCollCommit | fabSeamAccum | fabSeamVote | fabMcast | fabPrio | fabTkr |
    stashPut | stashGet | stashDrop | stashPf => simp [issueFn]
  all_goals exact .pure _

@[simp] theorem keepsM_checkFn (i : Instr) (c : Nat) (e : Eng) (u : Run) : KeepsM (checkFn i c e u) := by
  unfold checkFn
  split
  · exact keepsM_ceCpxEntry _ _ _ _
  · exact keepsM_ceOvlEntry _ _ _ _
  · exact keepsM_stashPutEntry _ _ _ _
  · exact keepsM_stashGetEntry _ _ _ _
  · exact keepsM_stashDropEntry _ _ _ _
  · exact keepsM_fabPintEntry _ _ _ _
  · exact keepsM_fabSendEntry _ _ _ _
  · exact keepsM_fabMcastEntry _ _ _ _
  · exact keepsM_fabCollEntry _ _ _ _
  · exact keepsM_fabCollEntry _ _ _ _
  · exact keepsM_fabSeamEntry _ _ _ _
  · exact .pure _

@[simp] theorem keepsM_doneFn (i : Instr) (c : Nat) (e : Eng) (u : Run) : KeepsM (doneFn i c e u) := by
  unfold doneFn
  split
  · exact keepsM_ceOvlDone _ _ _ _
  · exact keepsM_stashPutDone _ _ _ _
  · exact keepsM_stashGetDone _ _ _ _
  · exact keepsM_stashDropDone _ _ _ _
  · exact keepsM_fabSlotDone _ _ _ _
  · exact keepsM_fabSlotDone _ _ _ _
  · exact keepsM_fabSlotDone _ _ _ _
  · exact keepsM_fabMcastDone _ _ _ _
  · exact keepsM_fabCollCommitDone _ _ _ _
  · exact keepsM_fabSeamVoteDone _ _ _ _
  · exact .pure _

@[simp] theorem recordHead_wf {c : Nat} {e : Eng} {s : State} (h : Memory.wf s.mem = true) : Memory.wf (recordHead c e s).mem = true := by
  simp only [recordHead]
  repeat' split
  all_goals simp [h]

@[simp] theorem recordEntry_wf {c : Nat} {e : Eng} {s : State} (h : Memory.wf s.mem = true) : Memory.wf (recordEntry c e s).mem = true := by
  unfold recordEntry
  split
  · refine ite_wf h ?_
    extract_lets -underBinder r a t
    have hpop : KeepsO t := by
      unfold t
      split
      · exact keepsO_tokenPop (by simp [h])
      · simp [h]
    have htake : KeepsO (t >>= fun t => if 32 ≤ r.swait.val then semTake c a (r.swait.val % 32) 1 t else some t) := hpop.bind fun t ht => by
      split
      · exact keepsO_semTake ht
      · simp [ht]
    refine ite_wf (by simp [h]) (ite_wf (by simp [h]) (ite_wf (by simp [h]) (ite_wf (by simp [h]) ?_)))
    split
    · simp [h]
    next e => simp [htake _ e]
  · exact h

@[simp] theorem recordOperandRead_wf {c : Nat} {e : Eng} {s : State} (h : Memory.wf s.mem = true) :
    Memory.wf (recordOperandRead c e s).mem = true := by
  unfold recordOperandRead
  repeat' split
  all_goals simp [h]

@[simp] theorem keepsM_flagCheck (c : Nat) (e : Eng) (u : Run) : KeepsM (flagCheck c e u) := by
  unfold flagCheck
  exact .ite (.read fun s hs => .bind (keepsM_locate _ _ _ _ _ _ _) fun l => .pure _) (.pure _)

@[simp] theorem keepsM_flagPrior (c : Nat) (e : Eng) (u : Run) : KeepsM (flagPrior c e u) := by
  unfold flagPrior
  split
  · exact .read fun s hs => keepsM_performRelease _ _
  · exact .pure _

@[simp] theorem keepsM_recordChecks (c : Nat) (e : Eng) (u : Run) : KeepsM (recordChecks c e u) := by
  unfold recordChecks
  exact .bind (keepsM_flagCheck _ _ _) fun u => .bind (keepsM_flagPrior _ _ _) fun _ => .bind (keepsM_checkFn _ _ _ _) fun u => .pure _

@[simp] theorem keepsM_licenceGate (c : Nat) (u : Run) : KeepsM (licenceGate c u) := by
  unfold licenceGate
  exact .ite (.bind (keepsM_needLicence _) fun _ => .pure _) (.pure _)

@[simp] theorem keepsM_reserveGate (c : Nat) (e : Eng) (u : Run) : KeepsM (reserveGate c e u) := by
  unfold reserveGate
  refine .read fun s hs => .ite (.bind (.modify fun s hs => (by simp [hs])) fun _ => .pure _) ?_
  refine .ite (.pure _) ?_
  refine .ite (.bind (.waitM _) fun _ => .bind (.needM _ _ _) fun _ => .ite (.pure _) (.bind (.set hs) fun _ => .waitM _)) ?_
  exact .bind (.needM _ _ _) fun _ => .ite (.pure _) (.bind (.set hs) fun _ => .waitM _)

@[simp] theorem keepsM_gate (c : Nat) (e : Eng) (u : Run) : KeepsM (gate c e u) := by
  unfold gate
  split
  · exact (keepsM_recordChecks _ _ _)
  · exact (keepsM_licenceGate _ _)
  · exact (keepsM_reserveGate _ _ _)
  · refine .bind (.modify fun s hs => ?_) fun _ => .ite (.pure _) (keepsM_issueFn _ _ _ _)
    exact ite_wf (by simp [hs]) (by simp [hs])
  · exact .pure _

@[simp] theorem recordIssue_wf {c : Nat} {e : Eng} {s : State} (h : Memory.wf s.mem = true) : Memory.wf (recordIssue c e s).mem = true := by
  have hg : Memory.wf (runM c e (gate c e) s).mem = true := runM_wf (fun u => (keepsM_gate _ _ _)) h
  unfold recordIssue
  split
  · split
    all_goals assumption
  · exact h

@[simp] theorem keepsM_remoteFlag (w : Who) (p : Place) : KeepsM (remoteFlag w p) := by
  unfold remoteFlag
  exact .read fun s hs => .when (keepsM_performRelease _ _) fun _ => .bind (keepsM_remoteDo _ _ _ _ _ _) fun _ => .modify fun s hs => (by simp [hs])

@[simp] theorem keepsM_actOne (c : Nat) (e : Eng) (u : Run) : KeepsM (actOne c e u) := by
  unfold actOne
  dsimp only
  split
  · refine .ite ?_ (.pure _)
    refine .read fun s hs => ?_
    split
    next x1 t2 e3 =>
      have ht2 := keepsO_semSignal hs _ e3
      exact .bind (.set ht2) fun _ => .pure _
    · exact .bind (.waitM _) fun _ => .pure _
  · refine .ite ?_ (.pure _)
    refine .read fun s hs => ?_
    split
    next x1 t2 e3 =>
      have ht2 := keepsO_tokenPush hs _ e3
      exact .bind (.set ht2) fun _ => .pure _
    · exact .bind (.waitM _) fun _ => .pure _
  · refine .ite (.pure _) ?_
    refine .ite ?_ ?_
    · refine .bind (keepsM_flagCheck _ _ _) fun u => ?_
      split
      · exact .read fun s hs => .ite (.bind (keepsM_remoteFlag _ _) fun _ => .pure _) (.bind (keepsM_flagAdd _ _ _ _) fun _ => .pure _)
      · exact .pure _
    · refine .bind (.pure _) fun u => ?_
      split
      · exact .read fun s hs => .ite (.bind (keepsM_remoteFlag _ _) fun _ => .pure _) (.bind (keepsM_flagAdd _ _ _ _) fun _ => .pure _)
      · exact .pure _

theorem actLoop_wf {c : Nat} {e : Eng} {n : Nat} {u : Run} {s : State} (h : Memory.wf s.mem = true) : Memory.wf (actLoop c e n u s).1.mem = true := by
  induction n generalizing u s with
  | zero => exact h
  | succ n ih =>
    unfold actLoop
    split
    · exact h
    · split
      next g => exact ih ((keepsM_actOne _ _ _).ended h g)
      next g => exact (keepsM_actOne _ _ _).ended h g

@[simp] theorem flushDefer_wf {c : Nat} {e : Eng} {n : Nat} {s : State} (h : Memory.wf s.mem = true) : Memory.wf (flushDefer c e n s).mem = true := by
  induction n generalizing s with
  | zero => exact h
  | succ n ih =>
    unfold flushDefer
    split
    · exact h
    next d t _ =>
      split
      next v x g =>
        have ht := fst_wf (actLoop_wf (by simp [h])) g
        cases x with
        | none => exact ih (by simp [ht])
        | some x => cases x <;> simp [ht]

@[simp] theorem leave_mem (c : Nat) (e : Eng) (u : Run) (s : State) : (leave c e u s).mem = s.mem := by simp [leave]
@[simp] theorem releasePass_mem (agent : Nat) (s : State) : (releasePass agent s).1.mem = s.mem := by simp [releasePass]

@[simp] theorem arrive_mem (c : Nat) (e : Eng) (u : Run) (s : State) : (arrive c e u s).mem = s.mem := by
  simp [arrive]

@[simp] theorem keepsM_closeOp (c : Nat) (e : Eng) (u : Run) : KeepsM (closeOp c e u) := by
  unfold closeOp
  exact .bind (.modify fun s hs => (by simp [hs])) fun _ => .bind (keepsM_doneFn _ _ _ _) fun v => .pure _

@[simp] theorem keepPass_mem (c : Nat) (e : Eng) (u : Run) (s : State) : (keepPass c e u s).2.mem = s.mem := by
  unfold keepPass
  split
  · rfl
  · exact releasePass_mem ..

@[simp] theorem takeActions_wf {c : Nat} {e : Eng} {u : Run} {s : State} (h : Memory.wf s.mem = true) :
    Memory.wf (takeActions c e u s).mem = true := by
  unfold takeActions
  extract_lets -underBinder s1 q
  have h1 : Memory.wf s1.mem = true := flushDefer_wf h
  refine ite_wf h1 ?_
  split
  · exact ite_wf (by simp [h1]) (by simp [h1])
  · refine ite_wf (by simp [h1]) ?_
    split
    next t _ g =>
      have ht := fst_wf (actLoop_wf h1) g
      simp [ht]
    next t v x g =>
      have ht := fst_wf (actLoop_wf h1) g
      refine ite_wf (by simp [ht]) ?_
      cases x <;> simp [ht]

@[simp] theorem recordCompletion_wf {c : Nat} {e : Eng} {s : State} (h : Memory.wf s.mem = true) : Memory.wf (recordCompletion c e s).mem = true := by
  unfold recordCompletion
  split
  · refine ite_wf h ?_
    extract_lets -underBinder t
    have ht : Memory.wf t.mem = true := ite_wf (runM_wf (fun u => (keepsM_closeOp _ _ _)) h) h
    split
    · exact ite_wf (takeActions_wf ht) ht
    · exact ht
  · exact h

theorem engAct_wf {c : Nat} {e : Eng} {f : State → State} {s : State} (hf : Keeps f) (h : Memory.wf s.mem = true) :
    Memory.wf (engAct c e f s).mem = true :=
  ite_wf (hf s h) h

@[simp] theorem latchReads_wf {c : Nat} {s : State} (h : Memory.wf s.mem = true) : Memory.wf (latchReads c s).mem = true := by
  refine foldl_wf (fun s e hs => ?_) h
  split
  · exact ite_wf (recordOperandRead_wf hs) hs
  · exact hs

@[simp] theorem engineStep_wf {c : Nat} {e : Eng} {s : State} (h : Memory.wf s.mem = true) : Memory.wf (engineStep c e s).mem = true := by
  unfold engineStep
  extract_lets -underBinder t
  have ht : Memory.wf t.mem = true := flushDefer_wf h
  refine ite_wf ht ?_
  split
  · exact recordHead_wf ht
  · split
    all_goals simp [ht]

@[simp] theorem keepsOut_seqOp {i : Instr} {s : State} (h : Memory.wf s.mem = true) : KeepsOut (seqOp i s) := by
  refine keepsOut_event ?_
  extract_lets -underBinder c e fresh t
  have hf : Memory.wf fresh.mem = true := by simp [fresh, h]
  refine recordCompletion_wf ?_
  unfold t
  split
  · exact ite_wf h hf
  · exact hf

/-! ### Synchronisation instructions -/

theorem keepsM_gussetBody {g : Nat} {read : Bool} {f : Word → Option Word} : KeepsM (gussetBody g read f) := by
  unfold gussetBody
  refine .bind keepsM_claimGussets fun _ => .read fun s _ => .bind (keepsM_repM _ _ _ _) fun _ => ?_
  extract_lets -underBinder jp
  have hjp : ∀ x, KeepsM (jp x) := fun x => by
    unfold jp
    split
    · exact .bind (keepsM_gussetWrite _ _) fun _ => .bind (.modify fun s hs => by simp [hs]) fun _ => .pure _
    · exact .bind (.modify fun s hs => by simp [hs]) fun _ => .pure _
  exact .ite (.bind (keepsM_gussetRead _) hjp) (hjp 0)

theorem orWait_keepsE {s : State} {w : Wait} {o : Option State} (h : Memory.wf s.mem = true) (ho : KeepsO o) : KeepsE (orWait s w o) := by
  cases o with
  | none => exact h
  | some t => exact ho t rfl

@[simp] theorem keepsM_barAra (g pc : Nat) : KeepsM (barAra g pc) := by
  unfold barAra
  refine .read fun s hs => .ite ?_ (.bind (keepsM_waitGroup _) fun _ => .modify fun s hs => hs)
  exact .bind (keepsM_arriveGroup _) fun _ => .bind (.modify fun s hs => hs) fun _ => .bind (keepsM_waitGroup _) fun _ => .modify fun s hs => hs

@[simp] theorem keepsE_licAcq {s : State} (h : Memory.wf s.mem = true) : KeepsE (licAcq s) := by
  simp only [licAcq]
  repeat' split
  all_goals simp [h]

@[simp] theorem keepsE_licRel {s : State} (h : Memory.wf s.mem = true) : KeepsE (licRel s) := by
  simp only [licRel]
  repeat' split
  all_goals simp [h]

@[simp] theorem startEngine_mem (c : Nat) (l : Leader) (mt : Nat) (p : Pass) (s : State) (e : Eng × Nat) :
    (startEngine c l mt p s e).mem = s.mem := rfl

@[simp] theorem keepsE_rdv {s : State} (h : Memory.wf s.mem = true) : KeepsE (rdv s) := by
  unfold rdv
  repeat' split
  all_goals simp [h]

@[simp] theorem keepsM_jendBody : KeepsM (jendBody) := by
  unfold jendBody
  refine .read fun s hs => .bind (.needM _ _ _) fun _ => ?_
  exact .bind (.needM _ _ _) fun _ => .bind (keepsM_performRelease _ _) fun _ => .modify fun s hs => (by simp [hs])

@[simp] theorem keepsE_jend {s : State} (h : Memory.wf s.mem = true) : KeepsE (jend s) := by
  have hb : KeepsE (Eff.ofM jendBody s) := keepsE_ofM keepsM_jendBody h
  unfold jend
  split
  next t e =>
    rw [e] at hb
    simpa using hb
  · exact hb

@[simp] theorem keepsE_bndBody {e : Eng} {k : Nat} {a : SReg} {s : State} (h : Memory.wf s.mem = true) : KeepsE (bndBody e k a s) :=
  keepsE_ofChk_bind h fun _ _ => by simp [h]

@[simp] theorem keepsM_fenceAcq (e : Scope) : KeepsM (fenceAcq e) := by
  unfold fenceAcq
  exact .read fun s hs => .bind (keepsM_performAcquire _ _) fun _ => .modify fun s hs => (by simp [hs])

@[simp] theorem keepsM_fenceRelease (e : Scope) : KeepsM (fenceRelease e) := by
  unfold fenceRelease
  exact .read fun s hs => .bind (keepsM_performRelease _ _) fun _ => .modify fun s hs => hs

@[simp] theorem keepsM_fenceMsa (e : Scope) : KeepsM (fenceMsa e) := by
  unfold fenceMsa
  exact .read fun s hs => .ite (.bind (.waitM _) fun _ => keepsM_fenceRelease _) (keepsM_fenceRelease _)

@[simp] theorem setMx_mem (k : Nat) (v : Word) (s : State) : (setMx k v s).mem = s.mem := rfl

/-! ### Ends of waits -/

/-- The states that a meaning answers from a canonical one are canonical. -/
def KeepsAct (f : State → Out) : Prop := ∀ s, Memory.wf s.mem = true → KeepsOut (f s)

theorem orSame_wf {s : State} {o : Out} (h : Memory.wf s.mem = true) (ho : KeepsOut o) : Memory.wf (orSame s o).mem = true := by
  unfold orSame
  split
  · exact ho _ rfl
  · exact h

theorem keepsAct_control {gd : Guard} {len : Nat} {sup : Bool} {body : State → Eff} (hb : ∀ s, Memory.wf s.mem = true → KeepsE (body s)) :
    KeepsAct (control gd len sup body) := fun s hs => keepsOut_control hs (hb s hs)

theorem keepsAct_event {f : State → State} (hf : Keeps f) : KeepsAct (event f) := fun s hs => keepsOut_event (hf s hs)

/-- A control instruction that is a checked effect, the effect chosen by the state. -/
theorem keepsAct_ofM {gd : Guard} {len : Nat} {sup : Bool} {m : State → M Unit} (hm : ∀ s, Memory.wf s.mem = true → KeepsM (m s)) :
    KeepsAct (control gd len sup fun s => Eff.ofM (m s) s) := keepsAct_control fun s hs => keepsE_ofM (hm s hs) hs

/-- A control instruction that is done or waits. -/
theorem keepsAct_orWait {gd : Guard} {len : Nat} {sup : Bool} {w : State → Wait} {o : State → Option State}
    (ho : ∀ s, Memory.wf s.mem = true → KeepsO (o s)) : KeepsAct (control gd len sup fun s => orWait s (w s) (o s)) :=
  keepsAct_control fun s hs => orWait_keepsE hs (ho s hs)

/-- What a waiting instruction is tried again with keeps memory canonical. -/
def KeepsRedo (redo : Instr → Option (State → Out)) : Prop := ∀ i f, redo i = some f → KeepsAct f

theorem redoCtl_wf {c : Nat} {l : Leader} {ok : Wait → Bool} {redo : Instr → Option (State → Out)} {s : State} (hr : KeepsRedo redo)
    (h : Memory.wf s.mem = true) : Memory.wf (redoCtl c l ok redo s).mem = true := by
  unfold redoCtl
  refine ite_wf ?_ h
  split
  next f e =>
    obtain ⟨i, _, hi⟩ := Option.bind_eq_some_iff.mp e
    exact asStream_wf (fun t ht => orSame_wf ht (hr i f hi t ht)) h
  · exact h

theorem redoStr_wf {c : Nat} {x : Stream} {ok : Wait → Bool} {redo : Instr → Option (State → Out)} {s : State} (hr : KeepsRedo redo)
    (h : Memory.wf s.mem = true) : Memory.wf (redoStr c x ok redo s).mem = true :=
  ite_wf (redoCtl_wf hr h) (ite_wf (engineStep_wf h) h)

theorem keepsRedo_sem : KeepsRedo redoSem := by
  intro i f hf
  unfold redoSem at hf
  split at hf
  · injection hf with hf
    exact hf ▸ keepsAct_orWait fun s hs => keepsO_semSignal hs
  · injection hf with hf
    exact hf ▸ keepsAct_orWait fun s hs => keepsO_semTake hs
  · nomatch hf

theorem keepsRedo_token : KeepsRedo redoToken := by
  intro i f hf
  unfold redoToken at hf
  split at hf
  · injection hf with hf
    exact hf ▸ keepsAct_orWait fun s hs => keepsO_tokenPush hs
  · injection hf with hf
    exact hf ▸ keepsAct_orWait fun s hs => keepsO_tokenPop hs
  · nomatch hf

theorem keepsRedo_barrier : KeepsRedo redoBarrier := by
  intro i f hf
  unfold redoBarrier at hf
  split at hf
  · injection hf with hf
    exact hf ▸ keepsAct_ofM fun s hs => keepsM_arriveGroup _
  · injection hf with hf
    exact hf ▸ keepsAct_ofM fun s hs => keepsM_waitGroup _
  · injection hf with hf
    exact hf ▸ keepsAct_ofM fun s hs => keepsM_barAra _ _
  · nomatch hf

theorem keepsRedo_rdv : KeepsRedo redoRdv := by
  intro i f hf
  unfold redoRdv at hf
  split at hf
  · injection hf with hf
    exact hf ▸ keepsAct_control fun s hs => keepsE_rdv hs
  · nomatch hf

theorem keepsAct_atom2 {op : Nat} {gd : Guard} {o : Ord} {e : Scope} {d : SReg} {m : MOp} {a : SReg} : KeepsAct (atom2 op gd o e d m a) :=
  fun _ hs => keepsOut_atom2 hs

theorem keepsAct_execJend {gd : Guard} : KeepsAct (execJend gd) := keepsAct_control fun _ hs => keepsE_jend hs

theorem keepsRedo_own : KeepsRedo redoOwn := by
  intro i f hf
  unfold redoOwn at hf
  split at hf
  case h_1 => exact Option.some.inj hf ▸ keepsAct_ofM fun s hs => keepsM_loadBody _ _ _
  case h_2 => exact Option.some.inj hf ▸ keepsAct_ofM fun s hs => keepsM_storeBody _ _ _
  case h_3 => exact Option.some.inj hf ▸ keepsAct_ofM fun s hs => keepsM_loadOrdBody _ _ _ _ _
  case h_4 => exact Option.some.inj hf ▸ keepsAct_ofM fun s hs => keepsM_storeOrdBody _ _ _ _ _
  case h_14 => exact Option.some.inj hf ▸ keepsAct_ofM fun s hs => keepsM_atomBody _ _ _ _ _ _ _ _ _
  case h_15 => exact Option.some.inj hf ▸ keepsAct_ofM fun s hs => keepsM_qClaimBody _ _ _ _ _
  case h_16 => exact Option.some.inj hf ▸ keepsAct_ofM fun s hs => keepsM_qRingBody _ _ _ _
  case h_17 => exact Option.some.inj hf ▸ keepsAct_ofM fun s hs => keepsM_arriveGroup _
  case h_18 => exact Option.some.inj hf ▸ keepsAct_ofM fun s hs => keepsM_barAra _ _
  case h_19 => exact Option.some.inj hf ▸ keepsAct_ofM fun s hs => keepsM_fenceAcq _
  case h_20 => exact Option.some.inj hf ▸ keepsAct_ofM fun s hs => keepsM_fenceRelease _
  case h_21 => exact Option.some.inj hf ▸ keepsAct_ofM fun s hs => .bind (keepsM_fenceAcq _) fun _ => keepsM_fenceRelease _
  case h_22 => exact Option.some.inj hf ▸ keepsAct_ofM fun s hs => keepsM_fenceMsa _
  case h_23 => exact Option.some.inj hf ▸ keepsAct_execJend
  case h_24 => nomatch hf
  all_goals exact Option.some.inj hf ▸ keepsAct_atom2

/-! ### Traps, stops and flushes -/

@[simp] theorem engineTrapDeliver_wf {c : Nat} {l : Leader} {s : State} (h : Memory.wf s.mem = true) :
    Memory.wf (engineTrapDeliver c l s).mem = true := by
  refine ite_wf h ?_
  cases e : deliver c l s with
  | none => exact h
  | some t => exact keepsO_deliver h t e

@[simp] theorem wrEngTrapPc_mem (c : Nat) (e : Eng) (v : Word) (s : State) :
    (wrEngTrapPc c e v s).mem = s.mem := by simp only [wrEngTrapPc]; split <;> simp

@[simp] theorem licenceEnds_wf {c : Nat} {acq : Bool} {s : State} (h : Memory.wf s.mem = true) : Memory.wf (licenceEnds c acq s).mem = true :=
  foldl_wf (fun _ _ hs => ite_wf (asStream_wf (fun _ ht => finish_wf ht) hs) hs) h

@[simp] theorem dropReq_wf {c : Nat} {s : State} (h : Memory.wf s.mem = true) : Memory.wf (dropReq c s).1.mem = true := by
  unfold dropReq
  repeat' split
  all_goals simp [h]

@[simp] theorem stopLicence_wf {c : Nat} {s : State} (h : Memory.wf s.mem = true) : Memory.wf (stopLicence c s).1.mem = true := by
  unfold stopLicence
  extract_lets -underBinder p t k
  have ht : Memory.wf t.mem = true := ite_wf (by simp [h]) h
  split
  · simp [ht]
  · split
    all_goals simp [ht]

@[simp] theorem stopStream_mem (c : Nat) (s : State) (x : Stream) : (stopStream c s x).mem = s.mem := by
  simp only [stopStream]
  repeat' split
  all_goals simp

theorem pinResults_wf {root : Nat} {l : List Result} {s : State} (h : Memory.wf s.mem = true) :
    ∀ x, pinResults root l s = some x → Memory.wf x.2.mem = true := by
  induction l generalizing s with
  | nil => exact fun x e => Option.some.inj e ▸ h
  | cons r l ih =>
    intro x e
    unfold pinResults at e
    extract_lets -underBinder got at e
    have hgot : ∀ y, got = some y → Memory.wf y.2.mem = true := by
      intro y hy
      unfold got at hy
      split at hy
      · split at hy
        next e' =>
          split at hy
          · exact Option.some.inj hy ▸ fst_wf (by simp [h]) e'
          · nomatch hy
      · exact Option.some.inj hy ▸ h
    cases hg : got with
    | none => simp [hg] at e
    | some p =>
      simp only [hg] at e
      obtain ⟨y, hy, rfl⟩ := Option.map_eq_some_iff.mp e
      exact ih (hgot p hg) y hy

@[simp] theorem landOver_wf {c n f : Nat} {s : State} (h : Memory.wf s.mem = true) : Memory.wf (landOver c n f s).mem = true := by
  induction f generalizing s with
  | zero => exact h
  | succ f ih =>
    unfold landOver
    extract_lets -underBinder k
    split
    · exact ite_wf h (ih (landOne_wf (by simp [h])))
    · exact h

@[simp] theorem stopIssue_wf {c n i : Nat} {s : State} (h : Memory.wf s.mem = true) : Memory.wf (stopIssue c n s i).mem = true := by
  unfold stopIssue
  extract_lets -underBinder mine rs
  split
  next e =>
    split at e
    · exact pinResults_wf h _ e
    · nomatch e
  · exact foldl_wf (fun _ _ hs => landOne_wf hs) h

@[simp] theorem stopFlight_wf {c n : Nat} {s : State} (h : Memory.wf s.mem = true) : Memory.wf (stopFlight c s n).mem = true :=
  foldl_wf (fun _ _ hs => stopIssue_wf hs) (landOver_wf h)

@[simp] theorem restRun_mem (c : Nat) (e : Eng) (s : State) : (restRun c e s).mem = s.mem := by simp only [restRun]; split <;> simp

@[simp] theorem stopRun_wf {c : Nat} {e : Eng} {s : State} (h : Memory.wf s.mem = true) : Memory.wf (stopRun c s e).mem = true := by
  unfold stopRun
  simp [h]

@[simp] theorem cutPrefix_mem (c k : Nat) (x : Slot) (s : State) : (cutPrefix c k x s).mem = s.mem := by unfold cutPrefix; split <;> simp

@[simp] theorem suspendSlots_mem (c : Nat) (s : State) : (suspendSlots c s).mem = s.mem := by
  refine foldl_mem_eq (fun s e => ?_) _ _
  dsimp only
  split
  · simp
  · rfl

@[simp] theorem stopCore_wf {c : Nat} {s : State} (h : Memory.wf s.mem = true) : Memory.wf (stopCore c s).mem = true := by
  unfold stopCore
  extract_lets -underBinder k t
  refine ite_wf h (ite_wf (by simp [h]) ?_)
  have ht : Memory.wf t.mem = true := foldl_wf (fun _ _ hs => stopFlight_wf hs) (by simp [h])
  split
  next u held e =>
    have hu := fst_wf (stopLicence_wf ht) e
    extract_lets -underBinder v w
    rw [setCore_mem]
    exact foldl_wf (fun _ _ hs => stopRun_wf hs) (foldl_wf (fun _ _ hs => by simp [hs]) hu)

@[simp] theorem drainRun_wf {c : Nat} {e : Eng} {s : State} (h : Memory.wf s.mem = true) : Memory.wf (drainRun c s e).mem = true := by
  unfold drainRun
  split
  next u _ =>
    refine ite_wf ?_ h
    exact runM_wf (m := issueFn u.instr c e) (fun v => (keepsM_issueFn _ _ _ _)) h
  · exact h

@[simp] theorem stopDone_wf {c : Nat} {s : State} (h : Memory.wf s.mem = true) : Memory.wf (stopDone c s).mem = true := by
  unfold stopDone
  extract_lets -underBinder drained t u
  have ht : Memory.wf t.mem = true := foldl_wf (fun _ _ hs => drainRun_wf hs) h
  have hr : Memory.wf (allEng.foldl (fun s e => dropResv c (engStream e) (restRun c e s)) t).mem = true := foldl_wf (fun _ _ hs => by simp [hs]) ht
  refine ite_wf (ite_wf ?_ ht) h
  rw [setCore_mem]
  unfold u
  rw [suspendSlots_mem]
  exact hr

@[simp] theorem notifyCore_mem (c : Nat) (s : State) : (notifyCore c s).mem = s.mem := by
  refine foldl_mem_eq (fun s l => ?_) _ _
  split <;> rfl

@[simp] theorem reannounce_mem (c : Nat) (s : State) : (reannounce c s).mem = s.mem := by
  refine foldl_mem_eq (fun s l => ?_) _ _
  split
  · simp
  · rfl

@[simp] theorem resumeCore_mem (c : Nat) (s : State) : (resumeCore c s).mem = s.mem := by
  unfold resumeCore
  extract_lets -underBinder k t
  split
  · rfl
  · rw [reannounce_mem]
    split
    · simp [t]
    · rfl

@[simp] theorem reinjectEng_mem (c : Nat) (s : State) (e : Eng) : (reinjectEng c s e).mem = s.mem := by
  simp only [reinjectEng]
  repeat' split
  all_goals simp

@[simp] theorem dumpReinject_mem (c : Nat) (s : State) : (dumpReinject c s).mem = s.mem := by simp [dumpReinject]

@[simp] theorem keepsC_wrPreCtl {v : Word} {s : State} (h : Memory.wf s.mem = true) : KeepsC (wrPreCtl v s) := by
  unfold wrPreCtl
  dsimp only
  refine .bind fun a => (keepsC_pure _).mpr ?_
  split
  · exact h
  · split
    · simp [h]
    · simp [h]

theorem keepsRedo_timed : KeepsRedo redoTimed := by
  intro i f hf
  unfold redoTimed at hf
  split at hf
  next g e => exact Option.some.inj hf ▸ keepsRedo_sem i g e
  · exact keepsRedo_token i f hf

@[simp] theorem queueTimeout_wf {c : Nat} {x : Stream} {s : State} (h : Memory.wf s.mem = true) : Memory.wf (queueTimeout c x s).mem = true := by
  unfold queueTimeout
  extract_lets -underBinder m lim
  split
  · exact h
  · refine ite_wf ?_ h
    extract_lets -underBinder t w
    have ht : Memory.wf t.mem = true := redoStr_wf keepsRedo_timed h
    exact ite_wf ht (ite_wf (asStream_wf (fun _ hu => by simp [hu]) h) (by simp [h]))

@[simp] theorem dropDump_mem (c n : Nat) (s : State) : (dropDump c n s).mem = s.mem := by simp [dropDump]

@[simp] theorem flushEngine_wf {c : Nat} {e : Eng} {s : State} (h : Memory.wf s.mem = true) : Memory.wf (flushEngine c s e).mem = true := by
  unfold flushEngine
  extract_lets -underBinder x ovl s1 q s2 qs s3 s4 s5 s6 d s7 m
  clear_value ovl
  have h3 : Memory.wf s3.mem = true := foldl_wf (fun _ _ hs => by simp [hs]) (by simp [s2, s1, h])
  have h4 : Memory.wf s4.mem = true := by
    unfold s4
    rw [dropDump_mem]
    exact stopFlight_wf h3
  have h5 : Memory.wf s5.mem = true := foldl_wf (fun _ _ hs => ite_wf (by simp [hs]) hs) h4
  have h6 : Memory.wf s6.mem = true := by
    unfold s6
    split
    · rw [setCore_mem]
      exact h5
    · exact h5
  rw [setStr_mem]
  unfold s7
  rw [setDie_mem]
  exact h6

@[simp] theorem flushJob_wf {c : Nat} {l : Leader} {s : State} (h : Memory.wf s.mem = true) : Memory.wf (flushJob c l s).mem = true := by
  unfold flushJob
  extract_lets -underBinder lic s1 s2 s3 m s4 x s5
  have h1 : Memory.wf s1.mem = true := foldl_wf (fun _ _ hs => flushEngine_wf hs) h
  have h2 : Memory.wf s2.mem = true := ite_wf (by simp [h1]) h1
  simp [s5, s4, s3, h2]

@[simp] theorem flushEnd_wf {f : Nat × Leader} {s : State} (h : Memory.wf s.mem = true) : Memory.wf (flushEnd s f).mem = true := by
  simp only [flushEnd]
  split
  · exact h
  · refine endJob_wf ?_
    dsimp only
    exact foldl_wf (fun s a hs => hs) (by simp [h])

@[simp] theorem flushEnds_wf {s : State} (h : Memory.wf s.mem = true) : Memory.wf (flushEnds s).mem = true := by
  unfold flushEnds
  exact foldl_wf (fun s a hs => (by simp [hs])) h

@[simp] theorem keepsC_wrJflush {v : Word} {s : State} (h : Memory.wf s.mem = true) : KeepsC (wrJflush v s) := by
  unfold wrJflush
  dsimp only
  exact .bind fun a => .bind fun a => (by simp [h])

@[simp] theorem stopWaiting_wf {s : State} (h : Memory.wf s.mem = true) : Memory.wf (stopWaiting s).mem = true := by
  unfold stopWaiting
  exact foldl_wf (fun s a hs => (by simp [hs])) h

/-! ### Arrivals and the schedule of intents -/

@[simp] theorem notePeer_mem (m : RemoteAcc) (s : State) : (notePeer m s).mem = s.mem := by simp only [notePeer]; split <;> simp

@[simp] theorem keepsM_peerLoc (m : RemoteAcc) (addr : Nat) (nib : Option Bool) (a : Acc) : KeepsM (peerLoc m addr nib a) := by
  unfold peerLoc
  refine .read fun s hs => .bind (.needM _ _ _) fun _ => .ite ?_ ?_
  · refine .bind (.waitM _) fun _ => .bind (.needM _ _ _) fun _ => ?_
    split
    · exact .trapM _ _
    · refine .bind (.set hs) fun _ => .bind (.needM _ _ _) fun _ => ?_
      exact .bind (.needM _ _ _) fun _ => .bind (.modify fun s hs => (by simp [hs])) fun _ => .pure _
  · refine .bind (.needM _ _ _) fun _ => ?_
    split
    · exact .trapM _ _
    · refine .bind (.set hs) fun _ => .bind (.needM _ _ _) fun _ => ?_
      exact .bind (.needM _ _ _) fun _ => .bind (.modify fun s hs => (by simp [hs])) fun _ => .pure _

@[simp] theorem keepsM_tryDeliver (m : RemoteAcc) (flat v : Nat) : KeepsM (tryDeliver m flat v) := by
  unfold tryDeliver
  refine .read fun s hs => ?_
  split
  · exact .pure _
  next n _ =>
    extract_lets -underBinder k
    cases e : chanDeliver n v (k.pass (ingressAgent m.sender)) s with
    | ok t => exact .set (keepsC_chanDeliver hs t e)
    | error x => exact .throw _

@[simp] theorem keepsM_performRelWrite (m : RemoteAcc) : KeepsM (performRelWrite m) := by
  refine keepsM_whole (.forList (fun e => .bind (keepsM_peerLoc _ _ _ _) fun x => ?_) _)
  exact .bind (keepsM_storeOrd _ _ _ _ _) fun _ => keepsM_tryDeliver _ _ _

@[simp] theorem keepsM_writeChecks (m : RemoteAcc) : KeepsM (writeChecks m) := by
  unfold writeChecks
  refine keepsM_whole ?_
  refine .mapList (fun x => ?_) _
  refine .bind (keepsM_peerLoc _ _ _ _) fun _ => ?_
  split
  exact .bind (keepsM_raceCheck _ _ _ _ _) fun _ => .pure _

@[simp] theorem keepsM_landElem_ingress (sender : Nat) (l : Loc) (x : Nat) : KeepsM (landElem sender l x) :=
  .read fun _ _ => .bind (keepsM_elemBytes _ _ _) fun _ => keepsM_writeLoc _ _ _

@[simp] theorem ackAll_mem (sender status : Nat) (acks : List (Nat × Nat)) (s : State) :
    (ackAll sender status acks s).mem = s.mem := by simp [ackAll]

@[simp] theorem landNext_wf {sender : Nat} {els : List (Loc × Nat)} {acks : List (Nat × Nat)} {s : State} (h : Memory.wf s.mem = true) :
    Memory.wf (landNext sender els acks s).1.mem = true := by
  unfold landNext
  split
  · simp [h]
  next e t =>
    have hk := keepsM_landElem_ingress sender e.1 e.2
    split
    next g =>
      have ht := hk.ended h g
      split
      · simp [ht]
      · exact ht
    next g => simp [hk.ended h g]
    next g => exact h

@[simp] theorem keepsM_performAtomic (m : RemoteAcc) (op : Nat) (x y : Word) : KeepsM (performAtomic m op x y) := by
  refine keepsM_whole (.bind (keepsM_peerLoc _ _ _ _) fun z => ?_)
  refine .bind (keepsM_atomicAt _ _ _ _ _ _) fun old => ?_
  split
  · exact .ite (keepsM_tryDeliver _ _ _) (.pure _)
  · exact .pure _

theorem tryAcc_wf {k : Held} {m : RemoteAcc} {quiet : Bool} {f : M Unit} {s : State} (hf : KeepsM f) (h : Memory.wf s.mem = true) :
    Memory.wf (tryAcc k m quiet f s).1.mem = true := by
  unfold tryAcc
  extract_lets -underBinder report
  have hr : ∀ n t, Memory.wf t.mem = true → Memory.wf (report n t).mem = true := fun _ _ ht => ite_wf ht (by simp [ht])
  split
  next g => exact hr _ _ (hf.ended h g)
  next g => exact hr _ _ (hf.ended h g)
  next g => exact h

theorem checkWrites_wf {ring : Bool} {ms : List RemoteAcc} {els : List (Loc × Nat)} {acks : List (Nat × Nat)} {s : State}
    (h : Memory.wf s.mem = true) : ∀ x, checkWrites ring ms els acks s = some x → Memory.wf x.2.2.mem = true := by
  induction ms generalizing els acks s with
  | nil => exact fun x e => Option.some.inj e ▸ h
  | cons m ms ih =>
    intro x e
    unfold checkWrites at e
    split at e
    next g => exact ih ((keepsM_writeChecks m).ended h g) x e
    next g => exact ih (by simp [(keepsM_writeChecks m).ended h g]) x e
    next => nomatch e

@[simp] theorem tryWrites_wf {k : Held} {sender : Nat} {ring : Bool} {ms : List RemoteAcc} {s : State} (h : Memory.wf s.mem = true) :
    Memory.wf (tryWrites k sender ring ms s).1.mem = true := by
  unfold tryWrites
  split
  next e => exact landNext_wf (checkWrites_wf h _ e)
  · exact h

@[simp] theorem settle'_mem (id status : Nat) (s : State) : (settle' id status s).mem = s.mem := by
  simp only [settle']
  repeat' split
  all_goals simp

@[simp] theorem busyIntent_mem (id : Nat) (s : State) : (busyIntent id s).mem = s.mem := rfl
@[simp] theorem noted_mem (id : Nat) (s : State) : (noted id s).mem = s.mem := rfl
@[simp] theorem ackArrives_mem (id status : Nat) (s : State) : (ackArrives id status s).mem = s.mem := by unfold ackArrives; split <;> simp
@[simp] theorem orphanIntent_mem (id : Nat) (s : State) : (orphanIntent id s).mem = s.mem := rfl
@[simp] theorem remoteOrphan_mem (id : Nat) (s : State) : (remoteOrphan id s).mem = s.mem := by simp only [remoteOrphan]; split <;> simp
@[simp] theorem intentResend_mem (c k : Nat) (s : State) : (intentResend c k s).mem = s.mem := by simp only [intentResend]; split <;> simp

@[simp] theorem grantArrives_mem (c k src ep n ex : Nat) (s : State) :
    (grantArrives c k src ep n ex s).mem = s.mem := by simp only [grantArrives]; split <;> simp

@[simp] theorem tokenExpiry_mem (c k src n : Nat) (s : State) : (tokenExpiry c k src n s).mem = s.mem := rfl

@[simp] theorem withdrawArrives_mem (c k ep : Nat) (s : State) :
    (withdrawArrives c k ep s).mem = s.mem := by simp only [withdrawArrives]; split <;> simp

@[simp] theorem mapIntent_mem (i : MsgId) (f : Intent → Intent) (s : State) : (mapIntent i f s).mem = s.mem := rfl
@[simp] theorem dropIntent_mem (i : MsgId) (s : State) : (dropIntent i s).mem = s.mem := rfl
@[simp] theorem closeIntent_mem (i : MsgId) (s : State) : (closeIntent i s).mem = s.mem := rfl

@[simp] theorem intentArrives_mem (i : MsgId) (n : IntentInfo) (s : State) : (intentArrives i n s).mem = s.mem := by
  simp only [intentArrives]
  repeat' split
  all_goals simp

@[simp] theorem keepsO_grantTurn {x : Intent} {s : State} (h : Memory.wf s.mem = true) : KeepsO (grantTurn x s) := by
  unfold grantTurn
  simp [h]

@[simp] theorem grantLoop_wf {n : Nat} {s : State} (h : Memory.wf s.mem = true) : Memory.wf (grantLoop n s).mem = true := by
  induction n generalizing s with
  | zero => exact h
  | succ n ih =>
    unfold grantLoop
    refine ite_wf ?_ h
    split
    · exact h
    next x _ =>
      split
      · exact h
      next n rest _ =>
        extract_lets -underBinder ex t u
        have ht : Memory.wf t.mem = true := by simp [t, h]
        have hu : Memory.wf u.mem = true := by
          unfold u
          rw [noteOpen_mem]
          cases e : grantTurn x t with
          | none => exact ht
          | some v => exact keepsO_grantTurn ht v e
        exact ih (by simpa using hu)

@[simp] theorem grantSchedule_wf {s : State} (h : Memory.wf s.mem = true) : Memory.wf (grantSchedule s).mem = true := grantLoop_wf h

@[simp] theorem tokenAbandon_mem (i : MsgId) (n : Nat) (s : State) : (tokenAbandon i n s).mem = s.mem := by
  simp only [tokenAbandon]
  repeat' split
  all_goals simp

@[simp] theorem returnArrives_mem (i : MsgId) (n : Nat) (s : State) : (returnArrives i n s).mem = s.mem := rfl
@[simp] theorem suspendArrives_mem (i : MsgId) (ns : List Nat) (s : State) : (suspendArrives i ns s).mem = s.mem := rfl
@[simp] theorem dropBegun_mem (i : MsgId) (s : State) : (dropBegun i s).mem = s.mem := rfl

@[simp] theorem messageWithdraw_mem (i : MsgId) (s : State) : (messageWithdraw i s).mem = s.mem := by
  simp only [messageWithdraw]
  repeat' split
  all_goals simp

@[simp] theorem wrGsCtl_mem (v : Word) (s : State) : (wrGsCtl v s).mem = s.mem := by simp only [wrGsCtl]; split <;> simp

@[simp] theorem keepsM_collLocs (m : RemoteAcc) : KeepsM (collLocs m) := by
  unfold collLocs
  refine .bind (.needM _ _ _) fun _ => .mapList (fun x => ?_) _
  refine .bind (keepsM_peerLoc _ _ _ _) fun _ => ?_
  split
  exact .pure _

theorem keepsM_underCtx {α : Type} {v : Word} {m : M α} (hm : KeepsM m) : KeepsM (underCtx v m) :=
  .read fun _ _ => .bind (.modify fun _ hs => hs) fun _ => hm.bind fun _ => .bind (.modify fun _ hs => hs) fun _ => .pure _

@[simp] theorem keepsM_collApply (p : CollInfo) (ms : List (Word × RemoteAcc)) : KeepsM (collApply p ms) := by
  refine keepsM_whole (.read fun s _ => ?_)
  extract_lets -underBinder x
  refine .bind (.mapList (fun m => .bind (keepsM_underCtx (keepsM_collLocs _)) fun _ => .pure _) _) fun els => ?_
  extract_lets -underBinder els'
  refine .ite ?_ (.ite ?_ ?_)
  · exact .bind (.forList (fun e => .bind (keepsM_elemBytes _ _ _) fun _ => (keepsM_writeLoc _ _ _)) _) fun _ => .modify fun s hs => by simp [hs]
  · exact .bind (.forList (fun e => .bind (keepsM_homeRead _ _ _) fun _ => (keepsM_writeLoc _ _ _)) _) fun _ => .modify fun s hs => by simp [hs]
  · exact .modify fun s hs => by simp [hs]

@[simp] theorem noteHeader_mem (i : MsgId) (n : Nat) (last : Bool) (s : State) : (noteHeader i n last s).mem = s.mem := rfl
@[simp] theorem turnAway_mem (p : ChunkInfo) (s : State) : (turnAway p s).mem = s.mem := by simp [turnAway]
@[simp] theorem holdRun_mem (i : MsgId) (n : Nat) (m : RemoteAcc) (s : State) : (holdRun i n m s).mem = s.mem := rfl

@[simp] theorem keepsO_collBeat {i : MsgId} {n : Nat} {q : CollInfo} {last : Bool} {ms : List RemoteAcc} {s : State} (h : Memory.wf s.mem = true) :
    KeepsO (collBeat i n q last ms s) := by
  induction ms generalizing s with
  | nil => exact (keepsO_some s).mpr h
  | cons m ms ih =>
    unfold collBeat
    split
    · split
      · split
        · exact keepsO_none
        · extract_lets -underBinder t runs
          have ht : Memory.wf t.mem = true := by simp [t, h]
          split
          next g =>
            have hk := (keepsM_collApply q runs).ended (by exact ht) g
            simp [hk]
          next => simp [ht]
          next => exact keepsO_none
      · exact ih (by simp [h])
    · exact ih (by simp [h])
    · exact keepsO_none

@[simp] theorem tryChunk_wf {i : MsgId} {n : Nat} {p : ChunkInfo} {s : State} (h : Memory.wf s.mem = true) :
    Memory.wf (tryChunk i n p s).1.mem = true := by
  unfold tryChunk
  split
  · split
    next e => exact keepsO_collBeat h _ e
    · exact h
  · exact tryWrites_wf h

@[simp] theorem prefixFlit_mem (m : RemoteAcc) (s : State) : (prefixFlit m s).mem = s.mem := by unfold prefixFlit; split <;> rfl

@[simp] theorem tryHeld_wf {k : Held} {s : State} (h : Memory.wf s.mem = true) : Memory.wf (tryHeld s k).1.mem = true := by
  unfold tryHeld
  split
  · exact landNext_wf h
  · split
    · exact tryAcc_wf (keepsM_performRelWrite _) h
    · exact tryWrites_wf h
  · split
    · simp [h]
    · exact tryAcc_wf (keepsM_performAtomic _ _ _ _) h
  · exact tryChunk_wf h

@[simp] theorem acceptHeld_mem (k : Held) (s : State) : (acceptHeld k s).1.mem = s.mem := by
  unfold acceptHeld
  split
  · split <;> simp
  · simp
  · rfl

@[simp] theorem arriveHeld_wf {k : Held} {s : State} (h : Memory.wf s.mem = true) : Memory.wf (arriveHeld k s).mem = true := by
  unfold arriveHeld
  split
  · exact h
  next t e =>
    have ht := keepsO_repArrival h t e
    have ha : Memory.wf (acceptHeld k t).1.mem = true := by simp [ht]
    split
    next g => exact fst_wf ha g
    next u g =>
      have hu := fst_wf ha g
      have hk := tryHeld_wf (k := k) hu
      refine ite_wf hu ?_
      split
      next g => exact fst_wf hk g
      next g =>
        have hv := fst_wf hk g
        exact hv

@[simp] theorem tryUnder_wf {v : Word} {k : Held} {s : State} (h : Memory.wf s.mem = true) : Memory.wf (tryUnder v k s).1.mem = true := by
  have := tryHeld_wf (k := k) (s := { s with peerCtx := v }) h
  exact this

@[simp] theorem retryLoop_wf {l kept : List (Word × Held)} {s : State} (h : Memory.wf s.mem = true) : Memory.wf (retryLoop l kept s).mem = true := by
  induction l generalizing kept s with
  | nil => exact h
  | cons k l ih =>
    unfold retryLoop
    refine ite_wf (ih h) ?_
    have hk := tryUnder_wf (v := k.1) (k := k.2) h
    split
    next g => exact ih (fst_wf hk g)
    next g => exact ih (fst_wf hk g)

@[simp] theorem retryHeld_wf {s : State} (h : Memory.wf s.mem = true) : Memory.wf (retryHeld s).mem = true := ite_wf h (retryLoop_wf h)

@[simp] theorem keepsC_wrPeerCtx {v : Word} {s : State} (h : Memory.wf s.mem = true) : KeepsC (wrPeerCtx v s) := by
  unfold wrPeerCtx
  exact .bind fun a => (by simp [h])

/-! ### Trace and time -/

@[simp] theorem keepsC_wrTrcCtl {c : Nat} {v : Word} {s : State} (h : Memory.wf s.mem = true) : KeepsC (wrTrcCtl c v s) := by
  unfold wrTrcCtl
  dsimp only
  exact .bind fun a => (by simp [h])

@[simp] theorem keepsM_ringWord (i x : Nat) : KeepsM (ringWord i x) := by
  unfold ringWord
  exact .read fun s hs => .read fun s1 hs1 => .bind (keepsM_wordLoc _ _ _ _) fun l => keepsM_writeLoc _ _ _

@[simp] theorem keepsM_ringRecord (k time who payload : Nat) : KeepsM (ringRecord k time who payload) := by
  unfold ringRecord
  exact .bind (keepsM_ringWord _ _) fun _ => .bind (keepsM_ringWord _ _) fun _ => .bind (keepsM_ringWord _ _) fun _ => keepsM_ringWord _ _

theorem setTrcStat_wf {s : State} {v : Word} (h : Memory.wf s.mem = true) : Memory.wf { s with trcStat := v }.mem = true := h
theorem setTrcSeq_wf {s : State} {l : List (Nat × Nat)} (h : Memory.wf s.mem = true) : Memory.wf { s with trcSeq := l }.mem = true := h
@[simp] theorem trcLost_wf {s : State} (h : Memory.wf s.mem = true) : Memory.wf (trcLost s).mem = true := setTrcStat_wf h

@[simp] theorem traceOne_wf {e : Nat × Nat × Nat} {s : State} (h : Memory.wf s.mem = true) : Memory.wf (traceOne s e).mem = true := by
  unfold traceOne
  split
  extract_lets -underBinder q t v n
  have ht : Memory.wf t.mem = true := setTrcSeq_wf h
  refine ite_wf (trcLost_wf ht) ?_
  split
  next g => exact setTrcStat_wf ((keepsM_whole (keepsM_ringRecord _ _ _ _)).ended ht g)
  · exact trcLost_wf ht

@[simp] theorem traceDrain_wf {s : State} (h : Memory.wf s.mem = true) : Memory.wf (traceDrain s).mem = true :=
  ite_wf h (foldl_wf (fun _ _ hs => traceOne_wf hs) h)

@[simp] theorem wrTsync_mem (v : Word) (s : State) : (wrTsync v s).mem = s.mem := rfl
@[simp] theorem timeSyncSend_mem (s : State) : (timeSyncSend s).mem = s.mem := by unfold timeSyncSend; split <;> rfl

@[simp] theorem timeMessage_mem (t : Word) (s : State) : (timeMessage t s).mem = s.mem := by
  simp only [timeMessage]
  repeat' split
  all_goals simp

/-! ### Translation commands, reset and power -/

@[simp] theorem xDone_mem (r : Nat) (s : State) : (xDone r s).mem = s.mem := rfl
@[simp] theorem xBegin_mem (op : Nat) (s : State) : (xBegin op s).mem = s.mem := rfl
@[simp] theorem dropPage_mem (p : Closing) (s : State) : (dropPage p s).mem = s.mem := rfl

@[simp] theorem recallPage_wf {p : Closing} {s : State} (h : Memory.wf s.mem = true) : Memory.wf (recallPage p s).mem = true := by
  unfold recallPage
  exact foldl_wf (fun s a hs => (by simp [hs])) h

@[simp] theorem storePte_wf {pa p : Nat} {s : State} (h : Memory.wf s.mem = true) : Memory.wf (storePte pa p s).mem = true := by
  simp only [storePte]
  exact memStore_wf _ _ _ (by simp [h])

@[simp] theorem xUnmap_mem (s : State) : (xUnmap s).mem = s.mem := by
  simp only [xUnmap]
  repeat' split
  all_goals simp

@[simp] theorem unmapDone_wf {s : State} (h : Memory.wf s.mem = true) : Memory.wf (unmapDone s).mem = true := by
  simp only [unmapDone]
  repeat' split
  all_goals simp [h]

@[simp] theorem xMigrateBegin_mem (s : State) : (xMigrateBegin s).mem = s.mem := by
  simp only [xMigrateBegin]
  repeat' split
  all_goals simp

@[simp] theorem migrateBeginDone_wf {s : State} (h : Memory.wf s.mem = true) : Memory.wf (migrateBeginDone s).mem = true := by
  unfold migrateBeginDone
  repeat' split
  all_goals simp [h]

@[simp] theorem xMigrateEnd_wf {new : Bool} {s : State} (h : Memory.wf s.mem = true) : Memory.wf (xMigrateEnd new s).mem = true := by
  unfold xMigrateEnd
  repeat' split
  all_goals simp [h]

@[simp] theorem xFlush_mem (s : State) : (xFlush s).mem = s.mem := rfl

@[simp] theorem flushDone_mem (s : State) : (flushDone s).mem = s.mem := by
  simp only [flushDone]
  repeat' split
  all_goals simp

@[simp] theorem xLtInval_mem (s : State) : (xLtInval s).mem = s.mem := by simp only [xLtInval]; split <;> simp

theorem xltStart_wf {f : State → State} {s : State} (hf : Keeps f) (h : Memory.wf s.mem = true) : Memory.wf (xltStart f s).mem = true :=
  ite_wf h (hf s h)

@[simp] theorem wrXltCmd_wf {v : Word} {s : State} (h : Memory.wf s.mem = true) : Memory.wf (wrXltCmd v s).mem = true := by
  refine xltStart_wf (fun s hs => ite_wf (by simp [hs]) ?_) h
  split
  all_goals simp [hs]

@[simp] theorem translationWalk_mem (c : Nat) (x : Stream) (va : Nat) (s : State) : (translationWalk c x va s).mem = s.mem := by
  simp only [translationWalk]
  repeat' split
  all_goals simp

@[simp] theorem msaApply_wf {n : Nat} {s : State} (h : Memory.wf s.mem = true) : Memory.wf (msaApply n s).mem = true := by
  simp only [msaApply]
  split
  · exact h
  · split
    · exact h
    next x1 t2 e3 =>
      have ht2 := keepsO_repTurn h _ e3
      exact foldl_wf (fun s a hs => (by simp [hs])) ht2

@[simp] theorem patrolScrub_mem (level unit : Nat) (r : ScrubResult) (s : State) : (patrolScrub level unit r s).mem = s.mem := by
  simp only [patrolScrub]
  repeat' split
  all_goals simp

@[simp] theorem unloadSlot_mem (s : State) (k : Nat) : (unloadSlot s k).mem = s.mem := by unfold unloadSlot; split <;> rfl
@[simp] theorem unloadSlots_mem (s : State) : (unloadSlots s).mem = s.mem := by simp [unloadSlots]
@[simp] theorem unloadBegin_mem (k : Nat) (s : State) : (unloadBegin k s).mem = s.mem := by unfold unloadBegin; split <;> simp

@[simp] theorem keepsC_wrTtCfg {c : Nat} {v : Word} {s : State} (h : Memory.wf s.mem = true) : KeepsC (wrTtCfg c v s) := by
  unfold wrTtCfg
  dsimp only
  exact .bind fun a => .bind fun a => (by simp [h])

@[simp] theorem deviceReset_wf {s : State} (h : Memory.wf s.mem = true) : Memory.wf (deviceReset s).mem = true := filter_wf _ _ h
@[simp] theorem auxPowerLoss_wf {s : State} (h : Memory.wf s.mem = true) : Memory.wf (auxPowerLoss s).mem = true := filter_wf _ _ h
@[simp] theorem powerOn_wf {s : State} (h : Memory.wf s.mem = true) : Memory.wf (powerOn s).mem = true := ite_wf h (auxPowerLoss_wf h)

/-! ### Checkpoint and restore -/

@[simp] theorem setCk_mem (l n v : Nat) (s : State) : (setCk l n v s).mem = s.mem := (rfl)
@[simp] theorem setPhase_mem (p : Nat) (s : State) : (setPhase p s).mem = s.mem := by simp [setPhase]
@[simp] theorem setResult_mem (r : Nat) (s : State) : (setResult r s).mem = s.mem := setCk_mem ..

@[simp] theorem stopAll_wf {s : State} (h : Memory.wf s.mem = true) : Memory.wf (stopAll s).mem = true := by
  simp only [stopAll]
  exact foldl_wf (fun s a hs => (by simp [hs])) h

@[simp] theorem restartAll_mem (s : State) : (restartAll s).mem = s.mem := by simp [restartAll]

@[simp] theorem cleanTowers_wf {s : State} (h : Memory.wf s.mem = true) : Memory.wf (cleanTowers s).mem = true := by
  simp only [cleanTowers]
  exact foldl_wf (fun s a hs => (by simp [hs])) (foldl_wf (fun s a hs => (foldl_wf (fun s a hs => (by simp [hs])) hs)) h)

@[simp] theorem writeRange_wf {a n : Nat} {cells : List (Nat × Byte)} {s : State} (h : Memory.wf s.mem = true) :
    Memory.wf (writeRange a n cells s).mem = true := by
  have hm : Memory.wf (clearRels a n (cutOpen a n s)).mem = true := by simp [h]
  exact foldl_memWr_wf (fun c : Nat × Byte => a + c.1) _ _ _ (memClear_wf _ _ _ hm)

@[simp] theorem writeHeader_wf {slot n : Nat} {s : State} (h : Memory.wf s.mem = true) :
    Memory.wf (writeHeader slot n s).mem = true := writeRange_wf h

@[simp] theorem writeSections_wf {key : Nat} {s : State} (h : Memory.wf s.mem = true) : Memory.wf (writeSections key s).mem = true := by
  unfold writeSections
  extract_lets -underBinder t cells slabs
  have ht : Memory.wf t.mem = true := by
    unfold t
    rw [leaveOpen_mem]
    exact writeRange_wf h
  exact writeRange_wf (foldl_wf (fun _ _ hs => writeRange_wf hs) ht)

@[simp] theorem copyRange_wf {src dst n : Nat} {s : State} (h : Memory.wf s.mem = true) : Memory.wf (copyRange src dst n s).mem = true := by
  unfold copyRange
  extract_lets -underBinder new views t
  have ht : Memory.wf t.mem = true := writeRange_wf h
  exact ht

@[simp] theorem copyFrames_wf {src dst : Nat → Nat → Nat} {k : Nat} {l : List Nat} {s : State} (h : Memory.wf s.mem = true) :
    Memory.wf (copyFrames src dst k l s).mem = true := by
  induction l generalizing k s with
  | nil => exact h
  | cons f l ih => exact ih (copyRange_wf h)

@[simp] theorem install_wf {g : ModImage} {s : State} (h : Memory.wf s.mem = true) : Memory.wf (install g s).mem = true :=
  foldl_memWr_wf (fun c : Host.Cell => c.1) (fun c => c.2) _ _ (memClear_wf _ _ _ h)

@[simp] theorem ckptStart_wf {force : Bool} {s : State} (h : Memory.wf s.mem = true) : Memory.wf (ckptStart force s).mem = true :=
  ite_wf (by simp [h]) (ite_wf (by simp [h]) (ite_wf (by simp [h]) (by simp [h])))

@[simp] theorem ckptQuiesceDone_wf {s : State} (h : Memory.wf s.mem = true) : Memory.wf (ckptQuiesceDone s).mem = true := by
  simp only [ckptQuiesceDone]
  split
  · exact h
  · split
    · split
      · rw [restartAll_mem, setPhase_mem, setResult_mem]
        exact cleanTowers_wf (foldl_wf (fun s a hs => (by simp [hs])) h)
      · rw [setPhase_mem, setCk_mem]
        exact cleanTowers_wf (foldl_wf (fun s a hs => (by simp [hs])) h)
    · exact foldl_wf (fun s a hs => (by simp [hs])) h

theorem setCkptGot_wf {s : State} {l : List Nat} (h : Memory.wf s.mem = true) : Memory.wf { s with ckptGot := l }.mem = true := h
theorem setCkptImg_wf {s : State} {g : Option ModImage} (h : Memory.wf s.mem = true) : Memory.wf { s with ckptImg := g }.mem = true := h

@[simp] theorem ckptWriteDone_wf {s : State} (h : Memory.wf s.mem = true) : Memory.wf (ckptWriteDone s).mem = true := by
  unfold ckptWriteDone
  extract_lets -underBinder fs e g s1 s2 s3 s4
  have he : Memory.wf e.mem = true := by simp [e, h]
  have h1 : Memory.wf s1.mem = true := copyRange_wf (writeSections_wf h)
  have h2 : Memory.wf s2.mem = true := copyFrames_wf h1
  have h3 : Memory.wf s3.mem = true := writeHeader_wf (setCkptImg_wf h2)
  have h4 : Memory.wf s4.mem = true := by simp [s4, h3]
  exact ite_wf h (ite_wf (setCkptGot_wf he) (ite_wf (by simp [h4]) (setCkptGot_wf h4)))

theorem layFrames_wf {x : List Host.Cell × Tbl (Nat × Nat)} {g : ModImage} (h : Memory.wf x.1 = true) : Memory.wf (layFrames x g).1 = true := by
  refine foldl_memWr_wf (fun c : Host.Cell => c.1) (fun c => c.2) _ _ ?_
  generalize x.1 = m at h
  induction g.frames generalizing m with
  | nil => exact h
  | cons f l ih => exact ih _ (memClear_wf _ _ _ h)

@[simp] theorem restoreIncrement_wf {n : Nat} {g : ModImage} {s : State} (h : Memory.wf s.mem = true) :
    Memory.wf (restoreIncrement n g s).mem = true := by
  unfold restoreIncrement
  extract_lets -underBinder upTo t m
  have ht : Memory.wf t.mem = true := foldl_wf (fun _ _ hs => writeRange_wf hs) h
  refine install_wf ?_
  show Memory.wf m.1 = true
  unfold m
  generalize t.crypt = k
  have hl : ∀ (x : List Host.Cell × Tbl (Nat × Nat)) , Memory.wf x.1 = true → Memory.wf (upTo.foldl layFrames x).1 = true := by
    induction upTo with
    | nil => exact fun _ hx => hx
    | cons g l ih => exact fun _ hx => ih _ (layFrames_wf hx)
  exact hl _ ht

@[simp] theorem ckptRestore_wf {s : State} (h : Memory.wf s.mem = true) : Memory.wf (ckptRestore s).mem = true := by
  unfold ckptRestore
  refine ite_wf (by simp [h]) (ite_wf (by simp [h]) ?_)
  split
  · simp [h]
  · split
    · refine ite_wf (by simp [h]) (ite_wf (by simp [h]) ?_)
      extract_lets -underBinder t u
      have ht : Memory.wf t.mem = true := by simp [t, h]
      have hu : Memory.wf u.mem = true := copyFrames_wf ht
      simp [hu]
    · simp [h]

@[simp] theorem wrCkptCtl_wf {v : Word} {s : State} (h : Memory.wf s.mem = true) : Memory.wf (wrCkptCtl v s).mem = true :=
  ite_wf (by simp [h]) (ite_wf (ckptStart_wf h) (ite_wf (ckptRestore_wf h) h))

@[simp] theorem keepsC_wrReplayCtl {v : Word} {s : State} (h : Memory.wf s.mem = true) : KeepsC (wrReplayCtl v s) := by
  unfold wrReplayCtl
  dsimp only
  exact .bind fun a => (by simp [h])

@[simp] theorem replayIncrement_wf {s : State} (h : Memory.wf s.mem = true) : Memory.wf (replayIncrement s).mem = true := by
  simp only [replayIncrement]
  split
  · split
    · rw [restartAll_mem]
      dsimp only
      rw [leaveOpen_mem]
      exact cleanTowers_wf (foldl_wf (fun s a hs => (by simp [hs])) h)
    · exact foldl_wf (fun s a hs => (by simp [hs])) h
  · simp [h]

/-! ### The host -/

@[simp] theorem hostTrain_mem (gen width : Nat) (cxl2 cxl3 : Bool) (s : State) : (hostTrain gen width cxl2 cxl3 s).mem = s.mem := rfl
@[simp] theorem hostDown_mem (s : State) : (hostDown s).mem = s.mem := rfl
@[simp] theorem wrHostLink_mem (v : Word) (s : State) : (wrHostLink v s).mem = s.mem := rfl

@[simp] theorem keepsM_hostLoc (va n : Nat) (a : Acc) : KeepsM (hostLoc va n a) := by
  unfold hostLoc
  refine .read fun s hs => .ite (.pure _) ?_
  refine .ite ?_ ?_
  · refine .bind (.waitM _) fun _ => ?_
    split
    · exact .pure _
    · exact .bind (.set hs) fun _ => .ite (.pure _) (.pure _)
  · split
    · exact .pure _
    · exact .bind (.set hs) fun _ => .ite (.pure _) (.pure _)

@[simp] theorem hostRefused_mem (s : State) : (hostRefused s).mem = s.mem := rfl

@[simp] theorem keepsM_hostStall (ls : List Loc) : KeepsM (hostStall ls) := by
  unfold hostStall
  exact .read fun s hs => .ite (.waitM _) (.pure _)

@[simp] theorem keepsM_hostLocs (off n : Nat) (a : Acc) : KeepsM (hostLocs off n a) := by
  unfold hostLocs
  exact .read fun s hs => .bind (.mapList (fun x => (keepsM_hostLoc _ _ _)) _) fun ls => .bind (keepsM_hostStall _) fun _ => .pure _

@[simp] theorem keepsM_hostWrite (off : Nat) (bs : List Byte) (relaxed : Bool) : KeepsM (hostWrite off bs relaxed) := by
  unfold hostWrite
  refine .read fun s hs => .ite (.pure _) ?_
  refine .bind (keepsM_hostLocs _ _ _) fun _ => ?_
  split
  · exact .modify fun s hs => hs
  · refine .read fun s1 hs1 => .bind (.forList (fun x => (keepsM_writeLoc _ _ _)) _) fun _ => .bind (.modify fun s hs => hs) fun _ => ?_
    refine .ite ?_ (.pure _)
    refine .modify fun s hs => ?_
    split
    next x1 t2 x3 e4 =>
      have ht2 := fst_wf (releasePass_wf hs) e4
      exact foldl_wf (fun s a hs => hs) ht2

@[simp] theorem hostKeeps_mem (ls : List Loc) (s : State) : (hostKeeps ls s).mem = s.mem := by
  unfold hostKeeps
  split
  · refine foldl_mem_eq (fun s l => ?_) _ _
    split <;> rfl
  · rfl

@[simp] theorem keepsM_hostRead (off n : Nat) (cxl : Bool) : KeepsM (hostRead off n cxl) := by
  unfold hostRead
  refine .read fun s _ => .ite (.modify fun s hs => by simp [hs]) (.bind (keepsM_hostLocs _ _ _) fun o => ?_)
  split
  · exact .modify fun s hs => by simp [hs]
  next ls =>
    refine .bind (.mapList (fun l => (keepsM_readLoc _ _ _)) _) fun bs => ?_
    have hr : KeepsM (modify (emit (.hostReply bs.flatten)) : M Unit) := .modify fun s hs => by simp [hs]
    exact .ite (.bind (.modify fun s hs => by simp [hs]) fun _ => hr) hr

@[simp] theorem keepsM_hostAtomic (off : Nat) (op : HostAtomic) (wide : Bool) (x y : Word) : KeepsM (hostAtomic off op wide x y) := by
  unfold hostAtomic
  refine .read fun s hs => .ite (.modify fun s hs => hs) ?_
  refine .bind (keepsM_hostLoc _ _ _) fun _ => ?_
  split
  · exact .modify fun s hs => hs
  · exact .bind (keepsM_hostStall _) fun _ => .bind (keepsM_atomicAt _ _ _ _ _ _) fun old => .modify fun s hs => hs

@[simp] theorem keepsO_tryHost {q : HostReq} {s : State} (h : Memory.wf s.mem = true) : KeepsO (tryHost s q) := by
  unfold tryHost
  extract_lets -underBinder m
  have hm : KeepsM (whole m) := by
    refine keepsM_whole ?_
    unfold m
    split
    · exact (keepsM_hostWrite _ _ _)
    · exact (keepsM_hostRead _ _ _)
    · exact (keepsM_hostAtomic _ _ _ _ _)
    · exact .bind (keepsM_hostWrite _ _ _) fun _ => .modify fun s hs => by simp [hs]
    · exact (keepsM_hostRead _ _ _)
  split
  next g => exact (keepsO_some _).mpr (hm.ended h g)
  next g => simp [hm.ended h g]
  · exact keepsO_none

@[simp] theorem hostAccess_wf {q : HostReq} {s : State} (h : Memory.wf s.mem = true) : Memory.wf (hostAccess q s).mem = true := by
  have ha : KeepsO (if q.writes then repArrival (.host q) (fun e => match e with | .host _ => true | _ => false) s else some s) := by
    split
    · exact keepsO_repArrival h
    · exact (keepsO_some s).mpr h
  unfold hostAccess
  split
  · exact h
  next t e =>
    have ht : Memory.wf t.mem = true := ha t e
    refine ite_wf ?_ ht
    cases e : tryHost t q with
    | none => exact ht
    | some u => exact keepsO_tryHost ht u e

@[simp] theorem hostRetry_wf {l : List HostReq} {s : State} (h : Memory.wf s.mem = true) : Memory.wf (hostRetry l s).mem = true := by
  induction l generalizing s with
  | nil => exact h
  | cons q l ih =>
    unfold hostRetry
    split
    next e => exact ih (keepsO_tryHost h _ e)
    · exact h

@[simp] theorem retryHost_wf {s : State} (h : Memory.wf s.mem = true) : Memory.wf (retryHost s).mem = true := by
  unfold retryHost
  simp [h]

@[simp] theorem hostIf_wf {ok : Bool} {q : HostReq} {s : State} (h : Memory.wf s.mem = true) : Memory.wf (hostIf ok q s).mem = true := by
  unfold hostIf
  simp [h]

@[simp] theorem sendPending_mem (s : State) : (sendPending s).mem = s.mem := by
  refine foldl_mem_eq (fun s v => ?_) _ _
  split
  · rw [emit_mem]
  · rfl

@[simp] theorem msixPut_mem (s : State) (x : Nat × Byte) : (msixPut s x).mem = s.mem := by unfold msixPut; split <;> rfl

@[simp] theorem msixWrite_mem (off : Nat) (bs : List Byte) (s : State) : (msixWrite off bs s).mem = s.mem := by
  unfold msixWrite
  rw [sendPending_mem]
  exact foldl_mem_eq (fun s x => msixPut_mem ..) _ _

@[simp] theorem hostBarWrite_wf {bar : HostBar} {off : Nat} {bs : List Byte} {relaxed : Bool} {s : State} (h : Memory.wf s.mem = true) :
    Memory.wf (hostBarWrite bar off bs relaxed s).mem = true := by
  unfold hostBarWrite
  repeat' split
  all_goals simp [h]

@[simp] theorem hostCell_wf {x : Nat × Byte} {s : State} (h : Memory.wf s.mem = true) : Memory.wf (hostCell s x).mem = true := by
  refine ite_wf ?_ h
  rw [clearRels_mem]
  exact memWr_wf _ _ _ h

@[simp] theorem hostCells_wf {r : HostReply} {s : State} (h : Memory.wf s.mem = true) : Memory.wf (hostCells r s).mem = true := by
  unfold hostCells
  split
  · exact foldl_wf (fun _ _ hs => hostCell_wf hs) h
  · exact h

@[simp] theorem mapAnswers_mem (c : HostAsker) (x : Stream) (f : Answer → Answer) (s : State) : (mapAnswers c x f s).mem = s.mem := by
  simp only [mapAnswers]
  repeat' split
  all_goals simp

@[simp] theorem hostAnswer_mem (c : HostAsker) (x : Stream) (r : HostReply) (s : State) : (hostAnswer c x r s).mem = s.mem := by
  simp only [hostAnswer]
  repeat' split
  all_goals simp

@[simp] theorem hostTimeout_mem (c : HostAsker) (x : Stream) (s : State) : (hostTimeout c x s).mem = s.mem := by
  simp only [hostTimeout]
  repeat' split
  all_goals simp

/-! ### Trees and votes -/

@[simp] theorem keepsC_wrDmrGlobal {v : Word} {s : State} (h : Memory.wf s.mem = true) : KeepsC (wrDmrGlobal v s) := by
  unfold wrDmrGlobal
  dsimp only
  refine .bind fun a => (keepsC_pure _).mpr ?_
  refine foldl_wf (fun s a hs => ?_) ?_
  · split
    · simp [hs]
    · exact hs
  · dsimp only
    refine foldl_wf (fun s a hs => ?_) h
    split
    · simp [hs]
    · exact hs

@[simp] theorem wrBgData_mem (n w : Nat) (v : Word) (s : State) : (wrBgData n w v s).mem = s.mem := by
  simp only [wrBgData]
  repeat' split
  all_goals simp

@[simp] theorem wrMcg_mem (c : Nat) (v : Word) (s : State) : (wrMcg c v s).mem = s.mem := by simp only [wrMcg]; split <;> simp
@[simp] theorem wrFbt_mem (n : Nat) (v : Word) (s : State) : (wrFbt n v s).mem = s.mem := by unfold wrFbt; split <;> simp
@[simp] theorem treeEdge_mem (n src : Nat) (s : State) : (treeEdge n src s).mem = s.mem := foldl_mem_eq (fun s m => by simp) _ _
@[simp] theorem arriveTree_mem (n src : Nat) (s : State) : (arriveTree n src s).mem = s.mem := by simp [arriveTree]
@[simp] theorem completeArrives_mem (n gen : Nat) (s : State) : (completeArrives n gen s).mem = s.mem := by unfold completeArrives; split <;> simp

@[simp] theorem keepsC_wrFabRing {v : Word} {s : State} (h : Memory.wf s.mem = true) : KeepsC (wrFabRing v s) := by
  unfold wrFabRing
  dsimp only
  exact .bind fun a => (by simp [h])

@[simp] theorem diverge_wf {v step : Nat} {s : State} (h : Memory.wf s.mem = true) : Memory.wf (diverge v step s).mem = true := by
  refine foldl_wf (fun s k hs => ite_wf ?_ hs) h
  refine foldl_wf (fun s e hs => ?_) (foldl_wf (fun s l hs => ite_wf (by simp [hs]) hs) hs)
  split
  · exact ite_wf (by simp [hs]) hs
  · exact hs

@[simp] theorem applyResult_wf {step : Nat} {d : VoteDecision} {mask : Nat} {s : State} (h : Memory.wf s.mem = true) :
    Memory.wf (applyResult step d mask s).mem = true := by
  unfold applyResult
  split
  · exact ite_wf (ite_wf (diverge_wf h) h) h
  · exact h

@[simp] theorem rootDecide_wf {step : Nat} {missing : Bool} {s : State} (h : Memory.wf s.mem = true) :
    Memory.wf (rootDecide step missing s).mem = true := by
  unfold rootDecide
  extract_lets -underBinder vs
  split
  next => exact applyResult_wf (by simp [h])

@[simp] theorem voteSettle_wf {s : State} (h : Memory.wf s.mem = true) : Memory.wf (voteSettle s).mem = true := by
  unfold voteSettle
  repeat' split
  all_goals simp [h]

@[simp] theorem voteArrives_wf {v : VoteInfo} {s : State} (h : Memory.wf s.mem = true) : Memory.wf (voteArrives v s).mem = true := by
  unfold voteArrives
  repeat' split
  all_goals simp [h]

@[simp] theorem voteRootTimeout_wf {s : State} (h : Memory.wf s.mem = true) : Memory.wf (voteRootTimeout s).mem = true := by
  unfold voteRootTimeout
  repeat' split
  all_goals simp [h]

@[simp] theorem resultArrives_wf {step : Nat} {d : VoteDecision} {mask : Nat} {s : State} (h : Memory.wf s.mem = true) :
    Memory.wf (resultArrives step d mask s).mem = true := by
  unfold resultArrives
  repeat' split
  all_goals simp [h]

@[simp] theorem voteResultTimeout_wf {s : State} (h : Memory.wf s.mem = true) : Memory.wf (voteResultTimeout s).mem = true := by
  unfold voteResultTimeout
  repeat' split
  all_goals simp [h]

@[simp] theorem setLink_mem (l : Nat) (k : Link) (s : State) : (setLink l k s).mem = s.mem := rfl
@[simp] theorem flitCrcFail_mem (l : Nat) (s : State) : (flitCrcFail l s).mem = s.mem := rfl

@[simp] theorem linkRetrain_mem (l good : Nat) (s : State) : (linkRetrain l good s).mem = s.mem := by
  simp only [linkRetrain]
  repeat' split
  all_goals simp

@[simp] theorem proposeLane_mem (l n : Nat) (s : State) : (proposeLane l n s).mem = s.mem := rfl

@[simp] theorem laneSample_mem (l n cerr margin : Nat) (s : State) : (laneSample l n cerr margin s).mem = s.mem := by
  simp only [laneSample]
  repeat' split
  all_goals simp

@[simp] theorem laneProposed_mem (l n q : Nat) (s : State) : (laneProposed l n q s).mem = s.mem := by unfold laneProposed; split <;> rfl
@[simp] theorem laneAcked_mem (l n q : Nat) (s : State) : (laneAcked l n q s).mem = s.mem := by simp only [laneAcked]; split <;> simp
@[simp] theorem laneNaked_mem (l n : Nat) (s : State) : (laneNaked l n s).mem = s.mem := by unfold laneNaked; split <;> rfl

@[simp] theorem laneProposeTimeout_mem (l : Nat) (s : State) : (laneProposeTimeout l s).mem = s.mem := by
  simp only [laneProposeTimeout]
  repeat' split
  all_goals simp

@[simp] theorem selvedgeSwap_mem (l : Nat) (s : State) : (selvedgeSwap l s).mem = s.mem := by simp only [selvedgeSwap]; split <;> simp
@[simp] theorem wrSlt_mem (c : Nat) (v : Word) (s : State) : (wrSlt c v s).mem = s.mem := by simp only [wrSlt]; split <;> simp
@[simp] theorem wrSltCtl_mem (v : Word) (s : State) : (wrSltCtl v s).mem = s.mem := by unfold wrSltCtl; split <;> rfl
@[simp] theorem slotBankChange_mem (s : State) : (slotBankChange s).mem = s.mem := by unfold slotBankChange; split <;> rfl

@[simp] theorem keepsC_wrEgrLim {v : Word} {s : State} (h : Memory.wf s.mem = true) : KeepsC (wrEgrLim v s) := by
  unfold wrEgrLim
  dsimp only
  exact .bind fun a => (by simp [h])

/-! ### Debug -/

@[simp] theorem dbgStop_wf {c : Nat} {s : State} (h : Memory.wf s.mem = true) : Memory.wf (dbgStop s c).mem = true := by
  unfold dbgStop
  simp [h]

@[simp] theorem dbgGo_mem (s : State) (c : Nat) : (dbgGo s c).mem = s.mem := by unfold dbgGo; split <;> simp

@[simp] theorem dbgArmSc_wf {c n : Nat} {s : State} (h : Memory.wf s.mem = true) : Memory.wf (dbgArmSc c n s).1.mem = true := by
  unfold dbgArmSc
  repeat' split
  all_goals simp [h]

@[simp] theorem dbgAct_wf {op a0 a1 : Nat} {s : State} (h : Memory.wf s.mem = true) : Memory.wf (dbgAct op a0 a1 s).1.mem = true := by
  unfold dbgAct
  split
  · exact foldl_wf (fun _ _ hs => dbgStop_wf hs) h
  · exact foldl_wf (fun _ _ hs => by simp [hs]) h
  · exact h
  · simp [h]
  all_goals exact h

@[simp] theorem dbgEnd_mem (r : DbgRes) (s : State) : (dbgEnd r s).mem = s.mem := rfl

@[simp] theorem wrDbgCmd_wf {v : Word} {s : State} (h : Memory.wf s.mem = true) : Memory.wf (wrDbgCmd v s).mem = true := by
  unfold wrDbgCmd
  extract_lets -underBinder op m t
  refine ite_wf h (ite_wf (by simp [h]) (ite_wf ?_ ?_))
  · split
    next r e => simp [fst_wf (dbgAct_wf h) e]
  · have ht : Memory.wf t.mem = true := by simp [t, h]
    exact ht

@[simp] theorem dbgArrives_wf {m op a0 a1 : Nat} {s : State} (h : Memory.wf s.mem = true) : Memory.wf (dbgArrives m op a0 a1 s).mem = true := by
  refine ite_wf ?_ (by simp [h])
  split
  next r e => simp [fst_wf (dbgAct_wf h) e]

@[simp] theorem haltAtTrigger_wf {s : State} (h : Memory.wf s.mem = true) : Memory.wf (haltAtTrigger s).mem = true := by
  unfold haltAtTrigger
  split
  · split
    · exact foldl_wf (fun s a hs => (by simp [hs])) h
    · exact h
  · exact h

@[simp] theorem haltScTrigger_wf {c : Nat} {s : State} (h : Memory.wf s.mem = true) : Memory.wf (haltScTrigger c s).mem = true := by
  unfold haltScTrigger
  repeat' split
  all_goals simp [h]

@[simp] theorem dbgAnswer_mem (id : Nat) (a : AckInfo) (s : State) : (dbgAnswer id a s).mem = s.mem := by
  simp only [dbgAnswer]
  repeat' split
  all_goals simp

@[simp] theorem dbgTimeout_mem (s : State) : (dbgTimeout s).mem = s.mem := by
  simp only [dbgTimeout]
  repeat' split
  all_goals simp

/-! ### Register writes -/

@[simp] theorem wrSel_mem (c n : Nat) (v : Word) (s : State) : (wrSel c n v s).mem = s.mem := rfl

@[simp] theorem keepsC_wrTrap {c : Nat} {l : Leader} {n : Nat} {v : Word} {s : State} (h : Memory.wf s.mem = true) : KeepsC (wrTrap c l n v s) := by
  unfold wrTrap
  dsimp only
  split
  · simp [h]
  · simp [h]
  · simp [h]
  · simp [h]
  · simp [h]
  · simp [h]
  · simp [h]
  · refine (keepsC_ok _).mpr ?_
    rw [wrEngCtl_mem]
    exact h
  · simp [h]
  · simp [h]
  · simp [h]
  · simp [h]
  · simp [h]
  · simp [h]
  · simp [h]

@[simp] theorem keepsC_wrCore {c : Nat} {l : Leader} {n : Nat} {v : Word} {s : State} (h : Memory.wf s.mem = true) : KeepsC (wrCore c l n v s) := by
  unfold wrCore
  split
  · dsimp only
    refine (keepsC_ok _).mpr ?_
    rw [setCore_mem, startTable_mem]
    exact h
  · simp [h]
  · simp [h]
  · simp [h]
  · simp [h]
  · simp [h]
  · simp [h]
  · simp [h]
  · simp [h]
  · simp [h]
  · simp [h]
  · simp [h]
  · refine (keepsC_ok _).mpr ?_
    rw [wrBgStatus_mem]
    exact h
  · simp [h]

@[simp] theorem wrEngine_mem (c n : Nat) (v : Word) (s : State) : (wrEngine c n v s).mem = s.mem := by unfold wrEngine; split <;> rfl

@[simp] theorem keepsC_wrSched {c n : Nat} {v : Word} {s : State} (h : Memory.wf s.mem = true) : KeepsC (wrSched c n v s) := by
  unfold wrSched
  repeat' split
  all_goals simp [h]

@[simp] theorem keepsC_wrFabric {c n : Nat} {v : Word} {s : State} (h : Memory.wf s.mem = true) : KeepsC (wrFabric c n v s) := by
  unfold wrFabric
  repeat' split
  all_goals simp [h]

@[simp] theorem keepsC_wrSystem {c n : Nat} {v : Word} {s : State} (h : Memory.wf s.mem = true) : KeepsC (wrSystem c n v s) := by
  unfold wrSystem
  split
  · simp [h]
  · simp [h]
  · simp [h]
  · simp [h]
  · simp [h]
  · simp [h]
  · simp [h]
  · simp [h]
  · refine (keepsC_ok _).mpr ?_
    rw [wrErr_mem]
    exact h
  · simp [h]
  · simp [h]
  · simp [h]
  · simp [h]
  · simp [h]
  · simp [h]
  · simp [h]
  · simp [h]
  · simp [h]
  · simp [h]
  · simp [h]
  · simp [h]
  · simp [h]

@[simp] theorem keepsC_writeReg {c : Nat} {l : Leader} {n : Nat} {v : Word} {s : State} (h : Memory.wf s.mem = true) :
    KeepsC (writeReg c l n v s) := by
  unfold writeReg
  repeat' split
  all_goals simp [h]

@[simp] theorem keepsE_csrRead {i : Instr} {d : SReg} {n : Nat} {s : State} (h : Memory.wf s.mem = true) : KeepsE (csrRead i d n s) :=
  keepsE_ofChk_bind h fun _ _ => keepsE_ofChk_bind h fun v _ => (keepsE_done (s.wrS d (BitVec.ofNat 64 v))).mpr (by simp [h])

@[simp] theorem csrEnd_keepsE {s : State} (h : Memory.wf s.mem = true) : KeepsE (csrEnd s) := by
  unfold csrEnd
  split
  all_goals simp [h]

@[simp] theorem keepsE_csrWrite {i : Instr} {n : Nat} {a : SReg} {s : State} (h : Memory.wf s.mem = true) : KeepsE (csrWrite i n a s) :=
  keepsE_ofChk_bind h fun _ _ => keepsE_ofChk_bind h fun t e => csrEnd_keepsE (keepsC_writeReg h t e)

@[simp] theorem keepsE_csrModify {i : Instr} {d a : SReg} {n : Nat} {f : Word → Word → Word → Word} {s : State} (h : Memory.wf s.mem = true) :
    KeepsE (csrModify i d a n f s) :=
  keepsE_ofChk_bind h fun _ _ => keepsE_ofChk_bind h fun _ _ => keepsE_ofChk_bind h fun t e =>
    csrEnd_keepsE ((wrS_mem t _ _).symm ▸ keepsC_writeReg h t e)

theorem setHregLog_wf {s : State} {v : Word} (h : Memory.wf s.mem = true) : Memory.wf { s with hregLog := v }.mem = true := h

@[simp] theorem hostDiscard_wf {c n : Nat} {half : Bool} {cause : Nat} {short : Bool} {s : State} (h : Memory.wf s.mem = true) :
    Memory.wf (hostDiscard c n half cause short s).mem = true := by
  unfold hostDiscard
  rw [countErr_mem]
  exact setHregLog_wf h

@[simp] theorem hostRegWrite_wf {off width : Nat} {v : Word} {s : State} (h : Memory.wf s.mem = true) :
    Memory.wf (hostRegWrite off width v s).mem = true := by
  unfold hostRegWrite
  extract_lets -underBinder half c n l
  refine ite_wf h (ite_wf (hostDiscard_wf h) ?_)
  split
  · exact h
  · extract_lets -underBinder r
    have hr : KeepsC r := keepsC_writeReg h
    clear_value r
    cases r with
    | ok t =>
      have ht := hr t rfl
      exact ht
    | error x => exact hostDiscard_wf h

@[simp] theorem hostBarRead_wf {bar : HostBar} {off n : Nat} {s : State} (h : Memory.wf s.mem = true) :
    Memory.wf (hostBarRead bar off n s).mem = true := by
  unfold hostBarRead
  repeat' split
  all_goals simp [h]

/-! ### Context images -/

@[simp] theorem keepsM_imageLocs (n : Nat) (e : Entry) (a : Acc) (l : List (Nat × Nat)) : KeepsM (imageLocs n e a l) := by
  induction l with
  | nil => exact .pure _
  | cons x l ih => exact .read fun _ _ => .read fun _ _ => .bind (.liftC _) fun _ => .bind (keepsM_resolve _ _ _) fun _ => ih.bind fun _ => .pure _

@[simp] theorem pieceHome_wf {t : Nat} {x : Nat × Nat × Loc} {s : State} (h : Memory.wf s.mem = true) : Memory.wf (pieceHome t s x).mem = true := by
  unfold pieceHome
  exact foldl_wf (fun s a hs => (by simp [hs])) h

@[simp] theorem writePiece_wf {cells : List (Nat × Byte)} {x : Nat × Nat × Loc} {s : State} (h : Memory.wf s.mem = true) :
    Memory.wf (writePiece cells s x).mem = true := by
  simp only [writePiece]
  refine foldl_wf (fun s a hs => (by simp [hs])) ?_
  rw [clearRels_mem, clearMarks_mem]
  refine pieceHome_wf ?_
  refine foldl_wf (fun s a hs => ?_) h
  split
  · simp [hs]
  · exact hs

@[simp] theorem keepsM_ctxSave (v : Word) : KeepsM (ctxSave v) := by
  refine .read fun s _ => .bind (.liftC _) fun x => ?_
  obtain ⟨n, e⟩ := x
  refine .bind (.needM _ _ _) fun _ => .when (.waitM _) fun _ => ?_
  refine .bind (keepsM_imageLocs _ _ _ _) fun ls => .bind (.needM _ _ _) fun _ => .modify fun s hs => ?_
  exact foldl_wf (fun _ _ hs => writePiece_wf hs) (by simp [hs])

@[simp] theorem loadSection_wf {b : Nat → Byte} {x : Nat × Nat × Nat} {s : State} (h : Memory.wf s.mem = true) :
    Memory.wf (loadSection b s x).mem = true := by
  have hm : Memory.wf (clearRels x.2.2 x.2.1 s).mem = true := by simp [h]
  exact foldl_memWr_wf (fun k => x.2.2 + k) (fun k => b (x.1 + k)) _ _ hm

@[simp] theorem keepsM_piecesRead (s : State) (l : List (Nat × Nat × Loc)) : KeepsM (piecesRead s l) := by
  induction l with
  | nil => exact .pure _
  | cons x l ih =>
    unfold piecesRead
    split
    · exact .trapM _ _
    · exact ih

theorem setStamps_wf {s : State} {l : Tbl Stamp} (h : Memory.wf s.mem = true) : Memory.wf { s with stamps := l }.mem = true := h

@[simp] theorem keepsM_ctxLoad (v : Word) : KeepsM (ctxLoad v) := by
  unfold ctxLoad
  refine .read fun s _ => .bind (.liftC _) fun x => ?_
  obtain ⟨n, e⟩ := x
  refine .bind (.needM _ _ _) fun _ => .bind (keepsM_imageLocs _ _ _ _) fun ls => ?_
  refine .bind (.modify fun s hs => foldl_wf (fun _ _ hs => by simp [hs]) hs) fun _ => .read fun s hs => .bind (keepsM_piecesRead _ _) fun _ => ?_
  extract_lets -underBinder b w
  refine .bind (.needM _ _ _) fun _ => ?_
  split
  · exact .trapM _ _
  · refine .bind (.set (by simp [hs])) fun _ => .modify fun s hs => ?_
    extract_lets -underBinder k t u
    have ht : Memory.wf t.mem = true := foldl_wf (fun _ _ hs => loadSection_wf hs) (by simp [hs])
    have hu : Memory.wf u.mem = true := setStamps_wf ht
    exact ite_wf hu (by simp [hu])

/-! ### What closes a step -/

@[simp] theorem armedStops_wf {s : State} (h : Memory.wf s.mem = true) : Memory.wf (armedStops s).mem = true := by
  unfold armedStops
  exact haltAtTrigger_wf (foldl_wf (fun s a hs => (by simp [hs])) h)

@[simp] theorem afterStep_wf {s : State} (h : Memory.wf s.mem = true) : Memory.wf (afterStep s).mem = true := by
  unfold afterStep
  rw [lapseAll_mem]
  exact voteSettle_wf (retryHost_wf (retryHeld_wf (stopWaiting_wf (retryCredits_wf (by simp [h])))))

@[simp] theorem closeStep_wf {s : State} (h : Memory.wf s.mem = true) : Memory.wf (closeStep s).mem = true := by
  unfold closeStep
  simp [h]

/-! ### Steps -/

@[simp] theorem setHeld_mem (i : Option Instr) (s : State) : (setHeld i s).mem = s.mem := by unfold setHeld; split <;> rfl

/-! ## Every instruction and event -/

theorem keepsE_ofChk_map {α : Type} {s : State} {c : Chk α} {f : α → Eff} (hs : Memory.wf s.mem = true) (h : ∀ a, KeepsE (f a)) :
    KeepsE (Eff.ofChk s (f <$> c)) := by
  cases c with
  | ok a => exact h a
  | error x => exact hs

theorem keepsAct_setReg {gd : Guard} {len : Nat} {d : SReg} {f : State → Word} : KeepsAct (setReg gd len d f) := fun _ hs => keepsOut_setReg hs

theorem keepsAct_setPred {gd : Guard} {len : Nat} {d : PReg} {f : State → Bool} : KeepsAct (setPred gd len d f) := fun _ hs => keepsOut_setPred hs

theorem keepsAct_seqOp {i : Instr} : KeepsAct (seqOp i) := fun _ hs => keepsOut_seqOp hs

theorem keepsAct_issueOp {i : Instr} {f : Nat → Eng → Run → M Run} (hf : ∀ c e u, KeepsM (f c e u)) : KeepsAct (issueOp i f) :=
  fun _ hs => keepsOut_issueOp hf hs

theorem keepsAct_issueFn {i : Instr} : KeepsAct (issueOp i (issueFn i)) := keepsAct_issueOp (keepsM_issueFn i)

theorem keepsAct_regEvent {n : Nat} {sup : Bool} {f : State → Chk State} (hf : ∀ s, Memory.wf s.mem = true → KeepsC (f s)) :
    KeepsAct (regEvent n sup f) := fun s hs => keepsOut_regEvent hs (hf s hs)

/-- A register write that refuses nothing. -/
theorem keepsAct_regEvent_ok {n : Nat} {sup : Bool} {f : State → State} (hf : Keeps f) : KeepsAct (regEvent n sup fun s => .ok (f s)) :=
  keepsAct_regEvent fun s hs => (keepsC_ok (f s)).mpr (hf s hs)

theorem keepsAct_dbgEvent {src : Option Nat} {op a0 a1 : Nat} : KeepsAct (dbgEvent src op a0 a1) := by
  cases src with
  | none => exact keepsAct_regEvent_ok fun _ hs => wrDbgCmd_wf hs
  | some m => exact keepsAct_event fun _ hs => dbgArrives_wf hs

theorem keepsE_engStart {gd : Guard} {a : SReg} {m : Fin 16} {s : State} (h : Memory.wf s.mem = true) :
    KeepsE (Eff.ofChk s do
      let xs := maskStreams a m
      engStartChecks (.engStart gd a m) xs s
      let (t, p) := releasePass s.myAgent s
      return .done ((xs.map fun e => (e.1, (s.me.rdS e.2).toNat)).foldl (startEngine s.cc s.cl s.myStr.mt p) t)) :=
  keepsE_ofChk_bind h fun _ _ => foldl_wf (fun _ _ hs => by simp [hs]) (by simp [h])

theorem keepsAct_exec (i : Instr) : KeepsAct (exec i) := by
  cases i
  case powerOn => exact fun _ hs => (keepsOut_next _).mpr (powerOn_wf hs)
  case add | sub | mul | mulh | mulhu | div | divu | rem | remu | min | max | minu | maxu | and | or | xor | andn | sll | srl | sra | rol |
    clz | ctz | popc | brev | bswap | pget | sel | addi | andi | ori | xori | slli | srli | srai | muli | li | lih | addl | ext | extu |
    dep =>
    exact keepsAct_setReg
  case cmpEq | cmpNe | cmpLt | cmpGe | cmpLtu | cmpGeu | pand | por | pxor | pandn | pnot | pset | cmpi | cmpl =>
    exact keepsAct_setPred
  case atomAdd | atomAnd | atomOr | atomXor | atomMin | atomMax | atomMinu | atomMaxu | atomSwp =>
    exact keepsAct_atom2
  case seqEnd | seqWait | seqJmp | seqJz | seqJnz =>
    exact keepsAct_seqOp
  case dbgHalt | dbgResume | dbgHaltAt | dbgHaltSc | dbgRdCsr | dbgRdMem | dbgRdStamp =>
    exact keepsAct_dbgEvent
  case meMma | meCmma | meClr | meBld | meDrn | meDrq | meFragLend | meFragReclaim | meAld | meAst | meSbw | veAdd | veSub | veMul | veMin |
    veMax | veAnd | veOr | veXor | veShl | veShr | veAbs | veFadd | veFsub | veFmul | veFma | veFmin | veFmax | veFabs | veFneg | veExp2 |
    veLog2 | veRcp | veRsqrt | veSqrt | veTanh | veSin | veCos | veCvt | veQuant | veDequant | veAmax | veRsum | veRmax | veRmin | veScan |
    veRsumsq | veCmp | veSel | veAcs | vePerm | veTrn | veBcast | veGath | veScat | veRng | veIota | ceCp | ceLq | ceFill | ceOvl | ceFlag |
    ceCpx | fabPint | fabSend | fabWr | fabAtom | fabReq | fabCollSeed | fabCollReduce | fabCollPut | fabCollCommit | fabSeamAccum |
    fabSeamVote | fabMcast | fabPrio | fabTkr | stashPut | stashGet | stashDrop | stashPf =>
    exact keepsAct_issueFn
  case plainRegisterWrite n v =>
    refine keepsAct_regEvent fun s hs => ?_
    split
    · exact keepsC_writeReg hs
    · exact (keepsC_ok s).mpr hs
  case unmap | migrateBegin | migrateEnd | migrateAbort | flushCtx | ltInval =>
    exact keepsAct_regEvent_ok fun s hs => xltStart_wf (fun s hs => by simp [hs]) hs
  case badcmd =>
    exact keepsAct_regEvent_ok fun s hs => ite_wf (wrXltCmd_wf hs) hs
  case bgDataWrite | licCtlWrite | cpqDataWrite | mbsDataWrite | engTrapPcWrite | gsCtlWrite | mcgDataWrite | fbtDataWrite |
    sltDataWrite | sltSwap | pclsDataWrite | ckptStart | ckptRestore | tsyncWrite =>
    exact keepsAct_regEvent_ok fun s hs => by simp [hs]
  case ttCfgWrite | dmrGlobalWrite | lstartWrite | mbsEnqWrite | mbsVerWrite | bobKeepWrite | bobSpillWrite | bobThrWrite | jflushWrite |
    fabRingWrite | egrLimWrite | peerCtxWrite | dvfsCtlWrite | pwrCapWrite | thCtlWrite | trcCtlWrite | replayCtlWrite =>
    exact keepsAct_regEvent fun s hs => by simp [hs]
  case engCtlResume m =>
    refine keepsAct_regEvent_ok fun s hs => ?_
    rw [wrEngCtl_mem]
    exact hs
  case dbnz =>
    exact keepsAct_control fun s hs => keepsE_ofChk_bind hs fun t _ => by
      simp only [keepsE_ofChk_pure]
      split
      all_goals simp [hs]
  case gld | gswp | gadd | gcas =>
    exact keepsAct_control fun s hs => keepsE_ofM (.bind keepsM_gussetBody fun v => .modify fun s hs => by simp [hs]) hs
  case engStart => exact keepsAct_control fun s hs => keepsE_engStart hs
  case ld | st | updAdd | updMin | updMax | msaAdd | msaMax | msaMin | lpin | lunpin | tlk | tlkM | tins | tevc | barArv | barWait | barAra |
    fenceAcq | fenceRel | fenceMsa | ldOrd | stOrd | atomCas | waddr | qClaim | qRing =>
    exact keepsAct_ofM fun s hs => by simp [hs]
  case gst => exact keepsAct_ofM fun s hs => .bind keepsM_gussetBody fun _ => .pure _
  case fenceFull => exact keepsAct_ofM fun s hs => .bind (keepsM_fenceAcq _) fun _ => keepsM_fenceRelease _
  case ctxSv => exact keepsAct_ofM fun s hs => keepsM_whole (keepsM_ctxSave _)
  case ctxLd => exact keepsAct_ofM fun s hs => keepsM_whole (keepsM_ctxLoad _)
  case semSig | semWait | tkPush | tkPop => exact keepsAct_orWait fun s hs => by simp [hs]
  case jr | jalr | br | call | hmov | hbind | hunb | hchk | hld | hget | hset | hoff | hslc | semRd | tkCnt | licAcq | licRel | rdv | jend |
    bndMe | bndVe | bndCel | bndCes | mxRd | mxWr | mxClr | mxUpd | timeRd | trap | tret | brk | nop | brl | calll |
    csrRd | csrWr | csrSet | csrClr =>
    exact keepsAct_control fun s hs => by simp [hs, keepsE_ofChk_map]
  case semaphoreWaitEnd => exact keepsAct_event fun s hs => redoStr_wf keepsRedo_sem hs
  case tokenWaitEnd => exact keepsAct_event fun s hs => redoStr_wf keepsRedo_token hs
  case releaseComplete => exact keepsAct_event fun s hs => redoStr_wf keepsRedo_own hs
  case barrierWaitEnd => exact keepsAct_event fun s hs => redoCtl_wf keepsRedo_barrier hs
  case rdvComplete => exact keepsAct_event fun s hs => redoCtl_wf keepsRedo_rdv hs
  case recordHead => exact keepsAct_event fun s hs => engAct_wf (fun _ ht => recordHead_wf ht) hs
  case recordEntry => exact keepsAct_event fun s hs => engAct_wf (fun _ ht => recordEntry_wf ht) hs
  case recordOperandRead => exact keepsAct_event fun s hs => engAct_wf (fun _ ht => recordOperandRead_wf ht) hs
  case recordIssue => exact keepsAct_event fun s hs => engAct_wf (fun _ ht => recordIssue_wf ht) hs
  case recordCompletion => exact keepsAct_event fun s hs => engAct_wf (fun _ ht => recordCompletion_wf ht) hs
  case queueEnable t q =>
    exact keepsAct_event fun s hs => ite_wf (ite_wf (cpAct_wf (keepsM_openQueue _ _) hs) hs) (enableQueue_wf hs)
  case waddrReevaluate =>
    refine keepsAct_event fun s hs => asStream_wf (fun t ht => ?_) hs
    split
    · exact ite_wf (finish_wf (keepsE_ofM (keepsM_waddrEval _ _ _ _ _ _) ht)) ht
    · exact ht
  all_goals exact keepsAct_event fun s hs => by simp [hs]

/-! ## One step -/

theorem keepsOut_settle {o : Out} (ho : KeepsOut o) : KeepsOut (settle o) := by
  unfold settle
  split
  next t => exact (keepsOut_next _).mpr (closeStep_wf (ho t rfl))
  next => exact ho

section
variable {s : State} (h : Memory.wf s.mem = true)
include h

theorem keepsOut_issue {i : Instr} : KeepsOut (issue i s) := by
  have hx : KeepsOut (exec i s) := keepsAct_exec i s h
  unfold issue
  split
  · simp [h]
  · split
    next t e => simp [hx t e]
    next => exact hx

theorem keepsOut_boundary : KeepsOut (boundary s) := by
  unfold boundary
  split
  next t e => simp [keepsO_deliver h t e]
  next =>
    split
    · exact keepsOut_issue h
    · split
      · simp [h]
      · simp [h]
      · exact keepsOut_issue h

theorem keepsOut_stepEngine : KeepsOut (stepEngine s) := by
  unfold stepEngine
  simp [h]

theorem keepsOut_stepStream : KeepsOut (stepStream s) := by
  unfold stepStream
  split
  · exact keepsOut_fault _
  · split
    · split
      · exact keepsOut_boundary (latchReads_wf h)
      · exact keepsOut_stepEngine h
    · exact (keepsOut_next s).mpr h

theorem keepsOut_runAct {a : Act} : KeepsOut (runAct a s) := by
  cases a with
  | stream c x => exact keepsOut_stepStream h
  | event i => exact keepsAct_exec i s h
  | tick n => exact (keepsOut_next _).mpr (by simp [h])
  | evict t line => exact (keepsOut_next _).mpr (evictLine_wf h)
  | land c => exact (keepsOut_next _).mpr (landFirst_wf h)
  | upset u =>
    refine (keepsOut_next _).mpr ?_
    rw [upsetAt_mem]
    exact h

end

theorem keepsOut_step {s : State} (h : Memory.wf s.mem = true) : KeepsOut (step s) := by
  unfold step
  split
  · exact keepsOut_settle (keepsOut_stepStream h)
  next a l _ => exact keepsOut_settle (keepsOut_runAct (s := { s with agenda := l }) h)

end Sys2Proof.Machine

namespace Sys2Proof.Proofs
open Sys2Proof.Machine

/-- Settles O58: a step is a boundary, an engine's step or an act, each of which keeps memory canonical, and so does what closes it. -/
theorem invKept : Obligations.InvKept := fun _ t hs e => keepsOut_step hs t e

end Sys2Proof.Proofs
end

section
/-! SUPPORT. The tag table's slots and keys, and what its four forms end in (R74-R78, R223). -/
namespace Sys2Proof.Machine

/-! ## Sets, keys and lookups -/

/-- The slots of a set of `w` ways, as `setSlots` lists them. -/
theorem mem_setSlots {c : Word} {set j : Nat} : j ∈ setSlots c set ↔ j / ttWays c = set := by
  have hw : 0 < ttWays c := Nat.two_pow_pos _
  simp only [setSlots, List.mem_map, List.mem_range]
  constructor
  · rintro ⟨i, hi, rfl⟩
    rw [Nat.mul_comm, Nat.mul_add_div hw, Nat.div_eq_of_lt hi, Nat.add_zero]
  · rintro rfl
    exact ⟨j % ttWays c, Nat.mod_lt j hw, Nat.div_add_mod' j _⟩

/-- The first slot of a set that passes a test. -/
theorem find_setSlots {c : Word} {set j : Nat} {p : Nat → Bool} (hj : j / ttWays c = set) (hp : p j = true)
    (hleast : ∀ i < j, i / ttWays c = set → p i = false) : (setSlots c set).find? p = some j := by
  have hw : 0 < ttWays c := Nat.two_pow_pos _
  have hjeq : set * ttWays c + j % ttWays c = j := hj ▸ Nat.div_add_mod' j _
  have hfind : (List.range (ttWays c)).find? (p ∘ fun i => set * ttWays c + i) = some (j % ttWays c) := by
    rw [List.find?_range_eq_some]
    refine ⟨?_, List.mem_range.mpr (Nat.mod_lt j hw), fun i hi => ?_⟩
    · simpa [hjeq] using hp
    · have hlt : i < ttWays c := hi.trans (Nat.mod_lt j hw)
      have hset := mem_setSlots.mp (List.mem_map.mpr ⟨i, List.mem_range.mpr hlt, rfl⟩ : set * ttWays c + i ∈ setSlots c set)
      simp [hleast (set * ttWays c + i) (by omega) hset]
  rw [setSlots, List.find?_map, hfind, Option.map_some, hjeq]

theorem ttMatch_iff {e lt block : Nat} : ttMatch e lt block = true ↔ e % 2 = 1 ∧ e / 2 ^ 2 % 2 ^ 12 = lt ∧ e / 2 ^ 16 % 2 ^ 46 = block := by
  simp [ttMatch, bitAt, bitsAt, and_assoc]

theorem b2n_bitAt {x n : Nat} : b2n (bitAt x n) = x / 2 ^ n % 2 := by
  rcases Nat.mod_two_eq_zero_or_one (x / 2 ^ n) with h | h <;> simp [b2n, bitAt, h]

section
variable {k : Core} {lt block j : Nat}

/-- The lookup word of a key that the slot `j` is the first of its set to hold. -/
theorem ttLookup_hit (hj : j / ttWays k.ttCfg = block % ttSets k.ttCfg) (hm : ttMatch (ttEntry k j) lt block = true)
    (hleast : ∀ i < j, i / ttWays k.ttCfg = block % ttSets k.ttCfg → ttMatch (ttEntry k i) lt block = false) :
    ttLookup k lt block = j + ttEntry k j / 2 % 2 * 2 ^ 62 := by
  simp only [ttLookup, find_setSlots (p := fun j => ttMatch (ttEntry k j) lt block) hj hm hleast, b2n_bitAt, Nat.pow_one]

/-- The slot that a lookup which finds no key answers with: the set's first free slot, else the one its turn points to. -/
def ttVictim (k : Core) (set : Nat) : Nat :=
  ((setSlots k.ttCfg set).find? fun j => !bitAt (ttEntry k j) 0).getD (set * ttWays k.ttCfg + look 0 k.rr set % ttWays k.ttCfg)

theorem ttLookup_miss (hm : ∀ i, i / ttWays k.ttCfg = block % ttSets k.ttCfg → ttMatch (ttEntry k i) lt block = false) :
    ttLookup k lt block = ttVictim k (block % ttSets k.ttCfg) + ttEntry k (ttVictim k (block % ttSets k.ttCfg)) / 2 % 2 * 2 ^ 61 +
      ttEntry k (ttVictim k (block % ttSets k.ttCfg)) % 2 * 2 ^ 62 + 2 ^ 63 := by
  have hnone : ((setSlots k.ttCfg (block % ttSets k.ttCfg)).find? fun j => ttMatch (ttEntry k j) lt block) = none :=
    List.find?_eq_none.mpr fun j hj => by simp [hm j (mem_setSlots.mp hj)]
  simp only [ttLookup, hnone, ttVictim, b2n_bitAt, Nat.pow_one, Nat.pow_zero, Nat.div_one]

variable {set : Nat}

theorem ttVictim_of_full (h : ∀ j, j / ttWays k.ttCfg = set → ttEntry k j % 2 = 1) :
    ttVictim k set = set * ttWays k.ttCfg + look 0 k.rr set % ttWays k.ttCfg := by
  have hnone : ((setSlots k.ttCfg set).find? fun j => !bitAt (ttEntry k j) 0) = none :=
    List.find?_eq_none.mpr fun j hj => by simp [bitAt, h j (mem_setSlots.mp hj)]
  rw [ttVictim, hnone, Option.getD_none]

/-- With a free slot in the set, the victim is the first such. -/
theorem ttVictim_of_free (hj : j / ttWays k.ttCfg = set) (hfree : ttEntry k j % 2 = 0) :
    ttVictim k set / ttWays k.ttCfg = set ∧ ttVictim k set ≤ j ∧ ttEntry k (ttVictim k set) % 2 = 0 := by
  have hex : ∃ j, j / ttWays k.ttCfg = set ∧ ttEntry k j % 2 = 0 := ⟨j, hj, hfree⟩
  obtain ⟨hin, hf⟩ := Nat.find_spec hex
  have hleast : ∀ i < Nat.find hex, i / ttWays k.ttCfg = set → (!bitAt (ttEntry k i) 0) = false := fun i hi hset => by
    have := Nat.find_min hex hi
    simp only [hset, true_and] at this
    simp [bitAt, Nat.mod_two_ne_zero.mp this]
  rw [ttVictim, find_setSlots hin (by simp [bitAt, hf]) hleast, Option.getD_some]
  exact ⟨hin, Nat.find_min' hex ⟨hj, hfree⟩, hf⟩

theorem ttVictim_mem : ttVictim k set / ttWays k.ttCfg = set := by
  by_cases h : ∃ j, j / ttWays k.ttCfg = set ∧ ttEntry k j % 2 = 0
  · obtain ⟨j, hj, hfree⟩ := h
    exact (ttVictim_of_free hj hfree).1
  · have hw : 0 < ttWays k.ttCfg := Nat.two_pow_pos _
    rw [ttVictim_of_full fun j hj => Nat.mod_two_ne_zero.mp fun hz => h ⟨j, hj, hz⟩, Nat.mul_comm, Nat.mul_add_div hw,
      Nat.div_eq_of_lt (Nat.mod_lt _ hw), Nat.add_zero]

end

/-! ## How the bodies end -/

section
variable {s s1 : State} {p : Place} {d a : SReg} {m : MOp}

theorem go_needM_false_bind {β : Type} (c : Cause) (n : Nat) (f : Unit → M β) (s : State) :
    (needM false c n >>= f).go s = (.error (.trap ⟨c, n⟩), s) := go_bind_error (go_needM_false c n s)

theorem ofM_done {f : M Unit} {t : State} (h : f.go s = (.ok (), t)) : Eff.ofM f s = .done t := by simp only [Eff.ofM, h]
theorem ofM_trap {f : M Unit} {x : Trap} (h : f.go s = (.error (.trap x), s)) : Eff.ofM f s = .trap s x := by simp only [Eff.ofM, h]

section
variable {mark : Bool} (hp : (cachePlace s.who (s.rdH m.h) (coordM s m)).go s = (.ok p, s1)) (hk : s1.myCore = s.myCore)
include hp hk

theorem tlkBody_disabled (he : ttEn s.myCore.ttCfg = false) : (tlkBody mark d m s).go s = (.ok (), s1.wrS d (BitVec.ofNat 64 (2 ^ 64 - 1))) := by
  simp [tlkBody, go_bind_ok hp, hk, he]

variable (he : ttEn s.myCore.ttCfg = true) (hr : repMode s1 = 0)
include he hr

/-- The plain lookup, and the marking one where it finds no key, change D alone. -/
theorem tlkBody_answers {r : Nat} (hl : ttLookup s.myCore p.lt (p.addr / 2 ^ ttSlotBits s.myCore.ttCfg) = r) (hm : mark = false ∨ 2 ^ 63 ≤ r) :
    (tlkBody mark d m s).go s = (.ok (), s1.wrS d (BitVec.ofNat 64 r)) := by
  have hn : (mark && decide (r < 2 ^ 63)) = false := by
    rcases hm with rfl | h
    · rfl
    · rw [decide_eq_false (Nat.not_lt.mpr h), Bool.and_false]
  simp only [tlkBody, go_bind_ok hp, go_modify, hk, he, hl, repValue_free _ _ hr, hn]
  rfl

/-- The marking lookup of a key that it finds sets the entry's mark. -/
theorem tlkBody_marks {r : Nat} (hl : ttLookup s.myCore p.lt (p.addr / 2 ^ ttSlotBits s.myCore.ttCfg) = r) (h : r < 2 ^ 63) :
    (tlkBody true d m s).go s = (.ok (), (s1.setMyCore { s1.myCore with
      tt := put s1.myCore.tt (r % 1024) (BitVec.ofNat 64 (setBits (ttEntry s.myCore (r % 1024)) 1 1 1)) }).wrS d (BitVec.ofNat 64 r)) := by
  simp only [tlkBody, go_bind_ok hp, go_modify, hk, he, hl, repValue_free _ _ hr, h, decide_true, Bool.and_self]
  rfl

end

/-- A disabled table refuses before the key's checks. -/
theorem tinsBody_disabled (he : ttEn s.myCore.ttCfg = false) : (tinsBody d m s).go s = (.error (.trap ⟨.permission, 0⟩), s) := by
  simp only [tinsBody, he, go_needM_false_bind]

theorem tinsBody_beyond (he : ttEn s.myCore.ttCfg = true) (h : 1024 ≤ (s.rdS d).toNat) :
    (tinsBody d m s).go s = (.error (.trap ⟨.bounds, 0⟩), s) := by
  simp only [tinsBody, he, go_needM_bind, decide_eq_false (Nat.not_lt.mpr h), go_needM_false_bind]

section
variable (he : ttEn s.myCore.ttCfg = true) (hp : (cachePlace s.who (s.rdH m.h) (coordM s m)).go s = (.ok p, s1)) (hk : s1.myCore = s.myCore)
  (hlt : (s.rdS d).toNat < ttSlots s.myCore.ttCfg)
  (hset : (s.rdS d).toNat / ttWays s.myCore.ttCfg = p.addr / 2 ^ ttSlotBits s.myCore.ttCfg % ttSets s.myCore.ttCfg)
include he hp hk hlt hset

/-- With the key placed and the slot in its set, the entry decides (R77). -/
theorem tinsBody_go : (tinsBody d m s).go s =
    (if bitAt (ttEntry s.myCore (s.rdS d).toNat) 0 then tinsBody.set' d s1 8
    else if (setSlots s.myCore.ttCfg (p.addr / 2 ^ ttSlotBits s.myCore.ttCfg % ttSets s.myCore.ttCfg)).any
        fun j => ttMatch (ttEntry s.myCore j) p.lt (p.addr / 2 ^ ttSlotBits s.myCore.ttCfg) then tinsBody.set' d s1 9
    else if (pinEntry s.who.root p.lt p.entry s1).2 ≠ 0 then tinsBody.set' d s1 (pinEntry s.who.root p.lt p.entry s1).2
    else tinsBody.set' d ((pinEntry s.who.root p.lt p.entry s1).1.setMyCore { (pinEntry s.who.root p.lt p.entry s1).1.myCore with
      tt := put (pinEntry s.who.root p.lt p.entry s1).1.myCore.tt (s.rdS d).toNat
        (BitVec.ofNat 64 (1 + p.lt * 2 ^ 2 + p.addr / 2 ^ ttSlotBits s.myCore.ttCfg * 2 ^ 16))
      rr := put (pinEntry s.who.root p.lt p.entry s1).1.myCore.rr (p.addr / 2 ^ ttSlotBits s.myCore.ttCfg % ttSets s.myCore.ttCfg)
        (((s.rdS d).toNat % ttWays s.myCore.ttCfg + 1) % ttWays s.myCore.ttCfg) }) 0).go s1 := by
  have h1024 : (s.rdS d).toNat < 1024 := by
    have : ttSlots s.myCore.ttCfg ≤ 1024 := Nat.succ_le_of_lt (Nat.mod_lt _ (Nat.two_pow_pos 10))
    omega
  have hroot : s1.who.root = s.who.root := congrArg (fun k : Core => k.ascRoot.toNat) hk
  simp only [tinsBody, he, h1024, hroot, decide_true, go_needM_bind, go_bind_ok hp, go_get_bind, hk, hlt, hset, beq_self_eq_true,
    Bool.and_self]

theorem tinsBody_occupied (ho : ttEntry s.myCore (s.rdS d).toNat % 2 = 1) : (tinsBody d m s).go s = (.ok (), s1.wrS d 8) := by
  have hv : bitAt (ttEntry s.myCore (s.rdS d).toNat) 0 = true := by simp [bitAt, ho]
  rw [tinsBody_go he hp hk hlt hset, if_pos hv]
  rfl

variable (hf : ttEntry s.myCore (s.rdS d).toNat % 2 = 0)
include hf

theorem tinsBody_duplicate {j : Nat} (hj : j / ttWays s.myCore.ttCfg = p.addr / 2 ^ ttSlotBits s.myCore.ttCfg % ttSets s.myCore.ttCfg)
    (hm : ttMatch (ttEntry s.myCore j) p.lt (p.addr / 2 ^ ttSlotBits s.myCore.ttCfg) = true) : (tinsBody d m s).go s = (.ok (), s1.wrS d 9) := by
  have hv : ¬bitAt (ttEntry s.myCore (s.rdS d).toNat) 0 = true := by simp [bitAt, hf]
  rw [tinsBody_go he hp hk hlt hset, if_neg hv, if_pos (List.any_eq_true.mpr ⟨j, mem_setSlots.mpr hj, hm⟩)]
  rfl

variable (hm : ∀ j, j / ttWays s.myCore.ttCfg = p.addr / 2 ^ ttSlotBits s.myCore.ttCfg % ttSets s.myCore.ttCfg →
  ttMatch (ttEntry s.myCore j) p.lt (p.addr / 2 ^ ttSlotBits s.myCore.ttCfg) = false)
include hm

/-- A page that cannot be pinned: the pin's status. -/
theorem tinsBody_refused {st : Nat} (hpin : pinEntry s.who.root p.lt p.entry s1 = (s1, st)) (hst : st ≠ 0) :
    (tinsBody d m s).go s = (.ok (), s1.wrS d (BitVec.ofNat 64 st)) := by
  have hv : ¬bitAt (ttEntry s.myCore (s.rdS d).toNat) 0 = true := by simp [bitAt, hf]
  have hany : ¬((setSlots s.myCore.ttCfg (p.addr / 2 ^ ttSlotBits s.myCore.ttCfg % ttSets s.myCore.ttCfg)).any fun j =>
      ttMatch (ttEntry s.myCore j) p.lt (p.addr / 2 ^ ttSlotBits s.myCore.ttCfg)) = true := by
    simp only [List.any_eq_true, not_exists, not_and, Bool.not_eq_true]
    exact fun j hj => hm j (mem_setSlots.mp hj)
  rw [tinsBody_go he hp hk hlt hset, if_neg hv, if_neg hany, hpin, if_pos hst]
  rfl

theorem tinsBody_inserts {s2 : State} (hpin : pinEntry s.who.root p.lt p.entry s1 = (s2, 0)) :
    (tinsBody d m s).go s = (.ok (), (s2.setMyCore { s2.myCore with
      tt := put s2.myCore.tt (s.rdS d).toNat (BitVec.ofNat 64 (1 + p.lt * 2 ^ 2 + p.addr / 2 ^ ttSlotBits s.myCore.ttCfg * 2 ^ 16))
      rr := put s2.myCore.rr (p.addr / 2 ^ ttSlotBits s.myCore.ttCfg % ttSets s.myCore.ttCfg)
        (((s.rdS d).toNat % ttWays s.myCore.ttCfg + 1) % ttWays s.myCore.ttCfg) }).wrS d 0) := by
  have hv : ¬bitAt (ttEntry s.myCore (s.rdS d).toNat) 0 = true := by simp [bitAt, hf]
  have hany : ¬((setSlots s.myCore.ttCfg (p.addr / 2 ^ ttSlotBits s.myCore.ttCfg % ttSets s.myCore.ttCfg)).any fun j =>
      ttMatch (ttEntry s.myCore j) p.lt (p.addr / 2 ^ ttSlotBits s.myCore.ttCfg)) = true := by
    simp only [List.any_eq_true, not_exists, not_and, Bool.not_eq_true]
    exact fun j hj => hm j (mem_setSlots.mp hj)
  rw [tinsBody_go he hp hk hlt hset, if_neg hv, if_neg hany, hpin, if_neg (not_not_intro rfl)]
  rfl

end

/-! The mark of an entry (R76). -/

theorem markBit_set {x : Nat} : (BitVec.ofNat 64 (setBits x 1 1 1)).getLsbD 1 = true := by
  have h : setBits x 1 1 1 / 2 % 2 = 1 := by
    unfold setBits
    omega
  rw [BitVec.getLsbD_ofNat, Nat.testBit_eq_decide_div_mod_eq, Nat.pow_one, h]
  rfl

theorem markBit_other {x : Word} {k : Nat} (h : k ≠ 1) : (BitVec.ofNat 64 (setBits x.toNat 1 1 1)).getLsbD k = x.getLsbD k := by
  have hlow : setBits x.toNat 1 1 1 % 2 = x.toNat % 2 := by
    unfold setBits
    omega
  have hhigh : setBits x.toNat 1 1 1 / 2 ^ 2 = x.toNat / 2 ^ 2 := by
    unfold setBits
    omega
  have hbits : (setBits x.toNat 1 1 1).testBit k = x.toNat.testBit k := by
    match k, h with
    | 0, _ => simp [Nat.testBit_zero, hlow]
    | k + 2, _ => rw [Nat.testBit_add, hhigh, ← Nat.testBit_add]
  rw [BitVec.getLsbD_ofNat, hbits, ← BitVec.getLsbD_ofNat, BitVec.ofNat_toNat, BitVec.setWidth_eq]

/-! What a pin answers (R37). -/

section
variable {root n : Nat} {e : Entry}

theorem pinEntry_closing (h : (s.closing.any fun q => q.ctx == ctxId root && overlaps e q) = true) : pinEntry root n e s = (s, 2) := if_pos h

variable (h : (s.closing.any fun q => q.ctx == ctxId root && overlaps e q) = false)
include h

theorem pinEntry_full (hn : 65535 ≤ look 0 s.pins (ltKey root n)) : pinEntry root n e s = (s, 6) := by
  simp [pinEntry, h, hn]

theorem pinEntry_pins (hn : look 0 s.pins (ltKey root n) < 65535) :
    pinEntry root n e s = ({ s with pins := put s.pins (ltKey root n) (look 0 s.pins (ltKey root n) + 1) }, 0) := by
  simp [pinEntry, h, hn]

end

/-! `tevc` (R78). -/

theorem tevcBody_disabled (he : ttEn s.myCore.ttCfg = false) : (tevcBody d a s).go s = (.error (.trap ⟨.permission, 0⟩), s) := by
  simp only [tevcBody, he, go_needM_false_bind]

section
variable (he : ttEn s.myCore.ttCfg = true)
include he

theorem tevcBody_beyond (h : ttSlots s.myCore.ttCfg ≤ (s.rdS a).toNat) : (tevcBody d a s).go s = (.error (.trap ⟨.bounds, 0⟩), s) := by
  simp only [tevcBody, he, go_needM_bind, decide_eq_false (Nat.not_lt.mpr h), go_needM_false_bind]

variable (h : (s.rdS a).toNat < ttSlots s.myCore.ttCfg)
include h

theorem tevcBody_empty (hf : ttEntry s.myCore (s.rdS a).toNat % 2 = 0) : (tevcBody d a s).go s = (.ok (), s.wrS d 10) := by
  have hv : (!bitAt (ttEntry s.myCore (s.rdS a).toNat) 0) = true := by simp [bitAt, hf]
  simp only [tevcBody, he, go_needM_bind, h, decide_true, hv, if_true, go_set]

/-- An eviction frees the slot and gives up the pin of its entry. -/
def evicted (s : State) (slot : Nat) : State :=
  unpinEntry (ltKey s.who.root (ttEntry s.myCore slot / 2 ^ 2 % 2 ^ 12))
    (s.setMyCore { s.myCore with tt := put s.myCore.tt slot (BitVec.ofNat 64 (ttEntry s.myCore slot / 4 * 4)) })

theorem tevcBody_evicts (hv : ttEntry s.myCore (s.rdS a).toNat % 2 = 1) :
    (tevcBody d a s).go s = (.ok (), (evicted s (s.rdS a).toNat).wrS d (BitVec.ofNat 64 (ttEntry s.myCore (s.rdS a).toNat + 2 ^ 63))) := by
  have hv : ¬(!bitAt (ttEntry s.myCore (s.rdS a).toNat) 0) = true := by simp [bitAt, hv]
  have hroot : ∀ t, (s.setMyCore { s.myCore with tt := t }).who.root = s.who.root := fun t => by
    have hc := congrArg (fun k : Core => k.ascRoot.toNat) (core_setCore s s.cc { s.myCore with tt := t })
    exact hc
  simp only [tevcBody, he, go_needM_bind, h, decide_true, if_neg hv, go_set, hroot, bitsAt, evicted]

end

theorem evicted_slot (slot : Nat) : (look 0 (evicted s slot).myCore.tt slot).toNat = ttEntry s.myCore slot / 4 * 4 := by
  have hlt : ttEntry s.myCore slot / 4 * 4 < 2 ^ 64 := (Nat.div_mul_le_self _ 4).trans_lt (look 0 s.myCore.tt slot).isLt
  have hc : (evicted s slot).myCore.tt = put s.myCore.tt slot (BitVec.ofNat 64 (ttEntry s.myCore slot / 4 * 4)) :=
    congrArg Core.tt (core_setCore s s.cc _)
  rw [hc, look_put_same, BitVec.toNat_ofNat, Nat.mod_eq_of_lt hlt]

theorem evicted_other {slot j : Nat} (hj : j ≠ slot) : look 0 (evicted s slot).myCore.tt j = look 0 s.myCore.tt j := by
  have hc : (evicted s slot).myCore.tt = put s.myCore.tt slot (BitVec.ofNat 64 (ttEntry s.myCore slot / 4 * 4)) :=
    congrArg Core.tt (core_setCore s s.cc _)
  rw [hc, look_put_other _ _ _ hj]

theorem evicted_pin (slot : Nat) : look 0 (evicted s slot).pins (ltKey s.who.root (ttEntry s.myCore slot / 2 ^ 2 % 2 ^ 12)) =
    look 0 s.pins (ltKey s.who.root (ttEntry s.myCore slot / 2 ^ 2 % 2 ^ 12)) - 1 := look_put_same _ _ _ _

end

end Sys2Proof.Machine

namespace Sys2Proof.Proofs
open Sys2Proof.Machine Sys2Proof.Claims

theorem ttEn_iff {c : Word} : ttEn c = true ↔ 2 ^ 63 ≤ c.toNat := by
  have := c.isLt
  simp only [ttEn, bitAt, beq_iff_eq]
  omega

theorem tlk_completes {gd : Guard} {d : SReg} {m : MOp} {s t : State} (hr : Ready gd s) (h : (tlkBody false d m s).go s = (.ok (), t)) :
    Completes (.tlk gd d m) 4 s t := completes_of_done rfl hr (ofM_done h)
theorem tlkM_completes {gd : Guard} {d : SReg} {m : MOp} {s t : State} (hr : Ready gd s) (h : (tlkBody true d m s).go s = (.ok (), t)) :
    Completes (.tlkM gd d m) 4 s t := completes_of_done rfl hr (ofM_done h)
theorem tins_completes {gd : Guard} {d : SReg} {m : MOp} {s t : State} (hr : Ready gd s) (h : (tinsBody d m s).go s = (.ok (), t)) :
    Completes (.tins gd d m) 4 s t := completes_of_done rfl hr (ofM_done h)
theorem tevc_completes {gd : Guard} {d a : SReg} {s t : State} (hr : Ready gd s) (h : (tevcBody d a s).go s = (.ok (), t)) :
    Completes (.tevc gd d a) 4 s t := completes_of_done rfl hr (ofM_done h)

/-- Settles O22, body by body: the lookup's hit, its miss by the set's victim, each refusal of an insert in its order, and the evict. -/
theorem tagTableFormsComplete : Obligations.TagTableFormsComplete := by
  intro gd d a m s s1 p hr c slot evict ways slots block set entry image hit mine
  have hen : 2 ^ 63 ≤ c.toNat → ttEn s.myCore.ttCfg = true := ttEn_iff.mpr
  have hdis : c.toNat < 2 ^ 63 → ttEn s.myCore.ttCfg = false := fun h => by
    rw [← Bool.not_eq_true, ttEn_iff]
    exact Nat.not_le.mpr h
  have hblock : p.addr / 2 ^ ttSlotBits s.myCore.ttCfg = block := by simp [block, c, ttSlotBits, bitsAt]
  have hbit : ∀ {j}, ttMatch (ttEntry s.myCore j) p.lt block = true ↔ hit j := ttMatch_iff
  have hnohit : ∀ {j}, ¬hit j → ttMatch (ttEntry s.myCore j) p.lt block = false := fun h =>
    Bool.not_eq_true _ ▸ fun h' => h (hbit.mp h')
  have hin : slots % ways = 0 → ∀ {j}, j / ways = set → mine j := fun hdiv j hj => by
    have hpos : 0 < slots / ways := Nat.div_pos (Nat.le_of_dvd (Nat.succ_pos _) (Nat.dvd_of_mod_eq_zero hdiv)) (Nat.two_pow_pos _)
    refine ⟨hj, Nat.lt_of_not_ge fun hge => ?_⟩
    have hle : slots / ways ≤ set := (Nat.div_le_div_right hge).trans_eq hj
    exact absurd hle (Nat.not_le.mpr (Nat.mod_lt block hpos))
  refine ⟨fun hp hk hrep => ⟨fun h => ?_, fun h hdiv j hj hhit hleast => ?_, fun h hdiv hnone => ?_, fun h hdiv hslot => ?_⟩,
    fun h hlt => ⟨fun hf => ?_, fun hv _ => ?_⟩, fun h hge => ?_, fun h hge => ?_, fun h => ⟨?_, ?_⟩⟩
  · exact ⟨tlk_completes hr (tlkBody_disabled hp hk (hdis h)), tlkM_completes hr (tlkBody_disabled hp hk (hdis h))⟩
  · have hl : ttLookup s.myCore p.lt block = j + entry j / 2 % 2 * 2 ^ 62 :=
      ttLookup_hit hj.1 (hbit.mpr hhit) fun i hi hset => hnohit (hleast i hi ⟨hset, hi.trans hj.2⟩)
    rw [← hblock] at hl
    have hj1024 : j < 1024 := hj.2.trans_le (Nat.succ_le_of_lt (Nat.mod_lt _ (Nat.two_pow_pos 10)))
    have hmod : (j + entry j / 2 % 2 * 2 ^ 62) % 1024 = j := by omega
    have hsmall : j + entry j / 2 % 2 * 2 ^ 62 < 2 ^ 63 := by omega
    have hmark := tlkBody_marks hp hk (hen h) hrep (d := d) hl hsmall
    rw [hmod] at hmark
    exact ⟨tlk_completes hr (tlkBody_answers hp hk (hen h) hrep hl (.inl rfl)), _, markBit_set, fun k hk hk1 => markBit_other hk1,
      tlkM_completes hr hmark⟩
  · refine ⟨ttVictim s.myCore set, hin hdiv ttVictim_mem, fun j hj hfree => (ttVictim_of_free hj.1 hfree).2,
      fun hfull => ttVictim_of_full fun j hj => hfull j (hin hdiv hj), ?_⟩
    have hl : ttLookup s.myCore p.lt (p.addr / 2 ^ ttSlotBits s.myCore.ttCfg) = ttVictim s.myCore set +
        entry (ttVictim s.myCore set) / 2 % 2 * 2 ^ 61 + entry (ttVictim s.myCore set) % 2 * 2 ^ 62 + 2 ^ 63 :=
      (congrArg (ttLookup s.myCore p.lt) hblock).trans (ttLookup_miss fun i hi => hnohit (hnone i (hin hdiv hi)))
    simp only [List.forall_mem_cons, List.not_mem_nil, false_imp_iff, implies_true, and_true]
    exact ⟨tlk_completes hr (tlkBody_answers hp hk (hen h) hrep hl (.inl rfl)),
      tlkM_completes hr (tlkBody_answers hp hk (hen h) hrep hl (.inr (Nat.le_add_left _ _)))⟩
  · intro closing n
    have hset : slot / ttWays s.myCore.ttCfg = p.addr / 2 ^ ttSlotBits s.myCore.ttCfg % ttSets s.myCore.ttCfg := hblock ▸ hslot.1
    have hfree : (∀ j, mine j → ¬hit j) → ∀ j, j / ttWays s.myCore.ttCfg = p.addr / 2 ^ ttSlotBits s.myCore.ttCfg % ttSets s.myCore.ttCfg →
        ttMatch (ttEntry s.myCore j) p.lt (p.addr / 2 ^ ttSlotBits s.myCore.ttCfg) = false := fun hnone j hj => by
      rw [hblock] at hj ⊢
      exact hnohit (hnone j (hin hdiv hj))
    refine ⟨fun ho => ?_, fun hf ⟨j, hj, hhit⟩ => ?_, fun hf hnone hc => ?_, fun hf hnone hc hn => ?_, fun hf hnone hc hn => ?_⟩
    · exact tins_completes hr (tinsBody_occupied (hen h) hp hk hslot.2 hset ho)
    · exact tins_completes hr (tinsBody_duplicate (hen h) hp hk hslot.2 hset hf (hblock ▸ hj.1) (hblock ▸ hbit.mpr hhit))
    · exact tins_completes hr (tinsBody_refused (hen h) hp hk hslot.2 hset hf (hfree hnone) (pinEntry_closing hc) (by decide))
    · have hpin := pinEntry_full (root := s.who.root) (n := p.lt) hc hn
      exact tins_completes hr (tinsBody_refused (hen h) hp hk hslot.2 hset hf (hfree hnone) hpin (by decide))
    · have ht := tinsBody_inserts (hen h) hp hk hslot.2 hset hf (hfree hnone) (pinEntry_pins hc hn)
      rw [hblock, Nat.add_assoc] at ht
      exact tins_completes hr ht
  · exact tevc_completes hr (tevcBody_empty (hen h) hlt hf)
  · exact ⟨_, tevc_completes hr (tevcBody_evicts (hen h) hlt hv), evicted_slot _, fun _ hj => evicted_other hj, evicted_pin _⟩
  · exact trapsHere_of_trap rfl hr (ofM_trap (tevcBody_beyond (hen h) hge))
  · exact trapsHere_of_trap rfl hr (ofM_trap (tinsBody_beyond (hen h) hge))
  · exact trapsHere_of_trap rfl hr (ofM_trap (tevcBody_disabled (hdis h)))
  · exact trapsHere_of_trap rfl hr (ofM_trap (tinsBody_disabled (hdis h)))

end Sys2Proof.Proofs
end

section
/-! SUPPORT. What the write of a ruled register ends in: a refusal by a rule of its own or the state it leaves (R237), the counts
of domains moved (R159), and the licence disabled (R157). -/
namespace Sys2Proof.Machine

/-! ## A rule that takes a write or refuses it -/

/-- A refused write traps at the writing instruction. -/
theorem regEvent_refuses {n : Nat} {sup : Bool} {f : State → Chk State} {s : State} {x : Trap} (hp : s.powered = true)
    (hv : sup = false ∨ s.me.priv = true) (h : f s = .error x) : regEvent n sup f s = .next (trapHere x 8 s) := by
  rw [regEvent, event_runs _ s hp]
  rcases hv with hv | hv <;> simp [hv, h]

theorem need_bind {α : Type} (b : Bool) (c : Cause) (f : Unit → Chk α) : (need b c >>= f) = if b then f () else .error ⟨c, 0⟩ := by
  cases b <;> rfl

/-- Two checks with one cause are one check. -/
theorem need_need_bind {α : Type} (a b : Bool) (c : Cause) (f : Unit → Chk α) :
    (need a c >>= fun _ => need b c >>= f) = (need (a && b) c >>= f) := by
  cases a <;> rfl

/-! ## Instances moved (R159) -/

/-- Only stamps and their domains' counts differ. -/
def Redated (s t : State) : Prop := ∃ d x w, t = { s with dgen := d, stamps := x, towers := w }

theorem Redated.refl (s : State) : Redated s s := ⟨s.dgen, s.stamps, s.towers, rfl⟩

theorem Redated.trans {s t u : State} : Redated s t → Redated t u → Redated s u := by
  rintro ⟨_, _, _, rfl⟩ ⟨d, x, w, rfl⟩
  exact ⟨d, x, w, rfl⟩

theorem Redated.foldl {α : Type} {f : State → α → State} (h : ∀ s a, Redated s (f s a)) (l : List α) (s : State) : Redated s (l.foldl f s) :=
  List.foldlRecOn l f (Redated.refl s) fun t ht a _ => ht.trans (h t a)

theorem bumpDgen_redated (s : State) (lvl inst : Nat) : Redated s (bumpDgen s lvl inst) := by
  simp only [bumpDgen]
  split
  · exact ⟨_, s.stamps, s.towers, rfl⟩
  · exact ⟨_, _, _, rfl⟩

theorem advanceDgen_redated (lvl inst : Nat) (s : State) : Redated s (advanceDgen lvl inst s) :=
  (Redated.foldl (fun s j => Redated.foldl (fun s i => bumpDgen_redated s j i) _ s) _ s).trans (bumpDgen_redated _ _ _)

/-- The domains of the module's instances at levels `ls` move on, the instances as `dmr` numbers them. -/
def advanceLevels (dmr : Nat) (ls : List Nat) (s : State) : State :=
  ls.foldl (fun s l => match modInst dmr l with
    | some i => advanceDgen l i s
    | none => s) s

theorem advanceLevels_redated (dmr : Nat) (ls : List Nat) (s : State) : Redated s (advanceLevels dmr ls s) := by
  refine Redated.foldl (fun s l => ?_) ls s
  cases modInst dmr l with
  | none => exact Redated.refl s
  | some i => exact advanceDgen_redated l i s

theorem Redated.setDmr {s t : State} (v : Word) : Redated s t → Redated { s with dmr := v } { t with dmr := v } := by
  rintro ⟨d, x, w, rfl⟩
  exact ⟨d, x, w, rfl⟩

/-- The levels whose domain a new value of DMR_GLOBAL changes. -/
def movedLevels (old x : Nat) : List Nat :=
  [4, 5, 6].filter fun l => modInst old l != modInst x l || bitsAt old (10 * (l - 4)) 10 != bitsAt x (10 * (l - 4)) 10

/-- The state after DMR_GLOBAL is taken. -/
def dmrMoved (v : Word) (s : State) : State :=
  let ls := movedLevels s.dmr.toNat v.toNat
  advanceLevels v.toNat ls { advanceLevels s.dmr.toNat ls s with dmr := v }

theorem wrDmrGlobal_eq (v : Word) (s : State) : wrDmrGlobal v s =
    (need (!anyJob s && !(bitAt v.toNat 31 && !bitAt v.toNat 32) && bitsAt v.toNat 33 31 == 0) .permission >>= fun _ => .ok (dmrMoved v s)) := rfl

theorem dmrMoved_redated (v : Word) (s : State) : Redated { s with dmr := v } (dmrMoved v s) :=
  ((advanceLevels_redated s.dmr.toNat _ s).setDmr v).trans (advanceLevels_redated v.toNat _ _)

/-! ## The licence disabled (R156, R157) -/

/-- Waits for the licence denied: a stream may turn to a denied wait, and only an ME whose core had asked leaves RUN for it. -/
structure Denied (s t : State) : Prop where
  disable : ∀ p, (t.pair p).disable = (s.pair p).disable
  licReq : ∀ c, (s.core c).licReq = false → (t.core c).licReq = false
  pc : ∀ c y, (t.str c y).pc = (s.str c y).pc
  st : ∀ c y, y ≠ .me ∨ (s.core c).licReq = false → (t.str c y).st = (s.str c y).st

theorem Denied.trans {s t u : State} (h : Denied s t) (h' : Denied t u) : Denied s u where
  disable p := (h'.disable p).trans (h.disable p)
  licReq c hc := h'.licReq c (h.licReq c hc)
  pc c y := (h'.pc c y).trans (h.pc c y)
  st c y hy := (h'.st c y (hy.imp_right (h.licReq c))).trans (h.st c y hy)

theorem setPair_denied {s : State} {p : Nat} {k : Pair} (h : k.disable = (s.pair p).disable) : Denied s (s.setPair p k) where
  disable q := by
    by_cases hq : q = p
    · rw [hq, pair_setPair, h]
    · rw [pair_setPair_other s k hq]
  licReq _ hc := hc
  pc _ _ := rfl
  st _ _ _ := rfl

theorem noLicReq_denied (s : State) (c : Nat) : Denied s (s.setCore c { s.core c with licReq := false }) where
  disable _ := rfl
  licReq d hd := by
    by_cases h : d = c
    · rw [h, core_setCore]
    · rwa [core_setCore_other s _ h]
  pc d y := by
    by_cases h : d = c
    · rw [h, State.str, core_setCore]; rfl
    · rw [State.str, core_setCore_other s _ h]; rfl
  st d y _ := by
    by_cases h : d = c
    · rw [h, State.str, core_setCore]; rfl
    · rw [State.str, core_setCore_other s _ h]; rfl

/-- A stream of `c` changes to `m`, at the same PC; where the state changes, it is the ME of a core that had asked. -/
theorem Denied.setStr {s t : State} (h : Denied s t) {c : Nat} {x : Stream} {m : Strm} (hpc : m.pc = (t.str c x).pc)
    (hst : m.st = (t.str c x).st ∨ x = .me ∧ (s.core c).licReq = true) : Denied s (t.setStr c x m) := by
  have hstr : ∀ d y, (t.setStr c x m).str d y = if d = c ∧ y = x then m else t.str d y := fun d y => by
    by_cases hd : d = c
    · by_cases hy : y = x
      · rw [if_pos ⟨hd, hy⟩, hd, hy, str_setStr]
      · rw [if_neg fun h => hy h.2, hd, str_setStr_other t c m hy]
    · rw [if_neg fun h => hd h.1, State.str, State.setStr, core_setCore_other t _ hd]
      rfl
  refine ⟨h.disable, fun d hd => ?_, fun d y => ?_, fun d y hy => ?_⟩
  · by_cases hc : d = c
    · rw [State.setStr, hc, core_setCore]
      exact h.licReq c (hc ▸ hd)
    · rw [State.setStr, core_setCore_other t _ hc]
      exact h.licReq d hd
  · rw [hstr]
    split
    · next hdy => rw [hpc, ← h.pc, hdy.1, hdy.2]
    · exact h.pc d y
  · rw [hstr]
    split
    · next hdy =>
      obtain ⟨rfl, rfl⟩ := hdy
      rcases hst with hst | ⟨hx, hasked⟩
      · exact hst.trans (h.st d y hy)
      · rw [hasked] at hy
        exact absurd hx (hy.resolve_right Bool.noConfusion)
    · exact h.st d y hy

/-- What becomes of one stream as its core's waits are denied. -/
def denyStream (c : Nat) (asked : Bool) (s : State) (x : Stream) : State :=
  let m := s.str c x
  if m.st = .wait ∧ m.wait = .licence true then s.setStr c x { m with wait := .denied }
  else if asked && x == .me && m.st == .run then s.setStr c x { m with st := .wait, wait := .denied, since := s.time } else s

theorem denyWaits_eq (c : Nat) (s : State) : denyWaits c s =
    [Stream.lcc, .ccc, .me].foldl (denyStream c (s.core c).licReq) (noWant c (s.setCore c { s.core c with licReq := false })) := rfl

theorem denyStream_denied {s t : State} (h : Denied s t) (c : Nat) (x : Stream) : Denied s (denyStream c (s.core c).licReq t x) := by
  simp only [denyStream]
  split
  · exact h.setStr rfl (.inl rfl)
  · split
    · next hx =>
      simp only [Bool.and_eq_true, beq_iff_eq] at hx
      exact h.setStr rfl (.inr ⟨hx.1.2, hx.1.1⟩)
    · exact h

theorem noWant_denied (c : Nat) (s : State) : Denied s (noWant c s) := setPair_denied rfl

theorem denyWaits_denied (c : Nat) (s : State) : Denied s (denyWaits c s) := by
  rw [denyWaits_eq]
  have hbase := (noLicReq_denied s c).trans (noWant_denied c _)
  generalize noWant c (s.setCore c { s.core c with licReq := false }) = t at hbase
  exact List.foldlRecOn _ (denyStream c (s.core c).licReq) hbase fun t ht x _ => denyStream_denied ht c x

theorem Denied.refl (s : State) : Denied s s := ⟨fun _ => rfl, fun _ h => h, fun _ _ => rfl, fun _ _ _ => rfl⟩

theorem actBy_denied {s t : State} (h : Denied s t) (key agent : Nat) : Denied s (t.actBy key agent) := ⟨h.disable, h.licReq, h.pc, h.st⟩

theorem serveFree_denied (p : Nat) (s : State) : Denied s (serveFree p s) := by
  simp only [serveFree]
  split
  · exact Denied.refl s
  · split
    · have hp : Denied s (s.setPair p { s.pair p with lic := .disabled }) := setPair_denied rfl
      generalize s.setPair p { s.pair p with lic := .disabled } = t at hp ⊢
      exact (hp.trans (denyWaits_denied _ t)).trans (denyWaits_denied _ _)
    · split
      · refine actBy_denied (setPair_denied ?_) _ _
        rfl
      · exact Denied.refl s

/-- Without DISABLE a free licence changes no core. -/
theorem serveFree_cores {p : Nat} {s : State} (h : (s.pair p).disable = false) : (serveFree p s).cores = s.cores := by
  simp only [serveFree, h, Bool.false_eq_true, if_false]
  split
  · rfl
  · split <;> rfl

/-- The pair of DISABLE written, before its requests are served. -/
def disabled (p : Nat) (b : Bool) (s : State) : Pair :=
  if !b && (s.pair p).lic == .disabled then { s.pair p with disable := b, lic := .free } else { s.pair p with disable := b }

theorem disabled_disable (p : Nat) (b : Bool) (s : State) : (disabled p b s).disable = b := by
  unfold disabled
  split <;> rfl

theorem setDisable_eq (p : Nat) (b : Bool) (s : State) : setDisable p b s = serveFree p (s.setPair p (disabled p b s)) := rfl

theorem setDisable_disable (p : Nat) (b : Bool) (s : State) : ((setDisable p b s).pair p).disable = b := by
  rw [setDisable_eq, (serveFree_denied p _).disable, pair_setPair, disabled_disable]

theorem setDisable_cores (p : Nat) (s : State) : (setDisable p false s).cores = s.cores := by
  rw [setDisable_eq, serveFree_cores (by rw [pair_setPair, disabled_disable])]
  rfl

/-- The stream states of a pair whose DISABLE is written. -/
theorem setDisable_str (p : Nat) (b : Bool) (s : State) (c : Nat) (y : Stream) : ((setDisable p b s).str c y).pc = (s.str c y).pc ∧
    (y ≠ .me ∨ (s.core c).licReq = false → ((setDisable p b s).str c y).st = (s.str c y).st) :=
  ⟨(serveFree_denied p (s.setPair p (disabled p b s))).pc c y, (serveFree_denied p (s.setPair p (disabled p b s))).st c y⟩

/-- What LIC_CTL leaves of the state: no byte of memory changes, and only waits for the licence become denied. -/
theorem wrLicCtl_written (v : Word) (s : State) : ((wrLicCtl s.cc v s).pair (pairOf s.cc)).disable = bitAt v.toNat 0 ∧
    (wrLicCtl s.cc v s).mem = s.mem ∧ (bitAt v.toNat 0 = false → (wrLicCtl s.cc v s).cores = s.cores) ∧
    ∀ c y, ((wrLicCtl s.cc v s).str c y).pc = (s.str c y).pc ∧
      (y ≠ .me ∨ (s.core c).licReq = false → ((wrLicCtl s.cc v s).str c y).st = (s.str c y).st) := by
  have hcores : ∀ t : State, t.cores = s.cores → ∀ c y, ((setDisable (pairOf s.cc) (bitAt v.toNat 0) t).str c y).pc = (s.str c y).pc ∧
      (y ≠ .me ∨ (s.core c).licReq = false → ((setDisable (pairOf s.cc) (bitAt v.toNat 0) t).str c y).st = (s.str c y).st) := by
    intro t ht
    have hcore : ∀ c, t.core c = s.core c := fun c => congrArg (look Core.reset · c) ht
    simpa only [State.str, hcore] using setDisable_str (pairOf s.cc) (bitAt v.toNat 0) t
  refine ⟨setDisable_disable _ _ _, ?_, fun hb => ?_, hcores _ ?_⟩
  · rw [wrLicCtl, setDisable_mem]
    split <;> rfl
  · simp only [wrLicCtl, hb, setDisable_cores]
    rfl
  · split <;> rfl

/-! ## A word of a barrier group -/

/-- Word `w` of a group's configuration and masks written. -/
def groupWord (w : Nat) (v : Word) (g : Group) : Group := if w = 0 then { g with cfg := v } else { g with mask := put g.mask (w - 1) v }

theorem wrBgData_eq (n w : Nat) (v : Word) (s : State) :
    let g := s.group n
    let g' := groupWord w v g
    wrBgData n w v s = s.setGroup n (if g.count = 0 ∧ w ≤ 16 ∧ bitsAt g'.cfg.toNat 17 47 = 0 ∧ gLevel g' ≠ 7 ∧ maskOutside s g' = false ∧
      superBad s g' = false ∧ superTwice s n g' = false then g' else { g with refused := true }) := by
  intro g g'
  have hdef : wrBgData n w v s = if g.count != 0 || decide (16 < w) || bitsAt g'.cfg.toNat 17 47 != 0 || gLevel g' == 7 ||
      maskOutside s g' || superBad s g' || superTwice s n g' then s.setGroup n { g with refused := true } else s.setGroup n g' := rfl
  rw [hdef, apply_ite (s.setGroup n), ← ite_not]
  refine if_congr ?_ rfl rfl
  generalize g' = g'
  simp only [Bool.not_eq_true, Bool.or_eq_false_iff, decide_eq_false_iff_not, not_lt, bne_eq_false_iff_eq, beq_eq_false_iff_ne, and_assoc]

end Sys2Proof.Machine

namespace Sys2Proof.Proofs
open Sys2Proof.Machine Sys2Proof.Claims

section
variable {i : Instr} {n : Nat} {sup : Bool} {f : State → Chk State} {s t : State} (hi : exec i s = regEvent n sup f s)
include hi

theorem happens_of_takes (hp : s.powered = true) (hv : sup = false ∨ s.me.priv = true) (h : f s = .ok t) : Happens i s t := by
  rw [Happens, hi]
  exact regEvent_takes hp hv h

theorem happens_of_refuses {x : Trap} (hp : s.powered = true) (hv : sup = false ∨ s.me.priv = true) (h : f s = .error x) :
    Happens i s (trapHere x 8 s) := by
  rw [Happens, hi]
  exact regEvent_refuses hp hv h

/-- A rule of one check takes or refuses the write by it. -/
theorem takenIf_of_need {b : Bool} {ok : Prop} {cause : Cause} (hp : s.powered = true) (hv : sup = false ∨ s.me.priv = true)
    (h : f s = need b cause >>= fun _ => .ok t) (hb : b = true ↔ ok) : TakenIf i s ok t cause := by
  rw [need_bind] at h
  refine ⟨fun hok => happens_of_takes hi hp hv (h.trans (if_pos (hb.mpr hok))), fun hno => happens_of_refuses hi hp hv (h.trans (if_neg ?_))⟩
  exact fun hok => hno (hb.mp hok)

end

theorem happens_priv {i : Instr} {n : Nat} {f : State → Chk State} {s : State} (hi : exec i s = regEvent n true f s) (hp : s.powered = true)
    (hv : s.me.priv = false) : Happens i s (trapHere ⟨.priv, n⟩ 8 s) := by
  rw [Happens, hi]
  exact regEvent_priv hp hv

section
variable (v : Word) {s : State} (hp : s.powered = true)
include hp

/-- R74: TT_CFG refuses its fields before a table in use. -/
theorem ttCfgWrite_ruled :
    let x := v.toNat
    let slots := bitsAt x 8 10 + 1
    let bounds := x % 16 ≤ 6 ∧ bitsAt x 4 3 ≤ 4 ∧ bitAt x 7 = false ∧ bitsAt x 18 2 = 0 ∧ bitsAt x 32 31 = 0 ∧ 2 ^ Nat.log2 slots = slots ∧
      2 ^ bitsAt x 4 3 ≤ slots ∧ bitsAt x 20 12 * 1024 % 2 ^ (x % 16 + 10) = 0 ∧ bitsAt x 20 12 * 1024 + slots * 2 ^ (x % 16 + 10) ≤ 2 ^ 22
    let kept := x % 2 ^ 63 = s.myCore.ttCfg.toNat % 2 ^ 63 ∨ ∀ e ∈ s.myCore.tt, bitAt e.2.toNat 0 = false
    (bounds → kept → Happens (.ttCfgWrite v) s (s.setMyCore { s.myCore with ttCfg := v })) ∧
      (¬bounds → Happens (.ttCfgWrite v) s (trapHere ⟨.bounds, 0⟩ 8 s)) ∧
      (bounds → ¬kept → Happens (.ttCfgWrite v) s (trapHere ⟨.permission, 0⟩ 8 s)) := by
  intro x slots bounds kept
  have hgo : wrTtCfg s.cc v s = if bounds then if kept then .ok (s.setMyCore { s.myCore with ttCfg := v }) else .error ⟨.permission, 0⟩
      else .error ⟨.bounds, 0⟩ := by
    simp only [wrTtCfg, need_bind]
    refine if_congr ?_ (if_congr ?_ rfl rfl) rfl
    · simp [bounds, slots, x, and_assoc]
    · simp [kept, x, State.myCore]
  refine ⟨fun hb hk => ?_, fun hb => ?_, fun hb hk => ?_⟩
  · exact happens_of_takes exec_ttCfgWrite hp (.inl rfl) (by rw [hgo, if_pos hb, if_pos hk])
  · exact happens_of_refuses exec_ttCfgWrite hp (.inl rfl) (by rw [hgo, if_neg hb])
  · exact happens_of_refuses exec_ttCfgWrite hp (.inl rfl) (by rw [hgo, if_pos hb, if_neg hk])

variable (hv : s.me.priv = true)
include hv

/-- R159: DMR_GLOBAL is refused while a job runs, and with a domain of level 5 that no domain of level 6 holds. -/
theorem dmrGlobalWrite_ruled :
    let x := v.toNat
    let ok := anyJob s = false ∧ ¬(bitAt x 31 = true ∧ bitAt x 32 = false) ∧ bitsAt x 33 31 = 0
    (ok → ∃ t, Happens (.dmrGlobalWrite v) s t ∧ t.dmr = v ∧ t.cores = s.cores ∧ t.mem = s.mem ∧ t.groups = s.groups) ∧
      (¬ok → Happens (.dmrGlobalWrite v) s (trapHere ⟨.permission, 0⟩ 8 s)) := by
  intro x ok
  have hb : (!anyJob s && !(bitAt x 31 && !bitAt x 32) && bitsAt x 33 31 == 0) = true ↔ ok := by simp [ok, and_assoc, imp_iff_not_or]
  obtain ⟨htakes, hrefuses⟩ := takenIf_of_need exec_dmrGlobalWrite hp (.inr hv) (wrDmrGlobal_eq v s) hb
  obtain ⟨_, _, _, hd⟩ := dmrMoved_redated v s
  exact ⟨fun hok => ⟨_, htakes hok, by rw [hd], by rw [hd], by rw [hd], by rw [hd]⟩, hrefuses⟩

end

/-- Settles O42, register by register: a rule of checks takes or refuses, and a rule without one leaves its state. -/
theorem ruledRegisterWritesComplete : Obligations.RuledRegisterWritesComplete := by
  intro v s hp x d k sel supervisor
  refine ⟨fun hv => ?_, ttCfgWrite_ruled v hp, fun hv => ?_⟩
  · simp only [supervisor, List.forall_mem_cons, List.not_mem_nil, false_imp_iff, implies_true, and_true]
    have priv : ∀ {i n f}, exec i s = regEvent n true f s → Happens i s (trapHere ⟨.priv, n⟩ 8 s) := fun hi => happens_priv hi hp hv
    exact ⟨priv exec_dmrGlobalWrite, priv exec_bgDataWrite, priv exec_licCtlWrite, priv exec_bobKeepWrite, priv exec_bobSpillWrite,
      priv exec_bobThrWrite, priv exec_fabRingWrite, priv exec_gsCtlWrite, priv exec_mcgDataWrite, priv exec_fbtDataWrite, priv exec_sltDataWrite,
      priv exec_sltSwap, priv exec_egrLimWrite, priv exec_peerCtxWrite, priv exec_dvfsCtlWrite, priv exec_pwrCapWrite, priv exec_pclsDataWrite,
      priv exec_thCtlWrite, priv exec_trcCtlWrite, priv exec_replayCtlWrite, priv exec_tsyncWrite, priv exec_lstartWrite, priv exec_cpqDataWrite,
      priv exec_mbsDataWrite, priv exec_jflushWrite, priv exec_unmap, priv exec_migrateBegin, priv exec_flushCtx, priv exec_ckptStart,
      priv exec_ckptRestore⟩
  have taken : ∀ {i n f t}, exec i s = regEvent n true f s → f s = .ok t → Happens i s t := fun hi h => happens_of_takes hi hp (.inr hv) h
  have ruled : ∀ {i n f t} {b : Bool} {ok : Prop} {cause}, exec i s = regEvent n true f s → f s = (need b cause >>= fun _ => .ok t) →
      (b = true ↔ ok) → TakenIf i s ok t cause := fun hi h hb => takenIf_of_need hi hp (.inr hv) h hb
  refine ⟨dmrGlobalWrite_ruled v hp hv, ?_, ?_, ?_, ?_, ?_, ?_, ?_, ?_, ?_, ?_, ?_, ?_, ?_, ?_, ?_, ?_, ?_, ?_, ?_, ?_, ?_⟩
  · exact taken exec_bgDataWrite (congrArg Except.ok (wrBgData_eq _ _ v s))
  · exact ⟨_, taken exec_licCtlWrite rfl, wrLicCtl_written v s⟩
  · refine ruled exec_bobKeepWrite (by simp only [wrBobKeep, need_need_bind]; rfl) (by simp [k, d, x])
  · refine ruled exec_bobSpillWrite (by simp only [wrBobSpill, need_need_bind]; rfl) (by simp [k, d, x])
  · exact ruled exec_bobThrWrite rfl (by simp [x])
  · exact ruled exec_fabRingWrite rfl (by simp [x, and_assoc, imp_iff_not_or])
  · exact taken exec_gsCtlWrite rfl
  · exact fun h => taken exec_mcgDataWrite (congrArg Except.ok (if_neg (Bool.eq_false_iff.mp h)))
  · exact fun h => taken exec_mcgDataWrite (congrArg Except.ok (if_pos h))
  · exact ⟨fun h => taken exec_fbtDataWrite (congrArg Except.ok (if_neg (not_not_intro h))),
      fun h => taken exec_fbtDataWrite (congrArg Except.ok (if_pos h))⟩
  · exact taken exec_sltDataWrite rfl
  · exact taken exec_sltSwap rfl
  · exact ruled exec_egrLimWrite rfl (by simp [x])
  · exact ruled exec_peerCtxWrite rfl (by simp [x])
  · exact ruled exec_dvfsCtlWrite rfl (by simp [x])
  · exact ruled exec_pwrCapWrite rfl (by simp [x])
  · exact taken exec_pclsDataWrite rfl
  · exact ruled exec_thCtlWrite rfl (by simp [x])
  · exact ruled exec_trcCtlWrite rfl (by simp [x, trcLt])
  · exact ruled exec_replayCtlWrite rfl (by simp [x, and_assoc])
  · exact taken exec_tsyncWrite rfl

end Sys2Proof.Proofs
end

section
/-! SUPPORT. What accesses to memory leave as it was: everything but memory, the caches, marks, releases and messages beside it, of a core its
streams and registers (R86-R92, R101, R105, R109, R136); and what a clock's change leaves (R118). -/
namespace Sys2Proof.Machine

/-! ## Memory apart -/

/-- The state without memory and what stands beside it: keys of lines, open bytes, caches, marks, releases, the order log, messages, and the host's
copies. -/
def State.apart (s : State) : State :=
  { s with mem := [], crypt := [], openMem := [], towers := [], marks := [], cover := [], errs := [], stamps := [], locs := [], repLog := [],
           outbox := [], linkWait := [], hostDev := [], hostHold := [] }

/-- Steps that each leave the rest of the state leave it together. -/
theorem apart_foldl {α : Type} {f : State → α → State} (h : ∀ s a, (f s a).apart = s.apart) (l : List α) (s : State) : (l.foldl f s).apart = s.apart := by
  induction l generalizing s with
  | nil => rfl
  | cons a l ih => exact (ih _).trans (h s a)

theorem apart_ite {c : Prop} [Decidable c] {a b s : State} (ha : a.apart = s.apart) (hb : b.apart = s.apart) : (if c then a else b).apart = s.apart := by
  split
  · exact ha
  · exact hb

/-! What equals a state apart from memory has its parts. -/

section
variable {s t : State} (h : t.apart = s.apart)
include h
theorem cores_of_apart : t.cores = s.cores := congrArg (·.cores) h
theorem groups_of_apart : t.groups = s.groups := congrArg (·.groups) h
theorem cur_of_apart : t.cur = s.cur := congrArg (·.cur) h
theorem replay_of_apart : t.replay = s.replay := congrArg (·.replay) h
theorem core_of_apart (c : Nat) : t.core c = s.core c := congrArg (look Core.reset · c) (cores_of_apart h)
end

/-! ## The operations over memory -/

@[simp] theorem apart_setTower (s : State) (n : Nat) (k : Tower) : (s.setTower n k).apart = s.apart := rfl
theorem apart_cacheLt (s : State) (w : Who) (n : Nat) (e : Entry) : (cacheLt s w n e).apart = s.apart := rfl
theorem apart_cacheTr (s : State) (t root va : Nat) (x : Nat × Nat) : (cacheTr s t root va x).apart = s.apart := rfl
@[simp] theorem apart_emit (m : Msg) (s : State) : (emit m s).apart = s.apart := by obtain ⟨_, _, h⟩ := emit_eq m s; rw [h]; rfl
@[simp] theorem apart_snoop (line : Nat) (s : State) : (snoop line s).apart = s.apart := by obtain ⟨_, _, _, h⟩ := snoop_eq line s; rw [h]; rfl
@[simp] theorem apart_ringBells (a : Nat) (s : State) : (ringBells a s).apart = s.apart := by unfold ringBells; split <;> rfl
@[simp] theorem apart_clearRels (a n : Nat) (s : State) : (clearRels a n s).apart = s.apart := rfl

theorem apart_repTurn {key agent : Nat} {s t : State} (h : repTurn key agent s = some t) : t.apart = s.apart := by
  obtain ⟨_, _, rfl⟩ := repTurn_eq h
  rfl

@[simp] theorem apart_physWr (s : State) (view : Option (Nat × Nat)) (a : Nat) (b : Byte) : (physWr s view a b).apart = s.apart := by
  unfold physWr
  simp only
  split
  · exact apart_ringBells a s
  · split <;> exact apart_ringBells a s

@[simp] theorem apart_physStore (s : State) (view : Option (Nat × Nat)) (bs : List Byte) (a : Nat) : (physStore s view a bs).apart = s.apart := by
  induction bs generalizing s a with
  | nil => rfl
  | cons b bs ih => exact (ih _ _).trans (apart_physWr s view a b)

@[simp] theorem apart_writeMasked (view : Option (Nat × Nat)) (dirty : Nat) (bs : List Byte) (a k : Nat) (s : State) :
    (writeMasked view dirty a k bs s).apart = s.apart := by
  induction bs generalizing s a k with
  | nil => rfl
  | cons b bs ih =>
    refine (ih _ _ _).trans ?_
    split
    · exact apart_physWr s view a b
    · rfl

@[simp] theorem apart_mergeElem (u : ULine) (line : Nat) (s : State) (e : Nat × Nat) : (mergeElem u line s e).apart = s.apart := by
  unfold mergeElem
  simp only
  split <;> simp

@[simp] theorem apart_mergeLine (t line : Nat) (s : State) : (mergeLine t line s).apart = s.apart := by
  have turn : ((repTurn (ObjKind.line.key line) t s).getD s).apart = s.apart := by
    cases h : repTurn (ObjKind.line.key line) t s with
    | none => rfl
    | some u => exact apart_repTurn h
  unfold mergeLine
  simp only
  split
  · rfl
  · exact (apart_foldl (apart_mergeElem _ line) _ _).trans turn

@[simp] theorem apart_recallLoop (line fuel : Nat) (ts : List Nat) (s : State) : (recallLoop line fuel ts s).apart = s.apart := by
  induction fuel generalizing ts s with
  | zero => rfl
  | succ fuel ih =>
    cases ts with
    | nil => rfl
    | cons t ts => exact (ih _ _).trans (apart_mergeLine _ _ _)

@[simp] theorem apart_recallHolders (line : Nat) (s : State) : (recallHolders line s).apart = s.apart := apart_recallLoop _ _ _ _

@[simp] theorem apart_markOn (t line dirty : Nat) (s : State) : (markOn t line dirty s).apart = s.apart := by
  unfold markOn
  split
  · rfl
  · exact apart_foldl (f := fun s (m : Nat × Nat) => countErr m.1 32 s) (fun _ _ => rfl) _ _

@[simp] theorem apart_writeBack (t line : Nat) (s : State) : (writeBack t line s).apart = s.apart := by
  unfold writeBack
  simp only
  split
  · rfl
  · split
    · rfl
    · refine (apart_markOn t line _ _).trans ?_
      rw [apart_writeMasked, apart_snoop, apart_recallHolders]

@[simp] theorem apart_dropLine (t line : Nat) (s : State) : (dropLine t line s).apart = s.apart := by
  unfold dropLine
  simp only
  split <;> exact apart_writeBack t line s

@[simp] theorem apart_writeBackAll (t : Nat) (s : State) : (writeBackAll t s).apart = s.apart := 
  apart_foldl (f := fun s (e : Nat × GLine) => writeBack t e.1 s) (fun s e => apart_writeBack t e.1 s) _ s
@[simp] theorem apart_dropAll (t : Nat) (s : State) : (dropAll t s).apart = s.apart := 
  apart_foldl (f := fun s (e : Nat × GLine) => dropLine t e.1 s) (fun s e => apart_dropLine t e.1 s) _ s

@[simp] theorem apart_makeRoom (t line : Nat) (has : Bool) (s : State) : (makeRoom t line has s).apart = s.apart := by
  unfold makeRoom
  split <;> simp

@[simp] theorem apart_carryMarks (t line : Nat) (s : State) : (carryMarks t line s).apart = s.apart := by
  unfold carryMarks
  split <;> rfl

@[simp] theorem apart_fillLine (t line : Nat) (view : Option (Nat × Nat)) (s : State) : (fillLine t line view s).apart = s.apart := by
  unfold fillLine
  exact apart_ite (by simp) rfl

@[simp] theorem apart_l2Read (t flat n : Nat) (view : Option (Nat × Nat)) (s : State) : (l2Read t flat n view s).1.apart = s.apart := by
  unfold l2Read
  simp only
  split
  · split <;> simp
  · simp

@[simp] theorem apart_l2Write (t flat : Nat) (bs : List Byte) (view : Option (Nat × Nat)) (s : State) : (l2Write t flat bs view s).apart = s.apart := by
  unfold l2Write
  simp only
  split
  · split <;> simp
  · simp

@[simp] theorem apart_clearMarks (agent t a n : Nat) (s : State) : (clearMarks agent t a n s).apart = s.apart := by
  obtain ⟨_, _, h⟩ := clearMarks_eq agent t a n s
  rw [h]
  rfl

/-! ## Streams and registers -/

/-- A stream but for its release count, its frontier and what its relaxed reads saw. -/
def Strm.still (m : Strm) : Strm := { m with clk := { m.clk with rc := 0, fr := .empty }, seen := [] }

/-- Nothing that an instruction of a stream reads of its own control core, context, stream or group has changed: an access by whatever agent may have moved
a stream's clock and what its relaxed reads saw. -/
structure Steady (s t : State) : Prop where
  cur : t.cur = s.cur
  groups : t.groups = s.groups
  replay : t.replay = s.replay
  ctl : ∀ c l, t.ctlOf c l = s.ctlOf c l
  ltb : ∀ c, (t.core c).ascLtb = (s.core c).ascLtb
  root : ∀ c, (t.core c).ascRoot = (s.core c).ascRoot
  str : ∀ c x, (t.str c x).still = (s.str c x).still

theorem Steady.refl (s : State) : Steady s s := ⟨rfl, rfl, rfl, fun _ _ => rfl, fun _ => rfl, fun _ => rfl, fun _ _ => rfl⟩

theorem Steady.trans {s t u : State} (h : Steady s t) (k : Steady t u) : Steady s u where
  cur := k.cur.trans h.cur
  groups := k.groups.trans h.groups
  replay := k.replay.trans h.replay
  ctl c l := (k.ctl c l).trans (h.ctl c l)
  ltb c := (k.ltb c).trans (h.ltb c)
  root c := (k.root c).trans (h.root c)
  str c x := (k.str c x).trans (h.str c x)

theorem steady_of_apart {s t : State} (h : t.apart = s.apart) : Steady s t where
  cur := cur_of_apart h
  groups := groups_of_apart h
  replay := replay_of_apart h
  ctl c l := congrArg (·.ctl l) (core_of_apart h c)
  ltb c := congrArg (·.ascLtb) (core_of_apart h c)
  root c := congrArg (·.ascRoot) (core_of_apart h c)
  str c x := by rw [State.str, State.str, core_of_apart h c]

/-- A change of one core that spares its control cores, context and streams. -/
theorem steady_setCore {s : State} {c : Nat} {k : Core} (hctl : ∀ l, k.ctl l = (s.core c).ctl l) (hltb : k.ascLtb = (s.core c).ascLtb)
    (hroot : k.ascRoot = (s.core c).ascRoot)
    (hstr : ∀ x, (k.str x).still = ((s.core c).str x).still) : Steady s (s.setCore c k) := by
  have cores : ∀ (P : Core → Core → Prop), P k (s.core c) → (∀ k, P k k) → ∀ j, P ((s.setCore c k).core j) (s.core j) := fun P h hr j => by
    by_cases hj : j = c
    · subst hj
      rwa [core_setCore]
    · rw [core_setCore_other _ _ hj]
      exact hr _
  exact ⟨rfl, rfl, rfl, cores (fun a b => ∀ l, a.ctl l = b.ctl l) hctl fun _ _ => rfl, cores (fun a b => a.ascLtb = b.ascLtb) hltb fun _ => rfl,
    cores (fun a b => a.ascRoot = b.ascRoot) hroot fun _ => rfl,
    cores (fun a b => ∀ x, (a.str x).still = (b.str x).still) hstr fun _ _ => rfl⟩

/-- A stream's clock, or what its relaxed reads saw, changed. -/
theorem steady_setStr {s : State} {c : Nat} {x : Stream} {m : Strm}
    (h : m.still = (s.str c x).still) : Steady s (s.setStr c x m) := by
  refine steady_setCore (fun l => Core.ctl_setStr _ x m l) rfl rfl fun y => ?_
  by_cases hy : y = x
  · subst hy
    rwa [Core.str_setStr]
  · rw [Core.str_setStr_other _ m hy]

section
variable {s t : State} (h : Steady s t)
include h

theorem Steady.me : t.me = s.me := by
  rw [State.me, State.me, h.ctl, State.cc, State.cl, h.cur]
  rfl
theorem Steady.strJob (c : Nat) (x : Stream) : (t.str c x).job = (s.str c x).job := (congrArg Strm.job (h.str c x) :)
theorem Steady.strViews (c : Nat) (x : Stream) : (t.str c x).clk.views = (s.str c x).clk.views := (congrArg (fun m : Strm => m.clk.views) (h.str c x) :)
theorem Steady.strClr (c : Nat) (x : Stream) : (t.str c x).clk.clr = (s.str c x).clk.clr := (congrArg (fun m : Strm => m.clk.clr) (h.str c x) :)
theorem Steady.strMt (c : Nat) (x : Stream) : (t.str c x).mt = (s.str c x).mt := (congrArg Strm.mt (h.str c x) :)
theorem Steady.group (n : Nat) : t.group n = s.group n := congrArg (look Group.reset · n) h.groups
/-- The executing control core accesses memory as before. -/
theorem Steady.who : t.who = s.who := by
  have hc : t.cc = s.cc := congrArg Prod.fst h.cur
  have hx := h.ctl s.cc (streamLeader s.cur.2)
  have hm := h.strMt s.cc s.cur.2
  simp only [State.ctlOf] at hx
  simp only [State.str] at hm
  simp only [State.who, whoStream, hc, h.cur, h.ltb, h.root, hx, hm]
end

theorem Steady.foldl {α : Type} {f : State → α → State} (h : ∀ s a, Steady s (f s a)) (l : List α) (s : State) : Steady s (l.foldl f s) := by
  induction l generalizing s with
  | nil => exact .refl s
  | cons a l ih => exact (h s a).trans (ih _)

/-- The change of an agent's clock (R118). -/
theorem steady_setClock (s : State) (agent : Nat) (k : Clock) : Steady s (setClock s agent k) := by
  unfold setClock
  split
  · exact steady_setStr rfl
  · simp only
    split_ifs <;> exact ⟨rfl, rfl, rfl, fun _ _ => rfl, fun _ => rfl, fun _ => rfl, fun _ _ => rfl⟩

/-! ## Accesses that leave every stream steady -/

theorem steady_go_bind {α β : Type} {m : M α} {f : α → M β} {s : State} (hm : Steady s (m.go s).2) (hf : ∀ a t, Steady t ((f a).go t).2) :
    Steady s ((m >>= f).go s).2 := by
  rw [go_bind]
  cases hg : m.go s with
  | mk r t =>
    rw [hg] at hm
    cases r with
    | ok a => exact hm.trans (hf a t)
    | error x => exact hm

theorem steady_of_go_eq {α : Type} {m : M α} {s t : State} {r : Except Stop α} (hm : Steady s (m.go s).2) (h : m.go s = (r, t)) : Steady s t := by
  rwa [h] at hm

theorem steady_go_ite {α : Type} {p : Prop} [Decidable p] {m n : M α} {s : State} (hm : Steady s (m.go s).2) (hn : Steady s (n.go s).2) :
    Steady s ((if p then m else n).go s).2 := by
  split
  · exact hm
  · exact hn

theorem steady_readLoc (w : Who) (l : Loc) (n : Nat) (s : State) : Steady s ((readLoc w l n).go s).2 := by
  have read : ∀ s : State, Steady s ((do
      let s ← get
      needM (rangeOk s w.tower l.flat n) .uncorrectable (tinfo l.p.addr l.p.space 0)
      if l.p.space ≤ 1 then return memBytes s.mem l.flat n
      else
        let (s, bs) := l2Read w.tower l.flat n l.view s
        set s
        return bs : M (List Byte)).go s).2 := fun s => by
    rw [go_get_bind]
    cases rangeOk s w.tower l.flat n with
    | false => exact .refl s
    | true =>
      rw [go_needM_bind]
      split
      · exact .refl s
      · exact steady_of_apart (apart_l2Read w.tower l.flat n l.view s)
  unfold readLoc
  exact steady_go_ite (steady_go_bind (steady_of_apart (by simp [apart_mergeLine])) fun _ t => read t) (read s)

theorem steady_writeLoc (w : Who) (l : Loc) (bs : List Byte) (s : State) : Steady s ((writeLoc w l bs).go s).2 :=
  steady_of_apart ((apart_clearMarks _ _ _ _ _).trans (apart_ite rfl (apart_l2Write _ _ _ _ _)))

theorem steady_elemBytes (w : Who) (l : Loc) (x : Nat) (s : State) : Steady s ((elemBytes w l x).go s).2 := by
  unfold elemBytes
  split
  · exact .refl s
  · exact steady_go_bind (steady_readLoc w l 1 s) fun _ t => .refl t

theorem steady_posted (l : Loc) (bs : List Byte) (rel : Bool) (s : State) : Steady s ((posted l bs rel).go s).2 := by
  unfold posted
  split
  · exact steady_of_apart (apart_ite (apart_emit _ s) rfl)
  · exact .refl s

theorem steady_landOne (c : Nat) (r : Result) (s : State) : Steady s (landOne c r s) := by
  obtain ⟨n, d, lat, pin, iss⟩ := r
  cases d with
  | acc off bs => exact steady_of_apart (apart_clearMarks _ _ _ _ _)
  | mem l x => exact steady_go_bind (steady_elemBytes _ _ x s) fun bs t => steady_go_bind (steady_writeLoc _ _ bs t) fun _ u => steady_posted _ bs false u
  | flags ve b => cases ve <;> exact steady_setCore (fun l => by cases l <;> rfl) rfl rfl fun _ => rfl
  | rng ve g => cases ve <;> exact steady_setCore (fun l => by cases l <;> rfl) rfl rfl fun _ => rfl
  | tag u t => exact steady_setCore (fun l => by cases l <;> rfl) rfl rfl fun _ => rfl
  | amax k u => exact steady_setCore (fun l => by cases l <;> rfl) rfl rfl fun _ => rfl

theorem steady_landEng (c n : Nat) (s : State) : Steady s (landEng c n s) := by
  unfold landEng
  simp only
  split
  · exact .refl s
  · refine Steady.trans ?_ (Steady.foldl (fun s r => steady_landOne c r s) _ _)
    exact steady_setCore (fun l => by cases l <;> rfl) rfl rfl fun _ => rfl

theorem steady_pastDump (w : Who) (l : Loc) (s : State) : Steady s ((pastDump w l).go s).2 := by
  unfold pastDump
  split
  · rw [go_get_bind]
    split
    · exact .refl s
    · rw [go_get_bind]
      split
      · exact steady_landEng _ _ s
      · exact .refl s
  · exact .refl s

/-- Steps 10 to 12 of R35, where they answer a location. -/
theorem steady_of_resolve {w : Who} {p : Place} {a : Acc} {s t : State} {l : Loc} (h : (resolve w p a).go s = (.ok l, t)) : Steady s t := by
  unfold resolve at h
  rw [go_get_bind] at h
  simp only at h
  have past : ∀ {l' : Loc} {u : State}, (pastDump w l').go u = (.ok l, t) → Steady u t := fun h => steady_of_go_eq (steady_pastDump w _ _) h
  split at h
  · exact past h
  · split at h
    · exact past h
    · split at h
      · exact past h
      · have h := go_unless_waitM_eq_ok h
        split at h
        · cases h
        · rw [go_set_bind] at h
          obtain ⟨_, u, hu, h⟩ := go_bind_eq_ok h
          obtain ⟨-, rfl⟩ := go_needM_eq_ok hu
          obtain ⟨_, v, hv, h⟩ := go_bind_eq_ok h
          obtain ⟨-, rfl⟩ := go_needM_eq_ok hv
          clear hu hv
          have h := past (go_unless_waitM_eq_ok h)
          exact (steady_of_apart (apart_cacheTr s w.tower w.root p.addr _)).trans h

/-- A location found through a handle. -/
theorem steady_of_locate {w : Who} {h : Handle} {c : Coord} {a : Acc} {opq : Bool} {okTag spaces : Nat → Bool} {s t : State} {l : Loc}
    (hl : (locate w h c a opq okTag spaces).go s = (.ok l, t)) : Steady s t := by
  unfold locate at hl
  rw [go_get_bind] at hl
  obtain ⟨p, u, hu, hl'⟩ := go_bind_eq_ok hl
  obtain ⟨-, rfl⟩ := go_liftC_eq_ok hu
  rw [go_modify_bind] at hl'
  refine (steady_of_apart (apart_cacheLt u w p.lt p.entry)).trans ?_
  split at hl'
  · cases hl'
    exact .refl _
  · exact steady_of_resolve hl'

/-- An access to HOST that passes its gate leaves the state, or notes the line as held (R143, R403). -/
theorem steady_hostGate (w : Who) (l : Loc) (atomic reply : Bool) (s : State) : Steady s ((hostGate w l atomic reply).go s).2 := by
  have hold : Steady s (holdHost l.flat s) := steady_of_apart (apart_ite rfl rfl)
  unfold hostGate
  rw [go_get_bind]
  simp only
  split
  · exact .refl s
  split
  · split
    · exact steady_go_ite (.refl s) (.refl s)
    · exact steady_go_ite (.refl s) (steady_go_ite (.refl s) (.refl s))
    · exact .refl s
    · split
      · split
        · exact hold
        · exact .refl s
        · exact .refl s
      · exact steady_go_ite (.refl s) (.refl s)
  · split
    · exact .refl s
    · split
      · exact .refl s
      · split
        · split <;> exact .refl s
        · exact .refl s
      · exact .refl s

theorem steady_performAcquire (w : Who) (e : Scope) (s : State) : Steady s ((performAcquire w e).go s).2 :=
  steady_go_ite (steady_of_apart (apart_dropAll w.tower s)) (.refl s)

theorem steady_repTurn {key agent : Nat} {s t : State} (h : repTurn key agent s = some t) : Steady s t := steady_of_apart (apart_repTurn h)

/-- The turn of an act in replay: the order log and who acted last. -/
theorem steady_repM (k : ObjKind) (n agent : Nat) (act : Bool) (s : State) : Steady s ((repM k n agent act).go s).2 := by
  unfold repM
  rw [go_get_bind]
  cases act with
  | false =>
    cases h : repTurn (k.key n) agent s with
    | none => simpa [h] using Steady.refl s
    | some t => simpa [h] using steady_repTurn h
  | true =>
    cases h : repTurn (k.key n) agent s with
    | none => simpa [h, actTurn] using Steady.refl s
    | some t => 
      have : Steady t (t.actBy (k.key n) agent) := ⟨rfl, rfl, rfl, fun _ _ => rfl, fun _ => rfl, fun _ => rfl, fun _ _ => rfl⟩
      simpa [h, actTurn] using (steady_repTurn h).trans this

theorem steady_acquireRels (agent : Nat) (e : Scope) (rels : List Rel) (s : State) : Steady s (acquireRels agent e rels s) := steady_setClock s agent _

theorem steady_takeRels (agent : Nat) (o : Ord) (e : Scope) (rs : List Rel) (s : State) : Steady s ((takeRels agent o e rs).go s).2 := by
  unfold takeRels
  rw [go_modify]
  split
  · exact steady_acquireRels agent e rs s
  · split
    · exact .refl s
    · unfold saw mapStr
      split
      · exact steady_setStr rfl
      · exact .refl s

/-- An ordered load (R218). -/
theorem steady_loadOrd (w : Who) (l : Loc) (o : Ord) (e : Scope) (s : State) : Steady s ((loadOrd w l o e).go s).2 := by
  have read : ∀ s : State, Steady s ((do
      repM .loc l.flat w.agent false
      let bs ← readLoc w l l.p.bytes
      takeRels w.agent o e (relsAt (← get) w.tower l.flat)
      return elemCode l.p bs : M Nat).go s).2 := fun s =>
    steady_go_bind (steady_repM _ _ _ _ s) fun _ t => steady_go_bind (steady_readLoc w l _ t) fun _ u => by
      rw [go_get_bind]
      exact steady_go_bind (steady_takeRels _ _ _ _ u) fun _ v => .refl v
  have fresh : ∀ s : State, Steady s (freshLine w.tower l.flat s) := fun s => steady_of_apart (apart_ite (apart_dropLine _ _ s) rfl)
  have wide : ∀ s : State, Steady s ((if wideScope e l then modify (freshLine w.tower l.flat) >>= fun _ => _ else _ : M Nat).go s).2 := fun s =>
    steady_go_ite (steady_go_bind (fresh s) fun _ t => read t) (read s)
  unfold loadOrd
  exact steady_go_bind (steady_hostGate w l false true s) fun _ t =>
    steady_go_ite (steady_go_bind (steady_performAcquire w e t) fun _ u => wide u) (wide t)

end Sys2Proof.Machine
end

section
/-! SUPPORT. What the change of an agent's clock leaves, and the gusset registers of a pair: claimed, read, written (R118, R134, R135, R228). -/
namespace Sys2Proof.Machine
open Claims

/-! ## Clocks (R118) -/

theorem setClock_pairs (s : State) (agent : Nat) (k : Clock) : (setClock s agent k).pairs = s.pairs := by
  unfold setClock
  simp only
  split_ifs <;> rfl
/-- Without record or replay no act awaits its turn (R437). -/
theorem go_repM_free {s : State} (k : ObjKind) (n agent : Nat) (h : repMode s = 0) : (repM k n agent false).go s = (.ok (), s) := by
  unfold repM
  rw [go_get_bind, if_neg Bool.false_ne_true, repTurn_free _ _ h]
  rfl

/-! ## Gussets -/

/-- The gussets of the executing core's pair are `f`, and `s`'s memory and executing stream stand. -/
structure GussetsAre (f : Nat → Word) (s u : State) : Prop where
  cur : u.cur = s.cur
  vals : ∀ j, gussetAt u j = f j
  mem : u.mem = s.mem
  replay : u.replay = s.replay

section
variable {f : Nat → Word} {s u : State}

/-- What leaves pairs, memory and the executing stream leaves the gussets. -/
theorem GussetsAre.of_pairs {v : State} (h : GussetsAre f s u) (hcur : v.cur = u.cur) (hpairs : v.pairs = u.pairs) (hmem : v.mem = u.mem)
    (hrep : v.replay = u.replay) : GussetsAre f s v where
  cur := hcur.trans h.cur
  vals j := by
    rw [← h.vals j, gussetAt, gussetAt, State.pair, State.pair, hpairs, State.cc, State.cc, hcur]
  mem := hmem.trans h.mem
  replay := hrep.trans h.replay

theorem GussetsAre.setClock (h : GussetsAre f s u) (agent : Nat) (k : Clock) : GussetsAre f s (setClock u agent k) :=
  h.of_pairs (steady_setClock u agent k).cur (setClock_pairs u agent k) (setClock_mem u agent k) (steady_setClock u agent k).replay

/-- A new register file of the pair. -/
theorem GussetsAre.setPair (h : GussetsAre f s u) {q : Pair} {f' : Nat → Word} (hq : ∀ j, (look ((0 : Word), none) q.g j).1 = f' j) :
    GussetsAre f' s (u.setPair (pairOf u.cc) q) where
  cur := h.cur
  vals j := by
    rw [← hq j, gussetAt]
    exact congrArg (fun p : Pair => (look ((0 : Word), none) p.g j).1) (look_put_same _ _ _ _)
  mem := h.mem
  replay := h.replay

/-- The acquiring read (R134). -/
theorem GussetsAre.read (h : GussetsAre f s u) (g : Nat) : ∃ v, (gussetRead g).go u = (.ok (f g), v) ∧ GussetsAre f s v := by
  have hg := h.vals g
  unfold gussetAt at hg
  unfold gussetRead
  rw [go_get_bind]
  cases hl : look ((0 : Word), none) (u.pair (pairOf u.cc)).g g with
  | mk x p =>
    rw [hl] at hg
    cases p with
    | none => exact ⟨u, by rw [← hg]; rfl, h⟩
    | some p => exact ⟨_, by rw [← hg]; rfl, h.setClock _ _⟩

/-- The releasing write (R134). -/
theorem GussetsAre.write (h : GussetsAre f s u) (g : Nat) (x : Word) :
    ∃ v, (gussetWrite g x).go u = (.ok (), v) ∧ GussetsAre (fun j => if j = g then x else f j) s v := by
  have hr := h.setClock u.myAgent (clockOf u u.myAgent 0).bump
  have vals : ∀ (p : Pass) j, (look ((0 : Word), none) (put ((releasePass u.myAgent u).1.pair (pairOf (releasePass u.myAgent u).1.cc)).g g (x, some p)) j).1 =
      if j = g then x else f j := fun p j => by
    split
    · next hj => rw [hj, look_put_same]
    · next hj =>
      rw [look_put_other _ _ _ hj]
      exact hr.vals j
  exact ⟨_, rfl, hr.setPair (vals _)⟩

/-- The lapse of ownership leaves the registers (R135). -/
theorem GussetsAre.lapse (h : GussetsAre f s u) : GussetsAre f s (lapse u.cc u) := by
  unfold Machine.lapse
  simp only
  split
  · exact h.setPair h.vals
  · exact h
end

/-- What the gussets hold for the context that owns them or is about to: nothing where none owns them. -/
def ownGussets (s : State) (j : Nat) : Word := if (s.pair (pairOf s.cc)).ownV then gussetAt s j else 0

section
variable {s : State}

/-- A claim, or the access of the owner (R135). -/
theorem claimGussets_passes (h : (s.pair (pairOf s.cc)).ownV = false ∨ (s.pair (pairOf s.cc)).ownCtx = ctxId s.myCore.ascRoot.toNat) :
    ∃ u, claimGussets.go s = (.ok (), u) ∧ GussetsAre (ownGussets s) s u := by
  have start : GussetsAre (gussetAt s) s s := ⟨rfl, fun _ => rfl, rfl, rfl⟩
  unfold claimGussets ownGussets
  rw [go_get_bind]
  simp only
  cases hv : (s.pair (pairOf s.cc)).ownV with
  | false => exact ⟨_, rfl, start.setPair fun _ => rfl⟩
  | true =>
    have hc := h.resolve_left (by simp [hv])
    exact ⟨s, by simp [hc], start⟩

/-- Another context is refused (R135). -/
theorem claimGussets_refuses (hv : (s.pair (pairOf s.cc)).ownV = true) (h : (s.pair (pairOf s.cc)).ownCtx ≠ ctxId s.myCore.ascRoot.toNat) :
    claimGussets.go s = (.error (.trap ⟨.permission, 0⟩), s) := by
  unfold claimGussets
  rw [go_get_bind]
  simp only [hv, beq_eq_false_iff_ne.mpr h]
  rfl

theorem gussetBody_refused (hv : (s.pair (pairOf s.cc)).ownV = true) (h : (s.pair (pairOf s.cc)).ownCtx ≠ ctxId s.myCore.ascRoot.toNat) (g : Nat)
    (read : Bool) (f : Word → Option Word) : (gussetBody g read f).go s = (.error (.trap ⟨.permission, 0⟩), s) :=
  go_bind_error (claimGussets_refuses hv h)

/-- A gusset access of the owner or of a claimer: what it reads, and the registers it leaves. -/
theorem gussetBody_go (h : (s.pair (pairOf s.cc)).ownV = false ∨ (s.pair (pairOf s.cc)).ownCtx = ctxId s.myCore.ascRoot.toNat)
    (hrep : repMode s = 0) (g : Nat) (read : Bool) (f : Word → Option Word) :
    let old := if read then ownGussets s g else 0
    ∃ u, (gussetBody g read f).go s = (.ok old, u) ∧
      GussetsAre (match f old with
        | some v => fun j => if j = g then v else ownGussets s j
        | none => ownGussets s) s u := by
  intro old
  obtain ⟨u, hu, h1⟩ := claimGussets_passes h
  have hfree : repMode u = 0 := (congrArg (·.toNat % 4) h1.replay).trans hrep
  -- the write, if there is one, and the lapse
  have after : ∀ v x, GussetsAre (ownGussets s) s v → ∃ u, (do
      match f x with
      | some y => gussetWrite g y
      | none => pure ()
      modify fun s => lapse s.cc s
      return x : M Word).go v = (.ok x, u) ∧ GussetsAre (match f x with
        | some y => fun j => if j = g then y else ownGussets s j
        | none => ownGussets s) s u := fun v x h2 => by
    cases f x with
    | none => exact ⟨_, rfl, h2.lapse⟩
    | some y =>
      obtain ⟨w, hw, h3⟩ := h2.write g y
      exact ⟨_, go_bind_ok hw, h3.lapse⟩
  unfold gussetBody
  rw [go_bind_ok hu, go_get_bind, go_bind_ok (go_repM_free _ _ _ hfree)]
  cases read with
  | false => exact after u 0 h1
  | true =>
    obtain ⟨v, hv, h2⟩ := h1.read g
    obtain ⟨w, hw⟩ := after v (ownGussets s g) h2
    exact ⟨w, (go_bind_ok hv).trans hw.1, hw.2⟩
end

end Sys2Proof.Machine

namespace Sys2Proof.Proofs
open Sys2Proof.Machine Sys2Proof.Claims

section
variable {i : Instr} {gd : Guard} {s : State} {g : Nat} {read : Bool} {f : State → Word → Option Word} {old : Word} (hr : Ready gd s)
include hr

/-- The frame of a form that sets no register. -/
theorem gussetEnds_of_body {k : Nat → Word} (hi : exec i = control gd 4 false fun s => Eff.ofM (do let _ ← gussetBody g read (f s)) s)
    (h : ∃ u, (gussetBody g read (f s)).go s = (.ok old, u) ∧ GussetsAre k s u) : GussetEnds i s none k := by
  obtain ⟨u, hu, hk⟩ := h
  refine ⟨u, hk.cur, hk.vals, fun a => by rw [hk.mem], completes_of_done hi hr (ofM_done ?_)⟩
  rw [go_bind_ok hu, go_pure]

/-- The frame of a form that sets its destination to the value read. -/
theorem gussetEnds_of_read {k : Nat → Word} (d : SReg)
    (hi : exec i = control gd 4 false fun s => Eff.ofM (do let v ← gussetBody g read (f s); modify (·.wrS d v)) s)
    (h : ∃ u, (gussetBody g read (f s)).go s = (.ok old, u) ∧ GussetsAre k s u) : GussetEnds i s (some (d, old)) k := by
  obtain ⟨u, hu, hk⟩ := h
  refine ⟨u, hk.cur, hk.vals, fun a => by rw [hk.mem], completes_of_done hi hr (ofM_done ?_)⟩
  rw [go_bind_ok hu, go_modify]

theorem trapsHere_of_body (hi : exec i = control gd 4 false fun s => Eff.ofM (do let _ ← gussetBody g read (f s)) s)
    (h : (gussetBody g read (f s)).go s = (.error (.trap ⟨.permission, 0⟩), s)) : TrapsHere i 4 s .permission 0 :=
  trapsHere_of_trap hi hr (ofM_trap (go_bind_error h))

theorem trapsHere_of_read (d : SReg)
    (hi : exec i = control gd 4 false fun s => Eff.ofM (do let v ← gussetBody g read (f s); modify (·.wrS d v)) s)
    (h : (gussetBody g read (f s)).go s = (.error (.trap ⟨.permission, 0⟩), s)) : TrapsHere i 4 s .permission 0 :=
  trapsHere_of_trap hi hr (ofM_trap (go_bind_error h))

end

/-- Settles O23: the claim passes for the owner or a claimer, and each form is its read and its write. -/
theorem gussetFormsComplete : Obligations.GussetFormsComplete := by
  intro gd d g b s hr hrep p mine old set
  refine ⟨fun h => ?_, fun hv hc => ?_⟩
  · have body := fun read f => gussetBody_go h hrep g.val read f
    refine ⟨gussetEnds_of_read hr d (f := fun _ _ => none) rfl (body true _), gussetEnds_of_body hr (f := fun s _ => some (s.rdS b)) rfl (body false _),
      gussetEnds_of_read hr d (f := fun s _ => some (s.rdS b)) rfl (body true _),
      gussetEnds_of_read hr d (f := fun s o => some (o + s.rdS b)) rfl (body true _), ?_⟩
    refine gussetEnds_of_read hr d (f := fun s o => if o = s.rdS d then some (s.rdS b) else none) rfl ?_
    obtain ⟨u, hu, hk⟩ := body true fun o => if o = s.rdS d then some (s.rdS b) else none
    refine ⟨u, hu, ?_⟩
    by_cases heq : old g.val = s.rdS d
    · rw [if_pos heq]
      rwa [show (if true then ownGussets s g.val else 0) = old g.val from rfl, if_pos heq] at hk
    · rw [if_neg heq]
      rwa [show (if true then ownGussets s g.val else 0) = old g.val from rfl, if_neg heq] at hk
  · have refused := gussetBody_refused hv hc g.val
    simp only [List.forall_mem_cons, List.not_mem_nil, false_imp_iff, implies_true, and_true]
    exact ⟨trapsHere_of_read hr d (f := fun _ _ => none) rfl (refused true _), trapsHere_of_body hr (f := fun s _ => some (s.rdS b)) rfl (refused false _),
      trapsHere_of_read hr d (f := fun s _ => some (s.rdS b)) rfl (refused true _),
      trapsHere_of_read hr d (f := fun s o => some (o + s.rdS b)) rfl (refused true _),
      trapsHere_of_read hr d (f := fun s o => if o = s.rdS d then some (s.rdS b) else none) rfl (refused true _)⟩

end Sys2Proof.Proofs
end

section
/-! SUPPORT. Semaphores, token FIFOs, and the two halves of a barrier: which instructions take, which wait, and what each changes (R128, R129, R161,
R164, R229-R231). -/
namespace Sys2Proof.Machine
open Claims

/-! ## Semaphores and token FIFOs as other parts change -/

theorem core_setStr_sem (s : State) (c : Nat) (x : Stream) (m : Strm) (j : Nat) : ((s.setStr c x m).core j).sem = (s.core j).sem := by
  by_cases h : j = c
  · subst h
    rw [State.setStr, core_setCore]
    rfl
  · rw [State.setStr, core_setCore_other _ _ h]
theorem core_setStr_tk (s : State) (c : Nat) (x : Stream) (m : Strm) (j : Nat) : ((s.setStr c x m).core j).tk = (s.core j).tk := by
  by_cases h : j = c
  · subst h
    rw [State.setStr, core_setCore]
    rfl
  · rw [State.setStr, core_setCore_other _ _ h]

@[simp] theorem semOf_setClock (s : State) (agent : Nat) (k : Clock) (c j : Nat) : semOf (setClock s agent k) c j = semOf s c j := by
  unfold setClock
  simp only
  split_ifs
  · exact congrArg (look _ · j) (core_setStr_sem s _ _ _ c)
  all_goals rfl
@[simp] theorem tokens_setClock (s : State) (agent : Nat) (k : Clock) (c j : Nat) : tokens (setClock s agent k) c j = tokens s c j := by
  unfold setClock
  simp only
  split_ifs
  · exact congrArg (look _ · j) (core_setStr_tk s _ _ _ c)
  all_goals rfl

theorem steady_actBy (s : State) (key agent : Nat) : Steady s (s.actBy key agent) :=
  ⟨rfl, rfl, rfl, fun _ _ => rfl, fun _ => rfl, fun _ => rfl, fun _ _ => rfl⟩

/-- Without record or replay an act is noted, and no more (R432, R437). -/
theorem actTurn_free {s : State} (key agent : Nat) (h : repMode s = 0) : actTurn key agent s = some (s.actBy key agent) := by
  rw [actTurn, repTurn_free _ _ h]
  rfl

/-- Semaphore `k` of core `c` has the count `v`, and every other semaphore and every token FIFO, memory and the streams stand. -/
structure SemSet (c k v : Nat) (s u : State) : Prop where
  val : (semOf u c k).1 = v
  others : ∀ j, j ≠ k → semOf u c j = semOf s c j
  toks : ∀ j, tokens u c j = tokens s c j
  mem : u.mem = s.mem
  steady : Steady s u

/-- Token FIFO `k` of core `c` holds `l`, and the rest stands. -/
structure TokensSet (c k : Nat) (l : List Pass) (s u : State) : Prop where
  val : tokens u c k = l
  others : ∀ j, j ≠ k → tokens u c j = tokens s c j
  sems : ∀ j, semOf u c j = semOf s c j
  mem : u.mem = s.mem
  steady : Steady s u

/-- An agent's clock has moved and its act been noted: semaphores, token FIFOs, memory and the streams stand. -/
structure Noted (s t : State) : Prop where
  sems : ∀ c j, semOf t c j = semOf s c j
  toks : ∀ c j, tokens t c j = tokens s c j
  mem : t.mem = s.mem
  steady : Steady s t

theorem noted_setClock (s : State) (key agent : Nat) (k : Clock) : Noted s (setClock (s.actBy key agent) agent k) where
  sems c j := semOf_setClock _ _ _ c j
  toks c j := tokens_setClock _ _ _ c j
  mem := setClock_mem _ _ _
  steady := (steady_actBy s key agent).trans (steady_setClock _ _ _)

/-- What a release side hands on is its own (R118). -/
theorem handOn_noted (s : State) (key agent : Nat) : ∃ t p, handOn agent none (s.actBy key agent) = (t, p) ∧ p.agent = agent ∧ Noted s t :=
  ⟨_, _, rfl, rfl, noted_setClock s key agent _⟩

section
variable {s t : State} {c k : Nat}

theorem Noted.setSem (h : Noted s t) (v : Nat) (f : Frontier) : SemSet c k v s (t.setCore c { t.core c with sem := put (t.core c).sem k (v, f) }) where
  val := by rw [semOf, core_setCore, look_put_same]
  others j hj := by rw [semOf, core_setCore, look_put_other _ _ _ hj, ← h.sems c j, semOf]
  toks j := by rw [← h.toks c j, tokens, tokens, core_setCore]
  mem := h.mem
  steady := h.steady.trans (steady_setCore (fun l => by cases l <;> rfl) rfl rfl fun _ => rfl)

theorem Noted.setTokens (h : Noted s t) (l : List Pass) : TokensSet c k l s (t.setCore c { t.core c with tk := put (t.core c).tk k l }) where
  val := by rw [tokens, core_setCore, look_put_same]
  others j hj := by rw [tokens, core_setCore, look_put_other _ _ _ hj, ← h.toks c j, tokens]
  sems j := by rw [← h.sems c j, semOf, semOf, core_setCore]
  mem := h.mem
  steady := h.steady.trans (steady_setCore (fun l => by cases l <;> rfl) rfl rfl fun _ => rfl)

variable {agent : Nat} (h : repMode s = 0)
include h

/-- A signal that has room (R129). -/
theorem semSignal_free {n : Nat} (hn : (semOf s c k).1 + n ≤ 65535) :
    ∃ u, semSignal c agent k n s = some u ∧ SemSet c k ((semOf s c k).1 + n) s u := by
  obtain ⟨t, p, hp, -, ht⟩ := handOn_noted s (ObjKind.sem.key (c * 32 + k)) agent
  unfold semSignal
  rw [if_neg (by omega), actTurn_free _ _ h]
  simp only [bind, Option.bind, hp, ht.sems]
  exact ⟨_, rfl, ht.setSem _ _⟩

/-- A wait that finds its count (R129). -/
theorem semTake_free {n : Nat} (hn : n ≤ (semOf s c k).1) : ∃ u, semTake c agent k n s = some u ∧ SemSet c k ((semOf s c k).1 - n) s u := by
  unfold semTake
  simp only
  rw [if_neg (by omega), actTurn_free _ _ h]
  exact ⟨_, rfl, (noted_setClock s _ agent _).setSem _ _⟩

/-- A push that has room (R128). -/
theorem tokenPush_free (hl : (tokens s c k).length < 8) :
    ∃ u p, tokenPush c agent k s = some u ∧ p.agent = agent ∧ TokensSet c k (tokens s c k ++ [p]) s u := by
  obtain ⟨t, p, hp, hagent, ht⟩ := handOn_noted s (ObjKind.tok.key (c * 8 + k)) agent
  unfold tokenPush
  rw [if_neg (by omega), actTurn_free _ _ h]
  simp only [bind, Option.bind, hp, ht.toks]
  exact ⟨_, p, rfl, hagent, ht.setTokens _⟩

/-- A pop that finds a token (R128): the token is gone before its pass is taken. -/
theorem tokenPop_free {p : Pass} {l : List Pass} (hl : tokens s c k = p :: l) : ∃ u, tokenPop c agent k s = some u ∧ TokensSet c k l s u := by
  have act : Noted s (s.actBy (ObjKind.tok.key (c * 8 + k)) agent) := ⟨fun _ _ => rfl, fun _ _ => rfl, rfl, steady_actBy _ _ _⟩
  obtain ⟨hval, hothers, hsems, hmem, hsteady⟩ := act.setTokens (c := c) (k := k) l
  unfold tokenPop
  rw [hl]
  simp only
  rw [actTurn_free _ _ h]
  exact ⟨_, rfl, (tokens_setClock _ _ _ _ _).trans hval, fun j hj => (tokens_setClock _ _ _ _ _).trans (hothers j hj),
    fun j => (semOf_setClock _ _ _ _ _).trans (hsems j), (setClock_mem _ _ _).trans hmem, hsteady.trans (steady_setClock _ _ _)⟩

omit h

theorem semSignal_full {n : Nat} (hn : 65535 < (semOf s c k).1 + n) : semSignal c agent k n s = none := if_pos hn
theorem semTake_short {n : Nat} (hn : (semOf s c k).1 < n) : semTake c agent k n s = none := if_pos hn
theorem tokenPush_full (hl : 8 ≤ (tokens s c k).length) : tokenPush c agent k s = none := if_pos hl
theorem tokenPop_empty (hl : tokens s c k = []) : tokenPop c agent k s = none := by
  unfold tokenPop
  rw [hl]
end

/-! ## Barriers: arrive (R161, R164) -/

/-- An effect that waits, with nothing changed before. -/
theorem waitsHere_of_stay {i : Instr} {gd : Guard} {len : Nat} {body : State → Eff} {s t : State} {w : Wait}
    (hi : exec i = control gd len false body) (hr : Ready gd s) (h : body s = .stay t w) : exec i s = .next (waitOn w t) := by
  obtain ⟨hp, hg, -⟩ := hr
  rw [hi, control_runs gd len false body s hp hg (.inl rfl), h]
  rfl

theorem ofM_stay {f : M Unit} {s t : State} {w : Wait} (h : f.go s = (.error (.wait w), t)) : Eff.ofM f s = .stay t w := by simp only [Eff.ofM, h]

section
variable {n half : Nat} {s : State}

theorem inHalf_waiting {t : Nat} (hst : s.myStr.st = .wait) (hw : s.myStr.wait = .barrier n half t) : inHalf s n half = true := by
  simp [inHalf, hst, hw]

/-- The check of a half passes for a member, and for one that waits in the half (R164). -/
theorem needMember_passes (h : inHalf s n half = true ∨ gEnable (s.group n) = true ∧ gMember (s.group n) s.cc s.cl = true) :
    (needMember n half).go s = (.ok (), s) := by
  have hb : (inHalf s n half || gEnable (s.group n) && gMember (s.group n) s.cc s.cl) = true := by
    simpa only [Bool.or_eq_true, Bool.and_eq_true] using h
  unfold needMember
  rw [go_get_bind, hb]
  rfl

/-- Another core's trap (R164). -/
theorem needMember_refuses (h : ¬(gEnable (s.group n) = true ∧ gMember (s.group n) s.cc s.cl = true)) (hw : s.myStr.st ≠ .wait) :
    (needMember n half).go s = (.error (.trap ⟨.permission, 0⟩), s) := by
  have hb : (inHalf s n half || gEnable (s.group n) && gMember (s.group n) s.cc s.cl) = false := by
    rw [← Bool.and_eq_true] at h
    have hst : (s.myStr.st == .wait) = false := beq_eq_false_iff_ne.mpr hw
    simp only [inHalf, hst, Bool.false_and, Bool.false_or]
    exact Bool.eq_false_iff.mpr h
  unfold needMember
  rw [go_get_bind, hb]
  rfl
end

/-- The generation that one more arrival leaves: complete where it was the last, counted otherwise (R164). -/
structure Arrived (n : Nat) (s u : State) : Prop where
  arr : look false u.me.arr n = true
  ticket : look 0 u.me.ticket n = (s.group n).gen
  last : (s.group n).count + 1 = gMembers (s.group n) → (u.group n).gen = ((s.group n).gen + 1) % 2 ^ 32 ∧ (u.group n).count = 0
  counted : (s.group n).count + 1 ≠ gMembers (s.group n) → (u.group n).gen = (s.group n).gen ∧ (u.group n).count = (s.group n).count + 1

theorem completeGroup_group (n : Nat) (s : State) :
    ((completeGroup n s).group n).gen = ((s.group n).gen + 1) % 2 ^ 32 ∧ ((completeGroup n s).group n).count = 0 := by
  have hset : ∀ k : Group, (s.setGroup n k).group n = k := fun k => look_put_same _ _ _ _
  unfold completeGroup
  simp only
  split
  · obtain ⟨_, _, _, h⟩ := advanceDgen_redated (gLevel (s.group n)) (gInst (s.group n)) (s.setGroup n
      { s.group n with gen := ((s.group n).gen + 1) % 2 ^ 32, count := 0, done := (s.group n).merged, merged := .empty, sentUp := false })
    rw [h]
    exact ⟨congrArg Group.gen (hset _), congrArg Group.count (hset _)⟩
  · exact ⟨congrArg Group.gen (hset _), congrArg Group.count (hset _)⟩

theorem completeGroup_me (n : Nat) (s : State) : (completeGroup n s).me = s.me := by
  unfold completeGroup
  simp only
  split
  · obtain ⟨_, _, _, h⟩ := advanceDgen_redated (gLevel (s.group n)) (gInst (s.group n)) (s.setGroup n
      { s.group n with gen := ((s.group n).gen + 1) % 2 ^ 32, count := 0, done := (s.group n).merged, merged := .empty, sentUp := false })
    rw [h]
    rfl
  · rfl

/-- Inside the module a generation is complete once its count is that of its members. -/
theorem tryComplete_inside {n : Nat} {s : State} (he : gEnable (s.group n) = true) (hl : gLevel (s.group n) ≤ 4) :
    tryComplete n s = if (s.group n).count = gMembers (s.group n) then completeGroup n s else s := by
  unfold tryComplete
  simp only [he, Bool.not_true, Bool.false_or, bne_iff_ne, ite_not, if_pos hl]

/-- The release of an arrival inside the module. -/
theorem performRelease_inside (w : Who) {l : Nat} (hl : l ≤ 4) (s : State) : ∃ t, (performRelease w (gScope l)).go s = (.ok (), t) ∧ Steady s t := by
  have hn : ¬4 ≤ scopeNo (gScope l) := by
    have : l = 0 ∨ l = 1 ∨ l = 2 ∨ l = 3 ∨ l = 4 := by omega
    rcases this with rfl | rfl | rfl | rfl | rfl <;> decide
  unfold performRelease
  rw [go_get_bind]
  simp only [decide_eq_false hn, Bool.false_and, Bool.false_eq_true, if_false]
  split
  · exact ⟨_, rfl, steady_of_apart (apart_writeBackAll _ _)⟩
  · exact ⟨s, rfl, .refl s⟩

/-- One arrival counted in a group of the module, in a state whose streams and groups stand. -/
theorem arrived_of_steady {n : Nat} {s v : State} (he : gEnable (s.group n) = true) (hl : gLevel (s.group n) ≤ 4) (h : Steady s v) (f : Frontier) :
    Arrived n s (tryComplete n ((v.setMe { v.me with arr := put v.me.arr n true, ticket := put v.me.ticket n (v.group n).gen }).setGroup n
      { v.group n with count := (v.group n).count + 1, merged := f })) := by
  have hg := h.group n
  rw [hg]
  generalize hw : (v.setMe { v.me with arr := put v.me.arr n true, ticket := put v.me.ticket n (s.group n).gen }).setGroup n
      { s.group n with count := (s.group n).count + 1, merged := f } = w
  have group : w.group n = { s.group n with count := (s.group n).count + 1, merged := f } := by
    rw [← hw]
    exact look_put_same _ _ _ _
  have me : w.me = { v.me with arr := put v.me.arr n true, ticket := put v.me.ticket n (s.group n).gen } := by
    rw [← hw]
    exact me_setMe _ _
  have members : gMembers (w.group n) = gMembers (s.group n) := by rw [group]; rfl
  rw [tryComplete_inside (by rw [group]; exact he) (by rw [group]; exact hl), members, show (w.group n).count = (s.group n).count + 1 by rw [group]]
  have read : ∀ u : State, u.me = w.me → look false u.me.arr n = true ∧ look 0 u.me.ticket n = (s.group n).gen := fun u hu => by
    rw [hu, me]
    exact ⟨look_put_same _ _ _ _, look_put_same _ _ _ _⟩
  split
  · next hlast =>
    obtain ⟨harr, hticket⟩ := read _ (completeGroup_me n w)
    refine ⟨harr, hticket, fun _ => ?_, fun hne => absurd hlast hne⟩
    rw [show (s.group n).gen = (w.group n).gen by rw [group]]
    exact completeGroup_group n w
  · next hmore =>
    obtain ⟨harr, hticket⟩ := read w rfl
    exact ⟨harr, hticket, fun heq => absurd heq hmore, fun _ => by rw [group]; exact ⟨rfl, rfl⟩⟩

section
variable {n : Nat} {s : State} (hm : gEnable (s.group n) = true ∧ gMember (s.group n) s.cc s.cl = true)
include hm

/-- A second arrival in a generation waits for the generation to pass (R164). -/
theorem arriveGroup_waits (harr : look false s.me.arr n = true) (hgen : (s.group n).gen = look 0 s.me.ticket n) :
    (arriveGroup n).go s = (.error (.wait (.barrier n 0 0)), s) := by
  unfold arriveGroup
  rw [go_bind_ok (needMember_passes (.inr hm)), go_get_bind]
  simp [harr, hgen, go_bind]

/-- An arrival (R164). -/
theorem arriveGroup_arrives (hrep : repMode s = 0) (hl : gLevel (s.group n) ≤ 4)
    (h : look false s.me.arr n = false ∨ (s.group n).gen ≠ look 0 s.me.ticket n) :
    ∃ u, (arriveGroup n).go s = (.ok (), u) ∧ Arrived n s u := by
  have hb : (look false s.me.arr n && (s.group n).gen == look 0 s.me.ticket n) = false := by
    rcases h with h | h
    · rw [h, Bool.false_and]
    · rw [beq_eq_false_iff_ne.mpr h, Bool.and_false]
  obtain ⟨t, ht, hs⟩ := performRelease_inside s.who hl s
  have hfree : repMode t = 0 := (congrArg (·.toNat % 4) hs.replay).trans hrep
  have hrepM : (repM .group n s.myAgent true).go t = (.ok (), t.actBy (ObjKind.group.key n) s.myAgent) := by
    unfold repM
    rw [go_get_bind, if_pos rfl, actTurn_free _ _ hfree]
    rfl
  unfold arriveGroup
  rw [go_bind_ok (needMember_passes (.inr hm)), go_get_bind]
  simp only [hb, Bool.false_eq_true, if_false]
  rw [go_bind_ok ht, go_bind_ok hrepM, go_modify]
  exact ⟨_, rfl, arrived_of_steady hm.1 hl (hs.trans ((steady_actBy _ _ _).trans (steady_setClock _ _ _))) _⟩
end

/-! ## Barriers: wait (R164) -/

/-- What the wait of a half compares GEN with (R164). -/
def waitTicket (n : Nat) (s : State) : Nat :=
  match s.myStr.wait with
  | .barrier k 1 t => if k = n then t else if look false s.me.arr n then look 0 s.me.ticket n else (s.group n).gen
  | _ => if look false s.me.arr n then look 0 s.me.ticket n else (s.group n).gen

theorem waitTicket_arrived {n : Nat} {s : State} (hw : s.myStr.wait = .none) (harr : look false s.me.arr n = true) :
    waitTicket n s = look 0 s.me.ticket n := by
  unfold waitTicket
  rw [hw]
  exact if_pos harr

theorem waitTicket_waiting {n t : Nat} {s : State} (hw : s.myStr.wait = .barrier n 1 t) : waitTicket n s = t := by
  unfold waitTicket
  rw [hw]
  exact if_pos rfl

/-- A wait has ended: the arrival is taken, and no group has changed. -/
structure Waited (n : Nat) (s u : State) : Prop where
  me : u.me = { s.me with arr := put s.me.arr n false }
  groups : u.groups = s.groups
  mySpot : u.cur = s.cur

section
variable {n : Nat} {s : State}
  (hm : inHalf s n 1 = true ∨ gEnable (s.group n) = true ∧ gMember (s.group n) s.cc s.cl = true)
include hm

theorem waitGroup_waits (h : (s.group n).gen = waitTicket n s) : (waitGroup n).go s = (.error (.wait (.barrier n 1 (waitTicket n s))), s) := by
  unfold waitGroup
  rw [go_bind_ok (needMember_passes hm), go_get_bind]
  show (if (s.group n).gen = waitTicket n s then _ else _ : M Unit).go s = _
  rw [if_pos h]
  rfl

theorem waitGroup_ends (h : (s.group n).gen ≠ waitTicket n s) : ∃ u, (waitGroup n).go s = (.ok (), u) ∧ Waited n s u := by
  have hs := steady_performAcquire s.who (gScope (gLevel (s.group n))) s
  have hok : (performAcquire s.who (gScope (gLevel (s.group n)))).go s = (.ok (), ((performAcquire s.who (gScope (gLevel (s.group n)))).go s).2) := by
    unfold performAcquire
    split <;> rfl
  unfold waitGroup
  rw [go_bind_ok (needMember_passes hm), go_get_bind]
  show ∃ u, (if (s.group n).gen = waitTicket n s then _ else _ : M Unit).go s = _ ∧ _
  rw [if_neg h, go_bind_ok hok, go_modify]
  refine ⟨_, rfl, ?_, ?_, ?_⟩
  · rw [me_setMe, me_setMyStr, hs.me]
  · exact hs.groups
  · exact hs.cur
end

/-- `bar.ara` resumed between its halves makes the second alone (R164). -/
theorem barAra_resumed {n : Nat} {s u : State} (hv : s.me.araV = true) (hg : s.me.araG = n) (hpc : s.me.araPc = s.pc)
    (h : (waitGroup n).go s = (.ok (), u)) : (barAra n s.pc).go s = (.ok (), u.setMe { u.me with araV := false }) := by
  unfold barAra
  rw [go_get_bind]
  simp only [hv, hg, hpc, beq_self_eq_true, Bool.and_self, Bool.not_true, Bool.false_eq_true, if_false]
  rw [go_bind_ok h, go_modify]

/-- A first `bar.ara` begins with its arrival's check. -/
theorem barAra_refused {n : Nat} {s : State} {x : Stop} (hv : s.me.araV = false) (h : (arriveGroup n).go s = (.error x, s)) :
    (barAra n s.pc).go s = (.error x, s) := by
  unfold barAra
  rw [go_get_bind]
  simp only [hv, Bool.false_and, Bool.not_false, if_true]
  exact go_bind_error h

end Sys2Proof.Machine

namespace Sys2Proof.Proofs
open Sys2Proof.Machine Sys2Proof.Claims

section
variable {gd : Guard} {s : State} (hr : Ready gd s) (hrep : repMode s = 0)
include hr hrep

/-- R129, R229: the signal of a semaphore. -/
theorem semSig_completes {a : SemIx} {n : Fin 256} (h : (semOf s s.cc a.val).1 + n.val ≤ 65535) :
    ∃ u, Completes (.semSig gd a n) 4 s u ∧ SemSet s.cc a.val ((semOf s s.cc a.val).1 + n.val) s u := by
  obtain ⟨u, hu, hset⟩ := semSignal_free (agent := s.myAgent) hrep h
  exact ⟨u, completes_of_done rfl hr (congrArg (orWait s (.sem a n true)) hu), hset⟩

/-- R129, R229: the wait on a semaphore. -/
theorem semWait_completes {a : SemIx} {n : Fin 256} (h : n.val ≤ (semOf s s.cc a.val).1) :
    ∃ u, Completes (.semWait gd a n) 4 s u ∧ SemSet s.cc a.val ((semOf s s.cc a.val).1 - n.val) s u := by
  obtain ⟨u, hu, hset⟩ := semTake_free (agent := s.myAgent) hrep h
  exact ⟨u, completes_of_done rfl hr (congrArg (orWait s (.sem a n false)) hu), hset⟩

/-- R128, R230: the push of a token. -/
theorem tkPush_completes {k : TkIx} (h : (tokens s s.cc k.val).length < 8) :
    ∃ u p, Completes (.tkPush gd k) 4 s u ∧ p.agent = s.myAgent ∧ TokensSet s.cc k.val (tokens s s.cc k.val ++ [p]) s u := by
  obtain ⟨u, p, hu, hp, hset⟩ := tokenPush_free (agent := s.myAgent) hrep h
  exact ⟨u, p, completes_of_done rfl hr (congrArg (orWait s (.token k true)) hu), hp, hset⟩

/-- R128, R230: the pop of a token. -/
theorem tkPop_completes {k : TkIx} {p : Pass} {l : List Pass} (h : tokens s s.cc k.val = p :: l) :
    ∃ u, Completes (.tkPop gd k) 4 s u ∧ TokensSet s.cc k.val l s u := by
  obtain ⟨u, hu, hset⟩ := tokenPop_free (agent := s.myAgent) hrep h
  exact ⟨u, completes_of_done rfl hr (congrArg (orWait s (.token k false)) hu), hset⟩

end

section
variable {gd : Guard} {s : State} (hr : Ready gd s) (a : BgIx)
include hr

/-- R164: a core that is no member takes PERMISSION at its first check. -/
theorem barrier_refuses (hm : ¬(gEnable (s.group a.val) = true ∧ gMember (s.group a.val) s.cc s.cl = true)) (hw : s.myStr.st ≠ .wait)
    (hv : s.me.araV = false) : ∀ i ∈ [Instr.barArv gd a, .barWait gd a, .barAra gd a], TrapsHere i 4 s .permission 0 := by
  have arrive : (arriveGroup a.val).go s = (.error (.trap ⟨.permission, 0⟩), s) := go_bind_error (needMember_refuses hm hw)
  have wait : (waitGroup a.val).go s = (.error (.trap ⟨.permission, 0⟩), s) := go_bind_error (needMember_refuses hm hw)
  simp only [List.forall_mem_cons, List.not_mem_nil, false_imp_iff, implies_true, and_true]
  exact ⟨trapsHere_of_trap rfl hr (ofM_trap arrive), trapsHere_of_trap rfl hr (ofM_trap wait), trapsHere_of_trap rfl hr (ofM_trap (barAra_refused hv arrive))⟩

theorem barWait_waits {t : Nat} (hm : inHalf s a.val 1 = true ∨ gEnable (s.group a.val) = true ∧ gMember (s.group a.val) s.cc s.cl = true)
    (ht : waitTicket a.val s = t) (h : (s.group a.val).gen = t) : WaitsHere (.barWait gd a) s (.barrier a.val 1 t) := by
  subst ht
  exact waitsHere_of_stay rfl hr (ofM_stay (waitGroup_waits hm h))

theorem barWait_ends {t : Nat} (hm : inHalf s a.val 1 = true ∨ gEnable (s.group a.val) = true ∧ gMember (s.group a.val) s.cc s.cl = true)
    (ht : waitTicket a.val s = t) (h : (s.group a.val).gen ≠ t) : ∃ u, Completes (.barWait gd a) 4 s u ∧ Waited a.val s u := by
  subst ht
  obtain ⟨u, hu, hwaited⟩ := waitGroup_ends hm h
  exact ⟨u, completes_of_done rfl hr (ofM_done hu), hwaited⟩

end

/-- Settles O24: semaphores and FIFOs by whether they have room or something to take, barriers by membership, arrival and generation. -/
theorem semaphoreTokenAndBarrierFormsComplete : Obligations.SemaphoreTokenAndBarrierFormsComplete := by
  constructor
  · intro gd d a n k s hr hrep hcc v others queues
    refine ⟨fun h => ?_, fun h => ?_, fun h => ?_, fun h => ?_, completes_of_done rfl hr rfl, fun h => ?_, fun h => ?_, fun p t h => ?_, fun h => ?_,
      completes_of_done rfl hr rfl⟩
    · obtain ⟨u, hu, hset⟩ := semSig_completes hr hrep h
      exact ⟨u, hu, hset.val, hset.others, hset.mem⟩
    · exact waitsHere_of_stay rfl hr (congrArg (orWait s (.sem a n true)) (semSignal_full h))
    · obtain ⟨u, hu, hset⟩ := semWait_completes hr hrep h
      exact ⟨u, hu, hset.val, hset.others, hset.mem⟩
    · exact waitsHere_of_stay rfl hr (congrArg (orWait s (.sem a n false)) (semTake_short h))
    · obtain ⟨u, p, hu, hp, hset⟩ := tkPush_completes hr hrep h
      exact ⟨u, p, hu, hset.val, hp, hset.others, hset.mem⟩
    · exact waitsHere_of_stay rfl hr (congrArg (orWait s (.token k true)) (tokenPush_full h))
    · obtain ⟨u, hu, hset⟩ := tkPop_completes hr hrep h
      exact ⟨u, hu, hset.val, hset.others, hset.mem⟩
    · exact waitsHere_of_stay rfl hr (congrArg (orWait s (.token k false)) (tokenPop_empty h))
  · intro gd a s hr hrep hcc g member arrived ticket
    refine ⟨fun hm hl h => ?_, fun hm harr h => ?_, fun hm hw harr h => ?_, fun hm hw harr h => ?_, fun hm hw hv hg hpc harr h => ?_,
      fun hm hw hv => barrier_refuses hr a hm hw hv, fun t hst hw => ⟨fun h => ?_, fun h => ?_⟩⟩
    · obtain ⟨u, hu, hin⟩ := arriveGroup_arrives hm hrep hl h
      exact ⟨u, completes_of_done rfl hr (ofM_done hu), hin.arr, hin.ticket, hin.last, hin.counted⟩
    · exact waitsHere_of_stay rfl hr (ofM_stay (arriveGroup_waits hm harr h))
    · obtain ⟨u, hu, hw⟩ := barWait_ends hr a (.inr hm) (waitTicket_arrived hw harr) h
      exact ⟨u, hu, by rw [hw.me]; exact look_put_same _ _ _ _, hw.groups⟩
    · exact barWait_waits hr a (.inr hm) (waitTicket_arrived hw harr) h
    · obtain ⟨u, hu, hwaited⟩ := waitGroup_ends (.inr hm) (waitTicket_arrived hw harr ▸ h)
      refine ⟨_, completes_of_done rfl hr (ofM_done (barAra_resumed hv hg hpc hu)), ?_, ?_, hwaited.groups⟩
      · rw [me_setMe, hwaited.me]
        exact look_put_same _ _ _ _
      · rw [me_setMe]
    · exact barWait_waits hr a (.inl (inHalf_waiting hst hw)) (waitTicket_waiting hw) h
    · obtain ⟨u, hu, hw⟩ := barWait_ends hr a (.inl (inHalf_waiting hst hw)) (waitTicket_waiting hw) h
      exact ⟨u, hu, by rw [hw.me]; exact look_put_same _ _ _ _, hw.groups⟩

end Sys2Proof.Proofs
end

section
/-! SUPPORT. Wait-on-address and the queue forms: their bodies once the accesses they make have answered (R133, R224-R226, R243). -/
namespace Sys2Proof.Machine
open Claims

/-! ## Write-backs and the host's part of the state

A claim's release writes the tower's dirty bytes home before the queue's gate asks the host; neither sees what the other changes. -/

/-- The state with other HOST lines held at their homes under CXL.cache (R143). -/
def State.holding (x : List Nat) (s : State) : State := { s with hostHold := x }

theorem emit_holding (x : List Nat) (m : Msg) (s : State) : emit m (s.holding x) = (emit m s).holding x := by
  have h : branches (s.holding x) m = branches s m := rfl
  unfold emit
  rw [h]
  simp only
  split <;> rfl

theorem snoop_holding (x : List Nat) (line : Nat) (s : State) : snoop line (s.holding x) = (snoop line s).holding x := by
  unfold snoop
  rw [show (s.holding x).hostDev = s.hostDev from rfl]
  split
  · exact emit_holding x _ { s with hostDev := s.hostDev.erase line }
  · rfl

theorem ringBells_holding (x : List Nat) (a : Nat) (s : State) : ringBells a (s.holding x) = (ringBells a s).holding x := by
  unfold ringBells
  rw [show (s.holding x).towers = s.towers from rfl]
  split <;> rfl

theorem physWr_holding (x : List Nat) (s : State) (view : Option (Nat × Nat)) (a : Nat) (b : Byte) :
    physWr (s.holding x) view a b = (physWr s view a b).holding x := by
  unfold physWr
  rw [ringBells_holding]
  simp only
  rw [show cryptAt ((ringBells a s).holding x) (a / 64) = cryptAt (ringBells a s) (a / 64) from rfl]
  split
  · rfl
  · rw [show (cutOpen (a / 64 * 64) 64 ((ringBells a s).holding x)).imgKey = (cutOpen (a / 64 * 64) 64 (ringBells a s)).imgKey from rfl]
    split <;> rfl

theorem physStore_holding (x : List Nat) (view : Option (Nat × Nat)) (bs : List Byte) (s : State) (a : Nat) :
    physStore (s.holding x) view a bs = (physStore s view a bs).holding x := by
  induction bs generalizing s a with
  | nil => rfl
  | cons b bs ih => 
    simp only [physStore]
    rw [physWr_holding, ih]

theorem writeMasked_holding (x : List Nat) (view : Option (Nat × Nat)) (dirty : Nat) (bs : List Byte) (a k : Nat) (s : State) :
    writeMasked view dirty a k bs (s.holding x) = (writeMasked view dirty a k bs s).holding x := by
  induction bs generalizing s a k with
  | nil => rfl
  | cons b bs ih =>
    simp only [writeMasked]
    split
    · rw [physWr_holding, ih]
    · rw [ih]

theorem ite_emit_holding (x : List Nat) (c : Prop) [Decidable c] (m : Msg) (s : State) :
    (if c then emit m (s.holding x) else s.holding x) = (if c then emit m s else s).holding x := by
  split
  · exact emit_holding x m s
  · rfl

theorem mergeElem_holding (x : List Nat) (u : ULine) (line : Nat) (s : State) (e : Nat × Nat) :
    mergeElem u line (s.holding x) e = (mergeElem u line s e).holding x := by
  unfold mergeElem
  simp only [snoop_holding, physStore_holding]
  rw [show physBytes (s.holding x) = physBytes s from rfl]
  exact ite_emit_holding x _ _ (clearRels _ _ (physStore (snoop line s) u.view _ _))

theorem foldl_holding {α : Type} {f : State → α → State} (x : List Nat) (h : ∀ s a, f (s.holding x) a = (f s a).holding x) (l : List α) (s : State) :
    l.foldl f (s.holding x) = (l.foldl f s).holding x := by
  induction l generalizing s with
  | nil => rfl
  | cons a l ih => rw [List.foldl_cons, List.foldl_cons, h, ih]

theorem repTurn_holding (x : List Nat) (key agent : Nat) (s : State) : repTurn key agent (s.holding x) = (repTurn key agent s).map (·.holding x) := by
  unfold repTurn
  rw [show repMode (s.holding x) = repMode s from rfl, show (s.holding x).repLog = s.repLog from rfl]
  split
  · rfl
  · split
    · split
      · split <;> rfl
      · rfl
    · rfl

theorem mergeLine_holding (x : List Nat) (t line : Nat) (s : State) : mergeLine t line (s.holding x) = (mergeLine t line s).holding x := by
  unfold mergeLine
  simp only [repTurn_holding]
  rw [show (s.holding x).tower t = s.tower t from rfl]
  split
  · rfl
  · next u _ =>
    rw [show ((repTurn (ObjKind.line.key line) t s).map (·.holding x)).getD (s.holding x) = ((repTurn (ObjKind.line.key line) t s).getD s).holding x by
      cases repTurn (ObjKind.line.key line) t s <;> rfl, foldl_holding x (mergeElem_holding x u line)]
    rfl

theorem recallLoop_holding (x : List Nat) (line fuel : Nat) (ts : List Nat) (s : State) :
    recallLoop line fuel ts (s.holding x) = (recallLoop line fuel ts s).holding x := by
  have logged : ∀ ts, loggedHolder (s.holding x) line ts = loggedHolder s line ts := fun ts => by
    unfold loggedHolder
    simp only [repTurn_holding, Option.isSome_map]
  induction fuel generalizing ts s with
  | zero => rfl
  | succ fuel ih =>
    cases ts with
    | nil => rfl
    | cons t ts =>
      simp only [recallLoop]
      rw [logged, mergeLine_holding, ih _ _ fun ts => ?_]
      · rfl
      · unfold loggedHolder
        simp only [repTurn_holding, Option.isSome_map]

theorem recallHolders_holding (x : List Nat) (line : Nat) (s : State) : recallHolders line (s.holding x) = (recallHolders line s).holding x :=
  recallLoop_holding x line _ _ s

theorem markOn_holding (x : List Nat) (t line dirty : Nat) (s : State) : markOn t line dirty (s.holding x) = (markOn t line dirty s).holding x := by
  unfold markOn
  rw [show (s.holding x).marks = s.marks from rfl]
  split
  · rfl
  · symm
    exact (foldl_holding (f := fun s (m : Nat × Nat) => countErr m.1 32 s) x (fun _ _ => rfl) _ _).symm

/-- The bytes of a guest line that a write-back writes: the dirty ones, of which none stands in a marked unit (R101). -/
def goodBytes (t line dirty : Nat) (s : State) : Nat :=
  if s.marks.isEmpty then dirty
  else (List.range 256).foldl (fun d k => if bitAt dirty k && !l2Marked s t (line * 256 + k) then d + 2 ^ k else d) 0

/-- The end of a write-back, its bytes at home: the releases of the dirty bytes have gone with them, and the copy is clean (R87, R109). -/
def cleaned (t line : Nat) (g : GLine) (s : State) : State :=
  let kept := s.locs.filter fun e => !(decide (e.1 / 256 = line) && bitAt g.dirty (e.1 % 256))
  let sent := g.rels.filter fun e => bitAt g.dirty e.1
  let s := { s with locs := sent.foldl (fun (l : Tbl (List Rel)) (e : Nat × List Rel) => put l (line * 256 + e.1) e.2) kept }
  s.setTower t { s.tower t with guest := put (s.tower t).guest line { g with dirty := 0 } }

/-- The write-back of a dirty copy. -/
def sentHome (t line : Nat) (g : GLine) (s : State) : State :=
  cleaned t line g (markOn t line g.dirty (writeMasked g.view (goodBytes t line g.dirty (snoop line (recallHolders line s))) (line * 256) 0 g.bytes
    (snoop line (recallHolders line s))))

theorem writeBack_absent {t line : Nat} {s : State} (h : find (s.tower t).guest line = none) : writeBack t line s = s := by
  unfold writeBack
  simp only [h]

theorem writeBack_clean {t line : Nat} {s : State} {g : GLine} (h : find (s.tower t).guest line = some g) (hd : g.dirty = 0) : writeBack t line s = s := by
  unfold writeBack
  simp only [h, if_pos hd]

theorem writeBack_dirty {t line : Nat} {s : State} {g : GLine} (h : find (s.tower t).guest line = some g) (hd : g.dirty ≠ 0) :
    writeBack t line s = sentHome t line g s := by
  unfold writeBack
  simp only [h, if_neg hd]
  rfl

theorem cleaned_holding (x : List Nat) (t line : Nat) (g : GLine) (s : State) : cleaned t line g (s.holding x) = (cleaned t line g s).holding x := rfl
theorem goodBytes_holding (x : List Nat) (t line dirty : Nat) (s : State) : goodBytes t line dirty (s.holding x) = goodBytes t line dirty s := rfl

theorem writeBack_holding (x : List Nat) (t line : Nat) (s : State) : writeBack t line (s.holding x) = (writeBack t line s).holding x := by
  have same : ((s.holding x).tower t) = s.tower t := rfl
  cases h : find (s.tower t).guest line with
  | none => rw [writeBack_absent h, writeBack_absent (same ▸ h)]
  | some g =>
    by_cases hd : g.dirty = 0
    · rw [writeBack_clean h hd, writeBack_clean (same ▸ h) hd]
    · rw [writeBack_dirty h hd, writeBack_dirty (same ▸ h) hd]
      simp only [sentHome, recallHolders_holding, snoop_holding, goodBytes_holding, writeMasked_holding, markOn_holding, cleaned_holding]

theorem writeBackAll_holding (x : List Nat) (t : Nat) (s : State) : writeBackAll t (s.holding x) = (writeBackAll t s).holding x :=
  foldl_holding (f := fun s (e : Nat × GLine) => writeBack t e.1 s) x (fun s e => writeBack_holding x t e.1 s) _ s

/-! The answers that command processors' queues hold (R403). -/

/-- The answer that a command processor's queue holds. -/
def queueAns (s : State) (t q : Nat) : Answer := (look Cpq.reset (s.tower t).cpq q).ans

/-- A table each of whose entries keeps a part keeps it for every key. -/
theorem look_map {α β : Type} (p : α → β) (f : Nat × α → α) (h : ∀ e, p (f e) = p e.2) (d : α) (t : Tbl α) (k : Nat) :
    p (look d (t.map fun e => (e.1, f e)) k) = p (look d t k) := by
  induction t with
  | nil => rfl
  | cons e t ih =>
    simp only [List.map_cons, look]
    split
    · exact h e
    · exact ih

theorem queueAns_setTower {s : State} {t : Nat} {k : Tower} (j q : Nat) (h : (look Cpq.reset k.cpq q).ans = queueAns s t q) :
    queueAns (s.setTower t k) j q = queueAns s j q := by
  by_cases hj : j = t
  · subst hj
    exact (congrArg (fun w : Tower => (look Cpq.reset w.cpq q).ans) (look_put_same _ _ _ _)).trans h
  · exact congrArg (fun w : Tower => (look Cpq.reset w.cpq q).ans) (look_put_other _ _ _ hj)

theorem queueAns_of_towers {s t : State} (h : t.towers = s.towers) (j q : Nat) : queueAns t j q = queueAns s j q := by
  rw [queueAns, State.tower, h]
  rfl

theorem queueAns_ringBells (a : Nat) (s : State) (j q : Nat) : queueAns (ringBells a s) j q = queueAns s j q := by
  unfold ringBells
  split
  · refine look_map (fun w : Tower => (look Cpq.reset w.cpq q).ans) (fun t => { t.2 with cpq := t.2.cpq.map fun q =>
        (q.1, if q.2.w0.toNat % 2 == 1 && q.2.notify / 8 == a / 8 then { q.2 with bell := true } else q.2) }) (fun e => ?_) _ s.towers j
    exact look_map Cpq.ans (fun q => if q.2.w0.toNat % 2 == 1 && q.2.notify / 8 == a / 8 then { q.2 with bell := true } else q.2)
      (fun x => by split <;> rfl) _ _ q
  · rfl

theorem queueAns_physWr (s : State) (view : Option (Nat × Nat)) (a : Nat) (b : Byte) (j q : Nat) : queueAns (physWr s view a b) j q = queueAns s j q := by
  have bells := queueAns_ringBells a s j q
  unfold physWr
  simp only
  split
  · exact bells
  · split <;> exact bells

theorem queueAns_physStore (view : Option (Nat × Nat)) (bs : List Byte) (s : State) (a j q : Nat) :
    queueAns (physStore s view a bs) j q = queueAns s j q := by
  induction bs generalizing s a with
  | nil => rfl
  | cons b bs ih => exact (ih _ _).trans (queueAns_physWr s view a b j q)

theorem queueAns_writeMasked (view : Option (Nat × Nat)) (dirty : Nat) (bs : List Byte) (a k : Nat) (s : State) (j q : Nat) :
    queueAns (writeMasked view dirty a k bs s) j q = queueAns s j q := by
  induction bs generalizing s a k with
  | nil => rfl
  | cons b bs ih =>
    refine (ih _ _ _).trans ?_
    split
    · exact queueAns_physWr s view a b j q
    · rfl

theorem queueAns_emit (m : Msg) (s : State) (j q : Nat) : queueAns (emit m s) j q = queueAns s j q := queueAns_of_towers (emit_towers m s) j q
theorem queueAns_snoop (line : Nat) (s : State) (j q : Nat) : queueAns (snoop line s) j q = queueAns s j q := by
  obtain ⟨_, _, _, h⟩ := snoop_eq line s
  rw [h]
  rfl

theorem queueAns_foldl {α : Type} {f : State → α → State} {j q : Nat} (h : ∀ s a, queueAns (f s a) j q = queueAns s j q) (l : List α) (s : State) :
    queueAns (l.foldl f s) j q = queueAns s j q := by
  induction l generalizing s with
  | nil => rfl
  | cons a l ih => exact (ih _).trans (h s a)

theorem queueAns_mergeElem (u : ULine) (line : Nat) (s : State) (e : Nat × Nat) (j q : Nat) : queueAns (mergeElem u line s e) j q = queueAns s j q := by
  have stored : ∀ bs, queueAns (clearRels (line * 256 + e.1) (esizeBytes u.tag) (physStore (snoop line s) u.view (line * 256 + e.1) bs)) j q = queueAns s j q :=
    fun bs => (queueAns_physStore u.view bs (snoop line s) _ j q).trans (queueAns_snoop line s j q)
  unfold mergeElem
  simp only
  split
  · exact (queueAns_emit _ _ j q).trans (stored _)
  · exact stored _

theorem queueAns_mergeLine (t line : Nat) (s : State) (j q : Nat) : queueAns (mergeLine t line s) j q = queueAns s j q := by
  have turn : queueAns ((repTurn (ObjKind.line.key line) t s).getD s) j q = queueAns s j q := by
    cases h : repTurn (ObjKind.line.key line) t s with
    | none => rfl
    | some u =>
      obtain ⟨_, _, rfl⟩ := repTurn_eq h
      rfl
  unfold mergeLine
  simp only
  split
  · rfl
  · next u _ =>
    by_cases hj : j = t
    · subst hj
      exact (congrArg (fun w : Tower => (look Cpq.reset w.cpq q).ans) (look_put_same _ _ _ _) : _)
    · refine (congrArg (fun w : Tower => (look Cpq.reset w.cpq q).ans) (look_put_other _ _ _ hj)).trans ?_
      exact (queueAns_foldl (fun s e => queueAns_mergeElem u line s e j q) _ _).trans turn

theorem queueAns_recallLoop (line fuel : Nat) (ts : List Nat) (s : State) (j q : Nat) : queueAns (recallLoop line fuel ts s) j q = queueAns s j q := by
  induction fuel generalizing ts s with
  | zero => rfl
  | succ fuel ih =>
    cases ts with
    | nil => rfl
    | cons t ts => exact (ih _ _).trans (queueAns_mergeLine _ _ _ j q)

theorem queueAns_markOn (t line dirty : Nat) (s : State) (j q : Nat) : queueAns (markOn t line dirty s) j q = queueAns s j q := by
  unfold markOn
  split
  · rfl
  · exact queueAns_foldl (f := fun s (m : Nat × Nat) => countErr m.1 32 s) (fun _ _ => rfl) _ _

theorem queueAns_cleaned (t line : Nat) (g : GLine) (s : State) (j q : Nat) : queueAns (cleaned t line g s) j q = queueAns s j q := by
  unfold cleaned
  exact queueAns_setTower j q rfl

theorem queueAns_writeBack (t line : Nat) (s : State) (j q : Nat) : queueAns (writeBack t line s) j q = queueAns s j q := by
  cases h : find (s.tower t).guest line with
  | none => rw [writeBack_absent h]
  | some g =>
    by_cases hd : g.dirty = 0
    · rw [writeBack_clean h hd]
    · rw [writeBack_dirty h hd, sentHome]
      refine (queueAns_cleaned t line g _ j q).trans ?_
      refine (queueAns_markOn t line _ _ j q).trans ?_
      rw [queueAns_writeMasked, queueAns_snoop]
      exact queueAns_recallLoop _ _ _ _ j q

theorem queueAns_writeBackAll (t : Nat) (s : State) (j q : Nat) : queueAns (writeBackAll t s) j q = queueAns s j q :=
  queueAns_foldl (f := fun s (e : Nat × GLine) => writeBack t e.1 s) (fun s e => queueAns_writeBack t e.1 s j q) _ s

/-! ## A release and the gate of the host (R136, R403) -/

theorem performRelease_go (w : Who) (e : Scope) (s : State) : (performRelease w e).go s =
    if 4 ≤ scopeNo e && !acked s w.agent then (.error (.wait (.own 0)), s)
    else (.ok (), if 3 ≤ scopeNo e then writeBackAll w.tower s else s) := by
  unfold performRelease
  rw [go_get_bind]
  split
  · rfl
  · split <;> rfl

section
variable (w : Who) (l : Loc) (t : Nat) (s : State)

/-- A write-back leaves the answer that an accessor holds. -/
theorem ansFor_writeBackAll : ansFor (writeBackAll t s) w = ansFor s w := by
  have h := apart_writeBackAll t s
  have cores := core_of_apart h
  unfold ansFor
  split
  · simp only [ansOf, State.ctlOf, State.seqOf, cores]
  · split
    · exact queueAns_writeBackAll t s _ _
    · rw [show (writeBackAll t s).mbsAns = s.mbsAns from (congrArg (fun u : State => u.mbsAns) h :)]

theorem hostHold_writeBackAll : (writeBackAll t s).hostHold = s.hostHold :=
  (congrArg (fun u : State => u.hostHold) (writeBackAll_holding s.hostHold t s) :)

theorem hostMode_writeBackAll : hostMode (writeBackAll t s) = hostMode s := (congrArg (fun u : State => hostMode u) (apart_writeBackAll t s) :)

theorem hostHolds_writeBackAll (flat : Nat) : hostHolds (writeBackAll t s) flat = hostHolds s flat := by
  rw [hostHolds, hostHold_writeBackAll, hostMode_writeBackAll, show (writeBackAll t s).freeCtr = s.freeCtr from (congrArg (fun u : State => u.freeCtr) (apart_writeBackAll t s) :)]
  rfl

/-- A HOST line is noted as held before or after a write-back alike. -/
theorem holdHost_writeBackAll (flat : Nat) : holdHost flat (writeBackAll t s) = writeBackAll t (holdHost flat s) := by
  unfold holdHost
  rw [hostMode_writeBackAll, hostHold_writeBackAll]
  split
  · rfl
  · exact (writeBackAll_holding _ t s).symm
end

/-- The gate of the host decides alike in two states in which the accessor holds the same answer and the module the same HOST lines (R403). -/
theorem hostGate_alike {w : Who} {l : Loc} {s t v : State} (hans : ansFor v w = ansFor s w) (hheld : hostHolds v l.flat = hostHolds s l.flat)
    (h : Runs (hostGate w l true true) s () t) :
    t = s ∧ Runs (hostGate w l true true) v () v ∨ t = holdHost l.flat s ∧ Runs (hostGate w l true true) v () (holdHost l.flat v) := by
  unfold Runs hostGate at *
  rw [go_get_bind] at *
  rw [hans, hheld]
  by_cases h0 : l.p.space ≠ 5 ∨ asks w.agent = false
  · simp only [if_pos h0] at *
    exact .inl ⟨(Prod.mk.inj h).2.symm, rfl⟩
  · simp only [if_neg h0, if_true] at *
    generalize ansFor s w = a at *
    cases a with
    | none =>
      dsimp only at *
      split at h
      · next hc =>
        rw [if_pos hc]
        exact .inl ⟨(Prod.mk.inj h).2.symm, rfl⟩
      · cases h
    | asked q got =>
      dsimp only at *
      split at h
      · next hc =>
        rw [if_pos hc]
        exact .inl ⟨(Prod.mk.inj h).2.symm, rfl⟩
      · split at h <;> cases h
    | remote n => exact .inl ⟨(Prod.mk.inj h).2.symm, rfl⟩
    | host sp r got =>
      dsimp only at *
      split at h
      · next hc =>
        rw [if_pos hc]
        cases r with
        | done x => exact .inr ⟨(Prod.mk.inj h).2.symm, rfl⟩
        | refused => cases h
        | poisoned => cases h
      · next hc =>
        rw [if_neg hc]
        split at h
        · next hc =>
          rw [if_pos hc]
          exact .inl ⟨(Prod.mk.inj h).2.symm, rfl⟩
        · cases h

/-- A release may be performed before the gate of the host or after it (R136, R403). -/
theorem hostGate_release_comm {w : Who} {l : Loc} {e : Scope} {s t u : State} (hgate : Runs (hostGate w l true true) s () t)
    (hrel : Runs (performRelease w e) t () u) : ∃ v, Runs (performRelease w e) s () v ∧ Runs (hostGate w l true true) v () u := by
  unfold Runs at hrel
  have kept : acked t w.agent = acked s w.agent := by
    rcases hostGate_alike rfl rfl hgate with ⟨rfl, -⟩ | ⟨rfl, -⟩
    · rfl
    · unfold holdHost
      split <;> rfl
  rw [performRelease_go, kept] at hrel
  by_cases hsent : (4 ≤ scopeNo e && !acked s w.agent) = true
  · rw [if_pos hsent] at hrel
    cases hrel
  rw [if_neg hsent] at hrel
  obtain ⟨-, rfl⟩ := Prod.mk.inj hrel
  by_cases hwide : 3 ≤ scopeNo e
  · refine ⟨writeBackAll w.tower s, by rw [Runs, performRelease_go, if_neg hsent, if_pos hwide], ?_⟩
    rw [if_pos hwide]
    rcases hostGate_alike (ansFor_writeBackAll w w.tower s) (hostHolds_writeBackAll w.tower s l.flat) hgate with ⟨rfl, h⟩ | ⟨rfl, h⟩
    · exact h
    · rwa [holdHost_writeBackAll] at h
  · refine ⟨s, by rw [Runs, performRelease_go, if_neg hsent, if_neg hwide], ?_⟩
    rw [if_neg hwide]
    exact hgate

/-! ## Wait-on-address (R133, R224) -/

/-- The checks of an operand answer a location and leave its instruction's accessor. -/
theorem who_of_myLoc {s s1 : State} {m : MOp} {a : Acc} {okTag : Nat → Bool} {l : Loc} (h : (myLoc s m a okTag).go s = (.ok l, s1)) : s1.who = s.who :=
  (steady_of_locate h).who

section
variable {k : Cond} {e : Scope} {h d a x : Nat} {l : Loc} {s t : State} (hload : Runs (loadOrd s.who l .acq e) s x t)
include hload

/-- An evaluation that finds its condition true writes the value read. -/
theorem waddrEval_true (hc : cond k (BitVec.ofNat 64 x) (s.me.rdS a) = true) :
    (waddrEval h k e d a l).go s = (.ok (), t.setMe (t.me.wrS d (BitVec.ofNat 64 x))) := by
  unfold waddrEval
  rw [go_get_bind, go_bind_ok hload, if_pos hc, go_modify]

/-- One that does not waits on. -/
theorem waddrEval_false (hc : cond k (BitVec.ofNat 64 x) (s.me.rdS a) = false) :
    (waddrEval h k e d a l).go s = (.error (.wait (.addr h d a k e l)), dropAns t) := by
  unfold waddrEval
  rw [go_get_bind, go_bind_ok hload, if_neg (by simp [hc]), go_modify_bind, go_waitM]
end

/-- `waddr` of a stream that waits in nothing arms at the operand's location. -/
theorem go_waddrBody {k : Cond} {e : Scope} {d a : SReg} {m : MOp} {s s1 : State} {l : Loc} (hw : s.myStr.wait = .none)
    (hloc : (myLoc s m .load fun t => t == 0x45 || t == 0x83 || t == 0xC0).go s = (.ok l, s1)) :
    (waddrBody k e d m a s).go s = (waddrEval (hLt (s.rdH m.h)) k e d.val a.val l).go s1 := by
  unfold waddrBody
  simp only [hw]
  exact go_bind_ok hloc

/-! ## The claim of queue elements (R225) -/

/-- The header that R225 admits: a power of two for the capacity, reserved words zero. -/
theorem queueHeader_admitted {x : Nat} (hcap : ∃ j, j ≤ 16 ∧ x / 2 ^ 128 % 2 ^ 64 = 2 ^ j) (hzero : x / 2 ^ 192 % 2 ^ 64 = 0) :
    (decide (1 ≤ bitsAt x 128 64 ∧ bitsAt x 128 64 ≤ 65536) && 2 ^ Nat.log2 (bitsAt x 128 64) == bitsAt x 128 64 && bitsAt x 192 64 == 0) = true := by
  obtain ⟨j, hj, hx⟩ := hcap
  have low : 1 ≤ 2 ^ j := Nat.one_le_two_pow
  have high : 2 ^ j ≤ 65536 := Nat.pow_le_pow_right (by omega) hj
  simp only [bitsAt, hx, hzero, Nat.log2_two_pow, low, high, and_self, decide_true, beq_self_eq_true, Bool.and_self]

theorem bitsAt_low (x n : Nat) : bitsAt x 0 n = x % 2 ^ n := by rw [bitsAt, Nat.pow_zero, Nat.div_one]

/-- A write that carries the agent's release changes no byte of on-chip memory. -/
theorem mem_withRel (agent : Nat) (e : Scope) (rs : List Rel) (s : State) : (withRel agent (some e) rs s).1.mem = s.mem :=
  setClock_mem s agent (clockOf s agent 0).bump

/-- The write of a claim's index with the claim's release. -/
def released (agent : Nat) (e : Scope) (flat : Nat) (s : State) : State :=
  let (t, rs) := withRel agent (some e) (look [] s.locs flat) s
  setHomeRels flat rs t

theorem released_mem (agent : Nat) (e : Scope) (flat : Nat) (s : State) : (released agent e flat s).mem = s.mem :=
  mem_withRel agent e (look [] s.locs flat) s

section
variable {e : Scope} {d a : SReg} {m : MOp} {s s1 s2 s3 s4 s5 : State} {l : Loc} {x : Nat}
  (hloc : Runs (locate s.who (s.rdH m.h) (coordM s m) .atomic false (fun t => !isReserved t) queueHead) s l s1)
  (halign : l.p.addr % 32 = 0) (htag : l.p.tag = 0x45) (hrel : Runs (performRelease s.who e) s1 () s2)
  (hgate : Runs (hostGate s.who l true true) s2 () s3) (hacq : Runs (performAcquire s.who e) s3 () s4) (hread : Runs (homeRead s.who l 32) s4 x s5)
  (hcap : ∃ j, j ≤ 16 ∧ x / 2 ^ 128 % 2 ^ 64 = 2 ^ j) (hzero : x / 2 ^ 192 % 2 ^ 64 = 0) (hpos : 0 < (s.rdS a).toNat)
  (hfits : (s.rdS a).toNat ≤ x / 2 ^ 128 % 2 ^ 64)

/-- What a claim of `n` elements does with the header it has read: the header's releases taken, the indices compared. -/
def claimRead (e : Scope) (d : SReg) (l : Loc) (w : Who) (wix rix cap n : Nat) : M Unit := do
  takeRels w.agent .acq e (look [] (← get).locs l.flat)
  if (wix : Int) - rix + n ≤ cap then
    homeWrite l 8 ((wix + n) % 2 ^ 64)
    modify (released w.agent e l.flat)
    modify (·.wrS d (BitVec.ofNat 64 wix))
  else modify (·.wrS d (BitVec.ofNat 64 (2 ^ 64 - 1)))

include hloc halign htag hrel hgate hacq hread hcap hzero hpos hfits in
/-- A claim of a queue whose header R225 admits comes to the comparison of the indices. -/
theorem go_qClaimBody : (qClaimBody e d m a s).go s = (claimRead e d l s.who (x % 2 ^ 64) (x / 2 ^ 64 % 2 ^ 64) (x / 2 ^ 128 % 2 ^ 64) (s.rdS a).toNat).go s5 := by
  have aligned : (l.p.addr % 32 == 0) = true := by simp [halign]
  have tagged : (l.p.tag == 0x45) = true := by simp [htag]
  have count : decide (0 < (s.rdS a).toNat ∧ (s.rdS a).toNat ≤ bitsAt x 128 64) = true := decide_eq_true ⟨hpos, hfits⟩
  unfold qClaimBody
  rw [go_bind_ok hloc, aligned, go_needM_bind, tagged, go_needM_bind, go_bind_ok hrel, go_bind_ok hgate, go_bind_ok hacq, go_bind_ok hread]
  simp only [queueHeader_admitted hcap hzero, count, go_needM_bind, bitsAt_low]
  rfl
end

section
variable {e : Scope} {d : SReg} {l : Loc} {w : Who} {wix rix cap n : Nat} {s t : State} (htake : Runs (takeRels w.agent .acq e (look [] s.locs l.flat)) s () t)
include htake

theorem claimRead_room {u : State} (hwrite : Runs (homeWrite l 8 ((wix + n) % 2 ^ 64)) t () u) (h : (wix : Int) - rix + n ≤ cap) :
    (claimRead e d l w wix rix cap n).go s = (.ok (), (released w.agent e l.flat u).wrS d (BitVec.ofNat 64 wix)) := by
  unfold claimRead
  rw [go_get_bind, go_bind_ok htake, if_pos h, go_bind_ok hwrite, go_modify_bind, go_modify]

theorem claimRead_full (h : (cap : Int) < wix - rix + n) :
    (claimRead e d l w wix rix cap n).go s = (.ok (), t.wrS d (BitVec.ofNat 64 (2 ^ 64 - 1))) := by
  unfold claimRead
  rw [go_get_bind, go_bind_ok htake, if_neg (Int.not_le.mpr h), go_modify]

end

/-! ## The doorbell (R226, R243) -/

section
variable {e : Scope} {m : MOp} {a : SReg} {s s1 s2 : State} {l : Loc} (hloc : Runs (myLoc s m .store (fun t => t == 0x45)) s l s1)
  (hpeer : l.p.space ≠ 6) (hspace : 2 ≤ l.p.space) (hscope : inScope s.who.agent e (8192 + 1024 + homeOf l.flat) = true)
  (hagain : s.myStr.st = .wait ∧ s.myStr.wait = .own 6 → s2 = s1)
  (hfirst : ¬(s.myStr.st = .wait ∧ s.myStr.wait = .own 6) → Runs (storeOrd s.who l .rel e (s.rdS a).toNat) s1 () s2)

/-- The notice of a doorbell whose store has been made. -/
def notice (w : Who) (l : Loc) : M Unit := do
  modify fun s => writeBack w.tower (l.flat / 256) s
  if Config.noticeMax ≤ ((← get).tower (homeOf l.flat)).notices.length then
    modify dropAns
    waitM (.own 6)
  modify fun s => ringBells l.flat (s.setTower (homeOf l.flat) { s.tower (homeOf l.flat) with notices := (s.tower (homeOf l.flat)).notices ++ [l.flat] })

include hloc hpeer hspace hscope hagain hfirst in
/-- A doorbell stores on its first attempt alone, then gives its notice. -/
theorem go_qRingBody : (qRingBody e m a s).go s = (notice s.who l).go s2 := by
  have inside : (l.p.space != 6) = true := by simp [hpeer]
  have admitted : (decide (2 ≤ l.p.space) && inScope s.who.agent e (8192 + 1024 + homeOf l.flat)) = true := by simp [hspace, hscope]
  unfold qRingBody
  rw [go_bind_ok hloc, inside, go_needM_bind, admitted, go_needM_bind]
  by_cases h : s.myStr.st = .wait ∧ s.myStr.wait = .own 6
  · rw [if_neg (not_not_intro h), hagain h]
    rfl
  · rw [if_pos h, go_bind_ok (hfirst h)]
    rfl
end

theorem notice_room {w : Who} {l : Loc} {s v : State} (hv : v = writeBack w.tower (l.flat / 256) s)
    (h : (v.tower (homeOf l.flat)).notices.length < Config.noticeMax) :
    (notice w l).go s = (.ok (), ringBells l.flat (v.setTower (homeOf l.flat)
      { v.tower (homeOf l.flat) with notices := (v.tower (homeOf l.flat)).notices ++ [l.flat] })) := by
  subst hv
  unfold notice
  rw [go_modify_bind, go_get_bind, if_neg (Nat.not_le.mpr h)]
  rfl

theorem notice_full {w : Who} {l : Loc} {s v : State} (hv : v = writeBack w.tower (l.flat / 256) s)
    (h : Config.noticeMax ≤ (v.tower (homeOf l.flat)).notices.length) : (notice w l).go s = (.error (.wait (.own 6)), dropAns v) := by
  subst hv
  unfold notice
  rw [go_modify_bind, go_get_bind, if_pos h, go_modify_bind]
  exact go_bind_error (go_waitM _ _)

end Sys2Proof.Machine

namespace Sys2Proof.Proofs
open Sys2Proof.Machine Sys2Proof.Claims

/-- Settles O28: each form by its body, the claim's release moved before the gate of the host. -/
theorem monitorsAndQueueFormsComplete : Obligations.MonitorsAndQueueFormsComplete := by
  intro gd k e d a m s s1 s2 s3 s4 s5 l x hr w i64 n wix rix cap header
  refine ⟨fun hw hloc hme hload => ⟨fun hc => ?_, fun hc => ?_⟩, fun hloc halign htag hgate hrel hacq hread hheader => ?_,
    fun hloc hpeer hspace hscope hagain hfirst => ⟨fun h => ?_, fun h => ?_⟩⟩
  · rw [show w = s1.who from (who_of_myLoc hloc).symm] at hload
    refine completes_of_done rfl hr (ofM_done ((go_waddrBody hw hloc).trans (waddrEval_true hload ?_)))
    rw [hme]
    exact hc
  · rw [show w = s1.who from (who_of_myLoc hloc).symm] at hload
    refine waitsHere_of_stay rfl hr (ofM_stay ((go_waddrBody hw hloc).trans (waddrEval_false hload ?_)))
    rw [hme]
    exact hc
  · obtain ⟨hcap, hzero, hpos, hfits⟩ := hheader
    obtain ⟨r, hrel', hgate'⟩ := hostGate_release_comm hgate hrel
    have read := go_qClaimBody (d := d) hloc halign htag hrel' hgate' hacq hread hcap hzero hpos hfits
    refine ⟨fun h => ?_, fun h => ?_⟩
    · exact ⟨_, completes_of_done rfl hr (ofM_done (read.trans (claimRead_room rfl rfl h))), _, _, rfl, rfl, released_mem _ _ _ _⟩
    · exact ⟨_, completes_of_done rfl hr (ofM_done (read.trans (claimRead_full rfl h))), acquireRels_mem _ _ _ _⟩
  · exact completes_of_done rfl hr (ofM_done ((go_qRingBody hloc hpeer hspace hscope hagain hfirst).trans (notice_room rfl h)))
  · exact waitsHere_of_stay rfl hr (ofM_stay ((go_qRingBody hloc hpeer hspace hscope hagain hfirst).trans (notice_full rfl h)))

end Sys2Proof.Proofs
end

section
/-! SUPPORT. The ends of waits, of the licence's drain and of its hand-over (R128, R129, R133, R155-R157, R164, R215). -/
namespace Sys2Proof.Machine
open Claims

/-! ## Instructions redone (R128, R129, R164, R215) -/

@[simp] theorem streamLeader_leaderStream (l : Leader) : streamLeader (leaderStream l) = l := by cases l <;> rfl
@[simp] theorem isCtl_leaderStream (l : Leader) : isCtl (leaderStream l) = true := by cases l <;> rfl

theorem redoStr_ctl (c : Nat) (l : Leader) (ok : Wait → Bool) (redo : Instr → Option (State → Out)) (s : State) :
    redoStr c (leaderStream l) ok redo s = redoCtl c l ok redo s := by
  rw [redoStr, isCtl_leaderStream, if_pos rfl, streamLeader_leaderStream]

section
variable {c : Nat} {w : Wait} {s : State} {ok : Wait → Bool} {redo : Instr → Option (State → Out)} (hok : ok w = true)
include hok

/-- A control core in a wait that ends executes again the instruction that it waits in. -/
theorem redoCtl_waiting {l : Leader} {i : Instr} {f : State → Out} {t : State} (hw : InWait s c (leaderStream l) w) (hi : issued s c l = some i)
    (hf : redo i = some f) (ht : f (focus c (leaderStream l) s) = .next t) : redoCtl c l ok redo s = { t with cur := s.cur } := by
  obtain ⟨hst, hrun, hwait⟩ := hw
  unfold redoCtl
  simp only [hst, hrun, hwait, hok, beq_self_eq_true, Bool.and_self, if_true, hi, Option.bind_some, hf]
  exact congrArg (fun t : State => { t with cur := s.cur }) (congrArg (orSame (focus c (leaderStream l) s)) ht)

/-- A sequencer in a wait that ends takes the gate it stands at. -/
theorem redoStr_engine {e : Eng} (hw : InWait s c (engStream e) w) : redoStr c (engStream e) ok redo s = engineStep c e s := by
  obtain ⟨hst, hrun, hwait⟩ := hw
  have engine : isCtl (engStream e) = false ∧ streamEng (engStream e) = e := by cases e <;> exact ⟨rfl, rfl⟩
  unfold redoStr
  simp only [engine.1, engine.2, hst, hrun, hwait, hok, beq_self_eq_true, Bool.and_self, Bool.true_or, if_true, Bool.false_eq_true, if_false]

variable {ev : Instr} (hp : s.powered = true)
include hp

theorem redoes_of_redoCtl {l : Leader} {i : Instr} (hev : exec ev = event (redoCtl c l ok redo)) (hw : InWait s c (leaderStream l) w)
    (hi : redo i = some (exec i)) : Redoes ev c l s i := fun hissued t ht => by
  rw [Happens, hev]
  exact event_eq hp (redoCtl_waiting hok hw hissued hi ht)

theorem redoes_of_redoStr {l : Leader} {i : Instr} (hev : exec ev = event (redoStr c (leaderStream l) ok redo)) (hw : InWait s c (leaderStream l) w)
    (hi : redo i = some (exec i)) : Redoes ev c l s i :=
  redoes_of_redoCtl hok hp (hev.trans (congrArg event (funext fun s => redoStr_ctl c l ok redo s))) hw hi

theorem happens_of_redoStr {e : Eng} (hev : exec ev = event (redoStr c (engStream e) ok redo)) (hw : InWait s c (engStream e) w) :
    Happens ev s (engineStep c e s) := by
  rw [Happens, hev]
  exact event_eq hp (redoStr_engine hok hw)
end

/-! ## The stream that goes on -/

section
variable {c : Nat} {s : State}

theorem myStr_of_cur {x : Stream} (h : s.cur = (c, x)) : s.str c x = s.myStr := by rw [State.myStr, State.cc, h]
theorem me_of_cur {l : Leader} (h : s.cur = (c, leaderStream l)) : s.ctlOf c l = s.me := by
  rw [State.me, State.cl, State.cc, h, streamLeader_leaderStream]

theorem resumeAt_cur (n : Nat) (s : State) : (resumeAt n s).cur = s.cur := by
  obtain ⟨q, hq⟩ := endWait_completed_eq s.cc s.cur.2 s
  simp only [resumeAt, hq, dropAns]
  split <;> rfl

theorem resumeAt_groups (n : Nat) (s : State) : (resumeAt n s).groups = s.groups := by
  obtain ⟨q, hq⟩ := endWait_completed_eq s.cc s.cur.2 s
  simp only [resumeAt, hq, dropAns]
  split <;> rfl

theorem resumeAt_wait (n : Nat) (s : State) : (resumeAt n s).myStr.wait = .none := by simp [resumeAt]

/-- The control core that an event resumes past its instruction. -/
theorem resumed_stream {l : Leader} {u : State} (n : Nat) (h : u.cur = (c, leaderStream l)) :
    ((resumeAt n u).str c (leaderStream l)).pc = n ∧ ((resumeAt n u).str c (leaderStream l)).wait = .none ∧
      (resumeAt n u).ctlOf c l = { u.me with ans := .none } := by
  have hcur := (resumeAt_cur n u).trans h
  rw [myStr_of_cur hcur, me_of_cur hcur, resumeAt_me]
  exact ⟨resumeAt_pc n u, resumeAt_wait n u, rfl⟩
end

/-- A rendezvous whose engines are done takes their frontiers (R151, R155). -/
theorem rdv_done {s : State} (h : jobBusy s s.cc s.cl = false) :
    ∃ u, rdv s = .done u ∧ u.me.rdvF = .empty ∧ u.mem = s.mem ∧ u.cur = s.cur := by
  refine ⟨_, (if_neg (Bool.not_eq_true _ ▸ h)).trans rfl, ?_, ?_, ?_⟩
  · exact congrArg Ctl.rdvF (me_setMe _ _)
  · exact takeFrontier_mem _ _ s
  · exact (steady_setClock s _ _).cur

/-! ## Monitors (R133) -/

section
variable {c : Nat} {l : Leader} {h d a : Nat} {k : Cond} {z : Scope} {loc : Loc} {v : Nat} {s u : State}
  (hw : InWait s c (leaderStream l) (.addr h d a k z loc)) (hload : Runs (loadOrd (focus c (leaderStream l) s).who loc .acq z) (focus c (leaderStream l) s) v u)

/-- What a re-evaluation does in the stream that it is for. -/
def reevaluate (s : State) : State :=
  match s.myStr.wait with
  | .addr h d a k e l => if canRun s then (Eff.ofM (waddrEval h k e d a l) s).finish s.me s.pc 8 else s
  | _ => s

/-- The event of a monitor is its re-evaluation as the stream that armed it. -/
theorem happens_of_reevaluate {c : CoreId} {t : State} (hp : s.powered = true) (h : reevaluate (focus c (leaderStream l) s) = t) :
    Happens (.waddrReevaluate c l) s { t with cur := s.cur } :=
  event_eq (f := asStream c (leaderStream l) reevaluate) hp (congrArg (fun t : State => { t with cur := s.cur }) h)

include hw in
theorem reevaluate_armed : reevaluate (focus c (leaderStream l) s) =
    (Eff.ofM (waddrEval h k z d a loc) (focus c (leaderStream l) s)).finish (focus c (leaderStream l) s).me (focus c (leaderStream l) s).pc 8 := by
  obtain ⟨-, hrun, hwait⟩ := hw
  have armed : (focus c (leaderStream l) s).myStr.wait = .addr h d a k z loc := hwait
  unfold reevaluate
  simp only [armed, hrun, if_true]

include hload in
theorem me_of_loadOrd : u.me = (focus c (leaderStream l) s).me := (steady_of_go_eq (steady_loadOrd _ _ _ _ _) hload).me

include hw hload

theorem reevaluate_waits (hc : cond k (BitVec.ofNat 64 v) (u.me.rdS a) = false) :
    reevaluate (focus c (leaderStream l) s) = waitOn (.addr h d a k z loc) (dropAns u) := by
  rw [reevaluate_armed hw, ofM_stay (waddrEval_false hload (me_of_loadOrd hload ▸ hc))]
  rfl

theorem reevaluate_ends (hc : cond k (BitVec.ofNat 64 v) (u.me.rdS a) = true)
    (hs : (focus c (leaderStream l) s).me.priv = true ∨ (focus c (leaderStream l) s).me.step = false) :
    reevaluate (focus c (leaderStream l) s) = resumeAt ((focus c (leaderStream l) s).pc + 8) (u.setMe (u.me.wrS d (BitVec.ofNat 64 v))) := by
  rw [reevaluate_armed hw, ofM_done (waddrEval_true hload (me_of_loadOrd hload ▸ hc))]
  exact stepTrap_none _ _ _ hs
end

/-! ## The licence (R156, R157) -/

theorem levelOf_pairCore {l : Nat} (h : l < 2) (p : Nat) : levelOf (pairCore p l) = l := by
  unfold levelOf pairCore
  omega

theorem pairOf_pairCore {l : Nat} (h : l < 2) (p : Nat) : pairOf (pairCore p l) = p := by
  unfold pairOf pairCore
  omega

theorem pairs_denyStream (c : Nat) (asked : Bool) (s : State) (x : Stream) : (denyStream c asked s x).pairs = s.pairs := by
  simp only [denyStream]
  split
  · rfl
  · split <;> rfl

/-- A core whose waits are denied wants the licence no more. -/
theorem denyWaits_pair {p l : Nat} (h : l < 2) (s : State) :
    (denyWaits (pairCore p l) s).pair p = { s.pair p with want := (s.pair p).want.erase l } := by
  have asked : ∀ t : State, ∀ b, ([Stream.lcc, .ccc, .me].foldl (denyStream (pairCore p l) b) t).pairs = t.pairs := fun t b => by
    simp only [List.foldl_cons, List.foldl_nil, pairs_denyStream]
  rw [denyWaits_eq, State.pair, asked]
  unfold noWant
  rw [levelOf_pairCore h, pairOf_pairCore h]
  exact pair_setPair _ _ _

theorem serveFree_disabled {p : Nat} {s : State} (hf : (s.pair p).lic = .free) (hd : (s.pair p).disable = true) :
    (serveFree p s).pair p = { s.pair p with lic := .disabled, want := ((s.pair p).want.erase 1).erase 0 } := by
  simp only [serveFree, hf, ne_eq, not_true_eq_false, if_false, hd, if_true]
  rw [denyWaits_pair (by decide), denyWaits_pair (by decide), pair_setPair]

theorem serveFree_again {p : Nat} {s : State} (hf : (s.pair p).lic = .free) (hd : (s.pair p).disable = false)
    (hy : (s.pair p).want.contains (1 - (s.pair p).last) = false) (hx : (s.pair p).want.contains (s.pair p).last = true) :
    (serveFree p s).pair p = { s.pair p with lic := .handover, who := (s.pair p).last } := by
  simp only [serveFree, hf, ne_eq, not_true_eq_false, if_false, hd, hy, hx, if_true, Bool.false_eq_true]
  exact pair_setPair _ _ _

theorem serveFree_idle {p : Nat} {s : State} (hf : (s.pair p).lic = .free) (hd : (s.pair p).disable = false)
    (hy : (s.pair p).want.contains (1 - (s.pair p).last) = false) (hx : (s.pair p).want.contains (s.pair p).last = false) :
    serveFree p s = s := by
  simp only [serveFree, hf, ne_eq, not_true_eq_false, if_false, hd, hy, hx, Bool.false_eq_true]

/-- A drain whose twin does not ask ends as from FREE: the holder was the last. -/
theorem serveFree_drained {p : Nat} {s : State} (hf : (s.pair p).lic = .free) (hlast : (s.pair p).last = (s.pair p).who)
    (hy : (s.pair p).want.contains (1 - (s.pair p).last) = false) : (serveFree p s).pair p = { s.pair p with
      lic := if (s.pair p).disable then .disabled else if (s.pair p).want.contains (s.pair p).who then .handover else .free
      want := if (s.pair p).disable then ((s.pair p).want.erase 1).erase 0 else (s.pair p).want } := by
  cases hd : (s.pair p).disable with
  | true =>
    rw [serveFree_disabled hf hd, ← hd]
    simp only [hd, if_true]
  | false =>
    cases hx : (s.pair p).want.contains (s.pair p).who with
    | true =>
      rw [serveFree_again hf hd hy (hlast ▸ hx), hlast, ← hd]
      simp only [hd, Bool.false_eq_true, if_false, if_true]
    | false =>
      rw [serveFree_idle hf hd hy (hlast ▸ hx)]
      simp only [Bool.false_eq_true, if_false, ← hf]

end Sys2Proof.Machine

namespace Sys2Proof.Proofs
open Sys2Proof.Machine Sys2Proof.Claims

/-- Settles O38: waits by the instruction redone, the licence by what its pair holds. -/
theorem waitAndLicenceEventsHappen : Obligations.WaitAndLicenceEventsHappen := by
  constructor
  · intro c l e gd s hp x
    refine ⟨fun k n b hw a j => ?_, fun k b hw a => ?_, fun g h n hw a => ?_, fun a n hw hi hr hgen => ?_,
      fun hw => redoes_of_redoCtl (w := .rdv) rfl hp rfl hw rfl, fun hw hi hr hidle => ?_, fun k hw o z m a g => ?_,
      fun k n b hw => happens_of_redoStr rfl hp rfl hw, fun k b hw => happens_of_redoStr rfl hp rfl hw, fun k hw => happens_of_redoStr rfl hp rfl hw,
      fun h d a k z loc hw v u hload => ⟨fun hc => ?_, fun hc hs => ?_⟩⟩
    · simp only [List.forall_mem_cons, List.not_mem_nil, false_imp_iff, implies_true, and_true]
      exact ⟨redoes_of_redoStr rfl hp rfl hw rfl, redoes_of_redoStr rfl hp rfl hw rfl⟩
    · simp only [List.forall_mem_cons, List.not_mem_nil, false_imp_iff, implies_true, and_true]
      exact ⟨redoes_of_redoStr rfl hp rfl hw rfl, redoes_of_redoStr rfl hp rfl hw rfl⟩
    · simp only [List.forall_mem_cons, List.not_mem_nil, false_imp_iff, implies_true, and_true]
      exact ⟨redoes_of_redoCtl rfl hp rfl hw rfl, redoes_of_redoCtl rfl hp rfl hw rfl, redoes_of_redoCtl rfl hp rfl hw rfl⟩
    · obtain ⟨u, hu, hwaited⟩ := barWait_ends hr a (.inl (inHalf_waiting hw.1 hw.2.2)) (waitTicket_waiting hw.2.2) hgen
      obtain ⟨hpc, hnone, hme⟩ := resumed_stream ((focus c x s).pc + 4) (hwaited.mySpot : u.cur = (c.val, leaderStream l))
      refine ⟨_, redoes_of_redoCtl rfl hp rfl hw rfl hi _ hu, hpc, hnone, ?_, (resumeAt_groups ((focus c x s).pc + 4) u).trans hwaited.groups⟩
      refine (congrArg (fun t : Ctl => look false t.arr a.val) hme).trans ?_
      rw [hwaited.me]
      exact look_put_same _ _ _ _
    · obtain ⟨u, hu, hempty, hmem, hcur⟩ := rdv_done (s := focus c x s) (by cases l <;> exact hidle)
      obtain ⟨hpc, hnone, hme⟩ := resumed_stream ((focus c x s).pc + 4) (hcur : u.cur = (c.val, leaderStream l))
      refine ⟨_, redoes_of_redoCtl (w := .rdv) rfl hp rfl hw rfl hi _ (completes_of_done rfl hr hu), hpc, hnone, ?_, (resumeAt_mem ((focus c x s).pc + 4) u).trans hmem⟩
      exact (congrArg (fun t : Ctl => t.rdvF) hme).trans hempty
    · simp only [List.forall_mem_cons, List.not_mem_nil, false_imp_iff, implies_true, and_true]
      exact ⟨redoes_of_redoStr rfl hp rfl hw rfl, redoes_of_redoStr rfl hp rfl hw rfl, redoes_of_redoStr rfl hp rfl hw rfl,
        redoes_of_redoStr rfl hp rfl hw rfl, redoes_of_redoStr rfl hp rfl hw rfl, redoes_of_redoStr rfl hp rfl hw rfl, redoes_of_redoStr rfl hp rfl hw rfl⟩
    · exact happens_of_reevaluate hp (reevaluate_waits hw hload hc)
    · exact happens_of_reevaluate hp (reevaluate_ends hw hload hc hs)
  · intro p s hp k holder s1
    refine ⟨fun hlic hy => ?_, fun hlic hy => ⟨_, event_runs _ s hp, ?_⟩, fun hlic => event_eq hp (if_pos hlic), fun hlic => event_eq hp (if_pos hlic),
      fun hlic => event_eq hp (if_neg hlic)⟩
    · refine event_eq hp ((if_neg (not_not_intro hlic)).trans ?_)
      exact if_pos hy
    · have drained : drainEnd p s = serveFree p (s1.setPair p { k with last := k.who, lic := .free }) :=
        (if_neg (not_not_intro hlic)).trans (if_neg (by rw [hy]; exact Bool.false_ne_true))
      rw [drained]
      have last : (s1.setPair p { k with last := k.who, lic := .free }).pair p = { k with last := k.who, lic := .free } := pair_setPair _ _ _
      refine ⟨serveFree_mem p _, ?_⟩
      rw [serveFree_drained (by rw [last]) (by rw [last]) (by rw [last]; exact hy), last]

end Sys2Proof.Proofs
end

section
/-! SUPPORT. The gates of a record: head check, entry, reads, licence, reservation, issue and completion (R127, R157, R182-R185, R409-R411, R419). -/
namespace Sys2Proof.Machine
open Claims

/-! ## A sequencer that goes on -/

section
variable (c : Nat) (e : Eng) (s : State)

theorem engRun_eq : ∃ q, engRun c e s = ({ s with trcQ := q } : State).setStr c (engStream e) { s.str c (engStream e) with st := .run, wait := .none } := by
  obtain ⟨q, hq⟩ := endWait_completed_eq c (engStream e) s
  exact ⟨q, by rw [engRun, hq]; rfl⟩

@[simp] theorem engRun_seqOf : (engRun c e s).seqOf c e = s.seqOf c e := by
  obtain ⟨q, hq⟩ := engRun_eq c e s
  rw [hq, seqOf_setStr]
  rfl

theorem engRun_str : (engRun c e s).str c (engStream e) = { s.str c (engStream e) with st := .run, wait := .none } := by
  obtain ⟨q, hq⟩ := engRun_eq c e s
  rw [hq, str_setStr]

theorem engRun_str_other {x : Stream} (h : x ≠ engStream e) : (engRun c e s).str c x = s.str c x := by
  obtain ⟨q, hq⟩ := engRun_eq c e s
  rw [hq, str_setStr_other _ c _ h]
  rfl

theorem engRun_repMode : repMode (engRun c e s) = repMode s := by
  obtain ⟨q, hq⟩ := engRun_eq c e s
  rw [hq]
  rfl

theorem engRun_tokens (j : Nat) : tokens (engRun c e s) c j = tokens s c j := by
  obtain ⟨q, hq⟩ := engRun_eq c e s
  rw [hq, tokens, State.setStr, core_setCore]
  rfl

theorem engRun_semOf (j : Nat) : semOf (engRun c e s) c j = semOf s c j := by
  obtain ⟨q, hq⟩ := engRun_eq c e s
  rw [hq, semOf, State.setStr, core_setCore]
  rfl

@[simp] theorem setRun_run (u : Option Run) : ((setRun c e u s).seqOf c e).run = u := by simp [setRun, seqOf_setSeqOf]

theorem setRun_tokens (u : Option Run) (j : Nat) : tokens (setRun c e u s) c j = tokens s c j := by
  rw [setRun, tokens, State.setSeqOf, core_setCore]
  cases e <;> rfl

theorem setRun_semOf (u : Option Run) (j : Nat) : semOf (setRun c e u s) c j = semOf s c j := by
  rw [setRun, semOf, State.setSeqOf, core_setCore]
  cases e <;> rfl

/-- A note in the trace leaves every core as it was. -/
theorem noteOpen_cores (src kind : Nat) : (s.noteOpen src kind).cores = s.cores := by
  obtain ⟨q, hq⟩ := note_eq src kind (Config.freeNat s.freeCtr (64 + kind) % 2 ^ 128) s
  rw [State.noteOpen, hq]

theorem noteOpen_core (src kind : Nat) : (s.noteOpen src kind).core c = s.core c := congrArg (look Core.reset · c) (noteOpen_cores s src kind)

theorem leaderStream_ne_engStream (l : Leader) (e : Eng) : leaderStream l ≠ engStream e := by cases l <;> cases e <;> decide
end

/-! ## What a record takes at its entry (R127) -/

/-- The token and the count that a record takes as it enters. -/
def entryTakes (c : Nat) (e : Eng) (r : Rec) (s : State) : Option State :=
  (if 8 ≤ r.tpop.val then tokenPop c (agentOf c (engStream e)) (r.tpop.val % 8) s else some s).bind fun t =>
    if 32 ≤ r.swait.val then semTake c (agentOf c (engStream e)) (r.swait.val % 32) 1 t else some t

/-- The record as it stands once it has entered. -/
def entered (c : Nat) (e : Eng) (u : Run) (s : State) : Run :=
  let k := (s.str c (leaderStream (s.str c (engStream e)).job)).clk
  { u with phase := .read, noteId := s.freeCtr, views := k.views, clr := k.clr }

/-- What a record names has been taken, and the streams stand. -/
structure Taken (c : Nat) (r : Rec) (s t : State) : Prop where
  tokens : 8 ≤ r.tpop.val → tokens t c (r.tpop.val % 8) = (tokens s c (r.tpop.val % 8)).tail
  sem : 32 ≤ r.swait.val → (semOf t c (r.swait.val % 32)).1 = (semOf s c (r.swait.val % 32)).1 - 1
  mem : t.mem = s.mem
  steady : Steady s t

theorem entryTakes_free {c : Nat} {e : Eng} {r : Rec} {s : State} (h : repMode s = 0) (htok : 8 ≤ r.tpop.val → tokens s c (r.tpop.val % 8) ≠ [])
    (hsem : 32 ≤ r.swait.val → (semOf s c (r.swait.val % 32)).1 ≠ 0) : ∃ t, entryTakes c e r s = some t ∧ Taken c r s t := by
  have pop : ∃ t, (if 8 ≤ r.tpop.val then tokenPop c (agentOf c (engStream e)) (r.tpop.val % 8) s else some s) = some t ∧
      (8 ≤ r.tpop.val → tokens t c (r.tpop.val % 8) = (tokens s c (r.tpop.val % 8)).tail) ∧ (∀ j, semOf t c j = semOf s c j) ∧ t.mem = s.mem ∧ Steady s t := by
    by_cases hpop : 8 ≤ r.tpop.val
    · rw [if_pos hpop]
      obtain ⟨p, l, hl⟩ := List.exists_cons_of_ne_nil (htok hpop)
      obtain ⟨t, ht, hset⟩ := tokenPop_free (agent := agentOf c (engStream e)) h hl
      exact ⟨t, ht, fun _ => by rw [hset.val, hl]; rfl, hset.sems, hset.mem, hset.steady⟩
    · rw [if_neg hpop]
      exact ⟨s, rfl, fun hp => absurd hp hpop, fun _ => rfl, rfl, .refl s⟩
  obtain ⟨t, ht, htok, hsems, hmem, hsteady⟩ := pop
  unfold entryTakes
  rw [ht, Option.bind_some]
  by_cases hwait : 32 ≤ r.swait.val
  · have hrep : repMode t = 0 := by rw [repMode, hsteady.replay]; exact h
    have hcount : 1 ≤ (semOf t c (r.swait.val % 32)).1 := by rw [hsems]; exact Nat.one_le_iff_ne_zero.mpr (hsem hwait)
    obtain ⟨v, hv, hset⟩ := semTake_free (agent := agentOf c (engStream e)) hrep hcount
    rw [if_pos hwait]
    exact ⟨v, hv, fun hp => (hset.toks _).trans (htok hp), fun _ => by rw [hset.val, hsems], hset.mem.trans hmem, hsteady.trans hset.steady⟩
  · rw [if_neg hwait]
    exact ⟨t, rfl, htok, fun hw => absurd hw hwait, hmem, hsteady⟩

/-! ## The gates of a record that stands at its sequencer -/

section
variable {c : Nat} {e : Eng} {s : State} {u : Run} (hs : Stands s c e u)
include hs

/-- An event of a sequencer that can move happens as its step says. -/
theorem happens_of_engAct {i : Instr} {f : State → State} {t : State} (hi : exec i = event (engAct c e f)) (h : f s = t) : Happens i s t := by
  obtain ⟨hp, hrun, -⟩ := hs
  rw [Happens, hi]
  exact event_eq hp ((if_pos hrun).trans h)

/-- A gate that passes has the stream run with the record as it then stands. -/
theorem runM_passes {m : Run → M Run} {v : Run} {t : State} (h : (m u).go s = (.ok v, t)) : runM c e m s = engRun c e (setRun c e (some v) t) := by
  unfold runM
  rw [hs.2.2]
  simp only [h]

theorem runM_traps {m : Run → M Run} {y : Trap} {t : State} (h : (m u).go s = (.error (.trap y), t)) : runM c e m s = runTrap c e y t := by
  unfold runM
  rw [hs.2.2]
  simp only [h]

theorem runM_waits {m : Run → M Run} {w : Wait} {t : State} (h : (m u).go s = (.error (.wait w), t)) : runM c e m s = engWait c e w t := by
  unfold runM
  rw [hs.2.2]
  simp only [h]

/-- The gates after a record's reads are one step of its sequencer. -/
theorem recordIssue_gate (h : u.phase = .licence ∨ u.phase = .reserve ∨ u.phase = .issue) : recordIssue c e s = runM c e (gate c e) s := by
  unfold recordIssue
  rw [hs.2.2]
  rcases h with h | h | h <;> simp only [h]
end

/-! ## Head check (R182) -/

section
variable {c : Nat} {e : Eng} {s : State} (hrun : canRun (focus c (engStream e) s) = true) (hnone : (s.seqOf c e).run = none)
  (hst : (s.str c (engStream e)).st ≠ .trap) (hpc : (s.str c (engStream e)).pc + 63 < 262144) (hload : loadingAt s c (s.str c (engStream e)).pc = false)
  (hmark : (List.range 8).any (fun j => imMarked s c ((s.str c (engStream e)).pc + 8 * j)) = false)
include hrun hnone hst

theorem sequencer_moves : ((s.seqOf c e).run.isSome || (s.str c (engStream e)).st == .idle || (s.str c (engStream e)).st == .halt ||
    (s.str c (engStream e)).st == .trap) = false := by
  have myStr : (focus c (engStream e) s).myStr = s.str c (engStream e) := rfl
  simp only [canRun, myStr, Bool.not_eq_true', Bool.or_eq_false_iff] at hrun
  simp only [hnone, hrun, Option.isSome_none, Bool.false_or, beq_eq_false_iff_ne, ne_eq, hst, not_false_eq_true]

include hpc hload hmark

/-- A sequencer that can move decodes the record at its PC. -/
theorem recordHead_takes {i : Instr} (hd : decodeRecord (recordWords s c (s.str c (engStream e)).pc) = some i)
    (hl : recordLegal e (s.str c (engStream e)).pc i = true) :
    recordHead c e s = engRun c e (setRun c e (some (Run.fresh s c e i (s.str c (engStream e)).pc .entry)) s) := by
  unfold recordHead
  simp only [sequencer_moves hrun hnone hst, hload, hmark, Bool.false_eq_true, if_false, Nat.not_le.mpr hpc, hd, hl, if_true]

theorem recordHead_illegal (h : ∀ i, decodeRecord (recordWords s c (s.str c (engStream e)).pc) = some i → recordLegal e (s.str c (engStream e)).pc i = false) :
    recordHead c e s = runTrap c e ⟨.recordIllegal, 0⟩ s := by
  unfold recordHead
  simp only [sequencer_moves hrun hnone hst, hload, hmark, Bool.false_eq_true, if_false, Nat.not_le.mpr hpc]
  cases hd : decodeRecord (recordWords s c (s.str c (engStream e)).pc) with
  | none => rfl
  | some i => simp only [h i hd, Bool.false_eq_true, if_false]
end

/-! ## Entry (R127, R160) -/

section
variable {c : Nat} {e : Eng} {s : State} {u : Run} (hs : Stands s c e u) (hphase : u.phase = .entry) 
include hs hphase

theorem recordEntry_marked (hm : s.modBad = true) : recordEntry c e s = runTrap c e ⟨.uncorrectable, 0⟩ s := by
  unfold recordEntry
  rw [hs.2.2]
  simp only [hphase, ne_eq, not_true_eq_false, if_false, hm, if_true]

variable (hm : s.modBad = false) (hvote : engineOf u.instr = 0 ∨ voteHolds s c = false)
include hm hvote

/-- A record whose module is whole and whose job no vote holds looks at its token and its count. -/
theorem recordEntry_open : recordEntry c e s =
    if 8 ≤ (recOf' u.instr).tpop.val && (tokens s c ((recOf' u.instr).tpop.val % 8)).isEmpty then engWait c e (.token ((recOf' u.instr).tpop.val % 8) false) s
    else if 32 ≤ (recOf' u.instr).swait.val && (semOf s c ((recOf' u.instr).swait.val % 32)).1 == 0 then
      engWait c e (.sem ((recOf' u.instr).swait.val % 32) 1 false) s
    else match entryTakes c e (recOf' u.instr) (engRun c e s) with
      | none => engWait c e .other s
      | some t => (setRun c e (some (entered c e u t)) t).noteOpen (agentOf c (engStream e)) 1 := by
  have unheld : (decide (engineOf u.instr ≠ 0) && voteHolds s c) = false := by
    rcases hvote with h | h
    · simp [h]
    · simp [h]
  unfold recordEntry
  rw [hs.2.2]
  simp only [hphase, ne_eq, not_true_eq_false, if_false, hm, Bool.false_eq_true]
  rw [if_neg (by rw [unheld]; exact Bool.false_ne_true)]
  rfl

theorem recordEntry_empty (hpop : 8 ≤ (recOf' u.instr).tpop.val) (h : tokens s c ((recOf' u.instr).tpop.val % 8) = []) :
    recordEntry c e s = engWait c e (.token ((recOf' u.instr).tpop.val % 8) false) s := by
  rw [recordEntry_open hs hphase hm hvote, if_pos (by simp [hpop, h])]

theorem recordEntry_enters (htok : 8 ≤ (recOf' u.instr).tpop.val → tokens s c ((recOf' u.instr).tpop.val % 8) ≠ [])
    (hsem : 32 ≤ (recOf' u.instr).swait.val → (semOf s c ((recOf' u.instr).swait.val % 32)).1 ≠ 0) {t : State}
    (ht : entryTakes c e (recOf' u.instr) (engRun c e s) = some t) :
    recordEntry c e s = (setRun c e (some (entered c e u t)) t).noteOpen (agentOf c (engStream e)) 1 := by
  rw [recordEntry_open hs hphase hm hvote, if_neg (by simpa using htok), if_neg (by simpa using hsem), ht]

end

/-! ## Reads (R205, R305) -/

section
variable {c : Nat} {e : Eng} {s : State} {u : Run} (hs : Stands s c e u) (hphase : u.phase = .read)
include hs hphase

theorem recordOperandRead_marked (h : operandMarked s c e u.instr = true) : recordOperandRead c e s = runTrap c e ⟨.uncorrectable, 0⟩ s := by
  unfold recordOperandRead
  rw [hs.2.2]
  simp only [hphase, ne_eq, not_true_eq_false, if_false, h, if_true]

theorem recordOperandRead_reads (h : operandMarked s c e u.instr = false) : recordOperandRead c e s =
    setRun c e (some { Run.fresh s c e u.instr u.pc .check with
      noteId := u.noteId, views := u.views, clr := u.clr, phase := if engineOf u.instr = 0 then .complete else .check }) s := by
  unfold recordOperandRead
  rw [hs.2.2]
  simp only [hphase, ne_eq, not_true_eq_false, if_false, h, Bool.false_eq_true]

end

/-! ## Licence and reservation (R157, R409, R419) -/

section
variable {c : Nat} {e : Eng} {s : State} {u : Run}

theorem licenceGate_passes (h : engineOf u.instr ≠ 1 ∨ holdsLic s c = true) : (licenceGate c u).go s = (.ok { u with phase := .reserve }, s) := by
  unfold licenceGate
  by_cases h1 : engineOf u.instr = 1
  · have held : holdsLic s c = true := h.resolve_left (not_not_intro h1)
    have need : (needLicence c).go s = (.ok (), s) := by
      unfold needLicence
      rw [go_get_bind, if_pos held, go_pure]
    rw [if_pos h1, go_bind_ok need, go_pure]
  · rw [if_neg h1]
    rfl

theorem licenceGate_disabled (h1 : engineOf u.instr = 1) (hheld : holdsLic s c = false) (hd : (s.pair (pairOf c)).lic = .disabled) :
    (licenceGate c u).go s = (.error (.trap ⟨.licenceDisabled, 0⟩), s) := by
  have need : (needLicence c).go s = (.error (.trap ⟨.licenceDisabled, 0⟩), s) := by
    unfold needLicence
    rw [go_get_bind, if_neg (by simp [hheld]), if_pos (.inl hd), go_trapM]
  unfold licenceGate
  rw [if_pos h1, go_bind_error need]

/-- An ME record whose licence is gone waits for the licence again, its reservation released (R410). -/
theorem reserveGate_unlicensed (h1 : engineOf u.instr = 1) (hheld : holdsLic s c = false) :
    (reserveGate c e u).go s = (.ok { u with phase := .licence }, dropResv c (engStream e) s) := by
  unfold reserveGate
  rw [go_get_bind, if_pos (by simp [h1, hheld]), go_modify_bind, go_pure]

section
variable (hlic : engineOf u.instr = 1 → holdsLic s c = true)
include hlic

/-- A licensed record at its reservation. -/
theorem reserveGate_licensed : (reserveGate c e u).go s =
    (if holdsResv s c (engStream e) then pure { u with phase := .issue, held := resvUnits s c (engStream e) } else do
      if wantsResv s c (engStream e) then waitM .reservation
      needM (classEn s (recOf' u.instr).pcls.val && decide (classUnits s (recOf' u.instr).pcls.val (engineOf u.instr) ≤ Config.clMax)) .powerDenied
        (recOf' u.instr).pcls.val
      if classUnits s (recOf' u.instr).pcls.val (engineOf u.instr) = 0 then return { u with phase := .issue }
      set (reserve c (engStream e) (classUnits s (recOf' u.instr).pcls.val (engineOf u.instr)) s)
      waitM .reservation : M Run).go s := by
  unfold reserveGate
  rw [go_get_bind, if_neg (by simpa using hlic)]

theorem reserveGate_held (h : holdsResv s c (engStream e) = true) :
    (reserveGate c e u).go s = (.ok { u with phase := .issue, held := resvUnits s c (engStream e) }, s) := by
  rw [reserveGate_licensed hlic, if_pos h, go_pure]

variable (hheld : holdsResv s c (engStream e) = false)
include hheld

theorem reserveGate_wanted (h : wantsResv s c (engStream e) = true) : (reserveGate c e u).go s = (.error (.wait .reservation), s) := by
  rw [reserveGate_licensed hlic, if_neg (by simp [hheld]), if_pos h]
  exact go_bind_error (go_waitM _ _)

variable (hwant : wantsResv s c (engStream e) = false)
include hwant

theorem reserveGate_denied (h : ¬(classEn s (recOf' u.instr).pcls.val = true ∧ classUnits s (recOf' u.instr).pcls.val (engineOf u.instr) ≤ Config.clMax)) :
    (reserveGate c e u).go s = (.error (.trap ⟨.powerDenied, (recOf' u.instr).pcls.val⟩), s) := by
  have denied : (classEn s (recOf' u.instr).pcls.val && decide (classUnits s (recOf' u.instr).pcls.val (engineOf u.instr) ≤ Config.clMax)) = false := by
    simpa using h
  rw [reserveGate_licensed hlic, if_neg (by simp [hheld]), if_neg (by simp [hwant]), denied]
  exact go_needM_false_bind _ _ _ _

variable (henabled : classEn s (recOf' u.instr).pcls.val = true ∧ classUnits s (recOf' u.instr).pcls.val (engineOf u.instr) ≤ Config.clMax)
include henabled

theorem reserveGate_free (h : classUnits s (recOf' u.instr).pcls.val (engineOf u.instr) = 0) :
    (reserveGate c e u).go s = (.ok { u with phase := .issue }, s) := by
  rw [reserveGate_licensed hlic, if_neg (by simp [hheld]), if_neg (by simp [hwant]),
    show (_ && _) = true from Bool.and_eq_true_iff.mpr ⟨henabled.1, decide_eq_true henabled.2⟩]
  dsimp only
  rw [go_needM_bind, if_pos h, go_pure]

theorem reserveGate_asks (h : classUnits s (recOf' u.instr).pcls.val (engineOf u.instr) ≠ 0) : (reserveGate c e u).go s =
    (.error (.wait .reservation), reserve c (engStream e) (classUnits s (recOf' u.instr).pcls.val (engineOf u.instr)) s) := by
  rw [reserveGate_licensed hlic, if_neg (by simp [hheld]), if_neg (by simp [hwant]),
    show (_ && _) = true from Bool.and_eq_true_iff.mpr ⟨henabled.1, decide_eq_true henabled.2⟩]
  dsimp only
  rw [go_needM_bind, if_neg h, go_set_bind, go_waitM]

end
end

/-! ## Issue (R183; notes/assumptions/18.md) -/

/-- An issue acts on a state in which the results of earlier issues may or may not have left the engine. -/
theorem gate_issues {c : Nat} {e : Eng} {s t : State} {u v : Run} (hphase : u.phase = .issue) (hn : u.n < u.total)
    (h : Runs (issueFn u.instr c e u) (if Config.freeBit (reinject c (streamNo (engStream e)) s).freeCtr 453 then
      landEng c (streamNo (engStream e)) (reinject c (streamNo (engStream e)) s) else reinject c (streamNo (engStream e)) s) v t) :
    (gate c e u).go s = (.ok v, t) := by
  unfold gate
  simp only [hphase]
  rw [go_modify_bind, if_neg (Nat.not_le.mpr hn)]
  exact h

/-! ## Completion (R127, R131, R132) -/

theorem flushDefer_nothing {c : Nat} {e : Eng} {s : State} (n : Nat) (h : (s.seqOf c e).defer = []) : flushDefer c e n s = s := by
  cases n with
  | zero => rfl
  | succ n =>
    unfold flushDefer
    simp only [h]

/-- The completion step of a record whose actions nothing holds back: they are taken, and the record leaves. -/
theorem takeActions_leaves {c : Nat} {e : Eng} {s t : State} {v z : Run} (hst : (s.str c (engStream e)).st ≠ .trap) (hdefer : (s.seqOf c e).defer = [])
    (hend : ∀ q, v.instr ≠ .seqEnd q) (hacts : actLoop c e 3 v s = (t, z, none)) : takeActions c e v s = leave c e v t := by
  unfold takeActions
  simp only [flushDefer_nothing 16 hdefer, beq_iff_eq, hst, if_false, hdefer, List.isEmpty_nil, Bool.not_true, Bool.false_eq_true, hacts]

section
variable {c : Nat} {e : Eng} {s s1 t : State} {u v z : Run}

theorem closeOp_closed (h : Runs (closeOp c e u) s v s1) : v.status = 1 := by
  unfold Runs closeOp at h
  rw [go_modify_bind] at h
  obtain ⟨w, t, -, hpure⟩ := go_bind_eq_ok h
  cases hpure
  rfl

variable (hs : Stands s c e u) (hphase : u.phase = .complete) (hstatus : u.status = 0)
include hs hphase hstatus

theorem recordCompletion_closes (h : Runs (closeOp c e u) s v s1) :
    recordCompletion c e s = takeActions c e v (engRun c e (setRun c e (some v) s1)) := by
  have closes := runM_passes hs h
  have open' : ((engRun c e (setRun c e (some v) s1)).seqOf c e).run = some v := by rw [engRun_seqOf, setRun_run]
  unfold recordCompletion
  rw [hs.2.2]
  simp only [hphase, ne_eq, not_true_eq_false, if_false, hstatus, if_true, closes, open', closeOp_closed h]

theorem recordCompletion_leaves (h : Runs (closeOp c e u) s v s1) (hdefer : ((engRun c e (setRun c e (some v) s1)).seqOf c e).defer = [])
    (hend : ∀ q, v.instr ≠ .seqEnd q) (hacts : actLoop c e 3 v (engRun c e (setRun c e (some v) s1)) = (t, z, none)) :
    recordCompletion c e s = leave c e v t := by
  have runs : ((engRun c e (setRun c e (some v) s1)).str c (engStream e)).st ≠ .trap := by
    rw [engRun_str]
    exact SState.noConfusion
  rw [recordCompletion_closes hs hphase hstatus h, takeActions_leaves runs hdefer hend hacts]
end

section
variable {c : Nat} {e : Eng} {s : State} {u : Run}

/-- An operation that does nothing at its end closes once its accesses have performed and its reservation is released (R410). -/
theorem closeOp_plain (h : ∀ k f w, doneFn u.instr k f w = pure w) : Runs (closeOp c e u) s { u with status := 1, held := 0, ans := .none }
    (dropResv c (engStream e) (landEng c (streamNo (engStream e)) (reinject c (streamNo (engStream e)) s))) := by
  unfold Runs closeOp
  rw [go_modify_bind, h, go_pure_bind, go_pure]

/-- Nothing to signal, to push or to flag: each action is passed without a change of state. -/
theorem actOne_idle (hsig : (recOf' u.instr).ssig.val < 32) (hpush : (recOf' u.instr).tpush.val < 8) (hflag : (recOf' u.instr).flag = false)
    (hloc : u.flagLoc = none) : ∃ v, (actOne c e u).go s = (.ok v, s) ∧ v.instr = u.instr ∧ v.flagLoc = none := by
  unfold actOne
  split
  · rw [if_neg (Nat.not_le.mpr hsig)]
    exact ⟨_, rfl, rfl, hloc⟩
  · rw [if_neg (Nat.not_le.mpr hpush)]
    exact ⟨_, rfl, rfl, hloc⟩
  · by_cases hun : unflagged u = true
    · rw [if_pos hun]
      exact ⟨_, rfl, rfl, hloc⟩
    · have check : (flagCheck c e u).go s = (.ok u, s) := by
        unfold flagCheck
        rw [if_neg (by simp [hflag]), go_pure]
      rw [if_neg hun]
      simp only [hloc, Option.isNone_none, if_true]
      rw [go_bind_ok check]
      simp only [hloc]
      exact ⟨_, rfl, rfl, rfl⟩

theorem actLoop_idle (fuel : Nat) (hsig : (recOf' u.instr).ssig.val < 32) (hpush : (recOf' u.instr).tpush.val < 8) (hflag : (recOf' u.instr).flag = false)
    (hloc : u.flagLoc = none) : ∃ z, actLoop c e fuel u s = (s, z, none) := by
  induction fuel generalizing u with
  | zero => exact ⟨u, rfl⟩
  | succ fuel ih =>
    unfold actLoop
    split
    · exact ⟨u, rfl⟩
    · obtain ⟨v, hv, hinstr, hvloc⟩ := actOne_idle (c := c) (e := e) (s := s) hsig hpush hflag hloc
      rw [hv]
      exact ih (hinstr ▸ hsig) (hinstr ▸ hpush) (hinstr ▸ hflag) hvloc
end

/-! ## Arbitration (R410, R411, R419) -/

section
variable {k : Nat} {q : Resv} {s : State} (h : (s.cluster k).wants = [q])
include h

/-- A cluster with one request looks at that one. -/
theorem arbitrate_single : arbitrate k s = s.setCluster k (arbLoop s (s.cluster k) [q]) := by
  unfold arbitrate
  simp only [h, List.cons_ne_nil, if_false]
  rfl

theorem arbitrate_fits (hu : heldUnits (s.cluster k) + q.units ≤ (s.cluster k).budget) (hd : (s.die (dieOf q.core)).hold = false) :
    arbitrate k s = s.setCluster k { s.cluster k with held := (s.cluster k).held ++ [q], wants := [] } := by
  have gone : (s.cluster k).wants.erase q = [] := by simp [h]
  rw [arbitrate_single h]
  unfold arbLoop
  rw [if_pos (by simp [hu, hd]), gone]
  rfl

theorem arbitrate_passes_over (hno : ¬(heldUnits (s.cluster k) + q.units ≤ (s.cluster k).budget ∧ (s.die (dieOf q.core)).hold = false)) :
    arbitrate k s = s.setCluster k (s.cluster k) := by
  rw [arbitrate_single h]
  unfold arbLoop
  rw [if_neg (by simpa using hno)]
  split <;> rfl
end

end Sys2Proof.Machine

namespace Sys2Proof.Proofs
open Sys2Proof.Machine Sys2Proof.Claims

section
variable {c : CoreId} {e : Eng} {s : State} {u : Run} (hs : Stands s c e u)
include hs

/-- R127: an entry that finds its token and its count takes both. -/
theorem recordEntry_happens (hphase : u.phase = .entry) (hm : s.modBad = false) (hvote : engineOf u.instr = 0 ∨ voteHolds s c = false)
    (hrep : repMode s = 0) (htok : 8 ≤ (recOf' u.instr).tpop.val → tokens s c ((recOf' u.instr).tpop.val % 8) ≠ [])
    (hsem : 32 ≤ (recOf' u.instr).swait.val → (semOf s c ((recOf' u.instr).swait.val % 32)).1 ≠ 0) :
    ∃ t, Happens (.recordEntry c e) s ((setRun c e (some (entered c e u t)) t).noteOpen (agentOf c (engStream e)) 1) ∧
      Taken c (recOf' u.instr) (engRun c e s) t := by
  obtain ⟨t, ht, htaken⟩ := entryTakes_free (e := e) ((engRun_repMode c e s).trans hrep) (fun h => (engRun_tokens c e s _).symm ▸ htok h)
    (fun h => (engRun_semOf c e s _).symm ▸ hsem h)
  exact ⟨t, happens_of_engAct hs rfl (recordEntry_enters hs hphase hm hvote htok hsem ht), htaken⟩

omit hs in
/-- R127: the record enters with what its job's leader has handed on. -/
theorem entered_clock {t : State} (h : Steady (engRun c e s) t) :
    (entered c e u t).views = (s.str c (leaderStream (s.str c (engStream e)).job)).clk.views ∧
      (entered c e u t).clr = (s.str c (leaderStream (s.str c (engStream e)).job)).clk.clr := by
  have job : (t.str c (engStream e)).job = (s.str c (engStream e)).job := (h.strJob _ _).trans (by rw [engRun_str])
  have leader := engRun_str_other c e s (leaderStream_ne_engStream (s.str c (engStream e)).job e)
  unfold entered
  rw [job]
  exact ⟨(h.strViews _ _).trans (congrArg (fun m : Strm => m.clk.views) leader), (h.strClr _ _).trans (congrArg (fun m : Strm => m.clk.clr) leader)⟩
end

/-- Settles O39: gate by gate, by the step that a record at that gate takes. -/
theorem recordGatesPass : Obligations.RecordGatesPass := by
  intro c e k s x m a words free
  refine ⟨fun i hfree hd hl => ?_, fun hfree hl => ?_, fun u hs => ⟨?_, ?_, ?_, ?_, ?_, ?_, ?_, ?_, ?_, ?_, ?_, ?_, ?_⟩⟩
  · obtain ⟨hp, hrun, hnone, hst, hpc, hload, hmark⟩ := hfree
    exact event_eq hp ((if_pos hrun).trans (recordHead_takes hrun hnone hst hpc hload hmark hd hl))
  · obtain ⟨hp, hrun, hnone, hst, hpc, hload, hmark⟩ := hfree
    exact event_eq hp ((if_pos hrun).trans (recordHead_illegal hrun hnone hst hpc hload hmark hl))
  · intro hphase hm hvote s1 s2 hkeep hpop hpass hwait
    have takes : entryTakes c e (recOf' u.instr) (engRun c e s) = some s2 := by
      have popped : (if 8 ≤ (recOf' u.instr).tpop.val then tokenPop c a ((recOf' u.instr).tpop.val % 8) (engRun c e s) else some (engRun c e s)) = some s1 := by
        split
        · next h => exact (hpop h).2
        · next h => rw [hkeep (Nat.not_le.mp h)]
      refine (congrArg (Option.bind · _) popped).trans ?_
      rw [Option.bind_some]
      split
      · next h => exact (hwait h).2
      · next h => rw [hpass (Nat.not_le.mp h)]
    exact ⟨entered c e u s2, happens_of_engAct hs rfl (recordEntry_enters hs hphase hm hvote (fun h => (hpop h).1) (fun h => (hwait h).1) takes), rfl, rfl, rfl, rfl⟩
  · intro hphase hm hvote hrep htok hsem
    obtain ⟨t, ht, htaken⟩ := recordEntry_happens hs hphase hm hvote hrep htok hsem
    obtain ⟨hviews, hclr⟩ := entered_clock (u := u) htaken.steady
    have noted := noteOpen_core c (setRun c e (some (entered c e u t)) t) (agentOf c (engStream e)) 1
    refine ⟨_, entered c e u t, ht, ?_, rfl, rfl, rfl, rfl, hviews, hclr, ?_, fun h => ?_, fun h => ?_⟩
    · rw [State.seqOf, noted]
      exact setRun_run c e t _
    · rw [noteOpen_mem, setRun_mem, htaken.mem, engRun_mem]
    · rw [tokens, noted]
      exact (setRun_tokens c e t _ _).trans ((htaken.tokens h).trans (by rw [engRun_tokens]))
    · rw [semOf, noted]
      exact (congrArg Prod.fst (setRun_semOf c e t _ _)).trans ((htaken.sem h).trans (by rw [engRun_semOf]))
  · exact fun hphase hm hvote hpop hempty => happens_of_engAct hs rfl (recordEntry_empty hs hphase hm hvote hpop hempty)
  · exact fun hphase hm => happens_of_engAct hs rfl (recordEntry_marked hs hphase hm)
  · exact fun hphase hmark => happens_of_engAct hs rfl (recordOperandRead_marked hs hphase hmark)
  · exact fun hphase hmark => ⟨_, happens_of_engAct hs rfl (recordOperandRead_reads hs hphase hmark), rfl, rfl, rfl, rfl, rfl, rfl⟩
  · intro hphase h
    refine happens_of_engAct hs rfl ((recordIssue_gate hs (.inl hphase)).trans (runM_passes hs ?_))
    unfold gate
    simp only [hphase]
    exact licenceGate_passes h
  · intro hphase h1 hheld hd
    refine happens_of_engAct hs rfl ((recordIssue_gate hs (.inl hphase)).trans (runM_traps hs ?_))
    unfold gate
    simp only [hphase]
    exact licenceGate_disabled h1 hheld hd
  · intro n enabled hphase
    have reserves : gate c e u = reserveGate c e u := by
      unfold gate
      simp only [hphase]
    have issue := recordIssue_gate hs (.inr (.inl hphase))
    refine ⟨fun h1 hheld => ?_, fun hlic => ⟨fun hheld => ?_, fun hheld hwant => ?_, fun hheld hwant => ⟨fun henabled hn => ?_, fun henabled hn => ?_, fun hno => ?_⟩⟩⟩
    · exact happens_of_engAct hs rfl (issue.trans (runM_passes hs (reserves ▸ reserveGate_unlicensed h1 hheld)))
    · exact happens_of_engAct hs rfl (issue.trans (runM_passes hs (reserves ▸ reserveGate_held hlic hheld)))
    · exact happens_of_engAct hs rfl (issue.trans (runM_waits hs (reserves ▸ reserveGate_wanted hlic hheld hwant)))
    · exact happens_of_engAct hs rfl (issue.trans (runM_passes hs (reserves ▸ reserveGate_free hlic hheld hwant henabled hn)))
    · exact happens_of_engAct hs rfl (issue.trans (runM_waits hs (reserves ▸ reserveGate_asks hlic hheld hwant henabled hn)))
    · exact happens_of_engAct hs rfl (issue.trans (runM_traps hs (reserves ▸ reserveGate_denied hlic hheld hwant hno)))
  · intro hphase hn y v t h
    exact happens_of_engAct hs rfl ((recordIssue_gate hs (.inr (.inr hphase))).trans (runM_passes hs (gate_issues hphase hn h)))
  · intro hphase hstatus v s1 t z h s2 hdefer hend hacts
    exact happens_of_engAct hs rfl (recordCompletion_leaves hs hphase hstatus h hdefer hend hacts)
  · intro hphase hstatus hdone hend hsig hpush hflag hloc v s2 hdefer
    obtain ⟨z, hz⟩ := actLoop_idle (c := c) (e := e) (s := s2) (u := v) 3 hsig hpush hflag hloc
    exact happens_of_engAct hs rfl (recordCompletion_leaves hs hphase hstatus (closeOp_plain hdone) hdefer hend hz)
  · intro q hp h fits
    exact ⟨fun hfits => event_eq hp (arbitrate_fits h hfits.1 hfits.2), fun hno => event_eq hp (arbitrate_passes_over h hno)⟩

end Sys2Proof.Proofs
end

section
/-! SUPPORT. The host port: accesses through the window, the other BARs, and answers to the device's accesses (R144, R400-R404, R458). -/
namespace Sys2Proof.Machine
open Claims

/-! ## Effects kept whole (R125) -/

section
variable {α : Type} {m : M α} {s t : State}

theorem go_whole_ok {a : α} (h : m.go s = (.ok a, t)) : (whole m).go s = (.ok a, t) := by
  show whole m s = _
  unfold whole
  rw [h]

theorem go_whole_wait {w : Wait} (h : m.go s = (.error (.wait w), t)) : (whole m).go s = (.error (.wait w), s) := by
  show whole m s = _
  unfold whole
  rw [h]

theorem go_whole_trap {f : Trap} (h : m.go s = (.error (.trap f), t)) : ∃ u, (whole m).go s = (.error (.trap f), u) ∧ u.mem = s.mem := by
  refine ⟨_, ?_, foldl_mem (fun (e : Nat × Core) (s : State) => s.setCore e.1 { s.core e.1 with race0 := e.2.race0, race1 := e.2.race1 }) (fun _ _ => rfl) t.cores s⟩
  show whole m s = _
  unfold whole
  rw [h]
end

/-! ## Accesses through the window (R144, R402, R404) -/

/-- What an access of the host does once it performs. -/
def HostReq.effect : HostReq → M Unit
  | .write off bs r => hostWrite off bs r
  | .read off n => hostRead off n
  | .atomic off op wide x y => hostAtomic off op wide x y
  | .cxlWrite off bs => do hostWrite off bs true; modify (emit (.hostReply []))
  | .cxlRead off n => hostRead off n true

section
variable {q : HostReq} {s t : State}

/-- How an access of the host ends: performed, refused, or still to be tried. -/
def hostOutcome : Except Stop Unit × State → Option State
  | (.ok _, t) => some t
  | (.error (.trap _), t) => some (emit .hostUnsupported t)
  | (.error _, _) => none

theorem tryHost_eq (s : State) (q : HostReq) : tryHost s q = hostOutcome ((whole q.effect).go s) := by cases q <;> rfl

theorem tryHost_performs (h : q.effect.go s = (.ok (), t)) : tryHost s q = some t := by
  rw [tryHost_eq, go_whole_ok h]
  rfl

theorem tryHost_waits {w : Wait} (h : q.effect.go s = (.error (.wait w), t)) : tryHost s q = none := by
  rw [tryHost_eq, go_whole_wait h]
  rfl

/-- An access that traps delivers nothing (R378). -/
theorem tryHost_traps {f : Trap} (h : q.effect.go s = (.error (.trap f), t)) : ∃ u, tryHost s q = some (emit .hostUnsupported u) ∧ u.mem = s.mem := by
  obtain ⟨u, hu, hmem⟩ := go_whole_trap h
  refine ⟨u, ?_, hmem⟩
  rw [tryHost_eq, hu]
  rfl

variable (hrep : repMode s = 0)
include hrep

/-- Without record or replay an arrival from outside comes at once (R437). -/
theorem repArrival_free (e : RepEv) (chan : RepEv → Bool) : repArrival e chan s = some s := by
  unfold repArrival
  rw [if_neg (by omega), if_neg (by omega)]

theorem hostAccess_free : hostAccess q s =
    if s.hostHeld.isEmpty then (tryHost s q).getD { s with hostHeld := [q] } else { s with hostHeld := s.hostHeld ++ [q] } := by
  unfold hostAccess
  rw [repArrival_free hrep, ite_self]

theorem hostAccess_first (h : s.hostHeld = []) : hostAccess q s = (tryHost s q).getD { s with hostHeld := [q] } := by
  rw [hostAccess_free hrep, h]
  rfl

theorem hostAccess_behind (h : s.hostHeld ≠ []) : hostAccess q s = { s with hostHeld := s.hostHeld ++ [q] } := by
  rw [hostAccess_free hrep, if_neg (by simpa using h)]

end

/-- With the window disabled a read and an AtomicOp get Unsupported Request (R402). -/
theorem hostRead_disabled {s : State} (off n : Nat) (cxl : Bool) (h : hwinEn s = false) : (hostRead off n cxl).go s = (.ok (), emit .hostUnsupported s) := by
  unfold hostRead
  rw [go_get_bind, h]
  rfl

theorem hostAtomic_disabled {s : State} (off : Nat) (op : HostAtomic) (wide : Bool) (x y : Word) (h : hwinEn s = false) :
    (hostAtomic off op wide x y).go s = (.ok (), emit .hostUnsupported s) := by
  unfold hostAtomic
  rw [go_get_bind, h]
  rfl

section
variable {i : Instr} {ok : Bool} {q : HostReq} {s : State} (hi : exec i s = .next (hostIf ok q s))
include hi

theorem host_turned_away (h : hostUp s = false ∨ ok = false) : Happens i s s := by
  rw [Happens, hi, hostIf, if_neg (by rcases h with h | h <;> simp [h])]

variable (hup : hostUp s = true) (hok : ok = true) (hrep : repMode s = 0)
include hup hok

theorem host_admitted : exec i s = .next (hostAccess q s) := by rw [hi, hostIf, if_pos (by simp [hup, hok])]

include hrep

theorem host_performs (hheld : s.hostHeld = []) {t : State} (h : q.effect.go s = (.ok (), t)) : Happens i s t := by
  rw [Happens, host_admitted hi hup hok, hostAccess_first hrep hheld, tryHost_performs h]
  rfl

omit hup hok hrep in
/-- An access of the host that its entry point admits performs, waits or is refused; behind one that waits it waits too (R404). -/
theorem host_acts : (hostUp s = false ∨ ok = false → Happens i s s) ∧ (hostUp s = true → ok = true → repMode s = 0 →
    (s.hostHeld = [] → (∀ t, Runs q.effect s () t → Happens i s t) ∧
      (∀ w t, q.effect.go s = (.error (.wait w), t) → Happens i s { s with hostHeld := [q] }) ∧
      (∀ f t, q.effect.go s = (.error (.trap f), t) → ∃ u, Happens i s (emit .hostUnsupported u) ∧ u.mem = s.mem)) ∧
    (s.hostHeld ≠ [] → Happens i s { s with hostHeld := s.hostHeld ++ [q] })) := by
  refine ⟨host_turned_away hi, fun hup hok hrep => ?_⟩
  have admitted := host_admitted hi hup hok
  refine ⟨fun hheld => ⟨fun t h => host_performs hi hup hok hrep hheld h, fun w t h => ?_, fun f t h => ?_⟩, fun hheld => ?_⟩
  · rw [Happens, admitted, hostAccess_first hrep hheld, tryHost_waits h]
    rfl
  · obtain ⟨u, hu, hmem⟩ := tryHost_traps h
    refine ⟨u, ?_, hmem⟩
    rw [Happens, admitted, hostAccess_first hrep hheld, hu]
    rfl
  · rw [Happens, admitted, hostAccess_behind hrep hheld]
end

/-! ## The MSI-X table and the registers (R401, R458) -/

section
variable {s : State} {off n : Nat}

theorem hostBarWrite_down (h : hostUp s = false) (bar : HostBar) (bs : List Byte) (relaxed : Bool) : hostBarWrite bar off bs relaxed s = s := by
  cases bar with
  | window => exact if_neg (by simp [h])
  | msix => exact if_neg (by simp [h])
  | regs => rfl

theorem hostBarRead_down (h : hostUp s = false) (bar : HostBar) : hostBarRead bar off n s = s := by
  cases bar with
  | window => exact if_neg (by simp [h])
  | msix => exact if_neg (by simp [h])
  | regs => exact if_pos (by simp [h])

variable (hup : hostUp s = true)
include hup

theorem hostBarWrite_msix {bs : List Byte} (h : off + bs.length ≤ 4096) (relaxed : Bool) : hostBarWrite .msix off bs relaxed s = msixWrite off bs s :=
  if_pos (by simp [hup, h])

theorem hostBarRead_msix (h : off + n ≤ 4096) :
    hostBarRead .msix off n s = emit (.hostReply ((List.range n).map fun k => msixByte s (off + k))) s := if_pos (by simp [hup, h])

theorem hostBarRead_regs (h : off + n ≤ 2 ^ 26) : hostBarRead .regs off n s =
    if (n = 8 ∧ off % 8 = 0) ∨ (n = 4 ∧ off % 4 = 0) then emit (.hostReply (leBytes n (hostRegRead off n s))) s else emit .hostUnsupported s :=
  if_neg (by simp only [hup, Bool.not_true, Bool.false_or, decide_eq_true_eq]; omega)

end

section
variable {s : State} {off width : Nat} {v : Word}

theorem hostRegWrite_away (h : hostUp s = false ∨ 2 ^ 26 ≤ off) : hostRegWrite off width v s = s :=
  if_pos (by simpa only [Bool.or_eq_true, Bool.not_eq_true', decide_eq_true_eq] using h)

variable (hup : hostUp s = true) (hoff : off < 2 ^ 26)
include hup hoff

theorem hostRegWrite_admitted : ¬(!hostUp s || decide (2 ^ 26 ≤ off)) = true := by
  simp only [hup, Bool.not_true, Bool.false_or, decide_eq_true_eq]
  omega

theorem hostRegWrite_short (h : width ≠ 8 ∨ off % 8 ≠ 0) : hostRegWrite off width v s =
    hostDiscard (off % 2 ^ 25 / 2 ^ 15) (off % 2 ^ 15 / 8) (decide (2 ^ 25 ≤ off)) 0 true s :=
  (if_neg (hostRegWrite_admitted hup hoff)).trans (if_pos h)

variable (hwidth : width = 8) (halign : off % 8 = 0)
include hwidth halign

theorem hostRegWrite_unassigned (h : regOf (off % 2 ^ 15 / 8) = none) : hostRegWrite off width v s = s := by
  unfold hostRegWrite
  rw [if_neg (hostRegWrite_admitted hup hoff), if_neg (by omega), h]

variable {r : Reg} (hr : regOf (off % 2 ^ 15 / 8) = some r)
include hr

theorem hostRegWrite_takes {t : State} (h : writeReg (off % 2 ^ 25 / 2 ^ 15) (if decide (2 ^ 25 ≤ off) = true then .ccc else .lcc) (off % 2 ^ 15 / 8) v
    { s with cur := (off % 2 ^ 25 / 2 ^ 15, leaderStream (if decide (2 ^ 25 ≤ off) = true then .ccc else .lcc)) } = .ok t) :
    hostRegWrite off width v s = { t with cur := s.cur } := by
  unfold hostRegWrite
  rw [if_neg (hostRegWrite_admitted hup hoff), if_neg (by omega), hr]
  simp only [h]

theorem hostRegWrite_refused {t : Trap} (h : writeReg (off % 2 ^ 25 / 2 ^ 15) (if decide (2 ^ 25 ≤ off) = true then .ccc else .lcc) (off % 2 ^ 15 / 8) v
    { s with cur := (off % 2 ^ 25 / 2 ^ 15, leaderStream (if decide (2 ^ 25 ≤ off) = true then .ccc else .lcc)) } = .error t) :
    hostRegWrite off width v s = hostDiscard (off % 2 ^ 25 / 2 ^ 15) (off % 2 ^ 15 / 8) (decide (2 ^ 25 ≤ off)) (causeCode t.cause) false s := by
  unfold hostRegWrite
  rw [if_neg (hostRegWrite_admitted hup hoff), if_neg (by omega), hr]
  simp only [h]

end

/-! ## Answers to the device's accesses (R403) -/

/-- An asker that holds one answer alone, which awaits the host, asks for that one. -/
theorem askOldest_single {k : HostAsker} {z : Stream} {s : State} {q : Ask} {got : List Spot} (h : askAnswers k z s = [.asked q got]) (hsp : q.sp ≠ .none) :
    askOldest k z s = some (q.id, q.since) := by
  have ask : (Answer.asked q got).hostAsk = some (q.id, q.since) := if_neg hsp
  unfold askOldest
  simp [h, ask, least]

/-- The answer that awaited the request takes the host's. -/
theorem byHost_own {q : Ask} (got : List Spot) (r : HostReply) (hsp : q.sp ≠ .none) : (Answer.asked q got).byHost q.id r = .host q.sp r got :=
  if_pos ⟨rfl, hsp⟩

section
variable {ev : Instr} {k : HostAsker} {z : Stream} {r : HostReply} {s h : State}

theorem hostAnswer_nobody (hnone : askOldest k z h = none) : hostAnswer k z r h = h := by
  unfold hostAnswer
  rw [hnone]

theorem hostAnswer_core {c : CoreId} {q : Nat × Nat} (hq : askOldest (.core c) z h = some q) :
    hostAnswer (.core c) z r h = mapAnswers (.core c) z (·.byHost q.1 r) (h.actBy (ObjKind.own.key (agentOf c z)) hostAgent) := by
  unfold hostAnswer
  rw [hq]

/-- An event that gives the host's answer to an asker answers its oldest request. -/
theorem answered_of_hostAnswer (hev : exec ev s = .next (hostAnswer k z r h)) : Answered ev k z r s h := by
  refine ⟨fun hnone => by rw [Happens, hev, hostAnswer_nobody hnone], ?_⟩
  cases k with
  | core c =>
    refine ⟨fun hz q got hq hsp => ?_, fun hz q hq => ?_⟩
    · have one : askAnswers (.core c) z h = [.asked q got] := by
        unfold askAnswers
        simp only [hz, if_true, hq]
      have ans : ((h.actBy (ObjKind.own.key (agentOf c z)) hostAgent).ctlOf c (streamLeader z)).ans = .asked q got := hq
      rw [Happens, hev, hostAnswer_core (askOldest_single one hsp)]
      unfold mapAnswers
      simp only [hz, if_true, ans, byHost_own got r hsp]
      rfl
    · rw [Happens, hev, hostAnswer_core hq]
      unfold mapAnswers
      simp only [hz, Bool.false_eq_true, if_false]
      rfl
  | cp t n =>
    intro q got hq hsp
    have one : askAnswers (.cp t n) z h = [.asked q got] := congrArg (fun a => [a]) hq
    rw [Happens, hev]
    unfold hostAnswer
    rw [askOldest_single one hsp]
    simp only [mapAnswers, hq, byHost_own got r hsp]
  | mbs =>
    intro q got hq hsp
    have one : askAnswers .mbs z h = [.asked q got] := congrArg (fun a => [a]) hq
    rw [Happens, hev]
    unfold hostAnswer
    rw [askOldest_single one hsp]
    simp only [mapAnswers, hq, byHost_own got r hsp]
end

section
variable {k : HostAsker} {z : Stream} {s : State}

theorem hostTimeout_early (h : ∀ q, askOldest k z s = some q → s.time < q.2 + 10000000) : hostTimeout k z s = s := by
  unfold hostTimeout
  split
  · next q hq => exact if_neg (Nat.not_le.mpr (h q hq))
  · rfl

theorem hostTimeout_due {q : Nat × Nat} (hq : askOldest k z s = some q) (h : q.2 + 10000000 ≤ s.time) : hostTimeout k z s = hostAnswer k z .poisoned s := by
  unfold hostTimeout
  rw [hq]
  exact if_pos h
end

end Sys2Proof.Machine
end

section
/-! SUPPORT. The end of a clock transition, power samples and thermal samples (R408, R412-R415, R420, R421). -/
namespace Sys2Proof.Machine
open Claims

/-! ## Clock transitions (R408, R420) -/

theorem noteClock_eq (c since : Nat) (s : State) (x : Nat × Strm) : ∃ q, noteClock c since s x = { s with trcQ := q } := by
  simp only [noteClock]
  split
  · exact note_eq _ _ _ s
  · exact ⟨s.trcQ, rfl⟩

theorem foldl_trcQ {α : Type} {f : State → α → State} (h : ∀ s a, ∃ q, f s a = { s with trcQ := q }) (l : List α) (s : State) :
    ∃ q, l.foldl f s = { s with trcQ := q } := by
  induction l generalizing s with
  | nil => exact ⟨s.trcQ, rfl⟩
  | cons a l ih =>
    obtain ⟨q, hq⟩ := h s a
    obtain ⟨r, hr⟩ := ih (f s a)
    exact ⟨r, by rw [List.foldl_cons, hr, hq]⟩

section
variable {d : Nat} {s : State}

/-- A transition that ends notes the waits it made, then its die stands at the point that it went to. -/
theorem transitionEnd_busy (h : (s.die d).busy = true) :
    ∃ q, transitionEnd d s = changePoint d (({ s with trcQ := q } : State).setDie d { s.die d with busy := false, cur := (s.die d).tgt }) := by
  obtain ⟨q, hq⟩ := foldl_trcQ (fun t (e : Nat × Core) => foldl_trcQ (noteClock_eq e.1 (s.die d).since) e.2.strm t) (s.cores.filter fun e => dieOf e.1 == d) s
  refine ⟨q, (if_pos h).trans ?_⟩
  exact congrArg (fun u : State => changePoint d (u.setDie d { u.die d with busy := false, cur := (s.die d).tgt })) hq

theorem changePoint_eq (d : Nat) (s : State) : ∃ b p n, changePoint d s = s ∨ changePoint d s = s.setDie d { s.die d with busy := b, tgt := p, since := n } := by
  simp only [changePoint]
  split
  · exact ⟨_, _, _, .inr rfl⟩
  · exact ⟨false, 0, 0, .inl rfl⟩

/-- A die at the point it asks for stays there. -/
theorem changePoint_still (h : Nat.min (s.die d).req (s.die d).lim = (s.die d).cur) : changePoint d s = s := by
  simp only [changePoint, h, bne_self_eq_false, Bool.and_false, Bool.false_eq_true, if_false]

theorem changePoint_moves (hb : (s.die d).busy = false) (h : Nat.min (s.die d).req (s.die d).lim ≠ (s.die d).cur) :
    changePoint d s = s.setDie d { s.die d with busy := true, tgt := Nat.min (s.die d).req (s.die d).lim, since := s.time } :=
  if_pos (by simp [hb, h])

end

/-! ## Power samples (R412, R413) -/

/-- Budgets shared anew: what clusters hold and ask for, and the means measured, stand. -/
structure Shared (s u : State) : Prop where
  pwrStat : u.pwrStat = s.pwrStat
  held : ∀ j, (u.cluster j).held = (s.cluster j).held
  wants : ∀ j, (u.cluster j).wants = (s.cluster j).wants

theorem shared_setCluster (s : State) (k b : Nat) : Shared s (s.setCluster k { s.cluster k with budget := b }) := by
  have kept : ∀ j, ((s.setCluster k { s.cluster k with budget := b }).cluster j).held = (s.cluster j).held ∧
      ((s.setCluster k { s.cluster k with budget := b }).cluster j).wants = (s.cluster j).wants := fun j => by
    by_cases hj : j = k
    · rw [hj, cluster_setCluster]
      exact ⟨rfl, rfl⟩
    · rw [cluster_setCluster_other s _ hj]
      exact ⟨rfl, rfl⟩
  exact ⟨rfl, fun j => (kept j).1, fun j => (kept j).2⟩

theorem shared_foldl (b : Nat → Nat) (l : List Nat) (s : State) : Shared s (l.foldl (fun s k => s.setCluster k { s.cluster k with budget := b k }) s) := by
  induction l generalizing s with
  | nil => exact ⟨rfl, fun _ => rfl, fun _ => rfl⟩
  | cons k l ih =>
    have first := shared_setCluster s k (b k)
    have rest := ih (s.setCluster k { s.cluster k with budget := b k })
    exact ⟨rest.pwrStat.trans first.pwrStat, fun j => (rest.held j).trans (first.held j), fun j => (rest.wants j).trans (first.wants j)⟩

/-- PWR_STAT as a sample writes it: two means and two sticky bits. -/
def meansWord (p10 p1s sticky : Nat) : Word := BitVec.ofNat 64 (Nat.min p10 65535 + Nat.min p1s 65535 * 2 ^ 16 + sticky * 2 ^ 32)

theorem meansWord_means (p10 p1s sticky : Nat) :
    bitsAt (meansWord p10 p1s sticky).toNat 0 16 = Nat.min p10 65535 ∧ bitsAt (meansWord p10 p1s sticky).toNat 16 16 = Nat.min p1s 65535 := by
  have low : Nat.min p10 65535 ≤ 65535 := Nat.min_le_right _ _
  have high : Nat.min p1s 65535 ≤ 65535 := Nat.min_le_right _ _
  unfold meansWord bitsAt
  rw [BitVec.toNat_ofNat]
  omega

theorem governorSample_shared (p10 p1s : Nat) (s : State) :
    ∃ sticky n, Shared { s with pwrStat := meansWord p10 p1s sticky, govNext := n } (governorSample p10 p1s s) :=
  ⟨_, _, shared_foldl (fun k => Nat.min (look 0 (shareBudgets s _ _).budget k) 2047) _ _⟩

theorem cluster_measured (s : State) (w : Word) (n j : Nat) : ({ s with pwrStat := w, govNext := n } : State).cluster j = s.cluster j := rfl

theorem governorSample_cluster (p10 p1s : Nat) (s : State) (j : Nat) : ((governorSample p10 p1s s).cluster j).held = (s.cluster j).held ∧
    ((governorSample p10 p1s s).cluster j).wants = (s.cluster j).wants := by
  obtain ⟨sticky, n, hshared⟩ := governorSample_shared p10 p1s s
  have stands := cluster_measured s (meansWord p10 p1s sticky) n j
  exact ⟨(hshared.held j).trans (congrArg Cluster.held stands), (hshared.wants j).trans (congrArg Cluster.wants stands)⟩

theorem governorSample_means (p10 p1s : Nat) (s : State) : bitsAt (governorSample p10 p1s s).pwrStat.toNat 0 16 = Nat.min p10 65535 ∧
    bitsAt (governorSample p10 p1s s).pwrStat.toNat 16 16 = Nat.min p1s 65535 := by
  obtain ⟨sticky, n, hshared⟩ := governorSample_shared p10 p1s s
  rw [hshared.pwrStat]
  exact meansWord_means p10 p1s sticky

/-! ## Readings kept (R414) -/

section
variable {α β : Type}

@[simp] theorem find_put_same (t : Tbl α) (k : Nat) (a : α) : find (put t k a) k = some a := by
  induction t with
  | nil => simp [put, find]
  | cons e t ih =>
    simp only [put]
    split
    · simp [find]
    · split
      · simp [find]
      · simp only [find]
        rw [if_neg (by omega)]
        exact ih

theorem find_put_other (t : Tbl α) {j k : Nat} (a : α) (h : j ≠ k) : find (put t k a) j = find t j := by
  induction t with
  | nil => simp [put, find, Ne.symm h]
  | cons e t ih =>
    simp only [put]
    split
    · simp only [find, if_neg (Ne.symm h)]
    · split
      · next hk =>
        simp only [find]
        rw [if_neg (Ne.symm h), if_neg (by omega)]
      · simp only [find, ih]

/-- Readings kept by position from `a` on leave the positions below. -/
theorem find_foldl_put_below (g : β → α) (l : List β) (a n : Nat) (t : Tbl α) {j : Nat} (h : j < a) :
    find ((l.zip (List.range' a n)).foldl (fun t x => put t x.2 (g x.1)) t) j = find t j := by
  induction l generalizing a n t with
  | nil => rfl
  | cons y l ih =>
    cases n with
    | zero => rfl
    | succ n =>
      rw [List.range'_succ, List.zip_cons_cons, List.foldl_cons, ih _ _ _ (by omega)]
      exact find_put_other _ _ (by omega)

theorem find_foldl_put (g : β → α) (l : List β) (a n : Nat) (t : Tbl α) {i : Nat} {y : β} (h : i < n) (hy : l[i]? = some y) :
    find ((l.zip (List.range' a n)).foldl (fun t x => put t x.2 (g x.1)) t) (a + i) = some (g y) := by
  induction l generalizing a n t i with
  | nil => cases hy
  | cons z l ih =>
    cases n with
    | zero => cases h
    | succ n =>
      rw [List.range'_succ, List.zip_cons_cons, List.foldl_cons]
      cases i with
      | zero =>
        cases hy
        rw [Nat.add_zero, find_foldl_put_below g l _ _ _ (by omega)]
        exact find_put_same _ _ _
      | succ i =>
        have rest := ih (a + 1) n (put t a (g z)) (by omega) hy
        rwa [Nat.add_right_comm, Nat.add_assoc] at rest
end

/-! ## Thermal samples (R414, R415, R421) -/

/-- What a sample has settled so far stands: the readings of tower `t`, and die `d` throttled if it is. -/
structure Settled (t d : Nat) (s u : State) : Prop where
  thData : (u.tower t).thData = (s.tower t).thData
  throttled : (s.die d).lim = 0 ∧ (s.die d).hold = true → (u.die d).lim = 0 ∧ (u.die d).hold = true

section
variable {t d : Nat}

theorem Settled.trans {s u v : State} (h : Settled t d s u) (k : Settled t d u v) : Settled t d s v :=
  ⟨k.thData.trans h.thData, fun x => k.throttled (h.throttled x)⟩

theorem Settled.foldl {α : Type} {f : State → α → State} (h : ∀ s a, Settled t d s (f s a)) (l : List α) (s : State) : Settled t d s (l.foldl f s) := by
  induction l generalizing s with
  | nil => exact ⟨rfl, id⟩
  | cons a l ih => exact (h s a).trans (ih _)

theorem settled_of_eq {s u : State} (ht : u.towers = s.towers) (hd : u.dies = s.dies) : Settled t d s u := by
  refine ⟨?_, fun h => ?_⟩
  · rw [State.tower, ht]
    rfl
  · rw [State.die, hd]
    exact h

theorem settled_setTower (s : State) {k : Tower} (h : k.thData = (s.tower t).thData) : Settled t d s (s.setTower t k) :=
  ⟨by rw [tower_setTower, h], id⟩

/-- A die may change as long as one that is throttled stays so. -/
theorem settled_setDie (s : State) {j : Nat} {k : Die} (h : d = j → (s.die j).lim = 0 ∧ (s.die j).hold = true → k.lim = 0 ∧ k.hold = true) :
    Settled t d s (s.setDie j k) := by
  refine ⟨rfl, fun ht => ?_⟩
  by_cases hd : d = j
  · subst hd
    rw [die_setDie]
    exact h rfl ht
  · rw [die_setDie_other s k hd]
    exact ht

theorem settled_raiseMsix (n : Nat) (s : State) : Settled t d s (raiseMsix n s) := by
  obtain ⟨_, _, _, h⟩ := raiseMsix_eq n s
  rw [h]
  exact settled_of_eq rfl rfl

theorem settled_thSet (bit : Nat) (s : State) : Settled t d s (thSet t bit s) := by
  have set := settled_setTower (d := d) (t := t) s (k := { s.tower t with thStat := (s.tower t).thStat ||| BitVec.ofNat 64 (2 ^ bit) }) rfl
  simp only [thSet]
  split
  · exact set.trans (settled_raiseMsix _ _)
  · exact set

theorem settled_denyStream (c : Nat) (asked : Bool) (s : State) (x : Stream) : Settled t d s (denyStream c asked s x) := by
  simp only [denyStream]
  split
  · exact settled_of_eq rfl rfl
  · split <;> exact settled_of_eq rfl rfl

theorem settled_denyWaits (c : Nat) (s : State) : Settled t d s (denyWaits c s) := by
  rw [denyWaits_eq]
  exact (settled_of_eq rfl rfl : Settled t d s (noWant c (s.setCore c { s.core c with licReq := false }))).trans
    (Settled.foldl (fun s x => settled_denyStream c _ s x) _ _)

theorem settled_setDisable (p : Nat) (b : Bool) (s : State) : Settled t d s (setDisable p b s) := by
  have served : ∀ s : State, Settled t d s (serveFree p s) := fun s => by
    simp only [serveFree]
    split
    · exact ⟨rfl, id⟩
    · split
      · exact (settled_of_eq rfl rfl : Settled t d s (s.setPair p { s.pair p with lic := .disabled })).trans
          ((settled_denyWaits _ _).trans (settled_denyWaits _ _))
      · split <;> exact settled_of_eq rfl rfl
  rw [setDisable_eq]
  exact (settled_of_eq rfl rfl : Settled t d s (s.setPair p (disabled p b s))).trans (served _)

/-- The rows of another die. -/
theorem settled_thermalDie {j : Nat} (h : d ≠ j) (rs : List Nat) (s : State) : Settled t d s (thermalDie t j rs s) := by
  have other : ∀ k, Settled t d s (s.setDie j k) := fun k => settled_setDie s fun hd => absurd hd h
  simp only [thermalDie]
  split
  · exact (other _).trans (settled_thSet _ _)
  · split
    · exact (other _).trans (settled_thSet _ _)
    · split
      · split <;> exact other _
      · exact other _

/-- A reading at the maximum throttles its die at once (R414). -/
theorem thermalDie_throttles {rs : List Nat} (h : (rs.any fun r => decide (sensor Config.tjMax ≤ r)) = true) (s : State) :
    ((thermalDie t d rs s).die d).lim = 0 ∧ ((thermalDie t d rs s).die d).hold = true := by
  have hot : thermalDie t d rs s = thSet t 2 (s.setDie d { s.die d with lim := 0, hold := true, cool := 0 }) := if_pos h
  rw [hot]
  exact (settled_thSet 2 _).throttled (by rw [die_setDie]; exact ⟨rfl, rfl⟩)

/-- The rows of a pair but the warning: a difference at the maximum disables its area's licence and lowers the hotter die (R414). -/
def pairApart (t k : Nat) (x : Nat × Nat) (s : State) : State :=
  if thDiff x < Config.dtMax * 4 then s
  else
    let s := setDisable (t * 16 + k / 4) true s
    let s := s.setTower t { s.tower t with thStat := (s.tower t).thStat ||| BitVec.ofNat 64 (2 ^ (3 + k / 4)) }
    let d := if x.1 ≤ x.2 then 2 * t + 1 else 2 * t
    s.setDie d { s.die d with lim := (s.die d).lim - 1 }

theorem thermalPair_eq (t k : Nat) (x : Nat × Nat) (s : State) : thermalPair t k x s =
    if thDiff x < dtWarn (pairApart t k x s) * 4 then pairApart t k x s else thSet t 1 (pairApart t k x s) := rfl

theorem settled_pairApart (k : Nat) (x : Nat × Nat) (s : State) : Settled t d s (pairApart t k x s) := by
  unfold pairApart
  split
  · exact ⟨rfl, id⟩
  · refine ((settled_setDisable _ _ s).trans (settled_setTower _ ?_)).trans (settled_setDie _ fun _ ht => ⟨?_, ht.2⟩)
    · rfl
    · exact (congrArg (· - 1) ht.1).trans rfl

theorem settled_thermalPair (k : Nat) (x : Nat × Nat) (s : State) : Settled t d s (thermalPair t k x s) := by
  rw [thermalPair_eq]
  split
  · exact settled_pairApart k x s
  · exact (settled_pairApart k x s).trans (settled_thSet _ _)

theorem settled_thermalArea (n : Nat) (rd : List (Nat × Nat)) (s : State) : Settled t d s (thermalArea t n rd s) := by
  have kept : ∀ k : Tower, k.thData = (s.tower t).thData → Settled t d s (s.setTower t k) := fun k hk => settled_setTower s hk
  simp only [thermalArea]
  split
  · split
    · refine (kept _ ?_).trans (settled_setDisable _ _ _)
      rfl
    · refine kept _ ?_
      rfl
  · refine kept _ ?_
    rfl

theorem settled_changePoint (j : Nat) (s : State) : Settled t d s (changePoint j s) := by
  simp only [changePoint]
  split
  · exact settled_setDie s fun _ ht => ht
  · exact ⟨rfl, id⟩

end

/-- The readings of a sample as TH_DATA keeps them. -/
def samplesOf (rd : List (Nat × Nat)) : List (Nat × Nat) := (rd.take 64).map fun x => (x.1 % 1024, x.2 % 1024)

/-- The readings of a sample kept. -/
def keepSamples (t : Nat) (rd : List (Nat × Nat)) (s : State) : State :=
  s.setTower t { s.tower t with thData := ((samplesOf rd).zip (List.range 64)).foldl (fun d x => put d x.2 ⟨x.1.1, x.1.2⟩) (s.tower t).thData }

/-- What a sample does once its dies have been looked at: the rows of its pairs and areas, and the points that they move. -/
def afterDies (t : Nat) (rd : List (Nat × Nat)) (s : State) : State :=
  let s := ((samplesOf rd).zip (List.range 64)).foldl (fun s x => thermalPair t x.2 x.1 s) s
  let s := (List.range 16).foldl (fun s n => thermalArea t n (samplesOf rd) s) s
  changePoint (2 * t + 1) (changePoint (2 * t) s)

theorem thermalSample_eq (t : Nat) (rd : List (Nat × Nat)) (s : State) : thermalSample t rd s =
    afterDies t rd (thermalDie t (2 * t + 1) ((samplesOf rd).map (·.2)) (thermalDie t (2 * t) ((samplesOf rd).map (·.1)) (keepSamples t rd s))) := rfl

theorem settled_afterDies (t d : Nat) (rd : List (Nat × Nat)) (s : State) : Settled t d s (afterDies t rd s) := by
  have pairs := Settled.foldl (t := t) (d := d) (f := fun s x => thermalPair t x.2 x.1 s) (fun s x => settled_thermalPair x.2 x.1 s)
    ((samplesOf rd).zip (List.range 64)) s
  have areas := Settled.foldl (t := t) (d := d) (f := fun s n => thermalArea t n (samplesOf rd) s) (fun s n => settled_thermalArea n _ s) (List.range 16)
    (((samplesOf rd).zip (List.range 64)).foldl (fun s x => thermalPair t x.2 x.1 s) s)
  exact ((pairs.trans areas).trans (settled_changePoint _ _)).trans (settled_changePoint _ _)

section
variable {t : Nat} {rd : List (Nat × Nat)} {s : State}

theorem thermalSample_keeps {j : Nat} {x : Nat × Nat} (hj : j < 64) (hx : rd[j]? = some x) :
    find ((thermalSample t rd s).tower t).thData j = some ⟨x.1 % 1024, x.2 % 1024⟩ := by
  have kept : ((thermalSample t rd s).tower t).thData = ((keepSamples t rd s).tower t).thData := by
    rw [thermalSample_eq, (settled_afterDies t 0 rd _).thData, (settled_thermalDie (d := 2 * t) (by omega) _ _).thData,
      (settled_thermalDie (d := 2 * t + 1) (by omega) _ _).thData]
  have sample : (samplesOf rd)[j]? = some (x.1 % 1024, x.2 % 1024) := by
    rw [samplesOf, List.getElem?_map, List.getElem?_take_of_lt hj, hx]
    rfl
  have found := find_foldl_put (fun x : Nat × Nat => (⟨x.1, x.2⟩ : ThPair)) (samplesOf rd) 0 64 (s.tower t).thData hj sample
  rw [kept, keepSamples, tower_setTower]
  rwa [Nat.zero_add, ← List.range_eq_range'] at found

/-- A reading at the maximum, among a sample's own. -/
theorem samplesOf_any (p : Nat × Nat → Nat) (hp : ∀ x : Nat × Nat, p (x.1 % 1024, x.2 % 1024) = p x % 1024) :
    (((samplesOf rd).map p).any fun r => decide (sensor Config.tjMax ≤ r)) = (rd.take 64).any fun x => decide (sensor Config.tjMax ≤ p x % 1024) := by
  rw [samplesOf, List.map_map, List.any_map]
  exact congrArg (List.any _) (funext fun x => by simp only [Function.comp, hp])

theorem thermalSample_lower (h : ((rd.take 64).any fun x => decide (sensor Config.tjMax ≤ x.1 % 1024)) = true) :
    ((thermalSample t rd s).die (2 * t)).lim = 0 ∧ ((thermalSample t rd s).die (2 * t)).hold = true := by
  rw [thermalSample_eq]
  exact (settled_afterDies t (2 * t) rd _).throttled ((settled_thermalDie (by omega) _ _).throttled
    (thermalDie_throttles ((samplesOf_any Prod.fst fun _ => rfl).trans h) _))

theorem thermalSample_upper (h : ((rd.take 64).any fun x => decide (sensor Config.tjMax ≤ x.2 % 1024)) = true) :
    ((thermalSample t rd s).die (2 * t + 1)).lim = 0 ∧ ((thermalSample t rd s).die (2 * t + 1)).hold = true := by
  rw [thermalSample_eq]
  exact (settled_afterDies t (2 * t + 1) rd _).throttled (thermalDie_throttles ((samplesOf_any Prod.snd fun _ => rfl).trans h) _)
end

end Sys2Proof.Machine

namespace Sys2Proof.Proofs
open Sys2Proof.Machine Sys2Proof.Claims

section
variable {s : State} (hp : s.powered = true)
include hp

/-- R408, R420: a transition that ends leaves its die where it went, or on the way to the point that the die asks for. -/
theorem dvfsTransitionEnd_happens (k : DieId) (hb : (s.die k).busy = true) : ∃ u, Happens (.dvfsTransitionEnd k) s u ∧ u.mem = s.mem ∧ u.cores = s.cores ∧
    (Nat.min (s.die k).req (s.die k).lim = (s.die k).tgt → u.die k = { s.die k with busy := false, cur := (s.die k).tgt }) ∧
    (Nat.min (s.die k).req (s.die k).lim ≠ (s.die k).tgt →
      u.die k = { s.die k with busy := true, cur := (s.die k).tgt, tgt := Nat.min (s.die k).req (s.die k).lim, since := s.time }) := by
  obtain ⟨q, hq⟩ := transitionEnd_busy hb
  have there : (({ s with trcQ := q } : State).setDie k { s.die k with busy := false, cur := (s.die k).tgt }).die k =
      { s.die k with busy := false, cur := (s.die k).tgt } := die_setDie _ _ _
  refine ⟨_, event_eq hp hq, ?_, ?_, fun h => ?_, fun h => ?_⟩
  · exact changePoint_mem _ _
  · obtain ⟨_, _, _, hc | hc⟩ := changePoint_eq k (({ s with trcQ := q } : State).setDie k { s.die k with busy := false, cur := (s.die k).tgt }) <;> rw [hc] <;> rfl
  · rw [changePoint_still (by rw [there]; exact h), there]
  · rw [changePoint_moves (by rw [there]) (by rw [there]; exact h), die_setDie, there]
    rfl
end

/-- Settles O50: the host's accesses by how each ends, its answers by who asked, the samples by what later rows leave. -/
theorem hostPortAndPowerEventsComplete : Obligations.HostPortAndPowerEventsComplete := by
  constructor
  · intro gen width off n cxl2 cxl3 relaxed wide bar op bs x y v k z r s hp h
    refine ⟨event_eq hp rfl, event_eq hp rfl, ⟨?_, ?_, ?_, ?_, ?_⟩,
      fun hup hrep hheld hen hin hinn => ⟨?_, ?_⟩, fun hdown => ⟨event_eq hp (hostBarWrite_down hdown _ _ _), event_eq hp (hostBarRead_down hdown _)⟩,
      fun hup hoff => event_eq hp (hostBarWrite_msix hup hoff _), fun hup hoff => event_eq hp (hostBarRead_msix hup hoff), event_eq hp rfl,
      fun hup hoff => ⟨fun hreads => ?_, fun hreads => ?_⟩,
      ⟨fun haway => event_eq hp (hostRegWrite_away haway), fun hup hoff => ⟨fun hshort => event_eq hp (hostRegWrite_short hup hoff hshort), fun hwidth halign => ⟨?_, ?_, ?_⟩⟩⟩,
      ?_, fun hearly => event_eq hp (hostTimeout_early hearly),
      fun q hq hdue => answered_of_hostAnswer (event_eq hp (hostTimeout_due hq hdue))⟩
    · exact host_acts (q := .write off bs relaxed) (event_runs _ s hp)
    · exact host_acts (q := .read off n) (event_runs _ s hp)
    · exact host_acts (q := .atomic off op wide x y) (event_runs _ s hp)
    · exact host_acts (q := .cxlWrite off bs) (event_runs _ s hp)
    · exact host_acts (q := .cxlRead off n) (event_runs _ s hp)
    · refine host_performs (q := .read off n) ?_ hup hinn hrep hheld (hostRead_disabled off n false hen)
      exact event_runs _ s hp
    · have inside : inBar2 off (if wide then 8 else 4) = true := by
        simp only [inBar2, decide_eq_true_eq] at hin ⊢
        split <;> omega
      refine host_performs (q := .atomic off op wide x y) ?_ hup inside hrep hheld (hostAtomic_disabled off op wide x y hen)
      exact event_runs _ s hp
    · exact event_eq hp ((hostBarRead_regs hup hoff).trans (if_pos hreads))
    · exact event_eq hp ((hostBarRead_regs hup hoff).trans (if_neg hreads))
    · exact fun hnone => event_eq hp (hostRegWrite_unassigned hup hoff hwidth halign hnone)
    · exact fun a t ha ht => event_eq hp (hostRegWrite_takes hup hoff hwidth halign ha ht)
    · exact fun a t ha ht => event_eq hp (hostRegWrite_refused hup hoff hwidth halign ha ht)
    · refine answered_of_hostAnswer ?_
      exact event_runs (fun s => hostAnswer k z r (hostCells r s)) s hp
  · intro k p10 p1s t rd s hp d
    exact ⟨fun hidle => event_eq hp (if_neg (by rw [hidle]; exact Bool.false_ne_true)), dvfsTransitionEnd_happens hp k,
      ⟨_, event_runs _ s hp, governorSample_mem p10 p1s s, (governorSample_means p10 p1s s).1, (governorSample_means p10 p1s s).2, governorSample_cluster p10 p1s s⟩,
      _, event_runs _ s hp, thermalSample_mem t.val rd s, fun j x hj hx => thermalSample_keeps hj hx, thermalSample_lower, thermalSample_upper⟩

end Sys2Proof.Proofs
end

section
/-! SUPPORT. Jobs: engine starts, the end of a leader's job, bound registers (R150-R153, R233, R234, R334). -/
namespace Sys2Proof.Machine
open Claims

/-! ## Engine starts (R150) -/

/-- Engine `e` of core `c` runs its sequence afresh, in a job of leader `l`. -/
structure Started (c : Nat) (l : Leader) (mt : Nat) (e : Eng × Nat) (u : State) : Prop where
  st : (u.str c (engStream e.1)).st = .run
  pc : (u.str c (engStream e.1)).pc = e.2
  inJob : (u.str c (engStream e.1)).inJob = true
  job : (u.str c (engStream e.1)).job = l
  mt : (u.str c (engStream e.1)).mt = mt
  wait : (u.str c (engStream e.1)).wait = .none
  run : (u.seqOf c e.1).run = none

section
variable {c : Nat} {l : Leader} {mt : Nat} {p : Pass}

theorem startEngine_started (s : State) (e : Eng × Nat) : Started c l mt e (startEngine c l mt p s e) := by
  unfold startEngine
  constructor <;> simp

theorem startEngine_str_other (s : State) {e f : Eng × Nat} (h : e.1 ≠ f.1) :
    (startEngine c l mt p s f).str c (engStream e.1) = s.str c (engStream e.1) := by
  simp only [startEngine, str_setSeqOf]
  exact str_setStr_other _ _ _ fun he => h (engStream_inj he)

theorem startEngine_seqOf_other (s : State) {e f : Eng × Nat} (h : e.1 ≠ f.1) : (startEngine c l mt p s f).seqOf c e.1 = s.seqOf c e.1 := by
  simp only [startEngine]
  rw [seqOf_setSeqOf_other _ _ _ h, seqOf_setStr]

theorem startEngine_ctlOf (s : State) (e : Eng × Nat) (k : Leader) : (startEngine c l mt p s e).ctlOf c k = s.ctlOf c k := by
  simp [startEngine, State.ctlOf, State.setSeqOf, State.setStr]

/-- The start of another engine leaves it running. -/
theorem Started.startEngine {s : State} {e f : Eng × Nat} (hs : Started c l mt e s) (h : e.1 ≠ f.1) : Started c l mt e (startEngine c l mt p s f) := by
  obtain ⟨hst, hpc, hin, hjob, hmt, hwait, hrun⟩ := hs
  constructor <;> simp only [startEngine_str_other s h, startEngine_seqOf_other s h] <;> assumption

/-- Engines started one after another, each once: all of them run. -/
theorem foldl_startEngine_started (es : List (Eng × Nat)) (hnd : (es.map Prod.fst).Nodup) (s : State) :
    ∀ e ∈ es, Started c l mt e (es.foldl (startEngine c l mt p) s) := by
  induction es using List.reverseRecOn with
  | nil => exact fun e he => absurd he List.not_mem_nil
  | append_singleton es f ih =>
    rw [List.map_append, List.nodup_append] at hnd
    obtain ⟨hnd, -, hnew⟩ := hnd
    intro e he
    rw [List.foldl_append]
    rcases List.mem_append.mp he with he | he
    · exact (ih hnd e he).startEngine (hnew _ (List.mem_map_of_mem he) _ (List.mem_singleton.mpr rfl))
    · rw [List.mem_singleton.mp he]
      exact startEngine_started _ f

/-- Starts leave the control cores and memory. -/
theorem foldl_startEngine_ctl (es : List (Eng × Nat)) (s : State) : (es.foldl (startEngine c l mt p) s).cur = s.cur ∧
    (es.foldl (startEngine c l mt p) s).mem = s.mem ∧ ∀ k, (es.foldl (startEngine c l mt p) s).ctlOf c k = s.ctlOf c k := by
  induction es generalizing s with
  | nil => exact ⟨rfl, rfl, fun _ => rfl⟩
  | cons e es ih =>
    obtain ⟨hcur, hmem, hctl⟩ := ih (startEngine c l mt p s e)
    exact ⟨hcur, hmem, fun k => (hctl k).trans (startEngine_ctlOf s e k)⟩
end

theorem maskStreams_engines (a : Nat) (m : Fin 16) : (maskStreams a m.val).map Prod.fst = (maskStreams 0 m.val).map Prod.fst := by
  simp [maskStreams, Function.comp_def]

theorem maskStreams_nodup (a : Nat) (m : Fin 16) : ((maskStreams a m.val).map Prod.fst).Nodup := by
  rw [maskStreams_engines]
  revert m
  decide

theorem maskStreams_nonempty (a : Nat) (m : Fin 16) (h : m.val ≠ 0) : (maskStreams a m.val).isEmpty = false := by
  have nonempty : ∀ m : Fin 16, m.val ≠ 0 → ((maskStreams 0 m.val).map Prod.fst).isEmpty = false := by decide
  rw [← List.isEmpty_map (f := Prod.fst), maskStreams_engines]
  exact nonempty m h

/-- Checks made of each element of a list, none of which traps. -/
theorem forIn_checks {α : Type} {f : α → PUnit → Chk (ForInStep PUnit)} (xs : List α) (h : ∀ a ∈ xs, f a () = .ok (.yield ())) :
    forIn xs PUnit.unit f = Except.ok PUnit.unit := by
  induction xs with
  | nil => rfl
  | cons a t ih =>
    rw [List.forIn_cons, h a List.mem_cons_self]
    exact ih fun b hb => h b (List.mem_cons_of_mem a hb)

/-- The engines that a mask names, each with the PC that its register gives. -/
def engStarts (a m : Nat) (s : State) : List (Eng × Nat) := (maskStreams a m).map fun e => (e.1, (s.me.rdS e.2).toNat)

/-- What an `eng.start` leaves whose checks pass: a release, and its engines started. -/
def engStarted (a m : Nat) (s : State) : State :=
  (engStarts a m s).foldl (startEngine s.cc s.cl s.myStr.mt (releasePass s.myAgent s).2) (releasePass s.myAgent s).1

theorem engStarted_started (a : Nat) (m : Fin 16) (s : State) :
    ∀ e ∈ maskStreams a m.val, Started s.cc s.cl s.myStr.mt (e.1, (s.me.rdS e.2).toNat) (engStarted a m.val s) := fun e he => by
  have once : ((engStarts a m.val s).map Prod.fst).Nodup := by
    rw [engStarts, List.map_map]
    exact maskStreams_nodup a m
  exact foldl_startEngine_started _ once _ _ (List.mem_map_of_mem he)

theorem engStarted_mem (a m : Nat) (s : State) : (engStarted a m s).mem = s.mem := by
  obtain ⟨-, hmem, -⟩ := foldl_startEngine_ctl (c := s.cc) (l := s.cl) (mt := s.myStr.mt) (p := (releasePass s.myAgent s).2) (engStarts a m s)
    (releasePass s.myAgent s).1
  exact hmem.trans (releasePass_mem _ s)

/-- The leader keeps its registers. -/
theorem engStarted_me (a m : Nat) (s : State) : (engStarted a m s).me = s.me := by
  have steady : Steady s (releasePass s.myAgent s).1 := steady_setClock s _ _
  obtain ⟨hcur, -, hctl⟩ := foldl_startEngine_ctl (c := s.cc) (l := s.cl) (mt := s.myStr.mt) (p := (releasePass s.myAgent s).2) (engStarts a m s)
    (releasePass s.myAgent s).1
  have cur : (engStarted a m s).cur = s.cur := hcur.trans steady.cur
  rw [State.me, State.cc, State.cl, cur]
  exact (hctl s.cl).trans (steady.ctl s.cc s.cl)

section
variable {s : State} {i : Instr} {xs : List (Eng × Nat)}

/-- The checks of a start from a job whose engines are idle and whose PCs are record addresses (R150). -/
theorem engStartChecks_passes (hin : s.myStr.inJob = true) (hne : xs.isEmpty = false)
    (h : ∀ e ∈ xs, (s.me.rdS e.2).toNat % 64 = 0 ∧ (s.me.rdS e.2).toNat < 262144 ∧ (s.str s.cc (engStream e.1)).st = .idle) :
    engStartChecks i xs s = .ok () := by
  have idle : (xs.all fun e => (s.str s.cc (engStream e.1)).st == .idle) = true := List.all_eq_true.mpr fun e he => by
    obtain ⟨-, -, hidle⟩ := h e he
    exact beq_iff_eq.mpr hidle
  unfold engStartChecks
  rw [hin, hne, forIn_checks xs fun e he => ?_, idle]
  · rfl
  · obtain ⟨halign, hbound, -⟩ := h e he
    simp only [halign, hbound, decide_true, beq_self_eq_true]
    rfl

theorem engStartChecks_noJob (hin : s.myStr.inJob = false) : engStartChecks i xs s = .error ⟨.permission, 0⟩ := by
  unfold engStartChecks
  rw [hin]
  rfl
end

/-! ## The end of a job (R233, R334) -/

theorem lapse_eq (c : Nat) (s : State) : ∃ q, lapse c s = { s with pairs := q } := by
  simp only [lapse]
  split <;> exact ⟨_, rfl⟩

theorem report_cur (c : Nat) (l : Leader) (faulted : Bool) (s : State) : (report c l faulted s).cur = s.cur := by
  unfold report
  simp only
  split
  · exact (steady_setClock s _ _).cur
  · refine (steady_setClock _ _ _).cur.trans ((cur_of_apart (apart_dropAll _ _)).trans ?_)
    exact (steady_setClock s _ _).cur
  · exact (steady_setClock _ _ _).cur.trans (steady_setClock s _ _).cur

/-- The job of leader `l` of core `c` has ended. -/
structure JobEnded (c : Nat) (l : Leader) (u : State) : Prop where
  st : (u.str c (leaderStream l)).st = .idle
  inJob : (u.str c (leaderStream l)).inJob = false
  mt : (u.str c (leaderStream l)).mt = 0xFFF
  wait : (u.str c (leaderStream l)).wait = .none
  starter : (u.ctlOf c l).starter = .none

theorem endJob_ended (c : Nat) (l : Leader) (faulted : Bool) (s : State) : (endJob c l faulted s).cur = s.cur ∧ JobEnded c l (endJob c l faulted s) := by
  have noted : ((report c l faulted s).noteOpen (agentOf c (leaderStream l)) 5).cur = s.cur := by
    obtain ⟨q, hq⟩ := note_eq (agentOf c (leaderStream l)) 5 (Config.freeNat (report c l faulted s).freeCtr (64 + 5) % 2 ^ 128) (report c l faulted s)
    rw [State.noteOpen, hq]
    exact report_cur c l faulted s
  unfold endJob
  simp only
  generalize (report c l faulted s).noteOpen (agentOf c (leaderStream l)) 5 = r at noted
  generalize r.str c (leaderStream l) = m
  generalize (r.setStr c (leaderStream l) { m with inJob := false, st := .idle, wait := .none, mt := 0xFFF }).ctlOf c l = k
  obtain ⟨q, hq⟩ := lapse_eq c ((r.setStr c (leaderStream l) { m with inJob := false, st := .idle, wait := .none, mt := 0xFFF }).setCtlOf c l
    { k with starter := .none, rdvF := .empty, inTrap := false })
  rw [hq]
  refine ⟨noted, ?_⟩
  constructor <;> simp [State.str, State.ctlOf, State.setCtlOf, State.setStr, State.core, State.setCore]

section
variable {s : State}

/-- The release of a job's end, once the agent's remote accesses are acknowledged (R334). -/
theorem performRelease_acked {w : Who} (e : Scope) (h : acked s w.agent = true) : ∃ t, (performRelease w e).go s = (.ok (), t) ∧ t.cur = s.cur := by
  refine ⟨_, (performRelease_go w e s).trans (if_neg (by simp [h])), ?_⟩
  split
  · exact cur_of_apart (apart_writeBackAll _ s)
  · rfl

theorem jendBody_ends (hin : s.myStr.inJob = true) (hidle : jobBusy s s.cc s.cl = false) (hack : acked s s.myAgent = true) :
    ∃ t, jendBody.go s = (.ok (), t) ∧ t.cur = s.cur ∧ JobEnded s.cc s.cl t := by
  obtain ⟨t, ht, hcur⟩ := performRelease_acked (w := s.who) .system hack
  obtain ⟨q, hq⟩ := endWait_completed_eq t.cc t.cur.2 t
  have cc : t.cc = s.cc := congrArg Prod.fst hcur
  have cl : t.cl = s.cl := congrArg (fun x : Nat × Stream => streamLeader x.2) hcur
  obtain ⟨hend, hjob⟩ := endJob_ended t.cc t.cl false { t with trcQ := q }
  refine ⟨_, ?_, hend.trans hcur, cc ▸ cl ▸ hjob⟩
  unfold jendBody
  rw [go_get_bind, hin, go_needM_bind, hidle, Bool.not_false, go_needM_bind, go_bind_ok ht, go_modify, hq]

theorem jendBody_busy (hin : s.myStr.inJob = true) (hbusy : jobBusy s s.cc s.cl = true) :
    jendBody.go s = (.error (.trap ⟨.permission, 0⟩), s) := by
  unfold jendBody
  rw [go_get_bind, hin, go_needM_bind, hbusy]
  rfl

theorem dropAns_myStr (s : State) : (dropAns s).myStr = s.myStr := by
  unfold dropAns
  split
  · rfl
  · exact setMe_myStr s _

theorem leaderStream_streamLeader : ∀ {x : Stream}, isCtl x = true → leaderStream (streamLeader x) = x
  | .lcc, _ => rfl
  | .ccc, _ => rfl

/-- `jend` leaves its stream IDLE past the instruction, out of the job, with no starter (R233). -/
theorem jend_ends (hc : isCtl s.cur.2 = true) (hin : s.myStr.inJob = true) (hidle : jobBusy s s.cc s.cl = false) (hack : acked s s.myAgent = true) :
    ∃ t, jend s = .ended t ∧ t.pc = s.pc + 4 ∧ t.myStr.st = .idle ∧ t.myStr.inJob = false ∧ t.myStr.mt = 0xFFF ∧ t.myStr.wait = .none ∧
      t.me.starter = .none := by
  obtain ⟨t, ht, hcur, hjob⟩ := jendBody_ends hin hidle hack
  have mine : t.str s.cc (leaderStream s.cl) = t.myStr := by
    rw [State.cl, leaderStream_streamLeader hc, State.myStr, State.cc, State.cc, hcur]
  have me : t.ctlOf s.cc s.cl = t.me := by rw [State.me, State.cc, State.cc, State.cl, State.cl, hcur]
  obtain ⟨hst, hout, hmt, hwait, hstarter⟩ := hjob
  rw [mine] at hst hout hmt hwait
  rw [me] at hstarter
  refine ⟨(dropAns t).setMyStr { (dropAns t).myStr with pc := s.pc + 4 }, ?_, ?_⟩
  · unfold jend
    rw [ofM_done ht]
  · simp only [State.pc, myStr_setMyStr, me_setMyStr, dropAns_myStr, dropAns_me]
    exact ⟨trivial, hst, hout, hmt, hwait, hstarter⟩
end

/-! ## Bound registers (R153, R234) -/

section
variable {s : State} (e : Eng) (k : Nat) {a : SReg}

theorem bndBody_sets (h : (s.rdS a).toNat ≤ 65535) : bndBody e k a s = .done (s.setSeqOf s.cc e { s.seqOf s.cc e with
    b := put (s.seqOf s.cc e).b k (s.rdS a).toNat, bad := (s.seqOf s.cc e).bad.filter fun n => n != k }) := by
  unfold bndBody
  dsimp only
  rw [decide_eq_true h]
  rfl

theorem bndBody_refuses (h : 65535 < (s.rdS a).toNat) : bndBody e k a s = .trap s ⟨.bounds, 0⟩ := by
  unfold bndBody
  dsimp only
  rw [decide_eq_false (Nat.not_le.mpr h)]
  rfl
end

end Sys2Proof.Machine

namespace Sys2Proof.Proofs
open Sys2Proof.Machine Sys2Proof.Claims

section
variable {gd : Guard} {s : State} (hr : Ready gd s)
include hr

/-- R150: a start whose checks pass. -/
theorem engStart_completes {a : SReg} {m : Fin 16} (hin : s.myStr.inJob = true) (hm : m.val ≠ 0)
    (h : ∀ e ∈ maskStreams a.val m.val, (s.me.rdS e.2).toNat % 64 = 0 ∧ (s.me.rdS e.2).toNat < 262144 ∧ (s.str s.cc (engStream e.1)).st = .idle) :
    Completes (.engStart gd a m) 4 s (engStarted a.val m.val s) := by
  refine completes_of_done rfl hr ?_
  dsimp only
  rw [engStartChecks_passes hin (maskStreams_nonempty a.val m hm) h]
  rfl

/-- R234: a bound register takes a value of 16 bits. -/
theorem bound_forms {i : Instr} {e : Eng} {k : Fin 16} {a : SReg} (hi : exec i = control gd 4 false (bndBody e k a)) :
    ((s.rdS a).toNat ≤ 65535 → Completes i 4 s (s.setSeqOf s.cc e { s.seqOf s.cc e with
      b := put (s.seqOf s.cc e).b k.val (s.rdS a).toNat, bad := (s.seqOf s.cc e).bad.filter fun n => n != k.val })) ∧
    (65535 < (s.rdS a).toNat → TrapsHere i 4 s .bounds 0) :=
  ⟨fun h => completes_of_done hi hr (bndBody_sets e k h), fun h => trapsHere_of_trap hi hr (bndBody_refuses e k h)⟩

/-- R233: the end of a job that nothing holds up. -/
theorem jend_happens (hc : isCtl s.cur.2 = true) (hin : s.myStr.inJob = true) (hidle : jobBusy s s.cc s.cl = false) (hack : acked s s.myAgent = true) :
    ∃ t, exec (.jend gd) s = .next t ∧ t.pc = s.pc + 4 ∧
      t.myStr.st = .idle ∧ t.myStr.inJob = false ∧ t.myStr.mt = 0xFFF ∧ t.myStr.wait = .none ∧ t.me.starter = .none := by
  obtain ⟨hp, hg, -⟩ := hr
  obtain ⟨t, ht, hends⟩ := jend_ends hc hin hidle hack
  refine ⟨t, ?_, hends⟩
  rw [exec_jend, execJend, control_runs gd 4 false jend s hp hg (.inl rfl), ht]
  rfl
end

/-- Settles O25: each form by what its body ends in. -/
theorem jobFormsComplete : Obligations.JobFormsComplete := by
  intro gd a m k s hr hc _ xs pcOf bound
  refine ⟨fun hin hm h => ?_, fun hin => trapsHere_of_trap rfl hr ?_, fun hidle => ?_, fun hbusy => waitsHere_of_stay rfl hr (if_pos hbusy),
    jend_happens hr hc, fun hin hbusy => trapsHere_of_trap rfl hr ?_, bound_forms hr rfl, bound_forms hr rfl, bound_forms hr rfl, bound_forms hr rfl⟩
  · refine ⟨_, engStart_completes hr hin hm h, fun e he => ?_, fun n => congrArg (·.rdS n) (engStarted_me _ _ s), engStarted_mem _ _ s⟩
    obtain ⟨hst, hpc, hjobs, hjob, hmt, hwait, hrun⟩ := engStarted_started a.val m s e he
    exact ⟨hst, hpc, hjobs, hjob, hmt, hwait, hrun⟩
  · dsimp only
    rw [engStartChecks_noJob hin]
    rfl
  · obtain ⟨u, hu, hempty, hmem, -⟩ := rdv_done hidle
    exact ⟨u, completes_of_done rfl hr hu, hempty, hmem⟩
  · unfold jend
    simp only [Eff.ofM, jendBody_busy hin hbusy]

end Sys2Proof.Proofs
end

section
/-! SUPPORT. Sequencer records at their completion (R151, R182-R184). -/
namespace Sys2Proof.Machine
open Claims

section
variable {c : Nat} {e : Eng} {s : State} {u : Run}

/-- A record once its operation has closed. -/
def closedRun (u : Run) : Run := { u with status := 1, held := 0, ans := .none }

/-- The state in which an operation that does nothing at its end has closed. -/
def closedAt (c : Nat) (e : Eng) (u : Run) (s : State) : State := engRun c e (setRun c e (some (closedRun u))
  (dropResv c (engStream e) (landEng c (streamNo (engStream e)) (reinject c (streamNo (engStream e)) s))))

theorem closedAt_runs : ((closedAt c e u s).str c (engStream e)).st ≠ .trap := by
  rw [closedAt, engRun_str]
  exact SState.noConfusion

/-- A record at its completion closes its operation and takes its actions, whether or not its stream could move. -/
theorem recordCompletion_closedAt (hrun : (s.seqOf c e).run = some u) (hphase : u.phase = .complete) (hstatus : u.status = 0)
    (hdone : ∀ k f w, doneFn u.instr k f w = pure w) : recordCompletion c e s = takeActions c e (closedRun u) (closedAt c e u s) := by
  have close : (closeOp c e u).go s = (.ok (closedRun u), _) := closeOp_plain hdone
  have closes : runM c e (closeOp c e) s = closedAt c e u s := by
    unfold runM
    simp only [hrun, close]
    rfl
  have open' : ((closedAt c e u s).seqOf c e).run = some (closedRun u) := by rw [closedAt, engRun_seqOf, setRun_run]
  unfold recordCompletion
  simp only [hrun, hphase, ne_eq, not_true_eq_false, if_false, hstatus, if_true, closes, open']
  exact if_pos rfl

/-- The end of a job's sequence arrives at the rendezvous (R151). -/
theorem takeActions_arrives {v : Run} {r : Rec} (hst : (s.str c (engStream e)).st ≠ .trap) (hdefer : (s.seqOf c e).defer = []) (hv : v.instr = .seqEnd r) :
    takeActions c e v s = arrive c e v s := by
  unfold takeActions
  simp only [flushDefer_nothing 16 hdefer, beq_iff_eq, hst, if_false, hdefer, hv, List.isEmpty_nil, if_true]
end

/-- A sequencer record: its own meaning is its completion, and its operation does nothing at its end. -/
structure SeqRecord (i : Instr) : Prop where
  exec : exec i = seqOp i
  done : ∀ c e w, doneFn i c e w = pure w

/-- The record `u` of instruction `i` stands at its completion at sequencer `e`, and once it has closed nothing of earlier records is deferred. -/
structure SeqStands (i : Instr) (e : Eng) (u : Run) (s : State) : Prop where
  powered : s.powered = true
  sequencer : seqFor s i = e
  run : (s.seqOf s.cc e).run = some u
  instr : u.instr = i
  phase : u.phase = .complete
  status : u.status = 0
  defer : ((closedAt s.cc e u s).seqOf s.cc e).defer = []

section
variable {i : Instr} {e : Eng} {u : Run} {s : State} (hi : SeqRecord i) (h : SeqStands i e u s)
include hi h

theorem SeqStands.completes : exec i s = .next (takeActions s.cc e (closedRun u) (closedAt s.cc e u s)) := by
  obtain ⟨hp, rfl, hrun, rfl, hphase, hstatus, -⟩ := h
  rw [hi.exec]
  refine event_eq hp ?_
  simp only [hrun, hphase, and_self, if_true]
  exact recordCompletion_closedAt hrun hphase hstatus hi.done

theorem SeqStands.arrives {r : Rec} (hr : i = .seqEnd r) : exec i s = .next (arrive s.cc e (closedRun u) (closedAt s.cc e u s)) :=
  (h.completes hi).trans (congrArg _ (takeActions_arrives closedAt_runs h.defer (h.instr.trans hr)))

/-- A record that is not the last goes on once its actions are taken. -/
theorem SeqStands.leaves (hend : ∀ r, i ≠ .seqEnd r) {t : State} {z : Run}
    (hacts : actLoop s.cc e 3 (closedRun u) (closedAt s.cc e u s) = (t, z, none)) : exec i s = .next (leave s.cc e (closedRun u) t) :=
  (h.completes hi).trans (congrArg _ (takeActions_leaves closedAt_runs h.defer (fun r hr => hend r (h.instr.symm.trans hr)) hacts))

/-- One that names no action goes on at once. -/
theorem SeqStands.leaves_idle (hend : ∀ r, i ≠ .seqEnd r) (hsig : (recOf' i).ssig.val < 32) (hpush : (recOf' i).tpush.val < 8)
    (hflag : (recOf' i).flag = false) (hloc : u.flagLoc = none) : exec i s = .next (leave s.cc e (closedRun u) (closedAt s.cc e u s)) := by
  obtain rfl := h.instr
  obtain ⟨z, hz⟩ := actLoop_idle (c := s.cc) (e := e) (s := closedAt s.cc e u s) (u := closedRun u) 3 hsig hpush hflag hloc
  exact h.leaves hi hend hz
end

/-- The PC that follows a record is that of its instruction (R184). -/
theorem afterPc_closedRun {i : Instr} {u : Run} (h : u.instr = i) : afterPc (closedRun u) = afterPc { u with instr := i } := by
  subst h
  rfl

end Sys2Proof.Machine

namespace Sys2Proof.Proofs
open Sys2Proof.Machine Sys2Proof.Claims

/-- Settles O37: the record closes and takes its actions; `seq.end` then arrives, and another goes on at the PC of its branch. -/
theorem sequencerRecordsComplete : Obligations.SequencerRecordsComplete := by
  refine ⟨?_, ?_, ?_, ?_, ?_⟩
  · rintro r e u _ s ⟨hp, he, hrun, hi, hphase, hstatus, rfl, hdefer⟩
    exact SeqStands.arrives ⟨rfl, fun _ _ _ => rfl⟩ ⟨hp, he, hrun, hi, hphase, hstatus, hdefer⟩ rfl
  all_goals
    rintro r e u _ s t x ⟨hp, he, hrun, hi, hphase, hstatus, rfl, hdefer⟩
    have stands : SeqStands _ e u s := ⟨hp, he, hrun, hi, hphase, hstatus, hdefer⟩
    exact ⟨afterPc_closedRun hi, stands.leaves ⟨rfl, fun _ _ _ => rfl⟩ fun _ => Instr.noConfusion,
      stands.leaves_idle ⟨rfl, fun _ _ _ => rfl⟩ fun _ => Instr.noConfusion⟩

end Sys2Proof.Proofs
end

section
/-! SUPPORT. A vote without a majority, and what a record held at entry has in flight (R328, R392). -/
namespace Sys2Proof.Machine

/-- A module of a ring of four whose vote of step 9 is under way, at a divergence: an ME record stands at its entry while a byte that an earlier issue
of the engine wrote to the accumulator is still in flight. A record that closes leaves nothing in flight (`closeOp`); the statement is about every state. -/
def divergingRecord : State :=
  { State.reset with
    fabRing := BitVec.ofNat 64 (1 + 3 * 2 ^ 8 + 2 * 2 ^ 16 + 2 ^ 36 + 2 ^ 52)
    voting := some (0, 4, 9, 0)
    cores := [(0, { Core.reset with
      flight := [⟨2, .acc 0 [1], 0, none, 0⟩]
      seqs := [(0, { Seq.reset with run := some (Run.fresh State.reset 0 .me (.meMma default) 64 .entry) })] })] }

theorem divergingRecord_votes : divergingRecord.powered = true ∧ ringV divergingRecord = true ∧ divergingRecord.voting = some (0, 4, 9, 0) ∧
    divergingRecord.mem = [] := ⟨rfl, by decide, rfl, rfl⟩

/-- The trap that DIVERGENCE raises in the record has the engine's results leave it first. -/
theorem divergingRecord_lands : (resultArrives 9 .noMajority 0 divergingRecord).mem = [(accBase, 1)] := by decide +kernel

end Sys2Proof.Machine

namespace Sys2Proof.Proofs
open Sys2Proof.Machine Sys2Proof.Claims

/-- Refutes O48: a result that raises DIVERGENCE ends the vote, but the trap of a record held at entry has the engine's results in flight leave it first,
which changes memory. -/
theorem not_treeAndVoteEventsComplete : ¬ Obligations.TreeAndVoteEventsComplete := by
  intro h
  obtain ⟨hp, hring, hvote, hmem⟩ := divergingRecord_votes
  obtain ⟨-, -, -, -, -, -, -, -, -, hvoting⟩ := h 0 0 0 9 0 .noMajority default divergingRecord hp
  obtain ⟨hresult, -⟩ := hvoting 0 4 9 0 hvote
  obtain ⟨t, ht, -, -, hsame⟩ := hresult hring rfl
  obtain rfl : resultArrives 9 .noMajority 0 divergingRecord = t := Host.Outcome.next.inj ((event_eq hp rfl).symm.trans ht)
  rw [divergingRecord_lands, hmem] at hsame
  exact List.cons_ne_nil _ _ hsame

end Sys2Proof.Proofs
end

section
/-! SUPPORT. A word is made of its fields, and each part of the opcode map answers instructions whose encoding is the word that it was given the
fields of (R167-R176). -/
namespace Sys2Proof

/-- Is a major one of the long forms' (R171)? -/
def longMajor (maj : Nat) : Bool := maj == 0x78 || maj == 0x79 || maj == 0x7A

theorem isLong_eq {w maj : Nat} (h : fMaj w = maj) : isLong w = longMajor maj := by rw [isLong, h]; rfl

/-! ## Words from their fields -/

theorem b2n_bitAt (x n : Nat) : b2n (bitAt x n) = x / 2 ^ n % 2 := by
  have h := Nat.mod_two_eq_zero_or_one (x / 2 ^ n)
  rcases h with h | h <;> simp [b2n, bitAt, h]

theorem encGuard_fGuard (w : Nat) : encGuard (fGuard w) = w / 2 ^ 21 % 2 * 2 ^ 21 + w / 2 ^ 22 % 8 * 2 ^ 22 := by
  simp only [encGuard, fGuard, b2n_bitAt, Fin.ofNat, bitsAt]
  omega

section
variable {w : Nat} (h : w < 2 ^ 32)
include h

theorem fmtR_fields : fmtR (fMaj w) (fGuard w) (fD w) (fA w) (fB w) (fFn w) = w := by
  simp only [fmtR, encGuard_fGuard, fMaj, fD, fA, fB, fFn, bitsAt]
  omega

theorem fmtI_fields : fmtI (fMaj w) (fGuard w) (fD w) (fA w) (fImm9 w) = w := by
  simp only [fmtI, encGuard_fGuard, fMaj, fD, fA, fImm9, bitsAt]
  omega

theorem fmtB_fields : fmtB (fMaj w) (fGuard w) (fOff21 w) = w := by
  simp only [fmtB, encGuard_fGuard, fMaj, fOff21, bitsAt]
  omega

theorem fmtM_fields : fmtM (fMaj w) (fGuard w) (s64 (fD w)) (fMem w) = w := by
  simp only [fmtM, encGuard_fGuard, fMaj, s64, fD, fMem, b2n_bitAt, Fin.ofNat, bitsAt]
  omega
end

theorem immM_fields {x : Nat} (h : bitsAt x 24 8 = 0) (hx : x < 2 ^ 32) : immM (fMemL x) (bitsAt x 15 6) (bitsAt x 21 3) = x := by
  simp only [immM, fMemL, b2n_bitAt, Fin.ofNat, bitsAt] at h ⊢
  omega

theorem fD_lt (w : Nat) : fD w < 64 := Nat.mod_lt _ (by decide)
theorem fA_lt (w : Nat) : fA w < 64 := Nat.mod_lt _ (by decide)
theorem fB_lt (w : Nat) : fB w < 64 := Nat.mod_lt _ (by decide)
theorem fFn_lt (w : Nat) : fFn w < 8 := Nat.mod_lt _ (by decide)
theorem fImm9_lt (w : Nat) : fImm9 w < 512 := Nat.mod_lt _ (by decide)
theorem fOff21_lt (w : Nat) : fOff21 w < 2 ^ 21 := Nat.mod_lt _ (by decide)

/-! ## Operand numbers and codes (R168, R176) -/

@[simp] theorem val_s64_of_lt {x : Nat} (h : x < 64) : (s64 x).val = x := Nat.mod_eq_of_lt h
@[simp] theorem val_p8_of_lt {x : Nat} (h : x < 8) : (p8 x).val = x := Nat.mod_eq_of_lt h
@[simp] theorem val_p8_mod (x : Nat) : (p8 (x % 8)).val = x % 8 := Nat.mod_mod x 8
@[simp] theorem val_g16_mod (x : Nat) : (g16 (x % 16)).val = x % 16 := Nat.mod_mod x 16
@[simp] theorem val_h32_of_lt {x : Nat} (h : x < 32) : (h32 x).val = x := Nat.mod_eq_of_lt h
@[simp] theorem val_g16_of_lt {x : Nat} (h : x < 16) : (g16 x).val = x := Nat.mod_eq_of_lt h

theorem condCode_of_condOf {n : Nat} {k : Cond} (h : condOf n = some k) : condCode k = n := by
  unfold condOf at h
  split at h <;> cases h <;> rfl

theorem scopeCode_of_scopeOf {n : Nat} {e : Scope} (h : scopeOf n = some e) : scopeCode e = n := by
  unfold scopeOf at h
  split at h <;> cases h <;> rfl

theorem ordCode_of_ordOf {n : Nat} {o : Ord} (h : ordOf n = some o) : ordCode o = n := by
  unfold ordOf at h
  split at h <;> cases h <;> rfl

@[simp] theorem legal_eq_some {ok : Bool} {x i : Instr} : legal ok x = some i ↔ ok = true ∧ x = i := by
  cases ok <;> simp [legal]

/-! ## The opcode map, inverted (R174, R175) -/

/-- The term is one that an encoding exists for, and these words are its encoding. -/
def EncodesTo (i : Instr) (ws : List Nat) : Prop := i.wf = true ∧ encode i = ws

section
variable {fn d a b x maj sub op : Nat} {gd : Guard} {i : Instr}

theorem dec00_encodesTo (hd : d < 64) (ha : a < 64) (hb : b < 64) (h : dec00 fn gd d a b = some i) :
    EncodesTo i [fmtR 0x00 gd d a b fn] := by
  unfold dec00 at h
  split at h <;> cases h <;> exact ⟨rfl, by unfold encode; simp [hd, ha, hb]⟩

theorem dec01_encodesTo (hd : d < 64) (ha : a < 64) (hb : b < 64) (h : dec01 fn gd d a b = some i) :
    EncodesTo i [fmtR 0x01 gd d a b fn] := by
  unfold dec01 at h
  split at h <;> cases h <;> exact ⟨rfl, by unfold encode; simp [hd, ha, hb]⟩

theorem dec02_encodesTo (hd : d < 64) (ha : a < 64) (hb : b < 64) (h : dec02 fn gd d a b = some i) :
    EncodesTo i [fmtR 0x02 gd d a b fn] := by
  unfold dec02 at h
  split at h <;> cases h <;> exact ⟨rfl, by unfold encode; simp [hd, ha, hb]⟩

theorem dec03_encodesTo (hd : d < 64) (ha : a < 64) (h : dec03 fn gd d a b = some i) :
    EncodesTo i [fmtR 0x03 gd d a b fn] := by
  unfold dec03 at h
  split at h <;> simp only [legal_eq_some, beq_iff_eq, reduceCtorEq] at h
  all_goals
    obtain ⟨hok, rfl⟩ := h
    exact ⟨rfl, by unfold encode; simp [hok, hd, ha]⟩

theorem dec04_encodesTo (ha : a < 64) (hb : b < 64) (h : dec04 fn gd d a b = some i) :
    EncodesTo i [fmtR 0x04 gd d a b fn] := by
  unfold dec04 at h
  split at h <;> simp only [legal_eq_some, decide_eq_true_eq, reduceCtorEq] at h
  all_goals
    obtain ⟨hok, rfl⟩ := h
    exact ⟨rfl, by unfold encode; simp [hok, ha, hb]⟩

theorem dec05_encodesTo (hd : d < 64) (ha : a < 64) (h : dec05 fn gd d a b = some i) :
    EncodesTo i [fmtR 0x05 gd d a b fn] := by
  unfold dec05 at h
  split at h <;> simp only [legal_eq_some, decide_eq_true_eq, reduceCtorEq] at h
  all_goals
    obtain ⟨hok, rfl⟩ := h
    exact ⟨rfl, by unfold encode; simp [hok, hd, ha]⟩

theorem dec07_encodesTo (hd : d < 64) (ha : a < 64) (h : dec07 fn gd d a b = some i) :
    EncodesTo i [fmtR 0x07 gd d a b fn] := by
  unfold dec07 at h
  split at h <;> simp only [legal_eq_some, decide_eq_true_eq, beq_iff_eq, reduceCtorEq] at h
  all_goals
    obtain ⟨hok, rfl⟩ := h
    exact ⟨rfl, by unfold encode; simp [hok, hd, ha]⟩

theorem dec20_encodesTo (hb : b < 64) (h : dec20 fn gd d a b = some i) :
    EncodesTo i [fmtR 0x20 gd d a b fn] := by
  unfold dec20 at h
  split at h <;> simp only [legal_eq_some, decide_eq_true_eq, reduceCtorEq] at h
  all_goals
    obtain ⟨hok, rfl⟩ := h
    exact ⟨rfl, by unfold encode; simp [hok, hb]⟩

theorem dec38_encodesTo (hd : d < 64) (ha : a < 64) (hb : b < 64) (h : dec38 fn gd d a b = some i) :
    EncodesTo i [fmtR 0x38 gd d a b fn] := by
  unfold dec38 at h
  split at h <;> simp only [legal_eq_some, decide_eq_true_eq, reduceCtorEq] at h
  all_goals
    obtain ⟨hok, rfl⟩ := h
    exact ⟨rfl, by unfold encode; simp [hok, hd, ha, hb]⟩

theorem dec3D_encodesTo (hd : d < 64) (h : dec3D fn gd d a b = some i) :
    EncodesTo i [fmtR 0x3D gd d a b fn] := by
  unfold dec3D at h
  split at h <;> simp only [legal_eq_some, decide_eq_true_eq, reduceCtorEq] at h
  all_goals
    obtain ⟨hok, rfl⟩ := h
    exact ⟨rfl, by unfold encode; simp [hok, hd, Nat.mod_eq_of_lt]⟩

theorem dec3E_encodesTo (ha : a < 64) (h : dec3E fn gd d a b = some i) :
    EncodesTo i [fmtR 0x3E gd d a b fn] := by
  unfold dec3E at h
  split at h <;> simp only [legal_eq_some, decide_eq_true_eq, reduceCtorEq] at h
  all_goals
    obtain ⟨hok, rfl⟩ := h
    exact ⟨rfl, by unfold encode; simp [hok, ha]⟩

theorem dec3F_encodesTo (h : dec3F fn gd d a b = some i) :
    EncodesTo i [fmtR 0x3F gd d a b fn] := by
  unfold dec3F at h
  split at h <;> simp only [legal_eq_some, decide_eq_true_eq, reduceCtorEq] at h
  all_goals
    obtain ⟨hok, rfl⟩ := h
    exact ⟨rfl, by unfold encode; simp [hok]⟩

theorem dec41_encodesTo (h : dec41 fn gd d a b = some i) :
    EncodesTo i [fmtR 0x41 gd d a b fn] := by
  unfold dec41 at h
  split at h <;> simp only [legal_eq_some, decide_eq_true_eq, reduceCtorEq] at h
  all_goals
    obtain ⟨hok, rfl⟩ := h
    exact ⟨rfl, by unfold encode; simp [hok]⟩

theorem dec45_encodesTo (hd : d < 64) (ha : a < 64) (h : dec45 fn gd d a b = some i) :
    EncodesTo i [fmtR 0x45 gd d a b fn] := by
  unfold dec45 at h
  split at h <;> simp only [legal_eq_some, decide_eq_true_eq, beq_iff_eq, reduceCtorEq] at h
  all_goals
    obtain ⟨hok, rfl⟩ := h
    exact ⟨rfl, by unfold encode; simp [hok, hd, ha]⟩

theorem dec47_encodesTo (ha : a < 64) (h : dec47 fn gd d a b = some i) :
    EncodesTo i [fmtR 0x47 gd d a b fn] := by
  unfold dec47 at h
  split at h <;> simp only [legal_eq_some, decide_eq_true_eq, reduceCtorEq] at h
  all_goals
    obtain ⟨hok, rfl⟩ := h
    exact ⟨rfl, by unfold encode; simp [hok, ha]⟩

theorem dec44_encodesTo (h : dec44 fn gd d a b = some i) : EncodesTo i [fmtR 0x44 gd d a b fn] := by
  unfold dec44 at h
  split at h
  · cases h
  · next e he =>
    split at h <;> simp only [legal_eq_some, decide_eq_true_eq, reduceCtorEq] at h
    all_goals
      obtain ⟨hok, rfl⟩ := h
      exact ⟨rfl, by unfold encode; simp [hok, scopeCode_of_scopeOf he]⟩

theorem decMem_encodesTo {r : SReg} {m : MOp} (h : decMem maj gd r m = some i) : EncodesTo i [fmtM maj gd r m] := by
  unfold decMem at h
  split at h <;> simp only [legal_eq_some, reduceCtorEq] at h
  all_goals
    obtain ⟨hok, rfl⟩ := h
    exact ⟨hok, rfl⟩

theorem hfieldOk_lt {f : Nat} (h : hfieldOk f = true) : f < 40 := by
  simp only [hfieldOk, Bool.or_eq_true, decide_eq_true_eq] at h
  omega

theorem decImm_encodesTo (hd : d < 64) (ha : a < 64) (hx : x < 512) (h : decImm maj gd d a x = some i) : EncodesTo i [fmtI maj gd d a x] := by
  have hx9 : x % 512 = x := Nat.mod_eq_of_lt hx
  unfold decImm at h
  split at h
  case h_1 | h_2 | h_3 | h_4 | h_8 => -- the signed constants
    cases h
    exact ⟨rfl, by unfold encode; simp [hd, ha, hx9]⟩
  case h_9 => -- `cmpi`
    split at h
    · next k hk =>
      cases h
      exact ⟨rfl, by unfold encode; simp [condCode_of_condOf hk, Nat.div_add_mod', ha, hx9]⟩
    · cases h
  case h_20 => -- the bindings of bound registers
    split at h <;> simp only [legal_eq_some, beq_iff_eq, reduceCtorEq] at h
    all_goals
      next hk =>
      obtain ⟨rfl, rfl⟩ := h
      refine ⟨rfl, ?_⟩
      unfold encode
      simp only [val_g16_mod, val_s64_of_lt ha]
      congr 2
      omega
  all_goals
    simp only [legal_eq_some, Bool.and_eq_true, decide_eq_true_eq, beq_iff_eq, reduceCtorEq] at h
  case h_12 | h_13 => -- the fields of a handle
    obtain ⟨⟨hf, hh⟩, rfl⟩ := h
    have hf8 : x % 256 = x := Nat.mod_eq_of_lt ((hfieldOk_lt hf).trans (by decide))
    exact ⟨by simpa [Instr.wf, hf8] using hf, by unfold encode; simp [hh, hd, ha, hf8]⟩
  case h_17 | h_18 => -- semaphores
    obtain ⟨⟨h0, hr, hn, hm⟩, rfl⟩ := h
    have hm8 : x % 256 = x := Nat.mod_eq_of_lt hm
    exact ⟨by simp [Instr.wf, hm8, hn.ne'], by unfold encode; simp [h0, hr, hm8]⟩
  case h_19 => -- `eng.start`
    obtain ⟨⟨⟨h0, hm⟩, hok⟩, rfl⟩ := h
    have hm4 : x % 16 = x := Nat.mod_eq_of_lt hm
    exact ⟨by simpa [Instr.wf, ha, hm4] using hok, by unfold encode; simp [h0, ha, hm4]⟩
  all_goals
    obtain ⟨hok, rfl⟩ := h
    exact ⟨rfl, by unfold encode; simp [hok, hd, ha, hx9, Nat.mod_eq_of_lt]⟩

/-- The bit fields of R198: position and width as IMM32 holds them. -/
theorem bitField_fields (h : bitField x = true) : x % 64 + x / 256 * 256 = x ∧ x / 256 < 64 ∧ x % 64 + x / 256 + 1 ≤ 64 := by
  simp only [bitField, decide_eq_true_eq] at h
  omega

theorem dec78_encodesTo (hd : d < 64) (ha : a < 64) (hx : x < 2 ^ 32) (h : dec78 sub gd d a x = some i) :
    EncodesTo i [fmtI 0x78 gd d a sub, x] := by
  have hx32 : x % 4294967296 = x := Nat.mod_eq_of_lt hx
  unfold dec78 at h
  split at h
  case h_2 | h_3 =>
    cases h
    exact ⟨rfl, by unfold encode; simp [hd, ha, hx32]⟩
  case h_9 =>
    split at h
    · next k hk =>
      cases h
      exact ⟨rfl, by unfold encode; simp [condCode_of_condOf hk, Nat.div_add_mod', ha, hx32]⟩
    · cases h
  all_goals
    simp only [legal_eq_some, decide_eq_true_eq, beq_iff_eq, reduceCtorEq] at h
  case h_4 | h_5 | h_6 =>
    obtain ⟨hf, rfl⟩ := h
    obtain ⟨hsum, hw, hin⟩ := bitField_fields hf
    have hp : x % 64 < 64 := Nat.mod_lt x (by decide)
    exact ⟨by simpa [Instr.wf, hp, hw] using hin, by unfold encode; simp [hd, ha, hp, hw, hsum]⟩
  all_goals
    obtain ⟨hok, rfl⟩ := h
    exact ⟨rfl, by unfold encode; simp [hok, hd, hx32]⟩

theorem dec7A_encodesTo (hd : d < 64) (ha : a < 64) (h : dec7A sub gd d a x = some i) : EncodesTo i [fmtI 0x7A gd d a sub, x] := by
  unfold dec7A at h
  split at h <;> simp only [legal_eq_some, decide_eq_true_eq, reduceCtorEq] at h
  all_goals
    obtain ⟨hok, rfl⟩ := h
    exact ⟨rfl, by unfold encode; simp [hok, hd, ha]⟩

theorem dec79op_encodesTo {o : Ord} {e : Scope} {m : MOp} (hd : d < 64) (ha : a < 64) (hb : b < 64) (h : dec79op op gd o e d a b m = some i) :
    EncodesTo i (fmtX op gd o e d a m b 0) := by
  unfold dec79op at h
  split at h <;> simp only [legal_eq_some, Bool.and_eq_true, decide_eq_true_eq, beq_iff_eq, reduceCtorEq] at h
  all_goals
    obtain ⟨hok, rfl⟩ := h
    exact ⟨by simp [Instr.wf, hok], by unfold encode; simp [hok, hd, ha, hb]⟩

theorem dec79_encodesTo (hd : d < 64) (ha : a < 64) (hx : x < 2 ^ 32) (h : dec79 sub gd d a x = some i) :
    EncodesTo i [fmtI 0x79 gd d a sub, x] := by
  unfold dec79 at h
  split at h
  case h_2 => cases h
  case h_1 o e ho he =>
    have hsub : sub / 32 * 32 + ordCode o * 8 + scopeCode e = sub := by
      rw [ordCode_of_ordOf ho, scopeCode_of_scopeOf he]
      omega
    split at h
    · cases h
    next hz =>
    have himm := immM_fields (not_not.mp hz) hx
    split at h
    · next hop =>
      split at h
      · next k hk =>
        simp only [legal_eq_some, Bool.and_eq_true, beq_iff_eq] at h
        obtain ⟨⟨⟨hm, hb⟩, rfl⟩, rfl⟩ := h
        refine ⟨hm, ?_⟩
        rw [hop] at hsub
        rw [hb, ← condCode_of_condOf hk] at himm
        unfold encode
        simp only [fmtX, val_s64_of_lt hd, val_s64_of_lt ha, hsub, himm]
      · cases h
    · split at h
      · cases h
      next hc =>
      have hb : bitsAt x 15 6 < 64 := Nat.mod_lt _ (by decide)
      obtain ⟨hwf, henc⟩ := dec79op_encodesTo hd ha hb h
      rw [not_not.mp hc] at himm
      exact ⟨hwf, by rw [henc, fmtX, hsub, himm]⟩
end

section
variable {w0 w1 maj : Nat} {i : Instr} (h0 : w0 < 2 ^ 32)
include h0

/-- A word of Format R whose fields are encoded is encoded itself. -/
theorem encodesTo_of_fmtR (hm : fMaj w0 = maj) (hs : longMajor maj = false)
    (h : EncodesTo i [fmtR maj (fGuard w0) (fD w0) (fA w0) (fB w0) (fFn w0)]) : EncodesTo i (if isLong w0 then [w0, w1] else [w0]) := by
  rw [isLong_eq hm, hs]
  subst hm
  rwa [fmtR_fields h0] at h

/-- A word of Format B, likewise. -/
theorem encodesTo_of_fmtB (hm : fMaj w0 = maj) (hs : longMajor maj = false)
    (h : EncodesTo i [fmtB maj (fGuard w0) (fOff21 w0)]) : EncodesTo i (if isLong w0 then [w0, w1] else [w0]) := by
  rw [isLong_eq hm, hs]
  subst hm
  rwa [fmtB_fields h0] at h

/-- The first word of a long form, with its second. -/
theorem encodesTo_of_fmtL (hm : fMaj w0 = maj) (hl : longMajor maj = true)
    (h : EncodesTo i [fmtI maj (fGuard w0) (fD w0) (fA w0) (fImm9 w0), w1]) : EncodesTo i (if isLong w0 then [w0, w1] else [w0]) := by
  rw [isLong_eq hm, hl]
  subst hm
  rwa [fmtI_fields h0] at h

/-- A word of Format M or I. -/
theorem encodesTo_of_memOrImm (h : (decMem (fMaj w0) (fGuard w0) (s64 (fD w0)) (fMem w0)).orElse
    (fun _ => decImm (fMaj w0) (fGuard w0) (fD w0) (fA w0) (fImm9 w0)) = some i) : EncodesTo i [w0] := by
  cases hM : decMem (fMaj w0) (fGuard w0) (s64 (fD w0)) (fMem w0) with
  | some j =>
    rw [hM] at h
    have henc := decMem_encodesTo (hM.trans h)
    rwa [fmtM_fields h0] at henc
  | none =>
    rw [hM] at h
    have henc := decImm_encodesTo (fD_lt w0) (fA_lt w0) (fImm9_lt w0) h
    rwa [fmtI_fields h0] at henc

/-- What a control word, or a pair of them, decodes to is encoded by exactly these words. -/
theorem decodeControl_encodesTo (h1 : w1 < 2 ^ 32) (h : decodeControl w0 w1 = some i) :
    EncodesTo i (if isLong w0 then [w0, w1] else [w0]) := by
  have hd := fD_lt w0; have ha := fA_lt w0; have hb := fB_lt w0; have hf := fFn_lt w0
  have ho : fOff21 w0 % 2097152 = fOff21 w0 := Nat.mod_eq_of_lt (fOff21_lt w0)
  simp only [decodeControl] at h
  split at h
  · next hm => exact encodesTo_of_fmtR h0 hm rfl (dec00_encodesTo hd ha hb h)
  · next hm => exact encodesTo_of_fmtR h0 hm rfl (dec01_encodesTo hd ha hb h)
  · next hm => exact encodesTo_of_fmtR h0 hm rfl (dec02_encodesTo hd ha hb h)
  · next hm => exact encodesTo_of_fmtR h0 hm rfl (dec03_encodesTo hd ha h)
  · next hm => exact encodesTo_of_fmtR h0 hm rfl (dec04_encodesTo ha hb h)
  · next hm => exact encodesTo_of_fmtR h0 hm rfl (dec05_encodesTo hd ha h)
  · next hm =>
    cases h
    exact encodesTo_of_fmtR h0 hm rfl ⟨rfl, by unfold encode; simp [hd, ha, hb, hf]⟩
  · next hm => exact encodesTo_of_fmtR h0 hm rfl (dec07_encodesTo hd ha h)
  · next hm =>
    cases h
    exact encodesTo_of_fmtB h0 hm rfl ⟨rfl, by unfold encode; simp [ho]⟩
  · next hm =>
    cases h
    exact encodesTo_of_fmtB h0 hm rfl ⟨rfl, by unfold encode; simp [ho]⟩
  · next hm => exact encodesTo_of_fmtR h0 hm rfl (dec20_encodesTo hb h)
  · next hm => exact encodesTo_of_fmtR h0 hm rfl (dec38_encodesTo hd ha hb h)
  · next hm =>
    obtain ⟨hfn, h⟩ := Option.ite_none_right_eq_some.mp h
    obtain ⟨hok, rfl⟩ := legal_eq_some.mp h
    exact encodesTo_of_fmtR h0 hm rfl ⟨rfl, by unfold encode; simp_all⟩
  · next hm => exact encodesTo_of_fmtR h0 hm rfl (dec3D_encodesTo hd h)
  · next hm => exact encodesTo_of_fmtR h0 hm rfl (dec3E_encodesTo ha h)
  · next hm => exact encodesTo_of_fmtR h0 hm rfl (dec3F_encodesTo h)
  · next hm => exact encodesTo_of_fmtR h0 hm rfl (dec41_encodesTo h)
  · next hm => exact encodesTo_of_fmtR h0 hm rfl (dec44_encodesTo h)
  · next hm => exact encodesTo_of_fmtR h0 hm rfl (dec45_encodesTo hd ha h)
  · next hm =>
    obtain ⟨hfn, h⟩ := Option.ite_none_right_eq_some.mp h
    obtain ⟨hok, rfl⟩ := legal_eq_some.mp h
    exact encodesTo_of_fmtR h0 hm rfl ⟨rfl, by unfold encode; simp_all⟩
  · next hm => exact encodesTo_of_fmtR h0 hm rfl (dec47_encodesTo ha h)
  · next hm => exact encodesTo_of_fmtL h0 hm rfl (dec78_encodesTo hd ha h1 h)
  · next hm => exact encodesTo_of_fmtL h0 hm rfl (dec79_encodesTo hd ha h1 h)
  · next hm => exact encodesTo_of_fmtL h0 hm rfl (dec7A_encodesTo hd ha h)
  · have hs : isLong w0 = false := by
      simp only [isLong, Bool.or_eq_false_iff, beq_eq_false_iff_ne]
      exact ⟨⟨‹fMaj w0 = 0x78 → False›, ‹fMaj w0 = 0x79 → False›⟩, ‹fMaj w0 = 0x7A → False›⟩
    rw [hs]
    exact encodesTo_of_memOrImm h0 h
end

end Sys2Proof

namespace Sys2Proof.Proofs

/-- Settles O55: each part of the opcode map answers the instruction whose encoding has the word's fields, and the fields make up the word. -/
theorem encodeOfDecode : Obligations.EncodeOfDecode := by
  intro w0 w1 i h0 h1 h
  exact decodeControl_encodesTo h0 h1 h

end Sys2Proof.Proofs
end

section
/-! SUPPORT. Every well-formed control instruction and record decodes from its own words (R167-R184). -/
namespace Sys2Proof

/-! ## Operand numbers read back (R168) -/

@[simp] theorem s64_val (r : SReg) : s64 r.val = r := Fin.ext (Nat.mod_eq_of_lt r.isLt)
@[simp] theorem p8_val (r : PReg) : p8 r.val = r := Fin.ext (Nat.mod_eq_of_lt r.isLt)
@[simp] theorem h32_val (r : HReg) : h32 r.val = r := Fin.ext (Nat.mod_eq_of_lt r.isLt)
@[simp] theorem g16_val (r : GReg) : g16 r.val = r := Fin.ext (Nat.mod_eq_of_lt r.isLt)

/-! ## What a word of each format decodes to -/

theorem decodeWords_short {w : Nat} (h : isLong w = false) : decodeWords [w] = decodeControl w 0 := by rw [decodeWords, h]; rfl
theorem decodeWords_long {w0 w1 : Nat} (h : isLong w0 = true) : decodeWords [w0, w1] = decodeControl w0 w1 := by rw [decodeWords, h]; rfl

/-- The majors of the formats but M and I (R174). -/
def otherMajors : List Nat :=
  [0x00, 0x01, 0x02, 0x03, 0x04, 0x05, 0x06, 0x07, 0x18, 0x19, 0x20, 0x38, 0x3C, 0x3D, 0x3E, 0x3F, 0x41, 0x44, 0x45, 0x46, 0x47, 0x78, 0x79, 0x7A]

theorem decodeControl_memOrImm {w0 w1 : Nat} (h : fMaj w0 ∉ otherMajors) : decodeControl w0 w1 =
    (decMem (fMaj w0) (fGuard w0) (s64 (fD w0)) (fMem w0)).orElse fun _ => decImm (fMaj w0) (fGuard w0) (fD w0) (fA w0) (fImm9 w0) := by
  simp only [decodeControl]
  split
  case h_25 => rfl
  all_goals
    next hm =>
    rw [hm] at h
    exact absurd (by decide) h

theorem decodeWords_memOrImm {w : Nat} (h : fMaj w ∉ otherMajors) : decodeWords [w] =
    (decMem (fMaj w) (fGuard w) (s64 (fD w)) (fMem w)).orElse fun _ => decImm (fMaj w) (fGuard w) (fD w) (fA w) (fImm9 w) := by
  have hs : isLong w = false := by
    simp only [otherMajors, List.mem_cons, not_or] at h
    simp only [isLong, h, Bool.or_eq_false_iff, beq_eq_false_iff_ne, ne_eq, not_false_eq_true, and_self]
  rw [decodeWords_short hs, decodeControl_memOrImm h]

section
variable {maj d a b fn x : Nat} {gd : Guard}

/-- Format R: the arm of the major, given the fields. -/
theorem decodeWords_fmtR {arm : Nat → Guard → Nat → Nat → Nat → Option Instr} (hm : maj < 128) (hs : longMajor maj = false)
    (hd : d < 64) (ha : a < 64) (hb : b < 64) (hf : fn < 8)
    (h : ∀ w, fMaj w = maj → decodeControl w 0 = arm (fFn w) (fGuard w) (fD w) (fA w) (fB w)) :
    decodeWords [fmtR maj gd d a b fn] = arm fn gd d a b := by
  have hmaj := fMaj_fmtR maj d a b fn gd hm hd ha hb hf
  rw [decodeWords_short ((isLong_eq hmaj).trans hs), h _ hmaj, fGuard_fmtR maj d a b fn gd hd ha hb hf, fD_fmtR maj d a b fn gd hd ha hb hf,
    fA_fmtR maj d a b fn gd hd ha hb hf, fB_fmtR maj d a b fn gd hb hf, fFn_fmtR maj d a b fn gd hf]

/-- Format I: the arm of the majors that no other format has. -/
theorem decodeWords_fmtI (hm : maj < 128) (ho : maj ∉ otherMajors) (hn : ∀ gd r m, decMem maj gd r m = none)
    (hd : d < 64) (ha : a < 64) (hx : x < 512) : decodeWords [fmtI maj gd d a x] = decImm maj gd d a x := by
  have hmaj := fMaj_fmtI maj d a gd x hm hd ha hx
  rw [decodeWords_memOrImm (by rwa [hmaj]), hmaj, hn, fGuard_fmtI maj d a gd x hd ha hx, fD_fmtI maj d a gd x hd ha hx,
    fA_fmtI maj d a gd x ha hx, fImm9_fmtI maj d a gd x hx]
  rfl

/-- Format L: the arm of the major, given the fields and the second word. -/
theorem decodeWords_fmtL {arm : Nat → Guard → Nat → Nat → Nat → Option Instr} {w1 : Nat} (hm : maj < 128) (hl : longMajor maj = true)
    (hd : d < 64) (ha : a < 64) (hx : x < 512)
    (h : ∀ w, fMaj w = maj → decodeControl w w1 = arm (fImm9 w) (fGuard w) (fD w) (fA w) w1) :
    decodeWords [fmtI maj gd d a x, w1] = arm x gd d a w1 := by
  have hmaj := fMaj_fmtI maj d a gd x hm hd ha hx
  rw [decodeWords_long ((isLong_eq hmaj).trans hl), h _ hmaj, fGuard_fmtI maj d a gd x hd ha hx, fD_fmtI maj d a gd x hd ha hx,
    fA_fmtI maj d a gd x ha hx, fImm9_fmtI maj d a gd x hx]

/-- Format B. -/
theorem decodeWords_fmtB {arm : Guard → Nat → Option Instr} (hm : maj < 128) (hs : longMajor maj = false) (hx : x < 2 ^ 21)
    (h : ∀ w, fMaj w = maj → decodeControl w 0 = arm (fGuard w) (fOff21 w)) : decodeWords [fmtB maj gd x] = arm gd x := by
  have hmaj := fMaj_fmtB maj gd x hm hx
  rw [decodeWords_short ((isLong_eq hmaj).trans hs), h _ hmaj, fGuard_fmtB maj gd x hx, fOff21_fmtB maj gd x hx]

/-- Format M. -/
theorem decodeWords_fmtM {r : SReg} {m : MOp} {i : Instr} (hm : maj < 128) (ho : maj ∉ otherMajors) (hi : decMem maj gd r m = some i) :
    decodeWords [fmtM maj gd r m] = some i := by
  have hmaj := fMaj_fmtM maj gd r m hm
  rw [decodeWords_memOrImm (by rwa [hmaj]), hmaj, fGuard_fmtM maj gd r m, fD_fmtM maj gd r m, fMem_fmtM maj gd r m, s64_val, hi]
  rfl
end

/-! ## The majors of Format R (R174) -/

section
variable {d a b fn : Nat} {gd : Guard} (hd : d < 64) (ha : a < 64) (hb : b < 64) (hf : fn < 8)
include hd ha hb hf

theorem decodeWords_00 : decodeWords [fmtR 0x00 gd d a b fn] = dec00 fn gd d a b :=
  decodeWords_fmtR (by decide) rfl hd ha hb hf fun w hw => by unfold decodeControl; simp only [hw]
theorem decodeWords_01 : decodeWords [fmtR 0x01 gd d a b fn] = dec01 fn gd d a b :=
  decodeWords_fmtR (by decide) rfl hd ha hb hf fun w hw => by unfold decodeControl; simp only [hw]
theorem decodeWords_02 : decodeWords [fmtR 0x02 gd d a b fn] = dec02 fn gd d a b :=
  decodeWords_fmtR (by decide) rfl hd ha hb hf fun w hw => by unfold decodeControl; simp only [hw]
theorem decodeWords_03 : decodeWords [fmtR 0x03 gd d a b fn] = dec03 fn gd d a b :=
  decodeWords_fmtR (by decide) rfl hd ha hb hf fun w hw => by unfold decodeControl; simp only [hw]
theorem decodeWords_04 : decodeWords [fmtR 0x04 gd d a b fn] = dec04 fn gd d a b :=
  decodeWords_fmtR (by decide) rfl hd ha hb hf fun w hw => by unfold decodeControl; simp only [hw]
theorem decodeWords_05 : decodeWords [fmtR 0x05 gd d a b fn] = dec05 fn gd d a b :=
  decodeWords_fmtR (by decide) rfl hd ha hb hf fun w hw => by unfold decodeControl; simp only [hw]
theorem decodeWords_07 : decodeWords [fmtR 0x07 gd d a b fn] = dec07 fn gd d a b :=
  decodeWords_fmtR (by decide) rfl hd ha hb hf fun w hw => by unfold decodeControl; simp only [hw]
theorem decodeWords_20 : decodeWords [fmtR 0x20 gd d a b fn] = dec20 fn gd d a b :=
  decodeWords_fmtR (by decide) rfl hd ha hb hf fun w hw => by unfold decodeControl; simp only [hw]
theorem decodeWords_38 : decodeWords [fmtR 0x38 gd d a b fn] = dec38 fn gd d a b :=
  decodeWords_fmtR (by decide) rfl hd ha hb hf fun w hw => by unfold decodeControl; simp only [hw]
theorem decodeWords_3D : decodeWords [fmtR 0x3D gd d a b fn] = dec3D fn gd d a b :=
  decodeWords_fmtR (by decide) rfl hd ha hb hf fun w hw => by unfold decodeControl; simp only [hw]
theorem decodeWords_3E : decodeWords [fmtR 0x3E gd d a b fn] = dec3E fn gd d a b :=
  decodeWords_fmtR (by decide) rfl hd ha hb hf fun w hw => by unfold decodeControl; simp only [hw]
theorem decodeWords_3F : decodeWords [fmtR 0x3F gd d a b fn] = dec3F fn gd d a b :=
  decodeWords_fmtR (by decide) rfl hd ha hb hf fun w hw => by unfold decodeControl; simp only [hw]
theorem decodeWords_41 : decodeWords [fmtR 0x41 gd d a b fn] = dec41 fn gd d a b :=
  decodeWords_fmtR (by decide) rfl hd ha hb hf fun w hw => by unfold decodeControl; simp only [hw]
theorem decodeWords_44 : decodeWords [fmtR 0x44 gd d a b fn] = dec44 fn gd d a b :=
  decodeWords_fmtR (by decide) rfl hd ha hb hf fun w hw => by unfold decodeControl; simp only [hw]
theorem decodeWords_45 : decodeWords [fmtR 0x45 gd d a b fn] = dec45 fn gd d a b :=
  decodeWords_fmtR (by decide) rfl hd ha hb hf fun w hw => by unfold decodeControl; simp only [hw]
theorem decodeWords_47 : decodeWords [fmtR 0x47 gd d a b fn] = dec47 fn gd d a b :=
  decodeWords_fmtR (by decide) rfl hd ha hb hf fun w hw => by unfold decodeControl; simp only [hw]
theorem decodeWords_06 : decodeWords [fmtR 0x06 gd d a b fn] = some (.sel gd (p8 fn) (s64 d) (s64 a) (s64 b)) :=
  decodeWords_fmtR (arm := fun fn gd d a b => some (.sel gd (p8 fn) (s64 d) (s64 a) (s64 b))) (by decide) rfl hd ha hb hf
    fun w hw => by unfold decodeControl; simp only [hw]
theorem decodeWords_3C : decodeWords [fmtR 0x3C gd d a b fn] =
    if fn = 0 then legal (decide (a < 32 ∧ b = 0)) (.semRd gd (s64 d) (h32 a)) else none :=
  decodeWords_fmtR (arm := fun fn gd d a b => if fn = 0 then legal (decide (a < 32 ∧ b = 0)) (.semRd gd (s64 d) (h32 a)) else none)
    (by decide) rfl hd ha hb hf fun w hw => by unfold decodeControl; simp only [hw]
theorem decodeWords_46 : decodeWords [fmtR 0x46 gd d a b fn] = if fn = 0 then legal (decide (a = 0 ∧ b = 0)) (.timeRd gd (s64 d)) else none :=
  decodeWords_fmtR (arm := fun fn gd d a b => if fn = 0 then legal (decide (a = 0 ∧ b = 0)) (.timeRd gd (s64 d)) else none)
    (by decide) rfl hd ha hb hf fun w hw => by unfold decodeControl; simp only [hw]
end

/-! ## The other majors (R174, R175) -/

theorem decodeWords_18 {gd : Guard} (o : BitVec 21) : decodeWords [fmtB 0x18 gd o.toNat] = some (.br gd o) := by
  rw [decodeWords_fmtB (arm := fun gd x => some (.br gd (BitVec.ofNat 21 x))) (by decide) rfl o.isLt
    fun w hw => by unfold decodeControl; simp only [hw]]
  simp
theorem decodeWords_19 {gd : Guard} (o : BitVec 21) : decodeWords [fmtB 0x19 gd o.toNat] = some (.call gd o) := by
  rw [decodeWords_fmtB (arm := fun gd x => some (.call gd (BitVec.ofNat 21 x))) (by decide) rfl o.isLt
    fun w hw => by unfold decodeControl; simp only [hw]]
  simp

section
variable {d a x w1 : Nat} {gd : Guard} (hd : d < 64) (ha : a < 64) (hx : x < 512)
include hd ha hx

theorem decodeWords_78 : decodeWords [fmtI 0x78 gd d a x, w1] = dec78 x gd d a w1 :=
  decodeWords_fmtL (by decide) rfl hd ha hx fun w hw => by unfold decodeControl; simp only [hw]
theorem decodeWords_79 : decodeWords [fmtI 0x79 gd d a x, w1] = dec79 x gd d a w1 :=
  decodeWords_fmtL (by decide) rfl hd ha hx fun w hw => by unfold decodeControl; simp only [hw]
theorem decodeWords_7A : decodeWords [fmtI 0x7A gd d a x, w1] = dec7A x gd d a w1 :=
  decodeWords_fmtL (by decide) rfl hd ha hx fun w hw => by unfold decodeControl; simp only [hw]
end

/-! ## The 0x79 forms (R175) -/

section
variable {op b k : Nat} {gd : Guard} {o : Ord} {e : Scope} {m : MOp}

theorem decodeWords_fmtX {d a : Nat} (hop : op < 16) (hd : d < 64) (ha : a < 64) :
    decodeWords (fmtX op gd o e d a m b k) = dec79 (op * 32 + ordCode o * 8 + scopeCode e) gd d a (immM m b k) := by
  have ho := ordCode_lt o
  have he := scopeCode_lt e
  exact decodeWords_79 hd ha (by omega)

/-- IMM9 of a 0x79 form: the operation, the order and the scope. -/
theorem imm9_fields : (op * 32 + ordCode o * 8 + scopeCode e) / 32 = op ∧ (op * 32 + ordCode o * 8 + scopeCode e) / 8 % 4 = ordCode o ∧
    (op * 32 + ordCode o * 8 + scopeCode e) % 8 = scopeCode e := by
  have ho := ordCode_lt o
  have he := scopeCode_lt e
  omega

theorem dec79_fields (d a : Nat) (hop : op ≠ 12) (hb : b < 64) :
    dec79 (op * 32 + ordCode o * 8 + scopeCode e) gd d a (immM m b 0) = dec79op op gd o e d a b m := by
  obtain ⟨hop', ho', he'⟩ := imm9_fields (op := op) (o := o) (e := e)
  have hk : 0 < 8 := by decide
  simp only [dec79, hop', ho', he', ordOf_ordCode, scopeOf_scopeCode, immM_zero b m 0 hb hk, immM_cond b m 0 hb hk, immM_b b m 0 hb hk,
    fMemL_immM b m 0 hb hk, hop, ne_eq, not_true_eq_false, if_false]

/-- `waddr`, whose COND is its own. -/
theorem dec79_waddr (d a : SReg) (c : Cond) (hm : m.ok = true) :
    dec79 (12 * 32 + ordCode .acq * 8 + scopeCode e) gd d a (immM m 0 (condCode c)) = some (.waddr gd c e d m a) := by
  obtain ⟨hop', ho', he'⟩ := imm9_fields (op := 12) (o := .acq) (e := e)
  have hb : 0 < 64 := by decide
  have hk : condCode c < 8 := (condCode_lt c).trans (by decide)
  simp [dec79, hop', ho', he', immM_zero 0 m _ hb hk, immM_cond 0 m _ hb hk, immM_b 0 m _ hb hk, fMemL_immM 0 m _ hb hk, hm]
end

/-! ## Operands that share a field (R174, R198, R234) -/

/-- A binding of bound register `k`: the sequencer is the upper part of D. -/
theorem decImm_bnd {n j : Nat} {gd : Guard} {k : GReg} {a : SReg} (hj : n / 16 = j) (hk : n % 16 = k.val) :
    decImm 0x42 gd n a 0 = [Instr.bndMe gd k a, .bndVe gd k a, .bndCel gd k a, .bndCes gd k a][j]? := by
  simp only [decImm, hj, hk, g16_val, s64_val]
  match j with
  | 0 | 1 | 2 | 3 => rfl
  | _ + 4 => rfl

theorem cond_fields (k : Cond) (d : PReg) : (condCode k * 8 + d.val) / 8 = condCode k ∧ (condCode k * 8 + d.val) % 8 = d.val := by omega

theorem bitField_word {pos w1 : Fin 64} (h : pos.val + w1.val + 1 ≤ 64) :
    bitField (pos.val + w1.val * 256) = true ∧ s64 ((pos.val + w1.val * 256) % 64) = pos ∧ s64 ((pos.val + w1.val * 256) / 256) = w1 := by
  have hpos : (pos.val + w1.val * 256) % 64 = pos.val := by omega
  have hw1 : (pos.val + w1.val * 256) / 256 = w1.val := by omega
  refine ⟨?_, by rw [hpos, s64_val], by rw [hw1, s64_val]⟩
  simp only [bitField, decide_eq_true_eq]
  omega

/-! ## Records (R177-R183) -/

theorem bitAt_of_bitsAt {x n : Nat} {b : Bool} (h : bitsAt x n 1 = b2n b) : bitAt x n = b := by
  rw [← bitAt_b2n b, ← h]
  simp [bitAt, bitsAt]

theorem fin_ofNat_bitsAt {n x l w : Nat} [NeZero n] {v : Fin n} (h : bitsAt x l w = v.val) : Fin.ofNat n (bitsAt x l w) = v := by
  rw [h]
  exact Fin.ext (Nat.mod_eq_of_lt v.isLt)

theorem ofNat_bitsAt {n x l w : Nat} {v : BitVec n} (h : bitsAt x l w = v.toNat) : BitVec.ofNat n (bitsAt x l w) = v := by
  rw [h, BitVec.ofNat_toNat, BitVec.setWidth_eq]

/-- The three words of a descriptor give it back (R180). -/
theorem descOf_words (d : Desc) : ∃ x y z, d.words = [x, y, z] ∧ descOf x y z = d := by
  refine ⟨_, _, _, rfl, ?_⟩
  obtain ⟨hnd, pres, role, dmap, org, st0, st1, st2, st3⟩ := d
  have hp := b2n_lt pres
  simp only [descOf, Desc.mk.injEq]
  refine ⟨fin_ofNat_bitsAt ?_, bitAt_of_bitsAt ?_, fin_ofNat_bitsAt ?_, fin_ofNat_bitsAt ?_, fin_ofNat_bitsAt ?_, ofNat_bitsAt ?_,
    ofNat_bitsAt ?_, ofNat_bitsAt ?_, ofNat_bitsAt ?_⟩
  all_goals
    simp only [bitsAt]
    omega

/-- The first four words of a record give back its own fields, ENGINE and OPCODE (R177-R179). -/
theorem recOf_words {eng op : Nat} (he : eng < 16) (ho : op < 256) (r : Rec) : ∃ w0 w1 w2 w3,
    recWords eng op r = [w0, w1, w2, w3] ++ r.d.words ++ r.a.words ++ r.b.words ++ r.c.words ∧
    bitsAt w0 8 4 = eng ∧ bitsAt w0 0 8 = op ∧ recOf w0 w1 w2 w3 r.d r.a r.b r.c = r := by
  obtain ⟨rnd, sat, accf, levels, clr, conj, trn, opx, tpop, tpush, swait, ssig, flag, bind, pcls, spare, tc0, tc1, tc2, tc3, d, a, b, c⟩ := r
  have hs := b2n_lt sat
  have hc := b2n_lt clr
  have hj := b2n_lt conj
  have ht := b2n_lt trn
  have hf := b2n_lt flag
  have hb := b2n_lt bind
  refine ⟨_, _, _, _, rfl, ?_⟩
  simp only [recOf, Rec.mk.injEq, and_true]
  refine ⟨?_, ?_, fin_ofNat_bitsAt ?_, bitAt_of_bitsAt ?_, fin_ofNat_bitsAt ?_, fin_ofNat_bitsAt ?_, bitAt_of_bitsAt ?_, bitAt_of_bitsAt ?_,
    bitAt_of_bitsAt ?_, fin_ofNat_bitsAt ?_, fin_ofNat_bitsAt ?_, fin_ofNat_bitsAt ?_, fin_ofNat_bitsAt ?_, fin_ofNat_bitsAt ?_,
    bitAt_of_bitsAt ?_, bitAt_of_bitsAt ?_, fin_ofNat_bitsAt ?_, fin_ofNat_bitsAt ?_, ofNat_bitsAt ?_, ofNat_bitsAt ?_, ofNat_bitsAt ?_,
    ofNat_bitsAt ?_⟩
  all_goals
    simp only [bitsAt]
    omega

theorem decodeRecord_recWords {eng op : Nat} (he : eng < 16) (ho : op < 256) (r : Rec) : decodeRecord (recWords eng op r) = recOp eng op r := by
  obtain ⟨w0, w1, w2, w3, hw, heng, hop, hr⟩ := recOf_words he ho r
  obtain ⟨x4, x5, x6, hd, hd'⟩ := descOf_words r.d
  obtain ⟨x7, x8, x9, ha, ha'⟩ := descOf_words r.a
  obtain ⟨x10, x11, x12, hb, hb'⟩ := descOf_words r.b
  obtain ⟨x13, x14, x15, hc, hc'⟩ := descOf_words r.c
  rw [hw, hd, ha, hb, hc]
  simp only [List.cons_append, List.nil_append, decodeRecord, heng, hop, hd', ha', hb', hc', hr]

/-- A record decodes once its ENGINE and OPCODE name the operation. -/
theorem decodeWords_recWords {eng op : Nat} {r : Rec} {i : Instr} (he : eng < 16) (ho : op < 256) (h : recOp eng op r = some i) :
    decodeWords (recWords eng op r) = some i := by
  rw [← h, ← decodeRecord_recWords he ho]
  rfl

end Sys2Proof

namespace Sys2Proof.Proofs

/-- Settles O54: the fields of each format read back, and the arm that they choose gives the instruction. -/
theorem decodeOfEncode : Obligations.DecodeOfEncode := by
  intro i hwf hne
  cases i with
  | add gd d a b | sub gd d a b | mul gd d a b | mulh gd d a b | mulhu gd d a b | div gd d a b | divu gd d a b | rem gd d a b =>
    exact (decodeWords_00 (by omega) (by omega) (by omega) (by decide)).trans (by simp [dec00])
  | remu gd d a b | min gd d a b | max gd d a b | minu gd d a b | maxu gd d a b =>
    exact (decodeWords_01 (by omega) (by omega) (by omega) (by decide)).trans (by simp [dec01])
  | and gd d a b | or gd d a b | xor gd d a b | andn gd d a b | sll gd d a b | srl gd d a b | sra gd d a b | rol gd d a b =>
    exact (decodeWords_02 (by omega) (by omega) (by omega) (by decide)).trans (by simp [dec02])
  | clz gd d a | ctz gd d a | popc gd d a | brev gd d a | bswap gd d a =>
    exact (decodeWords_03 (by omega) (by omega) (by omega) (by decide)).trans (by simp [dec03])
  | cmpEq gd d a b | cmpNe gd d a b | cmpLt gd d a b | cmpGe gd d a b | cmpLtu gd d a b | cmpGeu gd d a b =>
    exact (decodeWords_04 (by omega) (by omega) (by omega) (by decide)).trans (by simp [dec04])
  | pand gd d a b | por gd d a b | pxor gd d a b | pandn gd d a b | pnot gd d a | pget gd d a | pset gd d a =>
    exact (decodeWords_05 (by omega) (by omega) (by omega) (by decide)).trans (by simp [dec05])
  | jr gd a | jalr gd d a =>
    exact (decodeWords_07 (by omega) (by omega) (by omega) (by decide)).trans (by simp [dec07])
  | hmov gd d a | hbind gd d a b | hunb gd d a | hchk gd d a =>
    exact (decodeWords_20 (by omega) (by omega) (by omega) (by decide)).trans (by simp [dec20])
  | gld gd d a | gst gd d a | gswp gd d a b | gadd gd d a b | gcas gd d a b =>
    exact (decodeWords_38 (by omega) (by omega) (by omega) (by decide)).trans (by simp [dec38])
  | tkPush gd a | tkPop gd a | tkCnt gd d a =>
    exact (decodeWords_3D (by omega) (by omega) (by omega) (by decide)).trans (by simp [dec3D])
  | barArv gd a | barWait gd a | barAra gd a =>
    exact (decodeWords_3E (by omega) (by omega) (by omega) (by decide)).trans (by simp [dec3E])
  | licAcq gd | licRel gd =>
    exact (decodeWords_3F (by omega) (by omega) (by omega) (by decide)).trans (by simp [dec3F])
  | rdv gd | jend gd =>
    exact (decodeWords_41 (by omega) (by omega) (by omega) (by decide)).trans (by simp [dec41])
  | fenceAcq gd e | fenceRel gd e | fenceFull gd e | fenceMsa gd e =>
    have he := scopeCode_lt e
    exact (decodeWords_44 (by omega) (by decide) (by decide) (by decide)).trans (by simp [dec44])
  | mxRd gd d a | mxWr gd d a | mxClr gd d | mxUpd gd d a =>
    exact (decodeWords_45 (by omega) (by omega) (by omega) (by decide)).trans (by simp [dec45])
  | trap gd n | tret gd | brk gd n | ctxSv gd a | ctxLd gd a | nop gd =>
    exact (decodeWords_47 (by omega) (by omega) (by omega) (by decide)).trans (by simp [dec47])
  | sel gd f d a b => exact (decodeWords_06 d.isLt a.isLt b.isLt f.isLt).trans (by simp)
  | semRd gd d a => exact (decodeWords_3C d.isLt (by omega) (by decide) (by decide)).trans (by simp)
  | timeRd gd d => exact (decodeWords_46 d.isLt (by decide) (by decide) (by decide)).trans (by simp)
  | addi gd d a i | andi gd d a i | ori gd d a i | xori gd d a i | slli gd d a i | srli gd d a i | srai gd d a i | muli gd d a i | dbnz gd d i
    | hld gd d a i | hoff gd d a f | hslc gd d a f | tevc gd d a =>
    exact (decodeWords_fmtI (by decide) (by decide) (fun _ _ _ => rfl) (by omega) (by omega) (by omega)).trans (by simp [decImm])
  | hget gd d a f | hset gd d a f | engStart gd a m =>
    exact (decodeWords_fmtI (by decide) (by decide) (fun _ _ _ => rfl) (by omega) (by omega) (by omega)).trans
      (by simpa [decImm, Instr.wf] using hwf)
  | semSig gd a n | semWait gd a n =>
    exact (decodeWords_fmtI (by decide) (by decide) (fun _ _ _ => rfl) (by omega) (by omega) (by omega)).trans
      (by simpa [decImm, Instr.wf, Fin.pos_iff_ne_zero] using hwf)
  | bndMe gd k a =>
    exact (decodeWords_fmtI (by decide) (by decide) (fun _ _ _ => rfl) (by omega) a.isLt (by decide)).trans
      (decImm_bnd (j := 0) (by omega) (by omega))
  | bndVe gd k a =>
    exact (decodeWords_fmtI (by decide) (by decide) (fun _ _ _ => rfl) (by omega) a.isLt (by decide)).trans
      (decImm_bnd (j := 1) (by omega) (by omega))
  | bndCel gd k a =>
    exact (decodeWords_fmtI (by decide) (by decide) (fun _ _ _ => rfl) (by omega) a.isLt (by decide)).trans
      (decImm_bnd (j := 2) (by omega) (by omega))
  | bndCes gd k a =>
    exact (decodeWords_fmtI (by decide) (by decide) (fun _ _ _ => rfl) (by omega) a.isLt (by decide)).trans
      (decImm_bnd (j := 3) (by omega) (by omega))
  | cmpi gd k d a i =>
    have hk := condCode_lt k
    obtain ⟨hdiv, hmod⟩ := cond_fields k d
    exact (decodeWords_fmtI (by decide) (by decide) (fun _ _ _ => rfl) (by omega) a.isLt i.isLt).trans (by simp [decImm, hdiv, hmod])
  | br gd o => exact decodeWords_18 o
  | call gd o => exact decodeWords_19 o
  | ld gd d m | st gd d m | updAdd gd d m | updMin gd d m | updMax gd d m | msaAdd gd d m | msaMax gd d m | msaMin gd d m | lpin gd d m
    | lunpin gd d m | tlk gd d m | tlkM gd d m | tins gd d m =>
    exact decodeWords_fmtM (by decide) (by decide) (legal_eq_some.mpr ⟨hwf, rfl⟩)
  | li gd d v | lih gd d a v | addl gd d a v | brl gd o | calll gd o =>
    exact (decodeWords_78 (by omega) (by omega) (by decide)).trans (by simp [dec78])
  | ext gd d a pos w1 | extu gd d a pos w1 | dep gd d a pos w1 =>
    obtain ⟨hf, hpos, hw1⟩ := bitField_word (of_decide_eq_true hwf)
    exact (decodeWords_78 (by omega) (by omega) (by decide)).trans (by simp [dec78, hf, hpos, hw1])
  | cmpl gd k d a v =>
    have hk := condCode_lt k
    obtain ⟨hdiv, hmod⟩ := cond_fields k d
    exact (decodeWords_78 (by omega) a.isLt (by decide)).trans (by simp [dec78, hdiv, hmod])
  | csrRd gd d n | csrWr gd n a | csrSet gd d a n | csrClr gd d a n =>
    exact (decodeWords_7A (by omega) (by omega) (by decide)).trans (by simp [dec7A])
  | ldOrd gd o e d m | stOrd gd o e m a | atomAdd gd o e d m a | atomAnd gd o e d m a | atomOr gd o e d m a | atomXor gd o e d m a
    | atomMin gd o e d m a | atomMax gd o e d m a | atomMinu gd o e d m a | atomMaxu gd o e d m a | atomSwp gd o e d m a
    | atomCas gd o e d m a b | qClaim gd e d m a | qRing gd e m a =>
    refine (decodeWords_fmtX (by decide) (by omega) (by omega)).trans ((dec79_fields _ _ (by decide) (by omega)).trans ?_)
    simpa [dec79op, Instr.wf] using hwf
  | waddr gd k e d m a => exact (decodeWords_fmtX (by decide) d.isLt a.isLt).trans (dec79_waddr d a k hwf)
  | seqEnd r | seqWait r | seqJmp r | seqJz r | seqJnz r | meMma r | meCmma r | meClr r | meBld r | meDrn r | meDrq r | meAld r | meAst r
    | meSbw r | veAdd r | veSub r | veMul r | veMin r | veMax r | veAnd r | veOr r | veXor r | veShl r | veShr r | veAbs r | veFadd r | veFsub r
    | veFmul r | veFma r | veFmin r | veFmax r | veFabs r | veFneg r | veExp2 r | veLog2 r | veRcp r | veRsqrt r | veSqrt r | veTanh r | veSin r
    | veCos r | veCvt r | veQuant r | veDequant r | veAmax r | veRsum r | veRmax r | veRmin r | veScan r | veRsumsq r | veCmp r | veSel r
    | veAcs r | vePerm r | veTrn r | veBcast r | veGath r | veScat r | veRng r | veIota r | ceCp r | ceLq r | ceFill r | ceOvl r | ceFlag r
    | ceCpx r | fabPint r | fabSend r | fabWr r | fabAtom r | fabReq r | fabMcast r | fabPrio r | fabTkr r | stashPut r | stashGet r
    | stashDrop r | stashPf r =>
    exact decodeWords_recWords (by decide) (by decide) rfl
  | meFragLend r | meFragReclaim r | fabCollSeed r | fabCollReduce r | fabCollPut r | fabCollCommit r | fabSeamAccum r | fabSeamVote r =>
    exact decodeWords_recWords (by decide) (by decide) (by simp_all [recOp, recEng1, recEng3, Instr.wf])
  | _ => exact absurd rfl hne

end Sys2Proof.Proofs
end

section
/-! SUPPORT. The end of an instruction and trap entry: what each leaves of the registers, the control core and everything else (R167, R172, R173,
R363-R365). -/
namespace Sys2Proof.Claims
open Sys2Proof.Machine

/-! ## Everything but the executing control core and its stream -/

theorem KeepsAllElse.cur {s t : State} (h : KeepsAllElse s t) : t.cur = s.cur := (congrArg State.cur h.module :)
theorem KeepsAllElse.cc {s t : State} (h : KeepsAllElse s t) : t.cc = s.cc := congrArg Prod.fst h.cur
theorem KeepsAllElse.cl {s t : State} (h : KeepsAllElse s t) : t.cl = s.cl := congrArg (fun x : Nat × Stream => streamLeader x.2) h.cur
theorem KeepsAllElse.mem {s t : State} (h : KeepsAllElse s t) : t.mem = s.mem := (congrArg State.mem h.module :)

theorem KeepsAllElse.refl (s : State) : KeepsAllElse s s := ⟨rfl, fun _ _ => rfl, rfl, fun _ _ => rfl, fun _ _ => rfl⟩

theorem KeepsAllElse.trans {s t u : State} (h : KeepsAllElse s t) (k : KeepsAllElse t u) : KeepsAllElse s u where
  module := (congrArg (fun x : State => { x with cores := s.cores, trcQ := s.trcQ }) k.module).trans h.module
  cores c hc := (k.cores c (h.cc ▸ hc)).trans (h.cores c hc)
  core := by
    have hk := k.core
    rw [h.cc] at hk
    exact (congrArg (fun x : Core => { x with strm := (s.core s.cc).strm, lcc := (s.core s.cc).lcc, ccc := (s.core s.cc).ccc }) hk).trans h.core
  leader l hl := by
    have hk := k.leader l (h.cl ▸ hl)
    rw [h.cc] at hk
    exact hk.trans (h.leader l hl)
  streams x hx := by
    have hk := k.streams x (h.cur ▸ hx)
    rw [h.cc] at hk
    exact hk.trans (h.streams x hx)

end Sys2Proof.Claims

namespace Sys2Proof.Machine
open Sys2Proof.Claims

/-- A change of the executing core that spares all but its own control core and stream. -/
theorem keepsAllElse_setMyCore {s : State} {k : Core}
    (hcore : { k with strm := s.myCore.strm, lcc := s.myCore.lcc, ccc := s.myCore.ccc } = s.myCore)
    (hleader : ∀ l, l ≠ s.cl → k.ctl l = s.myCore.ctl l) (hstreams : ∀ x, x ≠ s.cur.2 → k.str x = s.myCore.str x) :
    KeepsAllElse s (s.setMyCore k) where
  module := rfl
  cores _ hc := core_setCore_other _ _ hc
  core := by rwa [State.setMyCore, core_setCore]
  leader l hl := by rw [State.ctlOf, State.setMyCore, core_setCore]; exact hleader l hl
  streams x hx := by rw [State.str, State.setMyCore, core_setCore]; exact hstreams x hx

theorem keepsAllElse_setMe (s : State) (x : Ctl) : KeepsAllElse s (s.setMe x) := by
  refine keepsAllElse_setMyCore (k := s.myCore.setCtl s.cl x) ?_ (fun l hl => Core.ctl_setCtl_other _ x hl) fun y _ => Core.str_setCtl _ _ x y
  cases s.cl <;> rfl

theorem keepsAllElse_setMyStr (s : State) (m : Strm) : KeepsAllElse s (s.setMyStr m) :=
  keepsAllElse_setMyCore (k := s.myCore.setStr s.cur.2 m) rfl (fun l _ => Core.ctl_setStr _ _ m l) fun _ hx => Core.str_setStr_other _ m hx

theorem keepsAllElse_trcQ (s : State) (q : List (Nat × Nat × Nat)) : KeepsAllElse s { s with trcQ := q } :=
  ⟨rfl, fun _ _ => rfl, rfl, fun _ _ => rfl, fun _ _ => rfl⟩

theorem keepsAllElse_noteOpen (s : State) (src kind : Nat) : KeepsAllElse s (s.noteOpen src kind) := by
  obtain ⟨q, hq⟩ := note_eq src kind (Config.freeNat s.freeCtr (64 + kind) % 2 ^ 128) s
  rw [State.noteOpen, hq]
  exact keepsAllElse_trcQ s q

theorem keepsAllElse_dropAns (s : State) : KeepsAllElse s (dropAns s) := by
  unfold dropAns
  split
  · exact .refl s
  · exact keepsAllElse_setMe s _

theorem keepsAllElse_resumeAt (n : Nat) (s : State) : KeepsAllElse s (resumeAt n s) := by
  obtain ⟨q, hq⟩ := endWait_completed_eq s.cc s.cur.2 s
  rw [resumeAt, hq]
  exact ((keepsAllElse_trcQ s q).trans (keepsAllElse_dropAns _)).trans (keepsAllElse_setMyStr _ _)

/-! ## Registers that stay -/

/-- The files, the trap registers that only software writes and the barrier state agree. -/
def SameFiles (x y : Ctl) : Prop :=
  x.s = y.s ∧ x.p = y.p ∧ x.h = y.h ∧ x.tvec = y.tvec ∧ x.tscratch = y.tscratch ∧ x.step = y.step ∧ x.arr = y.arr ∧ x.ticket = y.ticket

/-- The answer of an access under way is in no file. -/
theorem sameFiles_of_ans {x y : Ctl} {a : Answer} (h : x = { y with ans := a }) : SameFiles x y := by
  subst h
  exact ⟨rfl, rfl, rfl, rfl, rfl, rfl, rfl, rfl⟩

theorem keepsRegisters_of_me {s t : State} (h : SameFiles t.me s.me) (hm : t.mem = s.mem) : KeepsRegisters s t := by
  obtain ⟨hs, hp, hh, htvec, htscratch, hstep, harr, hticket⟩ := h
  exact {
    scalars := fun n => by simp only [State.rdS, Ctl.rdS, hs]
    preds := fun n => by simp only [State.rdP, Ctl.rdP, hp]
    handles := fun n => by simp only [State.rdH, Ctl.rdH, hh]
    tvec := htvec
    tscratch := htscratch
    step := hstep
    arrived := ⟨harr, hticket⟩
    memory := fun a => by rw [hm] }

theorem keepsRegisters_trans {s t u : State} (h : KeepsRegisters s t) (k : KeepsRegisters t u) : KeepsRegisters s u where
  scalars n := (k.scalars n).trans (h.scalars n)
  preds n := (k.preds n).trans (h.preds n)
  handles n := (k.handles n).trans (h.handles n)
  tvec := k.tvec.trans h.tvec
  tscratch := k.tscratch.trans h.tscratch
  step := k.step.trans h.step
  arrived := ⟨k.arrived.1.trans h.arrived.1, k.arrived.2.trans h.arrived.2⟩
  memory a := (k.memory a).trans (h.memory a)

theorem keepsRegisters_resumeAt (n : Nat) (s : State) : KeepsRegisters s (resumeAt n s) :=
  keepsRegisters_of_me (sameFiles_of_ans (resumeAt_me n s)) (resumeAt_mem n s)

theorem resumeAt_st (n : Nat) (s : State) : (resumeAt n s).myStr.st = s.me.runState := by
  obtain ⟨q, hq⟩ := endWait_completed_eq s.cc s.cur.2 s
  simp only [resumeAt, myStr_setMyStr, dropAns_me, hq]
  rfl

theorem noteOpen_me (s : State) (src kind : Nat) : (s.noteOpen src kind).me = s.me := by
  obtain ⟨q, hq⟩ := note_eq src kind (Config.freeNat s.freeCtr (64 + kind) % 2 ^ 128) s
  rw [State.noteOpen, hq]
  rfl

/-! ## A wait that ends -/

/-- A wait that ends, or is given up, leaves a trace event at most, and may take back a request of the licence. -/
theorem endWait_eq (c : Nat) (x : Stream) (b : Bool) (s : State) : ∃ p q, endWait c x b s = { s with pairs := p, trcQ := q } := by
  have hdrop : ∃ p, (if b then dropWant c x (s.str c x).wait s else s) = { s with pairs := p } := by
    cases b
    · exact ⟨s.pairs, rfl⟩
    · simp only [if_true, dropWant]
      split
      · split
        · exact ⟨s.pairs, rfl⟩
        · exact ⟨_, rfl⟩
      · exact ⟨s.pairs, rfl⟩
  obtain ⟨p, hp⟩ := hdrop
  simp only [endWait, hp]
  split
  · exact ⟨p, s.trcQ, rfl⟩
  · split
    · obtain ⟨q, hq⟩ := note_eq (agentOf c x) 4 _ { s with pairs := p }
      exact ⟨p, q, hq⟩
    · exact ⟨p, s.trcQ, rfl⟩

/-- A stream that does not wait gives up nothing. -/
theorem endWait_of_none {c : Nat} {x : Stream} {b : Bool} {s : State} (h : (s.str c x).wait = .none) : endWait c x b s = s := by
  cases b <;> simp [endWait, dropWant, h]

/-! ## Trap entry (R364) -/

/-- The trap registers as entry leaves them. -/
def enteredRegs (x : Ctl) (t : Trap) (stream : Nat) (eng : Bool) (pc next : Nat) : Ctl :=
  { x with
    tpc := BitVec.ofNat 64 ((if t.cause.savesNext then next else pc) % 2 ^ 18)
    tcause := BitVec.ofNat 64 (causeCode t.cause + stream * 2 ^ 7 + b2n eng * 2 ^ 10)
    tinfo := BitVec.ofNat 64 t.info
    ppriv := x.priv, priv := true, inh := true, inTrap := true }

theorem sameFiles_enteredRegs (x : Ctl) {t : Trap} {stream : Nat} {eng : Bool} {pc next : Nat} :
    SameFiles (enteredRegs x t stream eng pc next) x := ⟨rfl, rfl, rfl, rfl, rfl, rfl, rfl, rfl⟩

theorem setMyStr_of_cur {s u : State} {m : Strm} (h : u.cur = s.cur) : u.setMyStr m = u.setStr s.cc s.cur.2 m := by
  rw [State.setMyStr, State.cc, h, State.cc]

theorem setMe_of_cur {s u : State} {x : Ctl} (h : u.cur = s.cur) : u.setMe x = u.setCtlOf s.cc s.cl x := by
  rw [State.setMe, State.cc, State.cl, h, State.cc, State.cl]

section
variable {s : State} {t : Trap} {stream pc next : Nat} {eng : Bool} (hc : isCtl s.cur.2 = true)
include hc

theorem takeTrap_halts (h : s.me.inh = true) : takeTrap s.cc s.cl t stream eng pc next s =
    (s.noteOpen (agentOf s.cc s.cur.2) 3).setMyStr { s.myStr with st := .halt, wait := .none } := by
  have hl : leaderStream s.cl = s.cur.2 := leaderStream_streamLeader hc
  rw [setMyStr_of_cur (keepsAllElse_noteOpen s _ 3).cur]
  simp only [takeTrap, hl]
  exact if_pos h

theorem takeTrap_enters (h : s.me.inh = false) : takeTrap s.cc s.cl t stream eng pc next s =
    ((s.noteOpen (agentOf s.cc s.cur.2) 3).setMe (enteredRegs s.me t stream eng pc next)).setMyStr
      { s.myStr with st := .trap, wait := .none, pc := s.me.tvec.toNat / 4 % 2 ^ 16 * 4, clk := s.myStr.clk.bump } := by
  have hl : leaderStream s.cl = s.cur.2 := leaderStream_streamLeader hc
  have hn := (keepsAllElse_noteOpen s (agentOf s.cc s.cur.2) 3).cur
  rw [setMyStr_of_cur ((setMe_cur _ _).trans hn), setMe_of_cur hn]
  simp only [takeTrap, hl]
  exact if_neg (Bool.eq_false_iff.mp h)

theorem keepsAllElse_takeTrap : KeepsAllElse s (takeTrap s.cc s.cl t stream eng pc next s) := by
  have hn := keepsAllElse_noteOpen s (agentOf s.cc s.cur.2) 3
  cases h : s.me.inh
  · rw [takeTrap_enters hc h]
    exact (hn.trans (keepsAllElse_setMe _ _)).trans (keepsAllElse_setMyStr _ _)
  · rw [takeTrap_halts hc h]
    exact hn.trans (keepsAllElse_setMyStr _ _)

theorem takeTrap_me_halts (h : s.me.inh = true) : (takeTrap s.cc s.cl t stream eng pc next s).me = s.me := by
  rw [takeTrap_halts hc h, me_setMyStr, noteOpen_me]

theorem takeTrap_me_enters (h : s.me.inh = false) :
    (takeTrap s.cc s.cl t stream eng pc next s).me = enteredRegs s.me t stream eng pc next := by
  rw [takeTrap_enters hc h, me_setMyStr, me_setMe]

/-- A trap while INH is set halts the stream and keeps every register. -/
theorem halted_takeTrap (h : s.me.inh = true) : Halted s (takeTrap s.cc s.cl t stream eng pc next s) := by
  have hme := takeTrap_me_halts hc h (t := t) (stream := stream) (eng := eng) (pc := pc) (next := next)
  have hregs := keepsRegisters_of_me (sameFiles_of_ans (a := s.me.ans) hme) (keepsAllElse_takeTrap hc).mem
  refine { hregs with kept := by simp only [hme, and_self], state := ?_ }
  rw [takeTrap_halts hc h, myStr_setMyStr]

/-- A trap of the control core's own enters its handler: what the trap registers, the level and the PC become. -/
theorem entered_takeTrap (h : s.me.inh = false) : Entered s (takeTrap s.cc s.cl t (streamNo (leaderStream s.cl)) false pc next s)
    (causeCode t.cause) t.info (if t.cause.savesNext then next else pc) := by
  have hme := takeTrap_me_enters hc h (t := t) (stream := streamNo (leaderStream s.cl)) (eng := false) (pc := pc) (next := next)
  have hregs := keepsRegisters_of_me (hme ▸ sameFiles_enteredRegs _) (keepsAllElse_takeTrap hc).mem
  exact { hregs with
    tpc := congrArg Ctl.tpc hme
    tcause := congrArg Ctl.tcause hme
    tinfo := congrArg Ctl.tinfo hme
    ppriv := congrArg Ctl.ppriv hme
    priv := congrArg Ctl.priv hme
    inh := congrArg Ctl.inh hme
    state := by rw [takeTrap_enters hc h, myStr_setMyStr]
    handler := by rw [State.pc, takeTrap_enters hc h, myStr_setMyStr] }
end

/-- The causes that save the PC of the next instruction (R364). -/
theorem savesNext_iff (c : Cause) : c.savesNext = true ↔ c = .step ∨ ∃ n, c = .syscall n := by
  cases c <;> simp [Cause.savesNext]

end Sys2Proof.Machine

namespace Sys2Proof.Machine
open Sys2Proof.Claims

/-! ## A control instruction suppressed or denied (R167, R172) -/

theorem control_suppressed {gd : Guard} {len : Nat} {sup : Bool} {body : State → Eff} {s : State} (hp : s.powered = true)
    (hg : guardOk gd s = false) : control gd len sup body s = .next (stepTrap s.me s.pc (resumeAt (s.pc + len) s)) := by
  simp [control, hp, hg]

theorem control_denied {gd : Guard} {len : Nat} {body : State → Eff} {s : State} (hp : s.powered = true) (hg : guardOk gd s = true)
    (hv : s.me.priv = false) : control gd len true body s = .next (trapHere ⟨.priv, 0⟩ len s) := by
  simp [control, hp, hg, hv]

/-- What an instruction that traps gives up and forgets: its wait, a request of the licence, and the answer of its access. -/
theorem forget_eq (s : State) : (dropAns (endWait s.cc s.cur.2 true s)).cur = s.cur ∧ (dropAns (endWait s.cc s.cur.2 true s)).pc = s.pc ∧
    (dropAns (endWait s.cc s.cur.2 true s)).me = { s.me with ans := .none } := by
  obtain ⟨p, q, hq⟩ := endWait_eq s.cc s.cur.2 true s
  rw [hq]
  refine ⟨(keepsAllElse_dropAns _).cur, ?_, dropAns_me _⟩
  rw [State.pc, dropAns_myStr]
  rfl

/-- Entry from a state that differs in no register from the one before. -/
theorem entered_of_keeps {s u t : State} {cause info ret : Nat} (hk : KeepsRegisters s u) (hcur : u.cur = s.cur) (hv : u.me.priv = s.me.priv)
    (h : Entered u t cause info ret) : Entered s t cause info ret where
  toKeepsRegisters := keepsRegisters_trans hk h.toKeepsRegisters
  tpc := h.tpc
  tcause := by rw [h.tcause, State.cl, hcur, State.cl]
  tinfo := h.tinfo
  ppriv := h.ppriv.trans hv
  priv := h.priv
  inh := h.inh
  state := h.state
  handler := by rw [h.handler, hk.tvec]

/-- A trap at the instruction's own PC enters the handler; what the instruction gives up and forgets is no register. -/
theorem entered_trapHere {s : State} {t : Trap} {len : Nat} (hc : isCtl s.cur.2 = true) (h : s.me.inh = false) :
    Entered s (trapHere t len s) (causeCode t.cause) t.info (if t.cause.savesNext then s.pc + len else s.pc) := by
  obtain ⟨hcur, hpc, hme⟩ := forget_eq s
  have hkeep : KeepsRegisters s (dropAns (endWait s.cc s.cur.2 true s)) :=
    keepsRegisters_of_me (sameFiles_of_ans hme) (by simp)
  rw [trapHere, ← hpc]
  exact entered_of_keeps hkeep hcur (congrArg Ctl.priv hme :) (entered_takeTrap (by rw [hcur]; exact hc) ((congrArg Ctl.inh hme :).trans h))

/-- Every instruction with a guard is one of the shared frame, as long as its encoding. -/
theorem exec_control_of_guardOf {i : Instr} {gd : Guard} (h : guardOf i = some gd) :
    ∃ sup body, exec i = control gd (4 * (encode i).length) sup body := by
  cases i <;> cases h <;> exact ⟨_, _, rfl⟩

end Sys2Proof.Machine

namespace Sys2Proof.Proofs
open Sys2Proof.Machine Sys2Proof.Claims

/-- Settles O10: the end of an instruction writes the stream's state, wait and PC only, and trap entry the trap registers with them. -/
theorem completionAndTrapEntryState : Obligations.CompletionAndTrapEntryState := by
  refine ⟨fun p s => ?_, fun c info pc next s hc => ⟨fun h => ?_, halted_takeTrap hc⟩⟩
  · have hk := keepsAllElse_resumeAt p s
    have hme : (resumeAt p s).me = { s.me with ans := .none } := resumeAt_me p s
    exact ⟨resumeAt_pc p s, resumeAt_wait p s, resumeAt_st p s, keepsRegisters_resumeAt p s, hk.cores, (congrArg State.pairs hk.module :),
      (congrArg State.dies hk.module :), (congrArg State.towers hk.module :), (congrArg Ctl.priv hme :), (congrArg Ctl.tpc hme :),
      (congrArg Ctl.tcause hme :), (congrArg Ctl.tinfo hme :)⟩
  · simpa only [savesNext_iff] using entered_takeTrap (t := ⟨c, info⟩) (pc := pc) (next := next) hc h

/-- Settles O9: a suppressed instruction ends at once, and the STEP trap enters the handler from the state it left. -/
theorem suppressedInstructionOnlyAdvances : Obligations.SuppressedInstructionOnlyAdvances := by
  intro i gd s hi hp hgp u
  obtain ⟨sup, body, hexec⟩ := exec_control_of_guardOf hi
  have hrun : exec i s = .next (stepTrap s.me s.pc u) := by
    rw [hexec]
    exact control_suppressed hp (by simp [guardOk, hgp])
  refine ⟨fun hstep => ?_, fun hc hv hstep hinh => ?_⟩
  · rw [hrun, stepTrap_none _ _ _ hstep]
  · have hucur : u.cur = s.cur := resumeAt_cur _ s
    have huinh : u.me.inh = false := (congrArg Ctl.inh (resumeAt_me _ s)).trans hinh
    refine ⟨_, hrun, ?_⟩
    rw [stepTrap, hv, hstep, ← resumeAt_pc (s.pc + 4 * (encode i).length) s]
    exact entered_takeTrap (t := ⟨.step, s.pc⟩) (hucur ▸ hc) huinh

/-- Settles O13: at job level the form's frame takes the PRIV trap before the body. -/
theorem supervisorFormsTrapAtJobLevel : Obligations.SupervisorFormsTrapAtJobLevel := by
  intro gd a s hp hg hc hv hinh i hi
  have hframe : ∃ body, exec i = control gd 4 true body := by
    simp only [List.mem_cons, List.not_mem_nil, or_false] at hi
    rcases hi with rfl | rfl | rfl
    · exact frame_tret gd
    · exact frame_ctxSv gd a
    · exact frame_ctxLd gd a
  obtain ⟨body, hbody⟩ := hframe
  refine ⟨_, hbody ▸ control_denied hp hg hv, ?_⟩
  exact entered_trapHere (t := ⟨.priv, 0⟩) hc hinh

end Sys2Proof.Proofs
end

section
/-! SUPPORT. The instruction that a boundary issues: the one that waits, or the one that the words at the PC decode to (R82, R172, R378). -/
namespace Sys2Proof.Machine

section
variable {u : State} {i : Instr}

/-- A stream that waits in an instruction redoes that instruction. -/
theorem boundary_held (hd : deliver u.cc u.cl u = none) (hw : u.myStr.st = .wait) (hh : u.me.held = some i) : boundary u = issue i u := by
  simp only [boundary, hd, hw, hh, if_true]

theorem fetchControl_short {c pc : Nat} (h : pc < 262144) (hl : loadingAt u c pc = false) (hm : imMarked u c pc = false)
    (hs : isLong (imWord u c pc) = false) (hi : decodeControl (imWord u c pc) 0 = some i) : fetchControl u c pc = .got i := by
  simp [fetchControl, h, hl, hm, hs, hi]

theorem fetchControl_long {c pc : Nat} (h : pc < 262144) (hl : loadingAt u c pc = false) (hm : imMarked u c pc = false)
    (hs : isLong (imWord u c pc) = true) (h' : pc + 4 < 262144) (hl' : loadingAt u c (pc + 4) = false) (hm' : imMarked u c (pc + 4) = false)
    (hi : decodeControl (imWord u c pc) (imWord u c (pc + 4)) = some i) : fetchControl u c pc = .got i := by
  simp only [fetchControl, hl, hm, hs, hl', hm', hi, h.not_ge, h'.not_ge]
  rfl

/-- An instruction that reads no marked register is executed, and held where it waits. -/
theorem issue_unmarked {t : State} (hr : readsMarked u i = false) (hx : exec i u = .next t) :
    issue i u = .next (setHeld (if t.myStr.st = .wait then some i else none) t) := by
  simp [issue, hr, hx]

theorem issue_marked (hr : readsMarked u i = true) : issue i u = .next (trapHere ⟨.uncorrectable, 0⟩ 4 (setHeld none u)) := by
  simp [issue, hr]
end

end Sys2Proof.Machine

namespace Sys2Proof.Proofs
open Sys2Proof.Machine Sys2Proof.Claims

/-- Settles O5: a write to s0 or p0 is discarded, any other replaces the entry of its own register. -/
theorem registerWritesReadBack : Obligations.RegisterWritesReadBack := by
  intro s n m p q h k v x y
  refine ⟨?_, ?_, rdH_wrH s h k y, fun hn => ?_, fun hp => ?_⟩
  · by_cases hm : m.val = 0
    · rw [if_pos hm, State.rdS, hm, Ctl.rdS_zero]
    · rw [rdS_wrS, if_neg hm]
      exact if_congr (and_iff_left_of_imp fun hmn => hmn ▸ hm) rfl rfl
  · by_cases hq : q.val = 0
    · rw [if_pos hq, State.rdP, hq, Ctl.rdP_zero]
    · rw [rdP_wrP, if_neg hq]
      exact if_congr (and_iff_left_of_imp fun hqp => hqp ▸ hq) rfl rfl
  · rw [State.wrS, me_setMe, Ctl.wrS, if_pos hn]
  · rw [State.wrP, me_setMe, Ctl.wrP, if_pos hp]

/-- Settles O15: a boundary issues the held instruction or the fetched one, and every act of the agenda runs as it stands. -/
theorem stepRunsDecodedInstruction : Obligations.StepRunsDecodedInstruction := by
  intro s i
  refine ⟨?_, ?_, ?_⟩
  · intro ha hp hr hc u hd runs
    have hruns : boundary u = issue i u → runs := fun hb => by
      have hstep : step s = settle (issue i u) := (step_eq_settle_boundary ha hp hr hc).trans (congrArg settle hb)
      exact ⟨fun hm t ht => by rw [hstep, issue_unmarked hm ht, settle], fun hm => by rw [hstep, issue_marked hm, settle]⟩
    refine ⟨fun hw hh => hruns (boundary_held hd hw hh), ?_⟩
    intro hw h hl hm w0 w1
    refine ⟨fun hs hi => hruns ?_, fun hs h' hl' hm' hi => hruns ?_⟩
    · rw [boundary_eq_afterFetch hd hw, fetchControl_short h hl hm hs hi, afterFetch]
    · rw [boundary_eq_afterFetch hd hw, fetchControl_long h hl hm hs h' hl' hm' hi, afterFetch]
  · intro l hl t ht
    simp only [step, hl, runAct, ht, settle]
  · intro l c x hl
    simp only [step, hl, runAct, focus]

/-- Settles O56: each word is read field by field. -/
theorem wordsOfTheSpecDecode : Obligations.WordsOfTheSpecDecode := by
  unfold Obligations.WordsOfTheSpecDecode
  decide

end Sys2Proof.Proofs
end

section
/-! SUPPORT. The instructions that touch registers alone: the effect of each writes its destinations and nothing else, and the frame around it adds
the end of the instruction or trap entry (R167, R169, R173, R364). -/
namespace Sys2Proof.Machine
open Sys2Proof.Claims

/-! ## What an effect writes -/

/-- `x` with the register files of `y`, what marks them with an error, and the answer of the access under way. -/
def Ctl.withFiles (x y : Ctl) : Ctl := { x with s := y.s, p := y.p, h := y.h, ans := y.ans, bad := y.bad }

/-- `x` with the trap registers, the level and INH of `y`. -/
def Ctl.withTraps (x y : Ctl) : Ctl :=
  { x with tpc := y.tpc, tcause := y.tcause, tinfo := y.tinfo, priv := y.priv, ppriv := y.ppriv, inh := y.inh, inTrap := y.inTrap }

/-- Of the state only the registers of `ds` differ, what marks them with an error, the answer of an access and what lies outside `KeepsAllElse`. -/
structure WroteOnly (ds : Dests) (s t : State) : Prop where
  scalars : ∀ n, n ∉ ds.s → t.rdS n = s.rdS n
  preds   : ∀ n, n ∉ ds.p → t.rdP n = s.rdP n
  handles : ∀ n, n ∉ ds.h → t.rdH n = s.rdH n
  control : t.me.withFiles s.me = s.me
  others  : KeepsAllElse s t

/-- The frame of a register form: as `WroteOnly`, but for the trap registers where a trap was taken. -/
structure Framed (ds : Dests) (s t : State) : Prop where
  scalars : ∀ n, n ∉ ds.s → t.rdS n = s.rdS n
  preds   : ∀ n, n ∉ ds.p → t.rdP n = s.rdP n
  handles : ∀ n, n ∉ ds.h → t.rdH n = s.rdH n
  control : KeepsControl s t
  others  : KeepsAllElse s t

theorem keepsControl_of_eq {s t : State}
    (h : (t.me.withFiles s.me).withTraps s.me = s.me)
    (htraps : (t.me.tpc = s.me.tpc ∧ t.me.tcause = s.me.tcause ∧ t.me.tinfo = s.me.tinfo ∧ t.me.priv = s.me.priv ∧
      t.me.ppriv = s.me.ppriv ∧ t.me.inh = s.me.inh) ∨
      (t.me.priv = true ∧ t.me.ppriv = s.me.priv ∧ t.me.inh = true ∧ s.me.inh = false ∧ t.myStr.st = .trap)) : KeepsControl s t where
  tvec := (congrArg Ctl.tvec h :)
  tscratch := (congrArg Ctl.tscratch h :)
  step := (congrArg Ctl.step h :)
  ara := ⟨(congrArg Ctl.araV h :), (congrArg Ctl.araG h :), (congrArg Ctl.araPc h :)⟩
  arrived := ⟨(congrArg Ctl.arr h :), (congrArg Ctl.ticket h :)⟩
  job := ⟨(congrArg Ctl.starter h :), (congrArg Ctl.rdvF h :)⟩
  pending := ⟨(congrArg Ctl.pendPre h :), (congrArg Ctl.pendEng h :), (congrArg Ctl.pendGang h :), (congrArg Ctl.pendDiv h :)⟩
  traps := htraps

section
variable {ds : Dests} {s u : State}

theorem wroteOnly_refl (ds : Dests) (s : State) : WroteOnly ds s s := ⟨fun _ _ => rfl, fun _ _ => rfl, fun _ _ => rfl, rfl, .refl s⟩

/-- A scalar register of `ds` written; s0 holds nothing. -/
theorem wroteOnly_wrS {d : SReg} (hd : d ∈ ds.s) (v : Word) : WroteOnly ds s (s.wrS d v) where
  scalars n hn := by rw [rdS_wrS, if_neg fun h : n = d ∧ d.val ≠ 0 => hn (h.1 ▸ hd)]
  preds n _ := wrS_rdP s d v n
  handles n _ := wrS_rdH s d v n
  control := by rw [State.wrS, me_setMe, Ctl.wrS]; split <;> rfl
  others := keepsAllElse_setMe s _

theorem wroteOnly_wrP {d : PReg} (hd : d ∈ ds.p) (v : Bool) : WroteOnly ds s (s.wrP d v) where
  scalars n _ := by simp [State.wrP, State.rdS]
  preds n hn := by rw [rdP_wrP, if_neg fun h : n = d ∧ d.val ≠ 0 => hn (h.1 ▸ hd)]
  handles n _ := by simp [State.wrP, State.rdH]
  control := by rw [State.wrP, me_setMe, Ctl.wrP]; split <;> rfl
  others := keepsAllElse_setMe s _

theorem wroteOnly_wrH {d : HReg} (hd : d ∈ ds.h) (v : Handle) : WroteOnly ds s (s.wrH d v) where
  scalars n _ := by simp [State.wrH, State.rdS]
  preds n _ := by simp [State.wrH, State.rdP]
  handles n hn := by rw [rdH_wrH, if_neg fun h : n = d => hn (h ▸ hd)]
  control := by rw [State.wrH, me_setMe]; rfl
  others := keepsAllElse_setMe s _

/-- A change of the state that leaves the control core, but for the answer of its access. -/
theorem WroteOnly.of_me {t : State} {x : Answer} (h : WroteOnly ds s u) (hme : t.me = { u.me with ans := x }) (hk : KeepsAllElse u t) :
    WroteOnly ds s t where
  scalars n hn := by rw [← h.scalars n hn, State.rdS, hme]; rfl
  preds n hn := by rw [← h.preds n hn, State.rdP, hme]; rfl
  handles n hn := by rw [← h.handles n hn, State.rdH, hme]; rfl
  control := by rw [hme]; exact h.control
  others := h.others.trans hk

theorem wroteOnly_resumeAt (n : Nat) (h : WroteOnly ds s u) : WroteOnly ds s (resumeAt n u) := h.of_me (resumeAt_me n u) (keepsAllElse_resumeAt n u)

theorem WroteOnly.framed (h : WroteOnly ds s u) : Framed ds s u where
  scalars := h.scalars
  preds := h.preds
  handles := h.handles
  control :=
    have hc := h.control
    keepsControl_of_eq (by rw [hc]; rfl) (.inl ⟨(congrArg Ctl.tpc hc :), (congrArg Ctl.tcause hc :), (congrArg Ctl.tinfo hc :), (congrArg Ctl.priv hc :),
      (congrArg Ctl.ppriv hc :), (congrArg Ctl.inh hc :)⟩)
  others := h.others

/-- Trap entry after an effect. -/
theorem framed_takeTrap {t : Trap} {n pc next : Nat} {eng : Bool} (hc : isCtl s.cur.2 = true) (h : WroteOnly ds s u) :
    Framed ds s (takeTrap u.cc u.cl t n eng pc next u) := by
  have hcu : isCtl u.cur.2 = true := by rw [h.others.cur]; exact hc
  have hk := h.others.trans (keepsAllElse_takeTrap (t := t) (stream := n) (pc := pc) (next := next) (eng := eng) hcu)
  cases hi : u.me.inh with
  | true =>
    have hme := takeTrap_me_halts (t := t) (stream := n) (pc := pc) (next := next) (eng := eng) hcu hi
    exact (h.of_me (x := u.me.ans) hme (keepsAllElse_takeTrap hcu)).framed
  | false =>
    have hme := takeTrap_me_enters (t := t) (stream := n) (pc := pc) (next := next) (eng := eng) hcu hi
    have hst : (takeTrap u.cc u.cl t n eng pc next u).myStr.st = .trap := by rw [takeTrap_enters hcu hi, myStr_setMyStr]
    exact {
      scalars := fun r hr => by rw [← h.scalars r hr, State.rdS, hme]; rfl
      preds := fun r hr => by rw [← h.preds r hr, State.rdP, hme]; rfl
      handles := fun r hr => by rw [← h.handles r hr, State.rdH, hme]; rfl
      control := by
        refine keepsControl_of_eq ?_ (.inr ?_)
        · rw [hme]
          exact (congrArg (Ctl.withTraps · s.me) h.control).trans rfl
        · rw [hme]
          exact ⟨rfl, (congrArg Ctl.priv h.control :), rfl, ((congrArg Ctl.inh h.control).symm.trans hi :), hst⟩
      others := hk }
end

/-! ## How an effect ends -/

/-- An effect that completes, or traps with nothing written. -/
inductive WritesOnly (ds : Dests) (s : State) : Eff → Prop where
  | done {u : State} (h : WroteOnly ds s u) : WritesOnly ds s (.done u)
  | jump {u : State} (h : WroteOnly ds s u) (t : Nat) : WritesOnly ds s (.jump u t)
  | trap (t : Trap) : WritesOnly ds s (.trap s t)

section
variable {ds : Dests} {s : State}

/-- A check before an effect: it traps, or the effect follows. -/
theorem writesOnly_bind {α : Type} {c : Chk α} {f : α → Chk Eff} (h : ∀ a, WritesOnly ds s (Eff.ofChk s (f a))) :
    WritesOnly ds s (Eff.ofChk s (c >>= f)) := by
  cases c with
  | ok a => exact h a
  | error t => exact .trap t

theorem writesOnly_branchTo {i : Instr} {t : Int} {link : Option (SReg × Nat)} (h : ∀ d v, link = some (d, v) → d ∈ ds.s) :
    WritesOnly ds s (branchTo i t link s) := by
  refine writesOnly_bind fun n => ?_
  match link, h with
  | none, _ => exact .jump (wroteOnly_refl ds s) n
  | some (d, v), h => exact .jump (wroteOnly_wrS (h d v rfl) _) n

/-- The STEP trap that may follow (R365). -/
theorem framed_stepTrap {u : State} {was : Ctl} {pc : Nat} (hc : isCtl s.cur.2 = true) (h : WroteOnly ds s u) : Framed ds s (stepTrap was pc u) := by
  unfold stepTrap
  split
  · exact framed_takeTrap hc h
  · exact h.framed

theorem framed_finish {e : Eff} {was : Ctl} {pc len : Nat} (hc : isCtl s.cur.2 = true) (hw : s.myStr.wait = .none) (h : WritesOnly ds s e) :
    Framed ds s (e.finish was pc len) := by
  cases h with
  | done h => exact framed_stepTrap hc (wroteOnly_resumeAt _ h)
  | jump h t => exact framed_stepTrap hc (wroteOnly_resumeAt _ h)
  | trap t =>
    have hend : endWait s.cc s.cur.2 true s = s := endWait_of_none hw
    simp only [Eff.finish, trapHere, hend]
    exact framed_takeTrap hc ((wroteOnly_refl ds s).of_me (dropAns_me s) (keepsAllElse_dropAns s))

/-- A control instruction whose effect writes registers only. -/
theorem framed_control {gd : Guard} {len : Nat} {body : State → Eff} {t : State} (hc : isCtl s.cur.2 = true) (hw : s.myStr.wait = .none)
    (h : WritesOnly ds s (body s)) (ht : control gd len false body s = .next t) : Framed ds s t := by
  cases hp : s.powered
  · rw [control_unpowered gd len false body s hp] at ht
    cases ht
  · rcases control_cases gd len false body s hp with ⟨-, hs⟩ | ⟨-, hsup, -⟩ | ⟨-, -, hr⟩
    · cases hs.symm.trans ht
      exact framed_stepTrap hc (wroteOnly_resumeAt _ (wroteOnly_refl ds s))
    · cases hsup
    · cases hr.symm.trans ht
      exact framed_finish hc hw h
end

/-! ## The register forms -/

/-- Each register form is an instruction of the shared frame whose effect writes its destinations only. -/
theorem registerForm_writesOnly {i : Instr} {ds : Dests} (h : registerForm i = some ds) (s : State) :
    ∃ gd len body, exec i = control gd len false body ∧ WritesOnly ds s (body s) := by
  cases i <;> cases h
  case add | sub | mul | mulh | mulhu | div | divu | rem | remu | min | max | minu | maxu | and | or | xor | andn | sll | srl | sra | rol | clz
    | ctz | popc | brev | bswap | pget | sel | addi | andi | ori | xori | slli | srli | srai | muli | li | lih | addl | ext | extu | dep | hget
    | semRd | tkCnt | mxRd =>
    exact ⟨_, _, _, rfl, .done (wroteOnly_wrS (.head _) _)⟩
  case cmpEq | cmpNe | cmpLt | cmpGe | cmpLtu | cmpGeu | pand | por | pxor | pandn | pnot | pset | cmpi | cmpl | hchk =>
    exact ⟨_, _, _, rfl, .done (wroteOnly_wrP (.head _) _)⟩
  case hmov | hunb => exact ⟨_, _, _, rfl, .done (wroteOnly_wrH (.head _) _)⟩
  case hbind | hset | hoff | hslc => exact ⟨_, _, _, rfl, writesOnly_bind fun _ => .done (wroteOnly_wrH (.head _) _)⟩
  case jr | br | brl => exact ⟨_, _, _, rfl, writesOnly_branchTo fun _ _ h => nomatch h⟩
  case jalr | call | calll =>
    refine ⟨_, _, _, rfl, writesOnly_branchTo fun _ _ h => ?_⟩
    cases h
    exact .head _
  case dbnz d _ =>
    refine ⟨_, _, _, rfl, writesOnly_bind fun t => ?_⟩
    have hd : WroteOnly { s := [d] } s (s.wrS d (s.rdS d - 1)) := wroteOnly_wrS (.head _) _
    show WritesOnly _ s (if s.rdS d - 1 ≠ 0 then .jump (s.wrS d (s.rdS d - 1)) t else .done (s.wrS d (s.rdS d - 1)))
    split
    · exact .jump hd t
    · exact .done hd
  case nop => exact ⟨_, _, _, rfl, .done (wroteOnly_refl _ s)⟩

end Sys2Proof.Machine

namespace Sys2Proof.Proofs
open Sys2Proof.Machine Sys2Proof.Claims

/-- Settles O53: the effect writes the destinations, and the frame around it the stream's state or the trap registers. `hchk` keeps no layout entry in
the tower's cache, as the model chooses (notes/assumptions/59.md). -/
theorem registerFormFrame : Obligations.RegisterFormFrame := by
  intro i ds s t hi hc hw ht
  obtain ⟨gd, len, body, hexec, hbody⟩ := registerForm_writesOnly hi s
  rw [hexec] at ht
  obtain ⟨hS, hP, hH, hcontrol, hothers⟩ := framed_control hc hw hbody ht
  exact ⟨hS, hP, hH, rfl, rfl, fun a => by rw [hothers.mem], hothers, hcontrol⟩

end Sys2Proof.Proofs
end
